-- ==== Sys2Proof/Word.lean ====
section
/-! DEFINITION. The words of the part (R6, R7, R115): widths, signed and unsigned readings, sign extension. -/

namespace Sys2Proof

/-- One byte of memory. -/
abbrev Byte := BitVec 8
/-- A lane register (R61). -/
abbrev Word32 := BitVec 32
/-- A scalar register, an address, a lane register pair (R7, R66). -/
abbrev Word64 := BitVec 64
/-- One bit per lane position of a team: the 32 mask words of R30 side by side. -/
abbrev MaskBits := BitVec 1024

end Sys2Proof
end

