-- ==== Sys2Proof/Config.lean ====
section
/-! DEFINITION. What an implementation fixes, and the free values: values that the manual leaves open, of which no proof can
know more than what is written here. -/

namespace Sys2Proof.Config

/-- Whether fetch number `n` still finds the bytes with which a cached granule at `va` was filled (R109). -/
opaque icacheKeeps (n va : Nat) : Bool
/-- The virtual address that an allocation chooses before it is made unused and aligned (R292). -/
opaque gallocPage (n : Nat) : Nat
/-- The core cycles that pass on a core during a cycle of the timebase (R28). -/
opaque coreCycles (n : Nat) : Nat
/-- The number of positions that the matrix array could remove, before the bound of R196. -/
opaque skipped (n : Nat) : Nat
/-- Physical page number `i` of the pool reserve and of the memory that firmware hands out (R292, R392). -/
opaque reservePage (ctx i : Nat) : Nat
/-- The bytes that a context's save region must hold (R408). -/
opaque saveMinimum : Word64
/-- The bytes that a save leaves in a context's save region, whose layout the manual does not give (R393). -/
opaque saveBytes (n : Nat) : List Byte
/-- The silicon stepping (R407). -/
opaque stepping : BitVec 4
/-- An ECDSA P-384 signature of a digest by the part's key (R424). -/
opaque sign (digest : BitVec 384) : BitVec 768
/-- The certificate chain of slot 0 (R424). -/
opaque certificate : List Byte
/-- The digest of firmware image or fuse state number `n` (R423, R424). -/
opaque imageDigest (n : Nat) : BitVec 384
/-- The image that Voxfort refuses, from 1 to 3, or 0 for none, and the reason, from 0 for a bad signature (R408, R423). -/
opaque bootRefused : Nat
opaque bootReason : Nat
/-- The start-up configuration (R20, R405, R414): the interface of a host port by number, the port of a virtual function, and its
memory allotment in GiB. -/
opaque startInterface (port : Nat) : Nat
opaque startPort (vf : Nat) : Nat
opaque startAllotment (vf : Nat) : Nat
/-- Whether the base of a job queue, at an address, names device memory where it can (R157). -/
opaque queueOnDevice (addr : Nat) : Bool
/-- The size that the tenant core chooses for the ring of a pool (R390). -/
opaque poolSize (n : Nat) : Nat
/-- The window offset that the markhor core tries first for a pool region (R418). -/
opaque poolWindow (n : Nat) : Nat
end Sys2Proof.Config
end

