-- ==== Sys2Proof/Syntax.lean ====
section
/-! DEFINITION. The Nelub instructions (12 to 16 of the manual) and the part's other steps (opcode_table.json), as syntax.

One constructor of `Instr` per row of the opcode table. Scalar rows carry register numbers (R251, R252), lane rows
the fields of the lane word that the row uses (R253 to R263), and the rows without an encoding carry the names of
the agents and the data that the step concerns. -/

namespace Sys2Proof

/-- A scalar register s0 to s63 (R66). -/
abbrev SReg := Fin 64
/-- A scalar predicate q0 to q15 (R66). -/
abbrev QReg := Fin 16

/-- The special lane values, operand codes 1600 to 1604 (R77, R256). -/
inductive LaneSpecial where
  | bandw | laneid | ord | keylo | keyhi
  deriving DecidableEq, Repr, Inhabited

/-- A source operand of a lane instruction, by its operand code (R256). -/
inductive Src where
  | v (n : Nat)               -- codes 0 to 1535
  | s (r : SReg)              -- codes 1536 to 1599
  | special (x : LaneSpecial) -- codes 1600 to 1604
  | int (i : Int)             -- codes 1696 to 1887: the integers -64 to 127
  | const (k : Nat)           -- codes 1888 to 1951: constant number k of R258
  | zero                      -- code 2047
  deriving DecidableEq, Repr, Inhabited

/-- The b operand of a row that permits the immediate form (R255). -/
inductive SrcImm where
  | code (s : Src)
  | imm (x : Word32)
  deriving DecidableEq, Repr, Inhabited

/-- A lane-register destination (kind VD of R257). -/
inductive Dst where
  | v (n : Nat)
  | discard
  deriving DecidableEq, Repr, Inhabited

/-- A predicate read: a guard or a source of kind P. Index 0 to 95, or 127 for always true (R65, R257). -/
structure PSrc where
  idx : Nat
  neg : Bool
  deriving DecidableEq, Repr, Inhabited

/-- A predicate destination of kind PD (R257). -/
inductive PDst where
  | p (n : Nat)
  | discard
  deriving DecidableEq, Repr, Inhabited

/-- The fields that every lane word has (R253): guards, stall, scoreboard set, wait mask, boundary. -/
structure Ctl where
  g0 : PSrc
  g1 : PSrc
  stall : Nat      -- 0 to 15 (R39)
  set : Nat        -- 0: no token, 1 to 3: t1 to t3 (R41)
  wait : Nat       -- bit j: wait for token t(j+1) (R41)
  boundary : Bool  -- last instruction of its run (R33)
  deriving DecidableEq, Repr, Inhabited

/-- Integer types of class 0 (R254, R303). -/
inductive IntTy where
  | i32 | n32 | i64 | n64
  deriving DecidableEq, Repr, Inhabited

/-- Rounding modes (R114, R254). -/
inductive Rm where
  | rn | rz | rp | rm
  deriving DecidableEq, Repr, Inhabited

/-- Compare conditions (R260). -/
inductive Cond where
  | eq | ne | lt | le | gt | ge | num | nan
  deriving DecidableEq, Repr, Inhabited

/-- The types that `CVT` names (R261). -/
inductive CvtTy where
  | i8 | i16 | i32 | i64 | n8 | n16 | n32 | n64
  | f16 | bf16 | f32 | f64 | e4m3 | e5m2 | e2m1 | e8m0
  deriving DecidableEq, Repr, Inhabited

/-- Vote modes, each with its destination (R328). -/
inductive VoteMode where
  | any (d : PDst) | all (d : PDst) | ballot (d : Dst)
  deriving DecidableEq, Repr, Inhabited

/-- Shuffle modes (R329). -/
inductive ShflMode where
  | idx | up | down | xor
  deriving DecidableEq, Repr, Inhabited

/-- Reduction operations of `SRED` (R282), codes 0 to 7. -/
inductive RedOp where
  | add | min | max | minu | maxu | and | or | xor
  deriving DecidableEq, Repr, Inhabited

/-- Reduction operations of `REDUCE` and `SCAN` (R330): those of `SRED`, then the F32 ones. -/
inductive BandOp where
  | int (o : RedOp)
  | fadd | fmin | fmax
  deriving DecidableEq, Repr, Inhabited

/-- Atomic operations (R262, R343), codes 0 to 12. -/
inductive AtomOp where
  | add | fadd | min | max | minu | maxu | fmin | fmax | and | or | xor | swap | cas
  deriving DecidableEq, Repr, Inhabited

/-- Memory orders (R204, R259). -/
inductive Order where
  | rlx | acq | rel | ar | sc
  deriving DecidableEq, Repr, Inhabited

/-- Scopes (R203, R259). -/
inductive Scope where
  | team | block | dev | dom | sys
  deriving DecidableEq, Repr, Inhabited

/-- Access widths in bytes 1, 2, 4, 8 (R335). -/
inductive Width where
  | b1 | b2 | b4 | b8
  deriving DecidableEq, Repr, Inhabited

/-- The cache hint (R105). -/
inductive Hint where
  | normal | stream | noAlloc | bypass
  deriving DecidableEq, Repr, Inhabited

/-- The swizzle of `TLD` and `TST` (R263): base b, width m, and k - 4. -/
structure Swizzle where
  b : Nat
  m : Nat
  k4 : Nat
  deriving DecidableEq, Repr, Inhabited

/-- Port of a tile operand (R74, R358). -/
inductive Port where
  | row | col
  deriving DecidableEq, Repr, Inhabited

/-- Element width of a tile operand: 4, 8, 16 or 32 bits (R254). -/
inductive ElemW where
  | w4 | w8 | w16 | w32
  deriving DecidableEq, Repr, Inhabited

/-- Scalar compare conditions of `SCMP` (R264, R274). -/
inductive SCond where
  | eq | ne | lt | ge | ltu | geu
  deriving DecidableEq, Repr, Inhabited

/-- Conditions of `SWAIT` (R264, R285). -/
inductive WaitCond where
  | eq | ne | geu | ltu
  deriving DecidableEq, Repr, Inhabited

/-- The levels of work above the block (R22, R291). -/
inductive LevelKind where
  | launch | graph | phase | job
  deriving DecidableEq, Repr, Inhabited

/-- One access of an outside agent to this device's memory (R212, R405): bytes written, a read of `n` bytes, or an atomic
operation on 8 bytes or on 4. -/
inductive OutsideAccess where
  | write (addr : Nat) (bytes : List Byte)
  | read (addr : Nat) (n : Nat)
  | atom (op : AtomOp) (wide : Bool) (addr : Nat) (x cmp : Word64)
  deriving DecidableEq, Repr, Inhabited

/-- Who makes an access of another device that is a request at an ordered region of its context (R177, R180): its virtual function and
identifier, the region, and the requester. -/
structure Requester where
  vf : Nat
  asid : Nat
  region : Nat
  team : Nat
  req : Nat
  block : Nat
  launch : Nat
  deriving DecidableEq, Repr, Inhabited
/-- An access of another device (R351): with a requester where it is a request at an ordered region of a context (R180). -/
structure PeerAccess where
  access : OutsideAccess
  requester : Option Requester
  deriving DecidableEq, Repr, Inhabited

/-- A piece of a collective that arrives at this device (R154, R155). -/
structure Piece where
  fromDev : Nat        -- sending device
  vf : Nat             -- virtual function
  queue : Nat          -- landing queue
  op : Nat             -- 0 plain, 1 add, 2 maximum, 3 minimum
  exact : Bool         -- mode
  format : Nat         -- element format
  rank : Nat           -- rank of the sender
  parts : Nat          -- participants P
  asid : Nat           -- address-space identifier the destination is named in
  base : Word64        -- destination address of the whole send
  len : Nat            -- length of the whole send
  off : Nat            -- offset of this piece
  bytes : List Byte
  deriving DecidableEq, Repr, Inhabited

/-- An uncorrectable soft error that a read meets (R84, R111): its address, the lowest lane that meets it, and whether the scalar
stream reads. -/
structure SoftError where
  addr : Nat
  lane : Nat
  scalar : Bool
  deriving DecidableEq, Repr, Inhabited

/-- One Nelub instruction or one other step of the part: one constructor per row of the opcode table. -/
inductive Instr where
  -- scalar stream: ALU group (R271)
  | aluAdd (d a b : SReg)
  | aluSub (d a b : SReg)
  | aluAnd (d a b : SReg)
  | aluOr (d a b : SReg)
  | aluXor (d a b : SReg)
  | aluSll (d a b : SReg)
  | aluSrl (d a b : SReg)
  | aluSra (d a b : SReg)
  | aluMul (d a b : SReg)
  | aluMulh (d a b : SReg)
  | aluMulhu (d a b : SReg)
  | aluMin (d a b : SReg)
  | aluMax (d a b : SReg)
  | aluMinu (d a b : SReg)
  | aluMaxu (d a b : SReg)
  -- immediate operations (R272, R273)
  | addi (d a : SReg) (i : BitVec 13)
  | andi (d a : SReg) (i : BitVec 13)
  | ori (d a : SReg) (i : BitVec 13)
  | xori (d a : SReg) (i : BitVec 13)
  | slli (d a : SReg) (k : Nat)
  | srli (d a : SReg) (k : Nat)
  | srai (d a : SReg) (k : Nat)
  | lui (d : SReg) (i : BitVec 19)
  -- compare, select, scalar predicates (R274 to R276)
  | scmp (c : SCond) (d : QReg) (a b : SReg)
  | ssel (d : SReg) (q : QReg) (neg : Bool) (a b : SReg)
  | qand (d a b : QReg)
  | qor (d a b : QReg)
  | qxor (d a b : QReg)
  | qandn (d a b : QReg)
  -- branches and calls (R277, R278)
  | b (q : QReg) (neg : Bool) (off : BitVec 20)
  | call (q : QReg) (neg : Bool) (off : BitVec 20)
  | jr (a : SReg)
  | callr (a : SReg)
  -- runs and masks (R279 to R282)
  | run (d : SReg) (i : BitVec 19)
  | mpush (p : PSrc)
  | melse
  | mpop
  | sany (d : QReg) (p : PSrc)
  | sall (d : QReg) (p : PSrc)
  | spop (d : SReg) (p : PSrc)
  | sfind (d : SReg) (p : PSrc)
  | sred (op : RedOp) (d : SReg) (v : Nat)
  -- constant window and scratchpad (R283, R284)
  | ldk (d a : SReg) (i : BitVec 13)
  | ldkN32 (d a : SReg) (i : BitVec 13)
  | sldN8 (d a : SReg) (i : BitVec 13)
  | sldN16 (d a : SReg) (i : BitVec 13)
  | sldN32 (d a : SReg) (i : BitVec 13)
  | sldB64 (d a : SReg) (i : BitVec 13)
  | sstN8 (d a : SReg) (i : BitVec 13)
  | sstN16 (d a : SReg) (i : BitVec 13)
  | sstN32 (d a : SReg) (i : BitVec 13)
  | sstB64 (d a : SReg) (i : BitVec 13)
  -- waits, copies, batches (R285 to R288)
  | swait (d a b : SReg) (wide : Bool) (c : WaitCond) (acq : Bool) (sc : Scope)
  | swaitPoll
  | cpy (a : SReg)
  | bseal (sc : Scope)
  | bwait (d : SReg) (n : Nat)
  -- launches and levels, allocation (R289 to R293)
  | launch (d a : SReg)
  | lwait (lv : LevelKind) (d a : SReg)
  | lstat (lv : LevelKind) (d a : SReg)
  | lcancel (lv : LevelKind) (a : SReg)
  | galloc (d a : SReg)
  | gfree (a : SReg)
  | flush (d a : SReg) (ch : Nat)
  -- special registers, traps, end of a team (R295 to R298)
  | srd (d : SReg) (n : BitVec 13)
  | swr (n : BitVec 13) (a : SReg)
  | trap (i : BitVec 19)
  | tret
  | exit
  -- code, translation, random ranges (R299 to R301)
  | isync
  | icinv (a b : SReg) (sc : Scope)
  | tlbinv (d a b : SReg) (glob : Bool) (sc : Scope)
  | tlbinvAsid (d : SReg) (glob : Bool) (sc : Scope)
  | tlbinvVf (sc : Scope)
  | tlbsync
  | ptfence
  | rngreg (d a b : SReg)
  -- lane class 0, integer (R305 to R316)
  | iadd (c : Ctl) (ty : IntTy) (sat : Bool) (d : Dst) (a : Src) (b : SrcImm)
  | isub (c : Ctl) (ty : IntTy) (sat : Bool) (d : Dst) (a : Src) (b : SrcImm)
  | imul (c : Ctl) (ty : IntTy) (sat : Bool) (d : Dst) (a : Src) (b : SrcImm)
  | imulh (c : Ctl) (ty : IntTy) (d : Dst) (a : Src) (b : SrcImm)
  | imad (c : Ctl) (ty : IntTy) (sat : Bool) (d : Dst) (a b e : Src)
  | idiv (c : Ctl) (ty : IntTy) (d : Dst) (a : Src) (b : SrcImm)
  | irem (c : Ctl) (ty : IntTy) (d : Dst) (a : Src) (b : SrcImm)
  | imin (c : Ctl) (ty : IntTy) (d : Dst) (a : Src) (b : SrcImm)
  | imax (c : Ctl) (ty : IntTy) (d : Dst) (a : Src) (b : SrcImm)
  | iabs (c : Ctl) (wide sat : Bool) (d : Dst) (a : Src)
  | ineg (c : Ctl) (wide sat : Bool) (d : Dst) (a : Src)
  | land (c : Ctl) (ty : IntTy) (d : Dst) (a : Src) (b : SrcImm)
  | lor (c : Ctl) (ty : IntTy) (d : Dst) (a : Src) (b : SrcImm)
  | lxor (c : Ctl) (ty : IntTy) (d : Dst) (a : Src) (b : SrcImm)
  | lnot (c : Ctl) (ty : IntTy) (d : Dst) (a : Src)
  | shl (c : Ctl) (ty : IntTy) (d : Dst) (a : Src) (b : SrcImm)
  | shr (c : Ctl) (ty : IntTy) (d : Dst) (a : Src) (b : SrcImm)
  | sar (c : Ctl) (ty : IntTy) (d : Dst) (a : Src) (b : SrcImm)
  | rol (c : Ctl) (ty : IntTy) (d : Dst) (a : Src) (b : SrcImm)
  | popc (c : Ctl) (ty : IntTy) (d : Dst) (a : Src)
  | clz (c : Ctl) (ty : IntTy) (d : Dst) (a : Src)
  | brev (c : Ctl) (ty : IntTy) (d : Dst) (a : Src)
  | bfe (c : Ctl) (ty : IntTy) (d : Dst) (a pos len : Src)
  | bfi (c : Ctl) (ty : IntTy) (d : Dst) (a base pos len : Src)
  | mov (c : Ctl) (ty : IntTy) (d : Dst) (b : SrcImm)
  | sel (c : Ctl) (ty : IntTy) (d : Dst) (a b : Src) (p : PSrc)
  | icmp (c : Ctl) (ty : IntTy) (cd : Cond) (d : PDst) (a b : Src)
  -- lane class 1, F32 (R317 to R321)
  | fadd (c : Ctl) (md : Rm) (d : Dst) (a : Src) (b : SrcImm)
  | fsub (c : Ctl) (md : Rm) (d : Dst) (a : Src) (b : SrcImm)
  | fmul (c : Ctl) (md : Rm) (d : Dst) (a : Src) (b : SrcImm)
  | ffma (c : Ctl) (md : Rm) (d : Dst) (a b e : Src)
  | fmin (c : Ctl) (d : Dst) (a : Src) (b : SrcImm)
  | fmax (c : Ctl) (d : Dst) (a : Src) (b : SrcImm)
  | fabs (c : Ctl) (d : Dst) (a : Src)
  | fneg (c : Ctl) (d : Dst) (a : Src)
  | fcmp (c : Ctl) (cd : Cond) (d : PDst) (a b : Src)
  | frint (c : Ctl) (md : Rm) (d : Dst) (a : Src)
  -- lane class 2, F64 and conversion (R322, R323)
  | dadd (c : Ctl) (md : Rm) (d : Dst) (a b : Src)
  | dsub (c : Ctl) (md : Rm) (d : Dst) (a b : Src)
  | dmul (c : Ctl) (md : Rm) (d : Dst) (a b : Src)
  | dfma (c : Ctl) (md : Rm) (d : Dst) (a b e : Src)
  | dmin (c : Ctl) (d : Dst) (a b : Src)
  | dmax (c : Ctl) (d : Dst) (a b : Src)
  | dabs (c : Ctl) (d : Dst) (a : Src)
  | dneg (c : Ctl) (d : Dst) (a : Src)
  | dcmp (c : Ctl) (cd : Cond) (d : PDst) (a b : Src)
  | cvt (c : Ctl) (md : Rm) (sat : Bool) (dt st : CvtTy) (d : Dst) (a : Src)
  -- lane class 3, special functions and RAND (R324, R325)
  | rcp (c : Ctl) (d : Dst) (a : Src)
  | rsq (c : Ctl) (d : Dst) (a : Src)
  | sqrt (c : Ctl) (d : Dst) (a : Src)
  | exp2 (c : Ctl) (d : Dst) (a : Src)
  | log2 (c : Ctl) (d : Dst) (a : Src)
  | sin (c : Ctl) (d : Dst) (a : Src)
  | cos (c : Ctl) (d : Dst) (a : Src)
  | rand (c : Ctl) (wide : Bool) (d : Dst) (key ctr : Src)
  -- lane class 4, predicate and cross-lane (R326 to R333)
  | pand (c : Ctl) (d : PDst) (a b : PSrc)
  | por (c : Ctl) (d : PDst) (a b : PSrc)
  | pxor (c : Ctl) (d : PDst) (a b : PSrc)
  | pandn (c : Ctl) (d : PDst) (a b : PSrc)
  | vote (c : Ctl) (m : VoteMode) (p : PSrc)
  | shfl (c : Ctl) (m : ShflMode) (wide : Bool) (d : Dst) (a b : Src)
  | reduce (c : Ctl) (op : BandOp) (d : Dst) (a : Src)
  | scan (c : Ctl) (op : BandOp) (d : Dst) (a : Src)
  | sample (c : Ctl) (d : Dst) (valid : PDst) (w u : Src)
  | msplit (c : Ctl) (d : Dst) (diag base rows nnz : Src)
  | isect (c : Ctl) (d : Dst) (found : PDst) (x base len : Src)
  -- lane class 5, memory (R341 to R354)
  | lds (c : Ctl) (w : Width) (sx : Bool) (o : Order) (sc : Scope) (d : Dst) (a b : Src)
  | sts (c : Ctl) (w : Width) (o : Order) (sc : Scope) (a b x : Src)
  | atos (c : Ctl) (wide : Bool) (op : AtomOp) (o : Order) (sc : Scope) (d : Dst) (a x cmp : Src)
  | gld (c : Ctl) (h : Hint) (wide : Bool) (o : Order) (sc : Scope) (d : Dst) (a b : Src)
  | gst (c : Ctl) (h : Hint) (wide mc : Bool) (o : Order) (sc : Scope) (a b x : Src)
  | gatom (c : Ctl) (h : Hint) (wide : Bool) (op : AtomOp) (o : Order) (sc : Scope) (d : Dst) (a x cmp : Src)
  | gred (c : Ctl) (h : Hint) (wide mc : Bool) (op : AtomOp) (o : Order) (sc : Scope) (a x : Src)
  | xfer (c : Ctl) (h : Hint) (out : Bool) (ch rb : Nat) (a base stride : Src)
  | fence (c : Ctl) (o : Order) (sc : Scope)
  -- lane class 6, tile and matrix (R361 to R374)
  | tld (c : Ctl) (pt : Port) (w : ElemW) (sw : Swizzle) (d : Nat) (a b : Src)
  | tst (c : Ctl) (pt : Port) (w : ElemW) (sw : Swizzle) (a b : Src) (t : Nat)
  | tmov (c : Ctl) (pt : Port) (w : ElemW) (d a : Nat)
  | tzero (c : Ctl) (d : Nat)
  | wld (c : Ctl) (a b len : Src)
  | mma (c : Ctl) (pt : Port) (d a : Nat) (b : Src) (t : Nat) (f : SReg)
  | mmaPair (c : Ctl) (pt : Port) (d a : Nat) (b : Src) (t : Nat) (f : SReg)
  | prune (c : Ctl) (w : ElemW) (k lg : Nat) (d a : Nat)
  -- lane class 7, multiplicity and system (R375 to R381)
  | become (c : Ctl) (v w : Nat)
  | emit (c : Ctl) (a : Src)
  | ltrap (c : Ctl) (code : Nat)
  | bar (c : Ctl) (slot : Nat)
  | barn (c : Ctl) (count : Src) (slot : Nat)
  | nop (c : Ctl)
  -- steps of the streams and the engines
  | runGrant (core dp : Nat)
  | runRetire (team : Nat)
  | instructionCompletion (team n : Nat)
  | settlement (team : Nat)
  | channelIssue (core ch : Nat)
  | copyBytesComplete (core ch n : Nat)
  | collectivePieceAccept (p : Piece)
  | collectiveStall (core ch : Nat)
  -- steps of the dispatcher
  | launchStart (launch : Nat)
  | ticketTake (core : Nat)
  | blockSteal (core : Nat)
  | shapePublication (launch : Nat)
  | blockSquash (block : Nat)
  -- steps of traps, pre-emption and faults
  | trapEntry (team : Nat)
  | poolRefill (team : Nat)
  | cancel (team : Nat)
  | watchdog (team : Nat)
  | preemption (launch : Nat) (cores : BitVec 96)
  | contextSave (team : Nat)
  | blockResume (block core : Nat)
  | fatalFault (team : Nat) (err : SoftError)
  | lateWriteFailure (team addr : Nat)
  -- steps of translation and memory
  | heldAccessRewalk (team : Nat)
  | migrationLimit (team : Nat)
  | refreshWindowEnd (die group : Nat)
  | tlbinvArrival
  | shootdownTimeout (team : Nat)
  -- steps of the domain
  | heartbeat (port : Nat)
  | heartbeatMiss (port : Nat)
  | linkDown (port : Nat)
  | fenceNotice (dev : Nat)
  | peerDeviceAccess (dev : Nat) (x : PeerAccess)
  | hostBar2Access (vf : Nat) (x : OutsideAccess)
  | currentLimiter
  -- steps of reset and the host
  | deviceReset
  | registerWrite (pf : Bool) (fn off : Nat) (x : Word64)
  | eventHeadDoorbell (vf : Nat) (x : Word32)
  | jobQueueWrite (vf q : Nat) (x : BitVec 128)
  | tailDoorbell (vf q : Nat) (x : BitVec 16)
  | perfCounterClear (vf core n : Nat)
  | settingsWrite (pf vf off bytes : Nat) (x : Word64)
  | deviceNumberWrite (x : Word64)
  | loadRoutingTable (pf : Nat)
  | routingLoadComplete
  | poolAssign (r : Nat)
  | poolRelease (r : Nat)
  | poolReleaseComplete (r : Nat)
  | submitJob (vf q : Nat)
  | createContext (vf q : Nat)
  | destroyContext (vf q : Nat)
  -- SPDM requests (R424)
  | getVersion (pf : Nat)
  | getCapabilities (pf : Nat)
  | negotiateAlgorithms (pf : Nat)
  | getDigests (pf : Nat)
  | getCertificate (pf : Nat)
  | challenge (pf : Nat) (nonce : BitVec 256)
  | getMeasurements (pf : Nat) (nonce : BitVec 256)
  -- the timebase and the current limiter
  | timebaseCycle
  | currentBackWithinRating
  deriving DecidableEq, Repr, Inhabited

end Sys2Proof
end

