-- ==== Sys2Proof/WellFormed.lean ====
section
/-! DEFINITION. Which terms of `Instr` stand for an encoding that the manual assigns (R251 to R266).

Every check here is one that does not depend on the team that executes the instruction; the checks against the
declared registers, tiles and channels, and on operand values, are made at issue (R62, R73, R266). -/

namespace Sys2Proof

/-- A source operand code that R256 assigns. -/
def Src.wf : Src → Bool
  | .v n => n < 1536
  | .int i => decide (-64 ≤ i ∧ i ≤ 127)
  | .const k => k < 64
  | _ => true

/-- The b operand of a row that permits the immediate form (R255). -/
def SrcImm.wf : SrcImm → Bool
  | .code s => s.wf
  | .imm _ => true

/-- A destination code of kind VD (R257). -/
def Dst.wf : Dst → Bool
  | .v n => n < 1536
  | .discard => true

/-- A predicate index that R65 assigns. -/
def PSrc.wf (p : PSrc) : Bool := p.idx < 96 || p.idx == 127

/-- A predicate destination index of kind PD (R257). -/
def PDst.wf : PDst → Bool
  | .p n => n < 96
  | .discard => true

/-- The fields of every lane word hold values of their widths (R253) and guards that exist (R65). -/
def Ctl.wf (c : Ctl) : Bool := c.g0.wf && c.g1.wf && c.stall < 16 && c.set < 4 && c.wait < 8

/-- A uniform operand: a scalar register, an integer code or 2047 (R355, XFER's b and c). -/
def Src.uniform : Src → Bool
  | .s _ => true
  | .int _ => true
  | .zero => true
  | _ => false

/-- Conditions of `ICMP` (R260). -/
def Cond.intWf : Cond → Bool
  | .num => false
  | .nan => false
  | _ => true

/-- A floating-point type of R261 (R323 takes E8M0 as a source or destination of R126). -/
def CvtTy.isFloat : CvtTy → Bool
  | .f16 | .bf16 | .f32 | .f64 | .e4m3 | .e5m2 | .e2m1 | .e8m0 => true
  | _ => false

/-- `.SAT` is illegal from a floating-point type to an integer type (R124, R261). -/
def cvtSatWf (sat : Bool) (dt st : CvtTy) : Bool := !(sat && st.isFloat && !dt.isFloat)

/-- Orders of loads: `.RLX`, `.ACQ`, `.SC` (R262). -/
def Order.loadWf : Order → Bool
  | .rlx | .acq | .sc => true
  | _ => false

/-- Orders of stores and reductions: `.RLX`, `.REL`, `.SC` (R262). -/
def Order.storeWf : Order → Bool
  | .rlx | .rel | .sc => true
  | _ => false

/-- Orders of `FENCE`: all but `.RLX` (R262). -/
def Order.fenceWf : Order → Bool
  | .rlx => false
  | _ => true

/-- Sign extension only at widths 1 and 2 (R262). -/
def Width.sxWf (w : Width) (sx : Bool) : Bool :=
  match w with
  | .b1 | .b2 => true
  | _ => !sx

/-- Operations of `GRED`: neither `.SWAP` nor `.CAS` (R262). -/
def AtomOp.gredWf : AtomOp → Bool
  | .swap | .cas => false
  | _ => true

/-- Field c holds the comparand of `.CAS`, and otherwise 0, which reads as v0 (R262, R344). -/
def cmpWf (op : AtomOp) (cmp : Src) : Bool :=
  match op with
  | .cas => cmp.wf
  | _ => cmp == .v 0

/-- The multicast form requires scope `.DOM` or `.SYS` (R350). -/
def mcWf (mc : Bool) (sc : Scope) : Bool :=
  !mc || match sc with
    | .dom | .sys => true
    | _ => false

/-- A legal swizzle field (R146, R263). -/
def Swizzle.wf (x : Swizzle) : Bool :=
  if x.m = 0 then x.b == 0 && x.k4 == 0
  else x.m < 8 && x.b < 32 && x.k4 < 7 && x.b ≥ x.k4 + 4 + x.m && x.b + x.m ≤ 24

/-- Scopes of `TLBINV` (R300). -/
def Scope.tlbWf : Scope → Bool
  | .team | .block => false
  | _ => true

/-- The order that ends a run: `FENCE.SC` (R33). -/
def fenceEnds (c : Ctl) (o : Order) : Bool :=
  match o with
  | .sc => c.boundary
  | _ => true

/-- The instruction is one that the opcode maps assign (R264, R265), with every operand in its range. -/
def wellFormed (i : Instr) : Bool :=
  match i with
  | .slli _ _ k | .srli _ _ k | .srai _ _ k => k < 64
  | .mpush p | .sany _ p | .sall _ p | .spop _ p | .sfind _ p => p.wf
  | .sred _ _ v => v < 1536
  | .cpy a => a.val % 4 == 0
  | .bwait _ n => n ≤ 16
  | .flush _ _ ch => ch < 16
  | .tlbinv _ _ _ _ sc | .tlbinvAsid _ _ sc | .tlbinvVf sc => sc.tlbWf
  | .iadd c _ _ d a b | .isub c _ _ d a b | .imul c _ _ d a b => c.wf && d.wf && a.wf && b.wf
  | .imulh c _ d a b | .idiv c _ d a b | .irem c _ d a b | .imin c _ d a b | .imax c _ d a b
  | .land c _ d a b | .lor c _ d a b | .lxor c _ d a b
  | .shl c _ d a b | .shr c _ d a b | .sar c _ d a b | .rol c _ d a b => c.wf && d.wf && a.wf && b.wf
  | .imad c _ _ d a b e => c.wf && d.wf && a.wf && b.wf && e.wf
  | .iabs c _ _ d a | .ineg c _ _ d a => c.wf && d.wf && a.wf
  | .lnot c _ d a | .popc c _ d a | .clz c _ d a | .brev c _ d a => c.wf && d.wf && a.wf
  | .bfe c _ d a pos len => c.wf && d.wf && a.wf && pos.wf && len.wf
  | .bfi c _ d a base pos len => c.wf && d.wf && a.wf && base.wf && pos.wf && len.wf
  | .mov c _ d b => c.wf && d.wf && b.wf
  | .sel c _ d a b p => c.wf && d.wf && a.wf && b.wf && p.wf
  | .icmp c _ cd d a b => c.wf && d.wf && a.wf && b.wf && cd.intWf
  | .fadd c _ d a b | .fsub c _ d a b | .fmul c _ d a b => c.wf && d.wf && a.wf && b.wf
  | .ffma c _ d a b e | .dfma c _ d a b e => c.wf && d.wf && a.wf && b.wf && e.wf
  | .fmin c d a b | .fmax c d a b => c.wf && d.wf && a.wf && b.wf
  | .fabs c d a | .fneg c d a | .dabs c d a | .dneg c d a => c.wf && d.wf && a.wf
  | .fcmp c _ d a b | .dcmp c _ d a b => c.wf && d.wf && a.wf && b.wf
  | .frint c _ d a => c.wf && d.wf && a.wf
  | .dadd c _ d a b | .dsub c _ d a b | .dmul c _ d a b => c.wf && d.wf && a.wf && b.wf
  | .dmin c d a b | .dmax c d a b => c.wf && d.wf && a.wf && b.wf
  | .cvt c _ sat dt st d a => c.wf && d.wf && a.wf && cvtSatWf sat dt st
  | .rcp c d a | .rsq c d a | .sqrt c d a | .exp2 c d a | .log2 c d a | .sin c d a | .cos c d a =>
    c.wf && d.wf && a.wf
  | .rand c _ d k x => c.wf && d.wf && k.wf && x.wf
  | .pand c d a b | .por c d a b | .pxor c d a b | .pandn c d a b => c.wf && d.wf && a.wf && b.wf
  | .vote c m p => c.wf && p.wf && match m with
    | .any d => d.wf
    | .all d => d.wf
    | .ballot d => d.wf
  | .shfl c _ _ d a b => c.wf && d.wf && a.wf && b.wf
  | .reduce c _ d a | .scan c _ d a => c.wf && d.wf && a.wf
  | .sample c d v w u => c.wf && d.wf && v.wf && w.wf && u.wf
  | .msplit c d a b r z => c.wf && d.wf && a.wf && b.wf && r.wf && z.wf
  | .isect c d f x b l => c.wf && d.wf && f.wf && x.wf && b.wf && l.wf
  | .lds c w sx o _ d a b => c.wf && w.sxWf sx && o.loadWf && d.wf && a.wf && b.wf
  | .sts c _ o _ a b x => c.wf && o.storeWf && a.wf && b.wf && x.wf
  | .atos c _ op _ _ d a x cmp => c.wf && d.wf && a.wf && x.wf && cmpWf op cmp
  | .gld c _ _ o _ d a b => c.wf && o.loadWf && d.wf && a.wf && b.wf
  | .gst c _ _ mc o sc a b x => c.wf && o.storeWf && mcWf mc sc && a.wf && b.wf && x.wf
  | .gatom c _ _ op _ _ d a x cmp => c.wf && d.wf && a.wf && x.wf && cmpWf op cmp
  | .gred c _ _ mc op o sc a x => c.wf && op.gredWf && o.storeWf && mcWf mc sc && a.wf && x.wf
  | .xfer c _ _ ch rb a b s => c.wf && ch < 16 && rb < 128 && a.wf && b.wf && s.wf && b.uniform && s.uniform
  | .fence c o _ => c.wf && o.fenceWf && fenceEnds c o
  | .tld c _ _ sw d a b => c.wf && sw.wf && d < 32 && a.wf && b.wf
  | .tst c _ _ sw a b t => c.wf && sw.wf && t < 32 && a.wf && b.wf
  | .tmov c _ _ d a => c.wf && d < 32 && a < 32
  | .tzero c d => c.wf && d < 32
  | .wld c a b l => c.wf && a.wf && b.wf && l.wf
  | .mma c _ d a b t _ | .mmaPair c _ d a b t _ => c.wf && d < 32 && a < 32 && t < 32 && b.wf
  | .prune c _ k lg d a => c.wf && d < 32 && a < 32 && k < 64 && 2 ≤ lg && lg ≤ 5
  | .become c v w => c.wf && v < 1536 && 1 ≤ w && w ≤ 16 && c.boundary
  | .emit c a => c.wf && a.wf
  | .ltrap c code => c.wf && code < 2048 && c.boundary
  | .bar c slot => c.wf && slot < 8 && c.boundary
  | .barn c n slot => c.wf && n.wf && n.uniform && slot < 8 && c.boundary
  | .nop c => c.wf
  | _ => true

end Sys2Proof
end

