-- ==== Sys2Proof/Decode.lean ====
section
/-! DEFINITION. Scalar words, lane words and the packed lane stream to instructions and back (R108, R251 to R267). -/

namespace Sys2Proof

/-- The defects of a word that its bits alone show (R266). The remaining details, 0x06, 0x09 and 0x40 up, depend on
the team that executes the instruction. -/
inductive IllegalWord where
  | unassignedOpcode
  | unassignedFunction
  | unusedField
  | badModifier
  | badOperandCode
  | badPredicate
  | noBoundary
  deriving DecidableEq, Repr, Inhabited

/-- The `TRAPINFO` detail of each defect (R266). -/
def IllegalWord.detail : IllegalWord → Nat
  | .unassignedOpcode => 0x01
  | .unassignedFunction => 0x02
  | .unusedField => 0x03
  | .badModifier => 0x04
  | .badOperandCode => 0x05
  | .badPredicate => 0x07
  | .noBoundary => 0x08

/-! ### The lane word -/

/-- The fields of a lane word (R253). -/
structure LaneFields where
  bnd : BitVec 1
  wait : BitVec 3
  set : BitVec 2
  stall : BitVec 4
  hint : BitVec 2
  g1 : BitVec 8
  g0 : BitVec 8
  e : BitVec 11
  c : BitVec 11
  b : BitVec 11
  a : BitVec 11
  d : BitVec 11
  var : BitVec 4
  op : BitVec 9
  deriving DecidableEq, Repr, Inhabited

/-- Cut a lane word into its fields (R253). -/
def unpackLane (w : BitVec 96) : LaneFields where
  op := w.extractLsb' 0 9
  var := w.extractLsb' 9 4
  d := w.extractLsb' 13 11
  a := w.extractLsb' 24 11
  b := w.extractLsb' 35 11
  c := w.extractLsb' 46 11
  e := w.extractLsb' 57 11
  g0 := w.extractLsb' 68 8
  g1 := w.extractLsb' 76 8
  hint := w.extractLsb' 84 2
  stall := w.extractLsb' 86 4
  set := w.extractLsb' 90 2
  wait := w.extractLsb' 92 3
  bnd := w.extractLsb' 95 1

/-- Join the fields of a lane word (R253). -/
def packLane (f : LaneFields) : BitVec 96 :=
  f.bnd ++ f.wait ++ f.set ++ f.stall ++ f.hint ++ f.g1 ++ f.g0 ++ f.e ++ f.c ++ f.b ++ f.a ++ f.d ++ f.var ++ f.op

/-- What a field of a lane row holds (R257). `uni` is a uniform operand (R352, R355) and `sreg` a format block's. -/
inductive Kind where
  | v | vd | l | p | pd | t | uni | sreg | num | none
  deriving DecidableEq, Repr, Inhabited

/-- How a row uses its variant field (R254, R265). -/
inductive VarKind where
  | int (sat imm : Bool)
  | intSigned               -- `IABS`, `INEG`: the N types are illegal (R310)
  | float (rounds imm : Bool)
  | dbl (rounds : Bool)
  | cvt
  | zero
  | rand
  | vote
  | shfl
  | band
  | mem (sx : Bool)
  | xfer
  | tile
  | port
  | elem
  deriving DecidableEq, Repr, Inhabited

/-- How a row uses field e beside operand kinds (R260 to R263, R265). -/
inductive ModKind where
  | none
  | cond (max : Nat)
  | cvt
  | mem (orders : List Nat) (widths : List Nat) (ops : Nat) (mc : Bool)
  | swizzle
  | prune
  | range (lo hi : Nat)
  deriving DecidableEq, Repr, Inhabited

/-- One row of the lane opcode map (R265). -/
structure Row where
  var : VarKind
  d : Kind := .none
  a : Kind := .none
  b : Kind := .none
  c : Kind := .none
  e : Kind := .none
  md : ModKind := .none
  hint : Bool := false
  ends : Bool := false
  deriving DecidableEq, Repr, Inhabited

/-- Class 0 of the opcode map, by index. -/
def rowInt : Nat → Option Row
  | 0 | 1 | 2 => some { var := .int true true, d := .vd, a := .v, b := .v }
  | 3 | 5 | 6 | 7 | 8 | 11 | 12 | 13 | 15 | 16 | 17 | 18 => some { var := .int false true, d := .vd, a := .v, b := .v }
  | 4 => some { var := .int true false, d := .vd, a := .v, b := .v, c := .v }
  | 9 | 10 => some { var := .intSigned, d := .vd, a := .v }
  | 14 | 19 | 20 | 21 => some { var := .int false false, d := .vd, a := .v }
  | 22 => some { var := .int false false, d := .vd, a := .v, b := .v, c := .v }
  | 23 => some { var := .int false false, d := .vd, a := .v, b := .v, c := .v, e := .v }
  | 24 => some { var := .int false true, d := .vd, b := .v }
  | 25 => some { var := .int false false, d := .vd, a := .v, b := .v, c := .p }
  | 26 => some { var := .int false false, d := .pd, a := .v, b := .v, e := .num, md := .cond 5 }
  | _ => none

/-- Class 1 of the opcode map, by index. -/
def rowFloat : Nat → Option Row
  | 0 | 1 | 2 => some { var := .float true true, d := .vd, a := .v, b := .v }
  | 3 => some { var := .float true false, d := .vd, a := .v, b := .v, c := .v }
  | 4 | 5 => some { var := .float false true, d := .vd, a := .v, b := .v }
  | 6 | 7 => some { var := .float false false, d := .vd, a := .v }
  | 8 => some { var := .float false false, d := .pd, a := .v, b := .v, e := .num, md := .cond 7 }
  | 9 => some { var := .float true false, d := .vd, a := .v }
  | _ => none

/-- Class 2 of the opcode map, by index. -/
def rowDouble : Nat → Option Row
  | 0 | 1 | 2 => some { var := .dbl true, d := .vd, a := .v, b := .v }
  | 3 => some { var := .dbl true, d := .vd, a := .v, b := .v, c := .v }
  | 4 | 5 => some { var := .dbl false, d := .vd, a := .v, b := .v }
  | 6 | 7 => some { var := .dbl false, d := .vd, a := .v }
  | 8 => some { var := .dbl false, d := .pd, a := .v, b := .v, e := .num, md := .cond 7 }
  | 9 => some { var := .cvt, d := .vd, a := .v, e := .num, md := .cvt }
  | _ => none

/-- Class 3 of the opcode map, by index. -/
def rowFunc : Nat → Option Row
  | 0 | 1 | 2 | 3 | 4 | 5 | 6 => some { var := .zero, d := .vd, a := .v }
  | 7 => some { var := .rand, d := .vd, a := .v, b := .v }
  | _ => none

/-- Class 4 of the opcode map, by index; `ballot` says that variant [10:9] selects `.BALLOT` (R328). -/
def rowCross (ballot : Bool) : Nat → Option Row
  | 0 | 1 | 2 | 3 => some { var := .zero, d := .pd, a := .p, b := .p }
  | 4 => some { var := .vote, d := if ballot then .vd else .pd, a := .p }
  | 5 => some { var := .shfl, d := .vd, a := .v, b := .v }
  | 6 | 7 => some { var := .band, d := .vd, a := .v }
  | 8 => some { var := .zero, d := .vd, a := .v, b := .v, e := .pd }
  | 9 => some { var := .zero, d := .vd, a := .v, b := .v, c := .v, e := .v }
  | 10 => some { var := .zero, d := .vd, a := .v, b := .v, c := .v, e := .pd }
  | _ => none

/-- Class 5 of the opcode map, by index; `cas` says that field e names `.CAS` (R262). -/
def rowMem (cas : Bool) : Nat → Option Row
  | 0 => some { var := .mem true, d := .vd, a := .v, b := .v, e := .num, md := .mem [0, 1, 4] [0, 1, 2, 3] 1 false }
  | 1 => some { var := .mem false, a := .v, b := .v, c := .v, e := .num, md := .mem [0, 2, 4] [0, 1, 2, 3] 1 false }
  | 2 => some { var := .mem false, d := .vd, a := .v, b := .v, c := if cas then .v else .none, e := .num,
                md := .mem [0, 1, 2, 3, 4] [2, 3] 13 false }
  | 3 => some { var := .mem false, d := .vd, a := .v, b := .v, e := .num, md := .mem [0, 1, 4] [2, 3] 1 false,
                hint := true }
  | 4 => some { var := .mem false, a := .v, b := .v, c := .v, e := .num, md := .mem [0, 2, 4] [2, 3] 1 true,
                hint := true }
  | 5 => some { var := .mem false, d := .vd, a := .v, b := .v, c := if cas then .v else .none, e := .num,
                md := .mem [0, 1, 2, 3, 4] [2, 3] 13 false, hint := true }
  | 6 => some { var := .mem false, a := .v, b := .v, e := .num, md := .mem [0, 2, 4] [2, 3] 11 true, hint := true }
  | 7 => some { var := .xfer, a := .v, b := .uni, c := .uni, e := .num, hint := true }
  | 8 => some { var := .mem false, e := .num, md := .mem [1, 2, 3, 4] [0] 1 false }
  | _ => none

/-- Class 6 of the opcode map, by index. -/
def rowTile : Nat → Option Row
  | 0 => some { var := .tile, d := .t, a := .v, b := .v, e := .num, md := .swizzle }
  | 1 => some { var := .tile, a := .v, b := .v, c := .t, e := .num, md := .swizzle }
  | 2 => some { var := .tile, d := .t, a := .t }
  | 3 => some { var := .zero, d := .t }
  | 4 => some { var := .zero, a := .v, b := .v, c := .v }
  | 5 | 6 => some { var := .port, d := .t, a := .t, b := .v, c := .t, e := .sreg }
  | 7 => some { var := .elem, d := .t, a := .t, e := .num, md := .prune }
  | _ => none

/-- Class 7 of the opcode map, by index. -/
def rowMulti : Nat → Option Row
  | 0 => some { var := .zero, a := .l, e := .num, md := .range 1 16, ends := true }
  | 1 => some { var := .zero, a := .v }
  | 2 => some { var := .zero, e := .num, ends := true }
  | 3 => some { var := .zero, e := .num, md := .range 0 7, ends := true }
  | 4 => some { var := .zero, a := .uni, e := .num, md := .range 0 7, ends := true }
  | 5 => some { var := .zero }
  | _ => none

/-- The operation, multicast, scope and order subfields of a memory modifier (R262). -/
def memOp (e : BitVec 11) : Nat := (e.extractLsb' 7 4).toNat
def memMc (e : BitVec 11) : Bool := e.getLsbD 6
def memScope (e : BitVec 11) : Nat := (e.extractLsb' 3 3).toNat
def memOrder (e : BitVec 11) : Nat := (e.extractLsb' 0 3).toNat

/-- The row that a lane word selects (R265). -/
def rowOf (f : LaneFields) : Option Row :=
  let i := (f.op.extractLsb' 0 6).toNat
  match (f.op.extractLsb' 6 3).toNat with
  | 0 => rowInt i
  | 1 => rowFloat i
  | 2 => rowDouble i
  | 3 => rowFunc i
  | 4 => rowCross ((f.var.extractLsb' 0 2).toNat == 2) i
  | 5 => rowMem (memOp f.e == 12) i
  | 6 => rowTile i
  | _ => rowMulti i

/-- The row takes its b operand as a 32-bit immediate (R255). -/
def immForm (k : VarKind) (var : BitVec 4) : Bool :=
  match k with
  | .int _ imm => imm && var.getLsbD 3
  | .float _ imm => imm && var.getLsbD 3
  | _ => false

/-- The variant value is one that the row assigns: detail 0x02 otherwise (R254, R304, R310, R323, R328 to R330). -/
def varOk (k : VarKind) (f : LaneFields) : Bool :=
  let v := f.var
  let lo := (v.extractLsb' 0 2).toNat
  match k with
  | .int sat imm => (imm || !v.getLsbD 3) && (sat || !v.getLsbD 2)
  | .intSigned => !v.getLsbD 3 && !v.getLsbD 0
  | .float rounds imm => (imm || !v.getLsbD 3) && !v.getLsbD 2 && (rounds || lo == 0)
  | .dbl rounds => !v.getLsbD 3 && !v.getLsbD 2 && (rounds || lo == 0)
  | .cvt =>
    let dst := (f.e.extractLsb' 0 5).toNat
    let src := (f.e.extractLsb' 5 5).toNat
    !v.getLsbD 3 && !(v.getLsbD 2 && 8 ≤ src && src < 16 && dst < 8)
  | .zero => v == 0
  | .rand => v.toNat < 2
  | .vote => v.toNat < 3
  | .shfl => !v.getLsbD 3
  | .band => v.toNat < 11
  | .mem sx => !v.getLsbD 3 && !(v.getLsbD 2 && !(sx && lo < 2))
  | .xfer => v.toNat < 2
  | .tile => !v.getLsbD 3
  | .port => v.toNat < 2
  | .elem => !v.getLsbD 3 && !v.getLsbD 0

/-- A non-zero field that the row does not use: detail 0x03 (R266). -/
def unusedSet (r : Row) (f : LaneFields) : Bool :=
  let used (k : Kind) (x : BitVec 11) : Bool := k == .none && x != 0
  let hint := !r.hint && f.hint != 0
  if immForm r.var f.var then used r.d f.d || used r.a f.a || f.e.getLsbD 10 || hint
  else used r.d f.d || used r.a f.a || used r.b f.b || used r.c f.c || used r.e f.e ||
    (r.md == .cvt && f.e.getLsbD 10) || hint

/-- A legal swizzle field (R146, R263). -/
def swizzleOf (e : BitVec 11) : Swizzle :=
  { b := (e.extractLsb' 6 5).toNat, m := (e.extractLsb' 3 3).toNat, k4 := (e.extractLsb' 0 3).toNat }

/-- The modifier in field e is one that the row permits: detail 0x04 otherwise (R266). -/
def modOk (r : Row) (f : LaneFields) : Bool :=
  let e := f.e
  match r.md with
  | .none => true
  | .cond max => e.toNat ≤ max
  | .cvt => (e.extractLsb' 0 5).toNat < 16 && (e.extractLsb' 5 5).toNat < 16
  | .mem orders widths ops mc =>
    orders.contains (memOrder e) && widths.contains (f.var.extractLsb' 0 2).toNat && memOp e < ops &&
      memScope e ≤ 4 && (!memMc e || (mc && 3 ≤ memScope e))
  | .swizzle => (swizzleOf e).wf
  | .prune =>
    let lg := (e.extractLsb' 0 3).toNat
    e.toNat < 512 && 2 ≤ lg && lg ≤ 5
  | .range lo hi => lo ≤ e.toNat && e.toNat ≤ hi

/-- An operand code of the wrong kind: detail 0x05 (R256, R257, R266). -/
def codeBad (k : Kind) (x : BitVec 11) : Bool :=
  let n := x.toNat
  match k with
  | .v => !(n < 1605 || (1696 ≤ n && n < 1952) || n == 2047)
  | .vd => !(n < 1536 || n == 2047)
  | .l => !(n < 1536)
  | .p => !(n < 256)
  | .pd => !(n < 128)
  | .t => !(n < 32)
  | .uni => !((1536 ≤ n && n < 1600) || (1696 ≤ n && n < 1888) || n == 2047)
  | .sreg => !(1536 ≤ n && n < 1600)
  | .num | .none => false

/-- Some operand code of the word is of the wrong kind. -/
def codesBad (r : Row) (f : LaneFields) : Bool :=
  if immForm r.var f.var then codeBad r.d f.d || codeBad r.a f.a
  else codeBad r.d f.d || codeBad r.a f.a || codeBad r.b f.b || codeBad r.c f.c || codeBad r.e f.e

/-- A predicate index from 96 to 126 (R65, R266). -/
def badIndex (x : Nat) : Bool := 96 ≤ x % 128 && x % 128 ≤ 126

/-- Some guard or predicate operand of the word has an unassigned index: detail 0x07 (R266). -/
def predsBad (r : Row) (f : LaneFields) : Bool :=
  let bad (k : Kind) (x : BitVec 11) : Bool := (k == .p || k == .pd) && badIndex x.toNat
  badIndex f.g0.toNat || badIndex f.g1.toNat || bad r.d f.d || bad r.a f.a || bad r.b f.b || bad r.c f.c || bad r.e f.e

/-- The word is a run-ending instruction (R33, R265). -/
def endsRun (r : Row) (f : LaneFields) : Bool :=
  r.ends || (f.op.toNat == 0x148 && memOrder f.e == 4)

/-! #### Operands -/

/-- A source operand code (R256). -/
def srcOf (x : BitVec 11) : Src :=
  let n := x.toNat
  if n < 1536 then .v n
  else if n < 1600 then .s (Fin.ofNat 64 (n - 1536))
  else if n = 1600 then .special .bandw
  else if n = 1601 then .special .laneid
  else if n = 1602 then .special .ord
  else if n = 1603 then .special .keylo
  else if n = 1604 then .special .keyhi
  else if n < 1888 then .int ((n : Int) - 1760)
  else if n < 1952 then .const (n - 1888)
  else .zero

/-- A destination code of kind VD (R257). -/
def dstOf (x : BitVec 11) : Dst := if x.toNat = 2047 then .discard else .v x.toNat

/-- A predicate destination of kind PD (R257). -/
def pdstOf (x : BitVec 11) : PDst := if x.toNat = 127 then .discard else .p x.toNat

/-- A predicate source: [6:0] index, [7] negate (R257). -/
def psrcOf (x : BitVec 8) : PSrc := { idx := x.toNat % 128, neg := x.getLsbD 7 }

/-- The b operand of a row that permits the immediate form (R255). -/
def srcImmOf (f : LaneFields) : SrcImm :=
  if f.var.getLsbD 3 then .imm (f.e.extractLsb' 0 10 ++ f.c ++ f.b) else .code (srcOf f.b)

/-- The fields that every lane word has (R253). -/
def ctlOf (f : LaneFields) : Ctl where
  g0 := psrcOf f.g0
  g1 := psrcOf f.g1
  stall := f.stall.toNat
  set := f.set.toNat
  wait := f.wait.toNat
  boundary := f.bnd == 1

/-- Shared modifier codes (R254, R259 to R262). -/
def intTyOf (v : BitVec 4) : IntTy :=
  match (v.extractLsb' 0 2).toNat with
  | 0 => .i32 | 1 => .n32 | 2 => .i64 | _ => .n64
def rmOf (v : BitVec 4) : Rm :=
  match (v.extractLsb' 0 2).toNat with
  | 0 => .rn | 1 => .rz | 2 => .rp | _ => .rm
def condOf : Nat → Cond
  | 0 => .eq | 1 => .ne | 2 => .lt | 3 => .le | 4 => .gt | 5 => .ge | 6 => .num | _ => .nan
def orderOf : Nat → Order
  | 0 => .rlx | 1 => .acq | 2 => .rel | 3 => .ar | _ => .sc
def scopeOf : Nat → Scope
  | 0 => .team | 1 => .block | 2 => .dev | 3 => .dom | _ => .sys
def widthOf (v : BitVec 4) : Width :=
  match (v.extractLsb' 0 2).toNat with
  | 0 => .b1 | 1 => .b2 | 2 => .b4 | _ => .b8
def hintOf (x : BitVec 2) : Hint :=
  match x.toNat with
  | 0 => .normal | 1 => .stream | 2 => .noAlloc | _ => .bypass
def redOpOf : Nat → RedOp
  | 0 => .add | 1 => .min | 2 => .max | 3 => .minu | 4 => .maxu | 5 => .and | 6 => .or | _ => .xor
def bandOpOf (n : Nat) : BandOp :=
  match n with
  | 8 => .fadd | 9 => .fmin | 10 => .fmax | _ => .int (redOpOf n)
def atomOpOf : Nat → AtomOp
  | 0 => .add | 1 => .fadd | 2 => .min | 3 => .max | 4 => .minu | 5 => .maxu | 6 => .fmin | 7 => .fmax
  | 8 => .and | 9 => .or | 10 => .xor | 11 => .swap | _ => .cas
def cvtTyOf : Nat → CvtTy
  | 0 => .i8 | 1 => .i16 | 2 => .i32 | 3 => .i64 | 4 => .n8 | 5 => .n16 | 6 => .n32 | 7 => .n64
  | 8 => .f16 | 9 => .bf16 | 10 => .f32 | 11 => .f64 | 12 => .e4m3 | 13 => .e5m2 | 14 => .e2m1 | _ => .e8m0
def portOf (v : BitVec 4) : Port := if v.getLsbD 0 then .col else .row
def elemWOf (v : BitVec 4) : ElemW :=
  match (v.extractLsb' 1 2).toNat with
  | 0 => .w4 | 1 => .w8 | 2 => .w16 | _ => .w32
def shflModeOf (v : BitVec 4) : ShflMode :=
  match (v.extractLsb' 0 2).toNat with
  | 0 => .idx | 1 => .up | 2 => .down | _ => .xor
def sregOf (x : BitVec 11) : SReg := Fin.ofNat 64 (x.toNat - 1536)

/-- The predicate code of an 11-bit operand field. -/
def psrcOf11 (x : BitVec 11) : PSrc := psrcOf (x.extractLsb' 0 8)

/-! #### Building the instruction of a word whose defects have been ruled out -/

def buildInt (f : LaneFields) (i : Nat) : Instr :=
  let c := ctlOf f
  let ty := intTyOf f.var
  let sat := f.var.getLsbD 2
  let d := dstOf f.d
  let a := srcOf f.a
  let bi := srcImmOf f
  match i with
  | 0 => .iadd c ty sat d a bi
  | 1 => .isub c ty sat d a bi
  | 2 => .imul c ty sat d a bi
  | 3 => .imulh c ty d a bi
  | 4 => .imad c ty sat d a (srcOf f.b) (srcOf f.c)
  | 5 => .idiv c ty d a bi
  | 6 => .irem c ty d a bi
  | 7 => .imin c ty d a bi
  | 8 => .imax c ty d a bi
  | 9 => .iabs c (f.var.getLsbD 1) sat d a
  | 10 => .ineg c (f.var.getLsbD 1) sat d a
  | 11 => .land c ty d a bi
  | 12 => .lor c ty d a bi
  | 13 => .lxor c ty d a bi
  | 14 => .lnot c ty d a
  | 15 => .shl c ty d a bi
  | 16 => .shr c ty d a bi
  | 17 => .sar c ty d a bi
  | 18 => .rol c ty d a bi
  | 19 => .popc c ty d a
  | 20 => .clz c ty d a
  | 21 => .brev c ty d a
  | 22 => .bfe c ty d a (srcOf f.b) (srcOf f.c)
  | 23 => .bfi c ty d a (srcOf f.b) (srcOf f.c) (srcOf f.e)
  | 24 => .mov c ty d bi
  | 25 => .sel c ty d a (srcOf f.b) (psrcOf11 f.c)
  | _ => .icmp c ty (condOf f.e.toNat) (pdstOf f.d) a (srcOf f.b)

def buildFloat (f : LaneFields) (i : Nat) : Instr :=
  let c := ctlOf f
  let md := rmOf f.var
  let d := dstOf f.d
  let a := srcOf f.a
  let bi := srcImmOf f
  match i with
  | 0 => .fadd c md d a bi
  | 1 => .fsub c md d a bi
  | 2 => .fmul c md d a bi
  | 3 => .ffma c md d a (srcOf f.b) (srcOf f.c)
  | 4 => .fmin c d a bi
  | 5 => .fmax c d a bi
  | 6 => .fabs c d a
  | 7 => .fneg c d a
  | 8 => .fcmp c (condOf f.e.toNat) (pdstOf f.d) a (srcOf f.b)
  | _ => .frint c md d a

def buildDouble (f : LaneFields) (i : Nat) : Instr :=
  let c := ctlOf f
  let md := rmOf f.var
  let d := dstOf f.d
  let a := srcOf f.a
  let bb := srcOf f.b
  match i with
  | 0 => .dadd c md d a bb
  | 1 => .dsub c md d a bb
  | 2 => .dmul c md d a bb
  | 3 => .dfma c md d a bb (srcOf f.c)
  | 4 => .dmin c d a bb
  | 5 => .dmax c d a bb
  | 6 => .dabs c d a
  | 7 => .dneg c d a
  | 8 => .dcmp c (condOf f.e.toNat) (pdstOf f.d) a bb
  | _ => .cvt c md (f.var.getLsbD 2) (cvtTyOf (f.e.extractLsb' 0 5).toNat) (cvtTyOf (f.e.extractLsb' 5 5).toNat) d a

def buildFunc (f : LaneFields) (i : Nat) : Instr :=
  let c := ctlOf f
  let d := dstOf f.d
  let a := srcOf f.a
  match i with
  | 0 => .rcp c d a
  | 1 => .rsq c d a
  | 2 => .sqrt c d a
  | 3 => .exp2 c d a
  | 4 => .log2 c d a
  | 5 => .sin c d a
  | 6 => .cos c d a
  | _ => .rand c (f.var.getLsbD 0) d a (srcOf f.b)

def buildCross (f : LaneFields) (i : Nat) : Instr :=
  let c := ctlOf f
  let d := dstOf f.d
  let a := srcOf f.a
  let bb := srcOf f.b
  match i with
  | 0 => .pand c (pdstOf f.d) (psrcOf11 f.a) (psrcOf11 f.b)
  | 1 => .por c (pdstOf f.d) (psrcOf11 f.a) (psrcOf11 f.b)
  | 2 => .pxor c (pdstOf f.d) (psrcOf11 f.a) (psrcOf11 f.b)
  | 3 => .pandn c (pdstOf f.d) (psrcOf11 f.a) (psrcOf11 f.b)
  | 4 => .vote c (match f.var.toNat with
      | 0 => .any (pdstOf f.d)
      | 1 => .all (pdstOf f.d)
      | _ => .ballot d) (psrcOf11 f.a)
  | 5 => .shfl c (shflModeOf f.var) (f.var.getLsbD 2) d a bb
  | 6 => .reduce c (bandOpOf f.var.toNat) d a
  | 7 => .scan c (bandOpOf f.var.toNat) d a
  | 8 => .sample c d (pdstOf f.e) a bb
  | 9 => .msplit c d a bb (srcOf f.c) (srcOf f.e)
  | _ => .isect c d (pdstOf f.e) a bb (srcOf f.c)

def buildMem (f : LaneFields) (i : Nat) : Instr :=
  let c := ctlOf f
  let d := dstOf f.d
  let a := srcOf f.a
  let bb := srcOf f.b
  let x := srcOf f.c
  let o := orderOf (memOrder f.e)
  let sc := scopeOf (memScope f.e)
  let h := hintOf f.hint
  let wide := f.var.getLsbD 0
  let op := atomOpOf (memOp f.e)
  match i with
  | 0 => .lds c (widthOf f.var) (f.var.getLsbD 2) o sc d a bb
  | 1 => .sts c (widthOf f.var) o sc a bb x
  | 2 => .atos c wide op o sc d a bb x
  | 3 => .gld c h wide o sc d a bb
  | 4 => .gst c h wide (memMc f.e) o sc a bb x
  | 5 => .gatom c h wide op o sc d a bb x
  | 6 => .gred c h wide (memMc f.e) op o sc a bb
  | 7 => .xfer c h (f.var.getLsbD 0) (f.e.extractLsb' 7 4).toNat (f.e.extractLsb' 0 7).toNat a bb x
  | _ => .fence c o sc

def buildTile (f : LaneFields) (i : Nat) : Instr :=
  let c := ctlOf f
  let pt := portOf f.var
  let w := elemWOf f.var
  match i with
  | 0 => .tld c pt w (swizzleOf f.e) f.d.toNat (srcOf f.a) (srcOf f.b)
  | 1 => .tst c pt w (swizzleOf f.e) (srcOf f.a) (srcOf f.b) f.c.toNat
  | 2 => .tmov c pt w f.d.toNat f.a.toNat
  | 3 => .tzero c f.d.toNat
  | 4 => .wld c (srcOf f.a) (srcOf f.b) (srcOf f.c)
  | 5 => .mma c pt f.d.toNat f.a.toNat (srcOf f.b) f.c.toNat (sregOf f.e)
  | 6 => .mmaPair c pt f.d.toNat f.a.toNat (srcOf f.b) f.c.toNat (sregOf f.e)
  | _ => .prune c w (f.e.extractLsb' 3 6).toNat (f.e.extractLsb' 0 3).toNat f.d.toNat f.a.toNat

def buildMulti (f : LaneFields) (i : Nat) : Instr :=
  let c := ctlOf f
  match i with
  | 0 => .become c f.a.toNat f.e.toNat
  | 1 => .emit c (srcOf f.a)
  | 2 => .ltrap c f.e.toNat
  | 3 => .bar c f.e.toNat
  | 4 => .barn c (srcOf f.a) f.e.toNat
  | _ => .nop c

/-- The instruction that a lane word without defects stands for (R265). -/
def buildLane (f : LaneFields) : Instr :=
  let i := (f.op.extractLsb' 0 6).toNat
  match (f.op.extractLsb' 6 3).toNat with
  | 0 => buildInt f i
  | 1 => buildFloat f i
  | 2 => buildDouble f i
  | 3 => buildFunc f i
  | 4 => buildCross f i
  | 5 => buildMem f i
  | 6 => buildTile f i
  | _ => buildMulti f i

/-- The lowest static defect of a lane word, if it has one (R266). -/
def laneDefect (f : LaneFields) : Option IllegalWord :=
  match rowOf f with
  | none => some .unassignedOpcode
  | some r =>
    if !varOk r.var f then some .unassignedFunction
    else if unusedSet r f then some .unusedField
    else if !modOk r f then some .badModifier
    else if codesBad r f then some .badOperandCode
    else if predsBad r f then some .badPredicate
    else if endsRun r f && f.bnd != 1 then some .noBoundary
    else none

/-- Decode a lane word (R265, R266). -/
def decodeLane (w : BitVec 96) : Except IllegalWord Instr :=
  let f := unpackLane w
  match laneDefect f with
  | some d => .error d
  | none => .ok (buildLane f)

/-- The instruction whose operands a word with the given defect still names, for the checks with detail 0x06 that come
before details 0x07 and 0x08 (R266). -/
def laneShape (w : BitVec 96) : Option Instr :=
  let f := unpackLane w
  match laneDefect f with
  | none | some .badPredicate | some .noBoundary => some (buildLane f)
  | _ => none

/-! ### The scalar word -/

/-- The fields of a scalar word in the four formats (R251). -/
structure ScalarFields where
  op : BitVec 7
  d : BitVec 6
  a : BitVec 6
  b : BitVec 6
  fn : BitVec 7
  deriving DecidableEq, Repr, Inhabited

def unpackScalar (w : BitVec 32) : ScalarFields where
  op := w.extractLsb' 25 7
  d := w.extractLsb' 19 6
  a := w.extractLsb' 13 6
  b := w.extractLsb' 7 6
  fn := w.extractLsb' 0 7

def packScalar (f : ScalarFields) : BitVec 32 := f.op ++ f.d ++ f.a ++ f.b ++ f.fn

/-- imm13, imm19 and the SB fields over the SR fields (R251). -/
def ScalarFields.imm13 (f : ScalarFields) : BitVec 13 := f.b ++ f.fn
def ScalarFields.imm19 (f : ScalarFields) : BitVec 19 := f.a ++ f.b ++ f.fn
def ScalarFields.off (f : ScalarFields) : BitVec 20 := f.d.extractLsb' 0 1 ++ f.a ++ f.b ++ f.fn
def ScalarFields.sbq (f : ScalarFields) : BitVec 4 := f.d.extractLsb' 2 4
def ScalarFields.sbneg (f : ScalarFields) : Bool := f.d.getLsbD 1

/-- A register field names s0 to s63 (R252). -/
def sregField (x : BitVec 6) : SReg := ⟨x.toNat, x.isLt⟩
/-- A predicate field's bits [3:0] name q0 to q15 (R252). -/
def qregField (x : BitVec 6) : QReg := ⟨(x.extractLsb' 0 4).toNat, (x.extractLsb' 0 4).isLt⟩
/-- Bits [5:4] of a field that names a scalar predicate must be 0: detail 0x05 (R252, R266). -/
def qBad (x : BitVec 6) : Bool := 16 ≤ x.toNat
def qreg4 (x : BitVec 4) : QReg := ⟨x.toNat, x.isLt⟩

/-- The word with its defects in the order of their details (R266), or its instruction. -/
def scalarChecked (fn unused md code pred : Bool) (i : Instr) : Except IllegalWord Instr :=
  if fn then .error .unassignedFunction
  else if unused then .error .unusedField
  else if md then .error .badModifier
  else if code then .error .badOperandCode
  else if pred then .error .badPredicate
  else .ok i

/-- The ALU group (R264). -/
def aluOf (d a b : SReg) : Nat → Instr
  | 0x00 => .aluAdd d a b
  | 0x01 => .aluSub d a b
  | 0x02 => .aluAnd d a b
  | 0x03 => .aluOr d a b
  | 0x04 => .aluXor d a b
  | 0x05 => .aluSll d a b
  | 0x06 => .aluSrl d a b
  | 0x07 => .aluSra d a b
  | 0x08 => .aluMul d a b
  | 0x09 => .aluMulh d a b
  | 0x0A => .aluMulhu d a b
  | 0x0B => .aluMin d a b
  | 0x0C => .aluMax d a b
  | 0x0D => .aluMinu d a b
  | _ => .aluMaxu d a b

def scondOf : Nat → SCond
  | 0 => .eq | 1 => .ne | 2 => .lt | 3 => .ge | 4 => .ltu | _ => .geu
def waitCondOf : Nat → WaitCond
  | 0 => .eq | 1 => .ne | 2 => .geu | _ => .ltu
def levelOf : Nat → LevelKind
  | 0 => .launch | 1 => .graph | 2 => .phase | _ => .job

/-- The predicate of `MPUSH`, `SANY`, `SALL`, `SPOP` and `SFIND` in imm13 [7:0] (R264). -/
def ScalarFields.pred (f : ScalarFields) : PSrc := psrcOf (f.imm13.extractLsb' 0 8)
def ScalarFields.predBad (f : ScalarFields) : Bool := badIndex (f.imm13.extractLsb' 0 8).toNat
def ScalarFields.predHigh (f : ScalarFields) : Bool := 256 ≤ f.imm13.toNat

/-- `TLBINV` in its three forms (R300). -/
def tlbOf (f : ScalarFields) : Except IllegalWord Instr :=
  let sc := (f.fn.extractLsb' 0 3).toNat
  let form := (f.fn.extractLsb' 3 2).toNat
  let glob := f.fn.getLsbD 5
  let high := f.fn.getLsbD 6
  let scBad := sc < 2 || 4 < sc
  match form with
  | 0 => scalarChecked false high scBad false false (.tlbinv (sregField f.d) (sregField f.a) (sregField f.b) glob (scopeOf sc))
  | 1 => scalarChecked false (high || f.a != 0 || f.b != 0) scBad false false
      (.tlbinvAsid (sregField f.d) glob (scopeOf sc))
  | 2 => scalarChecked false (high || f.d != 0 || f.a != 0 || f.b != 0) (scBad || glob) false false (.tlbinvVf (scopeOf sc))
  | _ => .error (if high then .unusedField else .badModifier)

/-- Decode the fields of a scalar word (R264, R266). -/
def decodeScalarFields (f : ScalarFields) : Except IllegalWord Instr :=
  let d := sregField f.d
  let a := sregField f.a
  let bb := sregField f.b
  let i := f.imm13
  let fn := f.fn.toNat
  let ok (x : Instr) : Except IllegalWord Instr := .ok x
  match f.op.toNat with
  | 0x00 => scalarChecked (14 < fn) false false false false (aluOf d a bb fn)
  | 0x01 => ok (.addi d a i)
  | 0x02 => ok (.andi d a i)
  | 0x03 => ok (.ori d a i)
  | 0x04 => ok (.xori d a i)
  | 0x05 => scalarChecked false false (63 < i.toNat) false false (.slli d a i.toNat)
  | 0x06 => scalarChecked false false (63 < i.toNat) false false (.srli d a i.toNat)
  | 0x07 => scalarChecked false false (63 < i.toNat) false false (.srai d a i.toNat)
  | 0x08 => ok (.lui d f.imm19)
  | 0x0A => scalarChecked (5 < (f.fn.extractLsb' 0 3).toNat) (8 ≤ fn) false (qBad f.d) false
      (.scmp (scondOf (f.fn.extractLsb' 0 3).toNat) (qregField f.d) a bb)
  | 0x0B => scalarChecked false (32 ≤ fn) false false false
      (.ssel d (qreg4 (f.fn.extractLsb' 0 4)) (f.fn.getLsbD 4) a bb)
  | 0x0C => scalarChecked (3 < fn) false false (qBad f.d || qBad f.a || qBad f.b) false
      (match fn with
        | 0 => .qand (qregField f.d) (qregField f.a) (qregField f.b)
        | 1 => .qor (qregField f.d) (qregField f.a) (qregField f.b)
        | 2 => .qxor (qregField f.d) (qregField f.a) (qregField f.b)
        | _ => .qandn (qregField f.d) (qregField f.a) (qregField f.b))
  | 0x10 => ok (.b (qreg4 f.sbq) f.sbneg f.off)
  | 0x11 => ok (.call (qreg4 f.sbq) f.sbneg f.off)
  | 0x12 => scalarChecked false (f.d != 0 || i != 0) false false false (.jr a)
  | 0x13 => scalarChecked false (f.d != 0 || i != 0) false false false (.callr a)
  | 0x14 => ok (.run d f.imm19)
  | 0x18 => scalarChecked false (f.d != 0 || f.a != 0 || f.predHigh) false false f.predBad (.mpush f.pred)
  | 0x19 => scalarChecked false (f.d != 0 || f.a != 0 || i != 0) false false false .melse
  | 0x1A => scalarChecked false (f.d != 0 || f.a != 0 || i != 0) false false false .mpop
  | 0x1C => scalarChecked false (f.a != 0 || f.predHigh) false (qBad f.d) f.predBad (.sany (qregField f.d) f.pred)
  | 0x1D => scalarChecked false (f.a != 0 || f.predHigh) false (qBad f.d) f.predBad (.sall (qregField f.d) f.pred)
  | 0x1E => scalarChecked false (f.a != 0 || f.predHigh) false false f.predBad (.spop d f.pred)
  | 0x1F => scalarChecked false (f.a != 0 || f.predHigh) false false f.predBad (.sfind d f.pred)
  | 0x20 =>
    let v := (f.imm19.extractLsb' 0 11).toNat
    scalarChecked false ((f.imm19.extractLsb' 11 5) != 0) false (1536 ≤ v) false
      (.sred (redOpOf (f.imm19.extractLsb' 16 3).toNat) d v)
  | 0x24 => ok (.ldk d a i)
  | 0x25 => ok (.ldkN32 d a i)
  | 0x28 => ok (.sldN8 d a i)
  | 0x29 => ok (.sldN16 d a i)
  | 0x2A => ok (.sldN32 d a i)
  | 0x2B => ok (.sldB64 d a i)
  | 0x2C => ok (.sstN8 d a i)
  | 0x2D => ok (.sstN16 d a i)
  | 0x2E => ok (.sstN32 d a i)
  | 0x2F => ok (.sstB64 d a i)
  | 0x30 =>
    let sc := (f.fn.extractLsb' 0 3).toNat
    scalarChecked false false (4 < sc) false false
      (.swait d a bb (f.fn.getLsbD 6) (waitCondOf (f.fn.extractLsb' 4 2).toNat) (f.fn.getLsbD 3) (scopeOf sc))
  | 0x34 => scalarChecked false (f.d != 0 || i != 0) (f.a.toNat % 4 != 0) false false (.cpy a)
  | 0x35 => scalarChecked false (f.d != 0 || f.a != 0 || 8 ≤ i.toNat) (4 < (i.extractLsb' 0 3).toNat) false false
      (.bseal (scopeOf (i.extractLsb' 0 3).toNat))
  | 0x36 => scalarChecked false (f.a != 0) (16 < i.toNat) false false (.bwait d i.toNat)
  | 0x38 => scalarChecked false (i != 0) false false false (.launch d a)
  | 0x39 => scalarChecked false (f.b != 0 || 4 ≤ fn) false false false (.lwait (levelOf fn) d a)
  | 0x3A => scalarChecked false (f.b != 0 || 4 ≤ fn) false false false (.lstat (levelOf fn) d a)
  | 0x3B => scalarChecked false (f.d != 0 || f.b != 0 || 4 ≤ fn) false false false (.lcancel (levelOf fn) a)
  | 0x3C => scalarChecked false (i != 0) false false false (.galloc d a)
  | 0x3D => scalarChecked false (f.d != 0 || i != 0) false false false (.gfree a)
  | 0x3E => scalarChecked false (16 ≤ i.toNat) false false false (.flush d a i.toNat)
  | 0x40 => scalarChecked false (f.a != 0) false false false (.srd d i)
  | 0x41 => scalarChecked false (f.d != 0) false false false (.swr i a)
  | 0x44 => scalarChecked false (f.d != 0) false false false (.trap f.imm19)
  | 0x45 => scalarChecked false (f.d != 0 || f.a != 0 || i != 0) false false false .tret
  | 0x46 => scalarChecked false (f.d != 0 || f.a != 0 || i != 0) false false false .exit
  | 0x48 => scalarChecked false (f.d != 0 || f.a != 0 || i != 0) false false false .isync
  | 0x49 => scalarChecked false (f.d != 0 || 8 ≤ fn) (4 < (f.fn.extractLsb' 0 3).toNat) false false
      (.icinv a bb (scopeOf (f.fn.extractLsb' 0 3).toNat))
  | 0x4A => tlbOf f
  | 0x4B => scalarChecked false (f.d != 0 || f.a != 0 || i != 0) false false false .tlbsync
  | 0x4C => scalarChecked false (f.d != 0 || f.a != 0 || i != 0) false false false .ptfence
  | 0x4D => scalarChecked false (fn != 0) false false false (.rngreg d a bb)
  | _ => .error .unassignedOpcode

/-- Decode a scalar word: every value is an instruction or a named defect (R267). -/
def decodeScalar (w : BitVec 32) : Except IllegalWord Instr := decodeScalarFields (unpackScalar w)

/-! ### Encoding -/

/-- Operand codes of R256 and R257. -/
def srcCode : Src → BitVec 11
  | .v n => BitVec.ofNat 11 n
  | .s r => BitVec.ofNat 11 (1536 + r.val)
  | .special .bandw => 1600
  | .special .laneid => 1601
  | .special .ord => 1602
  | .special .keylo => 1603
  | .special .keyhi => 1604
  | .int i => BitVec.ofNat 11 (i + 1760).toNat
  | .const k => BitVec.ofNat 11 (1888 + k)
  | .zero => 2047
def dstCode : Dst → BitVec 11
  | .v n => BitVec.ofNat 11 n
  | .discard => 2047
def pdstCode : PDst → BitVec 11
  | .p n => BitVec.ofNat 11 n
  | .discard => 127
def bit1 (x : Bool) : BitVec 1 := BitVec.ofBool x
def psrcCode (p : PSrc) : BitVec 8 := bit1 p.neg ++ BitVec.ofNat 7 p.idx
def psrcCode11 (p : PSrc) : BitVec 11 := (0#3) ++ psrcCode p

def intTyCode : IntTy → BitVec 2
  | .i32 => 0 | .n32 => 1 | .i64 => 2 | .n64 => 3
def rmCode : Rm → BitVec 2
  | .rn => 0 | .rz => 1 | .rp => 2 | .rm => 3
def condCode : Cond → BitVec 11
  | .eq => 0 | .ne => 1 | .lt => 2 | .le => 3 | .gt => 4 | .ge => 5 | .num => 6 | .nan => 7
def orderCode : Order → BitVec 3
  | .rlx => 0 | .acq => 1 | .rel => 2 | .ar => 3 | .sc => 4
def scopeCode : Scope → BitVec 3
  | .team => 0 | .block => 1 | .dev => 2 | .dom => 3 | .sys => 4
def widthCode : Width → BitVec 2
  | .b1 => 0 | .b2 => 1 | .b4 => 2 | .b8 => 3
def wideCode (x : Bool) : BitVec 2 := if x then 3 else 2
def hintCode : Hint → BitVec 2
  | .normal => 0 | .stream => 1 | .noAlloc => 2 | .bypass => 3
def redOpCode : RedOp → BitVec 3
  | .add => 0 | .min => 1 | .max => 2 | .minu => 3 | .maxu => 4 | .and => 5 | .or => 6 | .xor => 7
def bandOpCode : BandOp → BitVec 4
  | .int o => (0#1) ++ redOpCode o
  | .fadd => 8 | .fmin => 9 | .fmax => 10
def atomOpCode : AtomOp → BitVec 4
  | .add => 0 | .fadd => 1 | .min => 2 | .max => 3 | .minu => 4 | .maxu => 5 | .fmin => 6 | .fmax => 7
  | .and => 8 | .or => 9 | .xor => 10 | .swap => 11 | .cas => 12
def cvtTyCode : CvtTy → BitVec 5
  | .i8 => 0 | .i16 => 1 | .i32 => 2 | .i64 => 3 | .n8 => 4 | .n16 => 5 | .n32 => 6 | .n64 => 7
  | .f16 => 8 | .bf16 => 9 | .f32 => 10 | .f64 => 11 | .e4m3 => 12 | .e5m2 => 13 | .e2m1 => 14 | .e8m0 => 15
def portCode : Port → BitVec 1
  | .row => 0 | .col => 1
def elemWCode : ElemW → BitVec 2
  | .w4 => 0 | .w8 => 1 | .w16 => 2 | .w32 => 3
def shflModeCode : ShflMode → BitVec 2
  | .idx => 0 | .up => 1 | .down => 2 | .xor => 3
def sregCode (r : SReg) : BitVec 11 := BitVec.ofNat 11 (1536 + r.val)
def swizzleCode (x : Swizzle) : BitVec 11 := BitVec.ofNat 5 x.b ++ BitVec.ofNat 3 x.m ++ BitVec.ofNat 3 x.k4
def memModCode (op : BitVec 4) (mc : Bool) (sc : Scope) (o : Order) : BitVec 11 :=
  op ++ bit1 mc ++ scopeCode sc ++ orderCode o
def tileNo (t : Nat) : BitVec 11 := BitVec.ofNat 11 t

/-- The fields common to every lane word, with the opcode; operand fields 0. -/
def baseFields (c : Ctl) (op : BitVec 9) (var : BitVec 4) : LaneFields where
  bnd := bit1 c.boundary
  wait := BitVec.ofNat 3 c.wait
  set := BitVec.ofNat 2 c.set
  stall := BitVec.ofNat 4 c.stall
  hint := 0
  g1 := psrcCode c.g1
  g0 := psrcCode c.g0
  e := 0
  c := 0
  b := 0
  a := 0
  d := 0
  var := var
  op := op

/-- The immediate bit of a b operand (R255). -/
def immBit : SrcImm → BitVec 1
  | .code _ => 0
  | .imm _ => 1

/-- Lay out a b operand that may be an immediate (R255). -/
def withB (f : LaneFields) : SrcImm → LaneFields
  | .code s => { f with b := srcCode s }
  | .imm x => { f with b := x.extractLsb' 0 11, c := x.extractLsb' 11 11, e := (0#1) ++ x.extractLsb' 22 10 }

/-- A class 0 or class 1 row with destination, a and b. -/
def fieldsDab (c : Ctl) (op : BitVec 9) (v2 : BitVec 1) (lo : BitVec 2) (d : Dst) (a : Src) (bi : SrcImm) : LaneFields :=
  withB { baseFields c op (immBit bi ++ v2 ++ lo) with d := dstCode d, a := srcCode a } bi

/-- A row with destination and source codes in d, a, b, c and e. -/
def fieldsD (c : Ctl) (op : BitVec 9) (var : BitVec 4) (d a b x e : BitVec 11) : LaneFields :=
  { baseFields c op var with d := d, a := a, b := b, c := x, e := e }

/-- Fields of each lane instruction (R265); `none` for the others. -/
def fieldsOf : Instr → Option LaneFields
  | .iadd c ty sat d a y => some (fieldsDab c 0x000 (bit1 sat) (intTyCode ty) d a y)
  | .isub c ty sat d a y => some (fieldsDab c 0x001 (bit1 sat) (intTyCode ty) d a y)
  | .imul c ty sat d a y => some (fieldsDab c 0x002 (bit1 sat) (intTyCode ty) d a y)
  | .imulh c ty d a y => some (fieldsDab c 0x003 0 (intTyCode ty) d a y)
  | .imad c ty sat d a y z =>
    some (fieldsD c 0x004 ((0#1) ++ bit1 sat ++ intTyCode ty) (dstCode d) (srcCode a) (srcCode y) (srcCode z) 0)
  | .idiv c ty d a y => some (fieldsDab c 0x005 0 (intTyCode ty) d a y)
  | .irem c ty d a y => some (fieldsDab c 0x006 0 (intTyCode ty) d a y)
  | .imin c ty d a y => some (fieldsDab c 0x007 0 (intTyCode ty) d a y)
  | .imax c ty d a y => some (fieldsDab c 0x008 0 (intTyCode ty) d a y)
  | .iabs c wide sat d a => some (fieldsD c 0x009 ((0#1) ++ bit1 sat ++ bit1 wide ++ 0#1) (dstCode d) (srcCode a) 0 0 0)
  | .ineg c wide sat d a => some (fieldsD c 0x00A ((0#1) ++ bit1 sat ++ bit1 wide ++ 0#1) (dstCode d) (srcCode a) 0 0 0)
  | .land c ty d a y => some (fieldsDab c 0x00B 0 (intTyCode ty) d a y)
  | .lor c ty d a y => some (fieldsDab c 0x00C 0 (intTyCode ty) d a y)
  | .lxor c ty d a y => some (fieldsDab c 0x00D 0 (intTyCode ty) d a y)
  | .lnot c ty d a => some (fieldsD c 0x00E ((0#2) ++ intTyCode ty) (dstCode d) (srcCode a) 0 0 0)
  | .shl c ty d a y => some (fieldsDab c 0x00F 0 (intTyCode ty) d a y)
  | .shr c ty d a y => some (fieldsDab c 0x010 0 (intTyCode ty) d a y)
  | .sar c ty d a y => some (fieldsDab c 0x011 0 (intTyCode ty) d a y)
  | .rol c ty d a y => some (fieldsDab c 0x012 0 (intTyCode ty) d a y)
  | .popc c ty d a => some (fieldsD c 0x013 ((0#2) ++ intTyCode ty) (dstCode d) (srcCode a) 0 0 0)
  | .clz c ty d a => some (fieldsD c 0x014 ((0#2) ++ intTyCode ty) (dstCode d) (srcCode a) 0 0 0)
  | .brev c ty d a => some (fieldsD c 0x015 ((0#2) ++ intTyCode ty) (dstCode d) (srcCode a) 0 0 0)
  | .bfe c ty d a p l => some (fieldsD c 0x016 ((0#2) ++ intTyCode ty) (dstCode d) (srcCode a) (srcCode p) (srcCode l) 0)
  | .bfi c ty d a y p l =>
    some (fieldsD c 0x017 ((0#2) ++ intTyCode ty) (dstCode d) (srcCode a) (srcCode y) (srcCode p) (srcCode l))
  | .mov c ty d y => some { fieldsDab c 0x018 0 (intTyCode ty) d (.v 0) y with a := 0 }
  | .sel c ty d a y p =>
    some (fieldsD c 0x019 ((0#2) ++ intTyCode ty) (dstCode d) (srcCode a) (srcCode y) (psrcCode11 p) 0)
  | .icmp c ty cd d a y =>
    some (fieldsD c 0x01A ((0#2) ++ intTyCode ty) (pdstCode d) (srcCode a) (srcCode y) 0 (condCode cd))
  | .fadd c md d a y => some (fieldsDab c 0x040 0 (rmCode md) d a y)
  | .fsub c md d a y => some (fieldsDab c 0x041 0 (rmCode md) d a y)
  | .fmul c md d a y => some (fieldsDab c 0x042 0 (rmCode md) d a y)
  | .ffma c md d a y z => some (fieldsD c 0x043 ((0#2) ++ rmCode md) (dstCode d) (srcCode a) (srcCode y) (srcCode z) 0)
  | .fmin c d a y => some (fieldsDab c 0x044 0 0 d a y)
  | .fmax c d a y => some (fieldsDab c 0x045 0 0 d a y)
  | .fabs c d a => some (fieldsD c 0x046 0 (dstCode d) (srcCode a) 0 0 0)
  | .fneg c d a => some (fieldsD c 0x047 0 (dstCode d) (srcCode a) 0 0 0)
  | .fcmp c cd d a y => some (fieldsD c 0x048 0 (pdstCode d) (srcCode a) (srcCode y) 0 (condCode cd))
  | .frint c md d a => some (fieldsD c 0x049 ((0#2) ++ rmCode md) (dstCode d) (srcCode a) 0 0 0)
  | .dadd c md d a y => some (fieldsD c 0x080 ((0#2) ++ rmCode md) (dstCode d) (srcCode a) (srcCode y) 0 0)
  | .dsub c md d a y => some (fieldsD c 0x081 ((0#2) ++ rmCode md) (dstCode d) (srcCode a) (srcCode y) 0 0)
  | .dmul c md d a y => some (fieldsD c 0x082 ((0#2) ++ rmCode md) (dstCode d) (srcCode a) (srcCode y) 0 0)
  | .dfma c md d a y z => some (fieldsD c 0x083 ((0#2) ++ rmCode md) (dstCode d) (srcCode a) (srcCode y) (srcCode z) 0)
  | .dmin c d a y => some (fieldsD c 0x084 0 (dstCode d) (srcCode a) (srcCode y) 0 0)
  | .dmax c d a y => some (fieldsD c 0x085 0 (dstCode d) (srcCode a) (srcCode y) 0 0)
  | .dabs c d a => some (fieldsD c 0x086 0 (dstCode d) (srcCode a) 0 0 0)
  | .dneg c d a => some (fieldsD c 0x087 0 (dstCode d) (srcCode a) 0 0 0)
  | .dcmp c cd d a y => some (fieldsD c 0x088 0 (pdstCode d) (srcCode a) (srcCode y) 0 (condCode cd))
  | .cvt c md sat dt st d a =>
    some (fieldsD c 0x089 ((0#1) ++ bit1 sat ++ rmCode md) (dstCode d) (srcCode a) 0 0
      ((0#1) ++ cvtTyCode st ++ cvtTyCode dt))
  | .rcp c d a => some (fieldsD c 0x0C0 0 (dstCode d) (srcCode a) 0 0 0)
  | .rsq c d a => some (fieldsD c 0x0C1 0 (dstCode d) (srcCode a) 0 0 0)
  | .sqrt c d a => some (fieldsD c 0x0C2 0 (dstCode d) (srcCode a) 0 0 0)
  | .exp2 c d a => some (fieldsD c 0x0C3 0 (dstCode d) (srcCode a) 0 0 0)
  | .log2 c d a => some (fieldsD c 0x0C4 0 (dstCode d) (srcCode a) 0 0 0)
  | .sin c d a => some (fieldsD c 0x0C5 0 (dstCode d) (srcCode a) 0 0 0)
  | .cos c d a => some (fieldsD c 0x0C6 0 (dstCode d) (srcCode a) 0 0 0)
  | .rand c wide d k x => some (fieldsD c 0x0C7 ((0#3) ++ bit1 wide) (dstCode d) (srcCode k) (srcCode x) 0 0)
  | .pand c d a y => some (fieldsD c 0x100 0 (pdstCode d) (psrcCode11 a) (psrcCode11 y) 0 0)
  | .por c d a y => some (fieldsD c 0x101 0 (pdstCode d) (psrcCode11 a) (psrcCode11 y) 0 0)
  | .pxor c d a y => some (fieldsD c 0x102 0 (pdstCode d) (psrcCode11 a) (psrcCode11 y) 0 0)
  | .pandn c d a y => some (fieldsD c 0x103 0 (pdstCode d) (psrcCode11 a) (psrcCode11 y) 0 0)
  | .vote c m p =>
    match m with
    | .any d => some (fieldsD c 0x104 0 (pdstCode d) (psrcCode11 p) 0 0 0)
    | .all d => some (fieldsD c 0x104 1 (pdstCode d) (psrcCode11 p) 0 0 0)
    | .ballot d => some (fieldsD c 0x104 2 (dstCode d) (psrcCode11 p) 0 0 0)
  | .shfl c m wide d a y => some (fieldsD c 0x105 ((0#1) ++ bit1 wide ++ shflModeCode m) (dstCode d) (srcCode a) (srcCode y) 0 0)
  | .reduce c op d a => some (fieldsD c 0x106 (bandOpCode op) (dstCode d) (srcCode a) 0 0 0)
  | .scan c op d a => some (fieldsD c 0x107 (bandOpCode op) (dstCode d) (srcCode a) 0 0 0)
  | .sample c d vp w u => some (fieldsD c 0x108 0 (dstCode d) (srcCode w) (srcCode u) 0 (pdstCode vp))
  | .msplit c d dg bs r z => some (fieldsD c 0x109 0 (dstCode d) (srcCode dg) (srcCode bs) (srcCode r) (srcCode z))
  | .isect c d fd x bs l => some (fieldsD c 0x10A 0 (dstCode d) (srcCode x) (srcCode bs) (srcCode l) (pdstCode fd))
  | .lds c w sx o sc d a y =>
    some (fieldsD c 0x140 ((0#1) ++ bit1 sx ++ widthCode w) (dstCode d) (srcCode a) (srcCode y) 0 (memModCode 0 false sc o))
  | .sts c w o sc a y x =>
    some (fieldsD c 0x141 ((0#2) ++ widthCode w) 0 (srcCode a) (srcCode y) (srcCode x) (memModCode 0 false sc o))
  | .atos c wide op o sc d a x cmp =>
    some (fieldsD c 0x142 ((0#2) ++ wideCode wide) (dstCode d) (srcCode a) (srcCode x) (srcCode cmp)
      (memModCode (atomOpCode op) false sc o))
  | .gld c h wide o sc d a y =>
    some { fieldsD c 0x143 ((0#2) ++ wideCode wide) (dstCode d) (srcCode a) (srcCode y) 0 (memModCode 0 false sc o) with
      hint := hintCode h }
  | .gst c h wide mc o sc a y x =>
    some { fieldsD c 0x144 ((0#2) ++ wideCode wide) 0 (srcCode a) (srcCode y) (srcCode x) (memModCode 0 mc sc o) with
      hint := hintCode h }
  | .gatom c h wide op o sc d a x cmp =>
    some { fieldsD c 0x145 ((0#2) ++ wideCode wide) (dstCode d) (srcCode a) (srcCode x) (srcCode cmp)
      (memModCode (atomOpCode op) false sc o) with hint := hintCode h }
  | .gred c h wide mc op o sc a x =>
    some { fieldsD c 0x146 ((0#2) ++ wideCode wide) 0 (srcCode a) (srcCode x) 0 (memModCode (atomOpCode op) mc sc o) with
      hint := hintCode h }
  | .xfer c h out ch rb a bs st =>
    some { fieldsD c 0x147 ((0#3) ++ bit1 out) 0 (srcCode a) (srcCode bs) (srcCode st) (BitVec.ofNat 4 ch ++ BitVec.ofNat 7 rb)
      with hint := hintCode h }
  | .fence c o sc => some (fieldsD c 0x148 0 0 0 0 0 (memModCode 0 false sc o))
  | .tld c pt w sw d a y =>
    some (fieldsD c 0x180 ((0#1) ++ elemWCode w ++ portCode pt) (tileNo d) (srcCode a) (srcCode y) 0 (swizzleCode sw))
  | .tst c pt w sw a y t =>
    some (fieldsD c 0x181 ((0#1) ++ elemWCode w ++ portCode pt) 0 (srcCode a) (srcCode y) (tileNo t) (swizzleCode sw))
  | .tmov c pt w d a => some (fieldsD c 0x182 ((0#1) ++ elemWCode w ++ portCode pt) (tileNo d) (tileNo a) 0 0 0)
  | .tzero c d => some (fieldsD c 0x183 0 (tileNo d) 0 0 0 0)
  | .wld c a y l => some (fieldsD c 0x184 0 0 (srcCode a) (srcCode y) (srcCode l) 0)
  | .mma c pt d a y t fb => some (fieldsD c 0x185 ((0#3) ++ portCode pt) (tileNo d) (tileNo a) (srcCode y) (tileNo t) (sregCode fb))
  | .mmaPair c pt d a y t fb => some (fieldsD c 0x186 ((0#3) ++ portCode pt) (tileNo d) (tileNo a) (srcCode y) (tileNo t) (sregCode fb))
  | .prune c w k lg d a =>
    some (fieldsD c 0x187 ((0#1) ++ elemWCode w ++ 0#1) (tileNo d) (tileNo a) 0 0 ((0#2) ++ BitVec.ofNat 6 k ++ BitVec.ofNat 3 lg))
  | .become c v w => some (fieldsD c 0x1C0 0 0 (BitVec.ofNat 11 v) 0 0 (BitVec.ofNat 11 w))
  | .emit c a => some (fieldsD c 0x1C1 0 0 (srcCode a) 0 0 0)
  | .ltrap c code => some (fieldsD c 0x1C2 0 0 0 0 0 (BitVec.ofNat 11 code))
  | .bar c slot => some (fieldsD c 0x1C3 0 0 0 0 0 (BitVec.ofNat 11 slot))
  | .barn c n slot => some (fieldsD c 0x1C4 0 0 (srcCode n) 0 0 (BitVec.ofNat 11 slot))
  | .nop c => some (baseFields c 0x1C5 0)
  | _ => none

/-- Scalar fields from a register or predicate number. -/
def sF (r : SReg) : BitVec 6 := BitVec.ofNat 6 r.val
def qF (q : QReg) : BitVec 6 := BitVec.ofNat 6 q.val
def fmtSR (op : BitVec 7) (d a b : BitVec 6) (fn : BitVec 7) : ScalarFields := { op := op, d := d, a := a, b := b, fn := fn }
def fmtSI (op : BitVec 7) (d a : BitVec 6) (i : BitVec 13) : ScalarFields :=
  { op := op, d := d, a := a, b := i.extractLsb' 7 6, fn := i.extractLsb' 0 7 }
def fmtSL (op : BitVec 7) (d : BitVec 6) (i : BitVec 19) : ScalarFields :=
  { op := op, d := d, a := i.extractLsb' 13 6, b := i.extractLsb' 7 6, fn := i.extractLsb' 0 7 }
def fmtSB (op : BitVec 7) (q : QReg) (neg : Bool) (off : BitVec 20) : ScalarFields :=
  { op := op, d := BitVec.ofNat 4 q.val ++ bit1 neg ++ off.extractLsb' 19 1, a := off.extractLsb' 13 6,
    b := off.extractLsb' 7 6, fn := off.extractLsb' 0 7 }
def predImm (p : PSrc) : BitVec 13 := (0#5) ++ psrcCode p
def scondCode : SCond → BitVec 7
  | .eq => 0 | .ne => 1 | .lt => 2 | .ge => 3 | .ltu => 4 | .geu => 5
def waitCondCode : WaitCond → BitVec 2
  | .eq => 0 | .ne => 1 | .geu => 2 | .ltu => 3
def levelCode : LevelKind → BitVec 7
  | .launch => 0 | .graph => 1 | .phase => 2 | .job => 3

/-- Fields of each scalar instruction (R264); `none` for the others. -/
def scalarFieldsOf : Instr → Option ScalarFields
  | .aluAdd d a y => some (fmtSR 0x00 (sF d) (sF a) (sF y) 0x00)
  | .aluSub d a y => some (fmtSR 0x00 (sF d) (sF a) (sF y) 0x01)
  | .aluAnd d a y => some (fmtSR 0x00 (sF d) (sF a) (sF y) 0x02)
  | .aluOr d a y => some (fmtSR 0x00 (sF d) (sF a) (sF y) 0x03)
  | .aluXor d a y => some (fmtSR 0x00 (sF d) (sF a) (sF y) 0x04)
  | .aluSll d a y => some (fmtSR 0x00 (sF d) (sF a) (sF y) 0x05)
  | .aluSrl d a y => some (fmtSR 0x00 (sF d) (sF a) (sF y) 0x06)
  | .aluSra d a y => some (fmtSR 0x00 (sF d) (sF a) (sF y) 0x07)
  | .aluMul d a y => some (fmtSR 0x00 (sF d) (sF a) (sF y) 0x08)
  | .aluMulh d a y => some (fmtSR 0x00 (sF d) (sF a) (sF y) 0x09)
  | .aluMulhu d a y => some (fmtSR 0x00 (sF d) (sF a) (sF y) 0x0A)
  | .aluMin d a y => some (fmtSR 0x00 (sF d) (sF a) (sF y) 0x0B)
  | .aluMax d a y => some (fmtSR 0x00 (sF d) (sF a) (sF y) 0x0C)
  | .aluMinu d a y => some (fmtSR 0x00 (sF d) (sF a) (sF y) 0x0D)
  | .aluMaxu d a y => some (fmtSR 0x00 (sF d) (sF a) (sF y) 0x0E)
  | .addi d a i => some (fmtSI 0x01 (sF d) (sF a) i)
  | .andi d a i => some (fmtSI 0x02 (sF d) (sF a) i)
  | .ori d a i => some (fmtSI 0x03 (sF d) (sF a) i)
  | .xori d a i => some (fmtSI 0x04 (sF d) (sF a) i)
  | .slli d a k => some (fmtSI 0x05 (sF d) (sF a) (BitVec.ofNat 13 k))
  | .srli d a k => some (fmtSI 0x06 (sF d) (sF a) (BitVec.ofNat 13 k))
  | .srai d a k => some (fmtSI 0x07 (sF d) (sF a) (BitVec.ofNat 13 k))
  | .lui d i => some (fmtSL 0x08 (sF d) i)
  | .scmp c d a y => some (fmtSR 0x0A (qF d) (sF a) (sF y) (scondCode c))
  | .ssel d q neg a y => some (fmtSR 0x0B (sF d) (sF a) (sF y) ((0#2) ++ bit1 neg ++ BitVec.ofNat 4 q.val))
  | .qand d a y => some (fmtSR 0x0C (qF d) (qF a) (qF y) 0)
  | .qor d a y => some (fmtSR 0x0C (qF d) (qF a) (qF y) 1)
  | .qxor d a y => some (fmtSR 0x0C (qF d) (qF a) (qF y) 2)
  | .qandn d a y => some (fmtSR 0x0C (qF d) (qF a) (qF y) 3)
  | .b q neg off => some (fmtSB 0x10 q neg off)
  | .call q neg off => some (fmtSB 0x11 q neg off)
  | .jr a => some (fmtSR 0x12 0 (sF a) 0 0)
  | .callr a => some (fmtSR 0x13 0 (sF a) 0 0)
  | .run d i => some (fmtSL 0x14 (sF d) i)
  | .mpush p => some (fmtSI 0x18 0 0 (predImm p))
  | .melse => some (fmtSI 0x19 0 0 0)
  | .mpop => some (fmtSI 0x1A 0 0 0)
  | .sany d p => some (fmtSI 0x1C (qF d) 0 (predImm p))
  | .sall d p => some (fmtSI 0x1D (qF d) 0 (predImm p))
  | .spop d p => some (fmtSI 0x1E (sF d) 0 (predImm p))
  | .sfind d p => some (fmtSI 0x1F (sF d) 0 (predImm p))
  | .sred op d v => some (fmtSL 0x20 (sF d) (redOpCode op ++ (0#5) ++ BitVec.ofNat 11 v))
  | .ldk d a i => some (fmtSI 0x24 (sF d) (sF a) i)
  | .ldkN32 d a i => some (fmtSI 0x25 (sF d) (sF a) i)
  | .sldN8 d a i => some (fmtSI 0x28 (sF d) (sF a) i)
  | .sldN16 d a i => some (fmtSI 0x29 (sF d) (sF a) i)
  | .sldN32 d a i => some (fmtSI 0x2A (sF d) (sF a) i)
  | .sldB64 d a i => some (fmtSI 0x2B (sF d) (sF a) i)
  | .sstN8 d a i => some (fmtSI 0x2C (sF d) (sF a) i)
  | .sstN16 d a i => some (fmtSI 0x2D (sF d) (sF a) i)
  | .sstN32 d a i => some (fmtSI 0x2E (sF d) (sF a) i)
  | .sstB64 d a i => some (fmtSI 0x2F (sF d) (sF a) i)
  | .swait d a y wide c acq sc =>
    some (fmtSR 0x30 (sF d) (sF a) (sF y) (bit1 wide ++ waitCondCode c ++ bit1 acq ++ scopeCode sc))
  | .cpy a => some (fmtSR 0x34 0 (sF a) 0 0)
  | .bseal sc => some (fmtSI 0x35 0 0 ((0#10) ++ scopeCode sc))
  | .bwait d n => some (fmtSI 0x36 (sF d) 0 (BitVec.ofNat 13 n))
  | .launch d a => some (fmtSR 0x38 (sF d) (sF a) 0 0)
  | .lwait lv d a => some (fmtSR 0x39 (sF d) (sF a) 0 (levelCode lv))
  | .lstat lv d a => some (fmtSR 0x3A (sF d) (sF a) 0 (levelCode lv))
  | .lcancel lv a => some (fmtSR 0x3B 0 (sF a) 0 (levelCode lv))
  | .galloc d a => some (fmtSR 0x3C (sF d) (sF a) 0 0)
  | .gfree a => some (fmtSR 0x3D 0 (sF a) 0 0)
  | .flush d a ch => some (fmtSI 0x3E (sF d) (sF a) (BitVec.ofNat 13 ch))
  | .srd d n => some (fmtSI 0x40 (sF d) 0 n)
  | .swr n a => some (fmtSI 0x41 0 (sF a) n)
  | .trap i => some (fmtSL 0x44 0 i)
  | .tret => some (fmtSI 0x45 0 0 0)
  | .exit => some (fmtSI 0x46 0 0 0)
  | .isync => some (fmtSI 0x48 0 0 0)
  | .icinv a y sc => some (fmtSR 0x49 0 (sF a) (sF y) ((0#4) ++ scopeCode sc))
  | .tlbinv d a y glob sc => some (fmtSR 0x4A (sF d) (sF a) (sF y) ((0#1) ++ bit1 glob ++ (0#2) ++ scopeCode sc))
  | .tlbinvAsid d glob sc => some (fmtSR 0x4A (sF d) 0 0 ((0#1) ++ bit1 glob ++ (1#2) ++ scopeCode sc))
  | .tlbinvVf sc => some (fmtSR 0x4A 0 0 0 ((0#2) ++ (2#2) ++ scopeCode sc))
  | .tlbsync => some (fmtSI 0x4B 0 0 0)
  | .ptfence => some (fmtSI 0x4C 0 0 0)
  | .rngreg d a y => some (fmtSR 0x4D (sF d) (sF a) (sF y) 0)
  | _ => none

/-- The word of a scalar instruction. -/
def encodeScalar (i : Instr) : Option (BitVec 32) := (scalarFieldsOf i).map packScalar

/-- The 96-bit word of a lane instruction. -/
def encodeLane (i : Instr) : Option (BitVec 96) := (fieldsOf i).map packLane

/-! ### Bytes -/

/-- A little-endian number from bytes, the first byte least significant (R7). -/
def leNat : List Byte → Nat
  | [] => 0
  | x :: rest => x.toNat + 256 * leNat rest

/-- The `n` low bytes of a number, the least significant first (R7). -/
def leBytes : Nat → Nat → List Byte
  | 0, _ => []
  | n + 1, x => BitVec.ofNat 8 x :: leBytes n (x / 256)

/-- The twelve bytes of a lane word, byte 0 first. -/
def laneWordBytes (w : BitVec 96) : List Byte := leBytes 12 w.toNat

/-- The 12 presence bits of the header: bit k is 1 where byte k is not zero (R108). -/
def presence : List Byte → Nat
  | [] => 0
  | x :: rest => (if x = 0 then 0 else 1) + 2 * presence rest

/-- A lane instruction as the packed stream stores it: the header, then the bytes that are not zero (R108). -/
def packedBytes (w : BitVec 96) : List Byte :=
  let bytes := laneWordBytes w
  let kept := bytes.filter (· ≠ 0)
  leBytes 2 (presence bytes + 4096 * kept.length) ++ kept

/-- The code-format defects of a packed instruction (R108, R267, R383). -/
inductive PackError where
  | headerCount  -- the count in the header is not the number of presence bits that are 1
  | zeroByte     -- a byte marked present is zero
  deriving DecidableEq, Repr, Inhabited

/-- The number of presence bits that are 1 among the `k` lowest. -/
def presentCount : Nat → Nat → Nat
  | 0, _ => 0
  | k + 1, h => h % 2 + presentCount k (h / 2)

/-- The header's check (R108): its count [15:12] is the number of its presence bits. -/
def headerOk (h : Nat) : Bool := h / 4096 % 16 == presentCount 12 h

/-- Spread the stored bytes over the twelve byte places of a word, by the presence bits (R108). -/
def spreadBytes : Nat → Nat → List Byte → List Byte
  | 0, _, _ => []
  | k + 1, h, bs =>
    if h % 2 = 1 then
      match bs with
      | x :: rest => x :: spreadBytes k (h / 2) rest
      | [] => 0 :: spreadBytes k (h / 2) []
    else 0 :: spreadBytes k (h / 2) bs

/-- The lane word of a header and its stored bytes (R108). -/
def unpackBytes (h : Nat) (bs : List Byte) : Except PackError (BitVec 96) :=
  if !headerOk h then .error .headerCount
  else if bs.any (· == 0) then .error .zeroByte
  else .ok (BitVec.ofNat 96 (leNat (spreadBytes 12 h bs)))

/-- The bytes of an instruction as the hardware stores it: a scalar word little-endian, or a packed lane word. -/
def encode (i : Instr) : List Byte :=
  match encodeScalar i, encodeLane i with
  | some w, _ => leBytes 4 w.toNat
  | none, some w => packedBytes w
  | none, none => []

/-- The instruction read from the word of an opcode-table row: scalar words have 32 bits, lane words 96. -/
def decodeTableWord (nbits w : Nat) : Option Instr :=
  if nbits ≤ 32 then (decodeScalar (BitVec.ofNat 32 w)).toOption
  else (decodeLane (BitVec.ofNat 96 w)).toOption

end Sys2Proof
end

