-- ==== Sys2Proof/Machine/State.lean ====
section
/-! DEFINITION. The state of one Torvy device as plain data, and the state after reset (R5 and the state chapters).

Every table of the part that is indexed by an unbounded or sparse key is a `Table`, a list of key and value pairs with
rising keys. A context's key is vf * 65536 + asid; a launch's is context * 2^32 + identity; a block's is launch * 2^32 +
linear index; a team's is block * 16 + team index. A core's key is its device-wide number (R14). -/

namespace Sys2Proof.Machine

/-- A memory: the bytes that differ from what an unlisted address reads as, by rising address. -/
abbrev Memory := List Host.Cell

/-- A sparse table: rising keys. -/
abbrev Table (α : Type) := List (Nat × α)

/-! ### Lanes and teams -/

/-- The registers of one lane position (R61, R64, R71). -/
structure Lane where
  regs : List Word32 := []
  preds : BitVec 96 := 0
  key : Word64 := 0
  depth : Nat := 0
  ord : BitVec 16 := 0
  seq : Word32 := 0
  deriving DecidableEq, Repr, Inhabited

/-- What a lane instruction writes in a lane: a lane register or a predicate. -/
inductive WReg where
  | v (n : Nat)
  | p (n : Nat)
  deriving DecidableEq, Repr, Inhabited

/-- One value on its way to one lane; a predicate takes the low bit. -/
structure LaneWrite where
  pos : Nat
  reg : WReg
  val : Word32
  deriving DecidableEq, Repr, Inhabited

/-- The result of a fixed-latency instruction of the granted run: readable from time `due` of the run (R39). -/
structure Pend where
  due : Nat
  dsts : List WReg
  writes : List LaneWrite
  deriving DecidableEq, Repr, Inhabited

/-- A run in the run queue (R34), with the scalar registers it sees (R35). It starts at `start` and goes on at `addr`: `done`
instructions of it have retired and raised the tokens of `raised`. `waited` counts the grants made while it was ready, and
`readyAt` is the clock at which it was first found ready (R37). -/
structure RunEntry where
  addr : Word64 := 0
  start : Word64 := 0
  readyAt : Option Word64 := none
  sregs : Vector Word64 64 := Vector.replicate 64 0
  done : Nat := 0
  raised : BitVec 3 := 0
  waited : Nat := 0
  no : Nat := 0                          -- which of the team's runs it is, in the order of `RUN`
  deriving DecidableEq, Repr, Inhabited

/-- The granted run of a team: its datapath, `LPC`, the instructions retired, the time in core cycles since the grant
(R39), the `FTV` read at the grant (R81) and the results not yet readable. -/
structure Active where
  run : RunEntry := {}
  dp : Nat := 0
  lpc : Word64 := 0
  count : Nat := 0
  time : Nat := 0
  ftv : Nat := 0
  pend : List Pend := []
  finished : Bool := false                 -- its last instruction has issued
  deriving DecidableEq, Repr, Inhabited

/-- What must hold before an unfinished variable-latency instruction can complete (R337, R356). -/
inductive Until where
  | any                                       -- nothing more
  | barrier (slot : Nat)                      -- the open instance of the slot (R379)
  | wld (uid src dst len : Nat) (held : Option (List Nat))   -- the fill's lock number, source, destination, length, and the 4 KiB pieces held in a refresh window, none until its reads reach the store (R98, R364)
  | ltrap                                     -- an `LTRAP`: completes with its trap entry (R356)
  | settlement                                -- a `BECOME`: completes with its settlement (R356)
  | array (cores : List Nat) (ranges : List (Nat × Nat))   -- the matrix arrays held, the buffer ranges read (R365, R373)
  deriving DecidableEq, Repr, Inhabited

/-- A variable-latency instruction of the team that has issued and not completed (R41): the token it raised (0 for none),
its pending destinations and the values it will write. -/
structure Inflight where
  n : Nat
  tok : Nat := 0
  dsts : List WReg := []
  tiles : List Nat := []
  writes : List LaneWrite := []
  until_ : Until := .any
  deriving DecidableEq, Repr, Inhabited

/-- What one lane of a global access does when it performs (R346 to R349). -/
inductive LaneAct where
  | read (d : Dst)
  | write (x : Nat)
  | atom (op : AtomOp) (x cmp : Nat) (d : Dst)
  deriving DecidableEq, Repr, Inhabited

/-- The access of one lane of a global instruction that has issued and has not performed (R198, R199): its instruction by team
and number, the lane position, the virtual address and width, the physical address, tier and device, the keys of the copies it
touches, and the core that issued it. `page` is the log2 of the size of the page through which it was translated (R168). `awaited` says
that the instruction completes only when the access has performed (R337); `doomed` that its target rejects it, so that it never performs
(R220); `shared` that a barrier places it before what the other teams of its block do next (R209); `strong` that no later lane instruction
of its team issues before it has performed (R205); `spad` of a scratchpad atomic the core index and offset of its bytes (R345). -/
structure LaneOp where
  team : Nat
  ins : Nat
  pos : Nat
  va : Nat
  bytes : Nat
  pa : Nat
  tier : Nat
  dev : Nat
  keys : List Nat
  core : Nat
  act : LaneAct
  awaited : Bool
  page : Nat := 12
  doomed : Bool := false
  shared : Bool := false
  strong : Bool := false
  spad : Option (Nat × Nat) := none
  deriving DecidableEq, Repr, Inhabited

/-- A trap about to be entered (R84, R384): cause and detail, `TRAPADDR`, the handler's mask and the lane reported, the
stream, and the fetch fields. -/
structure Trap where
  cause : Nat
  detail : Nat := 0
  addr : Word64 := 0
  lanes : MaskBits := 0
  lane : Nat := 0
  scalar : Bool := false
  straddle : Bool := false
  fbyte : Nat := 0
  cmd : Option Nat := none               -- the command held at an engine page fault (R142)
  deriving DecidableEq, Repr, Inhabited

/-- The trap return state and the trap mask save (R70, R384). -/
structure TrapReturn where
  mask : MaskBits
  spc : Word64
  resume : Word64
  aside : List RunEntry
  cmd : Option Nat                       -- the command that `TRET` lets its channel resume (R142)
  deriving DecidableEq, Repr, Inhabited

/-- A yard record (R151). -/
structure YardRec where
  key : Word64
  depth : Nat
  width : Nat
  count : Nat
  seq : Word32
  regs : List Word32
  preds : BitVec 96
  deriving DecidableEq, Repr, Inhabited

/-- An entry of the ordered-output buffer (R45, R153). -/
structure EmitEntry where
  key : Word64
  seq : Word32
  val : Word32
  deriving DecidableEq, Repr, Inhabited

/-- A sealed batch (R148): its number, its scope and the commands sealed. -/
structure Batch where
  num : BitVec 32
  scope : Scope
  cmds : List Nat
  deriving DecidableEq, Repr, Inhabited

/-- A `BECOME` that has issued (R43, R375): its width, the count read in each executing lane, and the run that replays it. -/
structure Settle where
  width : Nat
  counts : List (Nat × Nat)
  run : RunEntry
  deriving DecidableEq, Repr, Inhabited

/-- A shoot-down sent and not yet acknowledged by every device (R214): devices still to acknowledge, and when sent. -/
structure Shoot where
  uid : Nat
  await : List Nat
  since : Word64
  deriving DecidableEq, Repr, Inhabited

/-- A granule of an instruction cache (R109): the stream, the context, the virtual address and the bytes it was filled
with. -/
structure Granule where
  lane : Bool
  ctx : Nat
  va : Nat
  bytes : List Byte
  deriving DecidableEq, Repr, Inhabited

/-- A range-lock entry (R170): word 0 `lo`, word 1 `hi`, and the controls. `start` is word 0 as registered, since writes
are refused everywhere in a destination entry (R173); `uid` names the operation that holds it. -/
structure Lock where
  start : Nat
  lo : Nat
  hi : Nat
  space : Nat
  dest : Bool
  ptr : Bool
  engine : Nat
  chan : Nat
  team : Nat
  asid : Nat
  slot : Nat
  uid : Nat
  deriving DecidableEq, Repr, Inhabited

/-- What a class 6 instruction waits for at issue (R356): range locks that conflict with the entries of each core, room for
them where it would register them, a `WLD` the matrix operations that read its destination, and the matrix arrays. -/
structure Park where
  locks : List (Nat × Lock) := []
  register : Bool := false
  range : Option (Nat × Nat) := none
  arrays : List Nat := []
  deriving DecidableEq, Repr, Inhabited

/-- One team (R60 to R85). -/
structure Team where
  core : Nat := 0                        -- device-wide number of its core
  spc : Word64 := 0
  sregs : Vector Word64 64 := Vector.replicate 64 0
  qregs : BitVec 16 := 0
  lanes : List Lane := []
  mask : MaskBits := 0
  stack : List (MaskBits × MaskBits) := []
  nlive : Nat := 0
  sup : Bool := false
  keep : Bool := false
  stallchk : Bool := false
  wsSel : BitVec 4 := 0
  trapInfo : Word64 := 0
  trapAddr : Word64 := 0
  trapRet : Option TrapReturn := none
  runs : List RunEntry := []
  active : Option Active := none
  inflight : List Inflight := []
  nextRun : Nat := 0                     -- number of the next run
  nextIns : Nat := 0                     -- number of the next variable-latency instruction
  t1 : BitVec 6 := 0
  t2 : BitVec 6 := 0
  t3 : BitVec 6 := 0
  cmds : List Nat := []                  -- commands issued and not completed
  failed : List (Nat × Nat) := []        -- failed commands with their status (R150)
  unsealed : List Nat := []
  sealed : List Batch := []
  nSealed : BitVec 32 := 0
  nFinished : BitVec 32 := 0
  failRec : Word64 := 0
  yard : List YardRec := []
  emitBuf : List EmitEntry := []
  settling : Option Settle := none
  ltrap : Option Trap := none            -- an `LTRAP` due at the boundary (R378)
  heldTrap : Option Trap := none         -- a trap held in a provisional block or through a save (R54, R394)
  escalated : Option Trap := none        -- waiting for the tenant core (R387)
  raisedAt : Word64 := 0                 -- the clock at which it was raised (R401)
  raisedNo : Nat := 0                    -- its place in the order in which faults were raised (R402)
  arrived : Option Nat := none           -- barrier slot whose instance is open (R380)
  hold : Option Word64 := none           -- migration hold: the clock at which it began (R166)
  rewalk : Bool := true                  -- the held access may walk again (R166)
  holdTrap : Option Trap := none         -- the trap that the held access raises past the migration limit (R166)
  polling : Bool := false                -- an SWAIT has made its first poll (R285)
  shoots : List Shoot := []
  icinv : Option Shoot := none           -- an `ICINV` that other devices have still to answer (R299)
  gated : Bool := false                  -- stalled at a commit gate (R54)
  saved : Bool := false                  -- saved by a pre-emption (R393)
  paused : Word64 := 0                   -- the clock at which its watchdog stopped, while it is gated or saved (R389)
  held : Bool := false                   -- its run is held at issue (R302, R337, R356)
  progress : Word64 := 0                 -- the clock at the last progress the watchdog counts (R389)
  cancelDue : Bool := false              -- its own LCANCEL has cancelled it (R291)
  waited : Option Word64 := none         -- the clock at which its `WLD` began to wait at issue (R172, R194)
  parked : Option Park := none           -- why its run waits at issue outside the grant (R356)
  expanded : List Granule := []          -- code that `ICINV` discarded from the caches and the team may still hold (R222)
  ended : Bool := false
  deriving DecidableEq, Repr, Inhabited

/-! ### Copies -/

/-- What a command of a channel does (R144, R294, R352). -/
inductive CmdBody where
  | copy (w0 w1 w2 w3 : Word64)
  | xfer (out : Bool) (hint : BitVec 2) (rb : Nat) (rows : List (Nat × Nat)) (lo hi glo ghi : Nat)
  | flush (addr : Word64) (vals : List Word32)
  deriving DecidableEq, Repr, Inhabited

/-- A command of a channel: its number in its team, its team, the supervisor state it translates in, a device-wide
number that its locks carry, and its body. -/
structure Cmd where
  id : Nat
  team : Nat
  sup : Bool
  uid : Nat
  after : List Nat                       -- runs of the team enqueued before it (R172, R270)
  body : CmdBody
  deriving DecidableEq, Repr, Inhabited

/-- Progress of the entropy decoder (R147): the next stream bit, copies still to write of the current value, bits decoded
and not yet written, and the decode table read at issue. -/
structure Decoder where
  bit : Nat := 0
  rep : Nat := 0
  val : Nat := 0
  buf : Nat := 0
  have_ : Nat := 0
  table : List Nat := []
  deriving DecidableEq, Repr, Inhabited

/-- The page that an engine is working in on one side: it translates each page once and walks again at the next (R217). -/
structure UnitXl where
  unit : Nat                             -- virtual address divided by 4096
  pa : Nat                               -- physical address of the unit
  tier : Nat
  dev : Nat
  mc : Bool
  bits : Nat := 12                       -- log2 of the size of the page that holds the unit (R168)
  deriving DecidableEq, Repr, Inhabited

/-- The progress of a command that has issued (R139): bytes completed, the index list read, the decoder, the page fault it is
held at (R142), the clock at which it met a migrating page, the address, whether by a write, and whether it may walk again
(R166), the bank group (die * 16 + group) whose refresh window holds its read (R98), the pages in which it reads and writes
(R217); of a collective the clock of the last acceptance, the bytes accepted, the sizes of the pieces that another device has still to
accept, and whether every piece has been sent (R154, R156). -/
structure Issue where
  done : Nat := 0
  index : List Nat := []
  dec : Decoder := {}
  held : Option (Nat × Word64) := none
  migr : Option Word64 := none
  migrAddr : Word64 := 0
  migrWrite : Bool := false
  rewalk : Bool := true
  piece : Option Nat := none
  rd : Option UnitXl := none
  wr : Option UnitXl := none
  since : Word64 := 0
  accepted : Nat := 0
  flight : List Nat := []
  sent : Bool := false
  deriving DecidableEq, Repr, Inhabited

/-- A copy channel (R136, R138). -/
structure Chan where
  queue : List Cmd := []                 -- commands that have not issued, the head first
  issued : List (Cmd × Issue) := []      -- commands that have issued and not completed, in order: the first moves its bytes (R139)
  wptr : Word64 := 0
  waiting : Option Word64 := none        -- the clock at which the head command began to wait at issue (R172, R194)
  locks : List (Nat × Lock) := []        -- entries of its commands while the block is saved, by core index (R174, R395)
  deriving DecidableEq, Repr, Inhabited

/-! ### Blocks -/

/-- What a block holds on one of its cores (R46, R86): the core, its slot, scratchpad, tiles, weight buffer, channels. -/
structure Share where
  core : Nat
  slot : Nat
  scratch : Memory := []
  tiles : List Memory := []
  wbuf : Memory := []
  chans : List Chan := []
  deriving DecidableEq, Repr, Inhabited

/-- A barrier slot (R379): the kind of the open instance (`some none` all teams, `some (some n)` n teams), arrivals. -/
structure Barrier where
  kind : Option (Option Nat) := none
  arrivals : List Nat := []
  deriving DecidableEq, Repr, Inhabited

/-- Where a block stands (R393, R395). -/
inductive BlockState where
  | running
  | saved
  deriving DecidableEq, Repr, Inhabited

/-- One block. -/
structure Block where
  st : BlockState := .running
  prov : Bool := false
  shares : List Share := []
  bars : List Barrier := []
  place : List Nat := []                 -- core index of each team (R46)
  saveDue : Bool := false
  squashDue : Bool := false
  ending : Option Nat := none            -- cause that ends the block: cancel or watchdog
  taker : Nat := 0                       -- the core that took its ticket (R59, R179)
  startNo : Nat := 0                     -- start number on that core in the context (R179)
  deriving DecidableEq, Repr, Inhabited

/-! ### Launches and jobs -/

/-- A completion counter (R187). -/
structure Counter where
  status : Nat := 0
  known : Bool := true
  expected : Nat := 0
  done : Nat := 0
  failed : Nat := 0
  cancelAt : Option Word64 := none       -- a cancel at this clock that has ended no member yet: a completion in the same cycle wins (R189)
  deriving DecidableEq, Repr, Inhabited

/-- A ticket counter (R185). -/
structure Ticket where
  next : Nat := 0
  stop : Nat := 0
  deriving DecidableEq, Repr, Inhabited

/-- A kernel, as its image declares it (R413). -/
structure Kernel where
  scalarBase : Nat := 0                  -- virtual addresses of the code sections
  laneBase : Nat := 0
  lanes : Nat := 1                       -- L
  live : Nat := 1                        -- L0
  regs : Nat := 8                        -- G
  teams : Nat := 1
  tiles : Nat := 0                       -- T
  scratch : Nat := 0                     -- S
  yard : Nat := 0                        -- K
  emit : Nat := 0                        -- E
  chans : Nat := 0
  paired : Bool := false
  wsAccess : Bool := false
  wbuf : Nat := 0                        -- B in bytes
  deriving DecidableEq, Repr, Inhabited

/-- The predicted shape of a launch (R52 to R55). -/
structure Shape where
  word : Word64
  phys : Nat := 0                        -- physical key watched
  xmax : Nat
  hint : Nat
  site : Nat
  stable : List (Nat × Nat)
  pred : Nat := 0                        -- P
  ext : Option Nat := none               -- E once published
  extNo : Nat := 0                       -- the place of the publishing write among those of all launches (R176)
  watching : Bool := false
  deriving DecidableEq, Repr, Inhabited

/-- A random range (R182). -/
structure RngEntry where
  key : Word64
  first : Word64
  count : Word64
  launch : Nat
  deriving DecidableEq, Repr, Inhabited

/-- Where a launch stands. -/
inductive LaunchState where
  | pending
  | started
  | ended
  | failed                               -- its context has ended (R398)
  deriving DecidableEq, Repr, Inhabited

/-- One launch (R47 to R56, R289). -/
structure Launch where
  kernel : Kernel := {}
  arg : Nat := 0
  image : Word64 := 0
  x : Nat := 1
  y : Nat := 1
  z : Nat := 1
  prio : Nat := 0
  wsWrite : Bool := false
  shape : Option Shape := none
  refused : Bool := false
  device : Bool := false                 -- made by LAUNCH
  job : Nat := 0
  phase : Nat := 0
  graph : Nat := 0
  deps : List Nat := []                  -- identities it depends on
  st : LaunchState := .pending
  started : Word64 := 0                  -- CLOCK at its start (R37)
  hold : Option Word64 := none           -- the clock at which its shape word met a migrating page (R53, R166)
  rewalk : Bool := true                  -- its held read may walk again (R166)
  tickets : List Ticket := []
  tail : List Ticket := []
  ctr : Counter := {}
  window : Memory := []
  mask : BitVec 96 := 0                  -- core mask
  rngHeld : List (Nat × RngEntry) := []  -- ranges of provisional blocks (R183), by block index
  deriving DecidableEq, Repr, Inhabited

/-- A graph, a phase and a job, with their members in order (R48, R410). -/
structure Graph where
  ctr : Counter := {}
  launches : List Nat := []
  deriving DecidableEq, Repr, Inhabited
structure Phase where
  ctr : Counter := {}
  graphs : List Graph := []
  deriving DecidableEq, Repr, Inhabited
structure Job where
  ctr : Counter := {}
  phases : List Phase := []
  ctx : Nat := 0
  queue : Nat := 0
  tag : Word64 := 0
  compl : Word64 := 0
  posted : Bool := false
  hold : Option Word64 := none           -- the clock at which its completion record met a migrating page (R166)
  deriving DecidableEq, Repr, Inhabited

/-! ### Contexts -/

/-- Free, record or replay (R57). -/
inductive CtxMode where
  | free
  | record
  | replay
  deriving DecidableEq, Repr, Inhabited

/-- A live allocation of `GALLOC` (R292). Its launch has completed where it is `due` back and waits for range locks (R293). -/
structure Alloc where
  base : Nat
  pages : List Nat
  launch : Nat
  block : Nat
  due : Bool := false
  deriving DecidableEq, Repr, Inhabited

/-- A fault record of the dump (R402), with the clock at which the fault was raised and its place in the order raised. -/
structure FaultRec where
  info : Word64
  addr : Word64
  launch : Nat
  block : Nat
  core : Nat
  team : Nat
  clock : Word64
  no : Nat
  deriving DecidableEq, Repr, Inhabited

/-- A multicast group (R412, R421). -/
structure McGroup where
  num : Nat
  members : List Nat
  deriving DecidableEq, Repr, Inhabited

/-- One context (R25, R412). -/
structure Ctx where
  root : Word64 := 0
  trapBase : Word64 := 0
  ftv : BitVec 32 := 0
  mode : CtxMode := .free
  saveBase : Word64 := 0
  saveSize : Word64 := 0
  dumpBase : Word64 := 0
  dumpSize : Word64 := 0
  traceBuf : Word64 := 0
  spoorBuf : Word64 := 0
  regions : List (Nat × Nat) := []       -- base, lines (R177)
  groups : List McGroup := []
  reserve : List Nat := []               -- physical pages of the pool reserve (R392)
  own : List Nat := []                   -- every page that firmware has handed out to the context (R390)
  ws : List (Nat × Nat) := []            -- base and size of the weight-store region of each die (R96)
  rng : List RngEntry := []
  rngOver : BitVec 32 := 0
  nextLaunch : Nat := 0
  allocs : List Alloc := []
  faults : List FaultRec := []
  failed : Bool := false                 -- ended by a fatal fault (R398)
  starts : Table Nat := []               -- start number of each core (R179)
  requests : Table Nat := []             -- ordered requests of each requester at each unit (R180)
  spoorPos : Table Nat := []              -- records of the spoor log used up at each unit, in replay (R59)
  deriving DecidableEq, Repr, Inhabited

/-! ### Cores -/

/-- A TLB entry (R167), with the leaf it was filled from (R165). -/
structure TlbEntry where
  vf : Nat
  asid : Nat
  glob : Bool
  page : Nat                             -- virtual address of the page
  bits : Nat                             -- log2 of its size
  pa : Nat                               -- physical address of the page
  tier : Nat
  dev : Nat
  write : Bool
  code : Bool
  sup : Bool
  mc : Bool
  dirty : Bool
  leaf : Nat                             -- physical address of the leaf entry
  leafVal : Word64                       -- its value when the walk read it
  deriving DecidableEq, Repr, Inhabited

/-- A walk-cache entry (R167): the table of level `level` for the virtual addresses with high bits `tag`. -/
structure WalkEntry where
  vf : Nat
  asid : Nat
  level : Nat
  tag : Nat
  table : Nat
  deriving DecidableEq, Repr, Inhabited

/-- One core. -/
structure Core where
  tlb : List TlbEntry := []              -- most recently used first
  walk : List WalkEntry := []
  locks : Table Lock := []
  slots : Table Nat := []                -- block key in each slot (R60)
  icache : List Granule := []
  dps : Table Nat := []                  -- team granted on each band datapath (R37)
  arrayBusy : Option Nat := none         -- team whose operation holds the matrix array (R373)
  arrayQ : List Nat := []                -- teams waiting for the array, in order
  deriving DecidableEq, Repr, Inhabited

/-! ### The device -/

/-- The settings of a virtual function (R414, R415). Times in microseconds, the allotment in GiB. -/
structure Settings where
  stall : Nat := 10000
  shoot : Nat := 2000
  migrate : Nat := 1000
  watchdog : Nat := 100000
  cmin : Nat := 0
  cmax : Nat := 64
  weight : Nat := 1
  allot : Nat := 32
  deriving DecidableEq, Repr, Inhabited

/-- A job queue register (R157). -/
structure JobQueue where
  sticky : Word32 := 0
  tail : BitVec 16 := 0
  head : BitVec 16 := 0
  size : BitVec 5 := 0
  base : BitVec 58 := 0
  hold : Option Word64 := none           -- the clock at which the entry at its head met a migrating page (R166)
  deriving DecidableEq, Repr, Inhabited

/-- An event as posted (R158). -/
structure Event where
  code : Nat
  queue : Nat := 0
  ctx : Nat := 0
  detail : Word64 := 0
  info : Word64 := 0                     -- `TRAPINFO` of a watchdog event, for which a ring entry has no field (R158, R389, R411)
  deriving DecidableEq, Repr, Inhabited

/-- One virtual function (R405, R406). -/
structure VFun where
  port : Nat := 0
  set : Settings := {}
  past : List (Word64 × Settings) := []  -- earlier settings, each with the clock at which it was replaced, in order (R414)
  ringBase : Word64 := 0
  ringHeader : Word64 := 0
  ringSize : Word64 := 0
  ringHead : Word64 := 0
  ringTail : Word32 := 0
  queues : List JobQueue := List.replicate 64 {}
  events : List Event := []              -- every event posted into the ring, in order
  irqs : Nat := 0                        -- event interrupts raised
  live : Nat := 0                        -- contexts created and not destroyed
  deriving DecidableEq, Repr, Inhabited

/-- Host interfaces (R20, R404). -/
inductive Iface where
  | pcie5
  | pcie6
  | pcie7
  | cxl2
  | cxl3
  deriving DecidableEq, Repr, Inhabited

/-- A pool region register (R418). -/
structure PoolRegion where
  window : Nat := 0
  port : Bool := false
  st : Nat := 0
  cmd : Nat := 0                         -- command written and not yet acted on
  base : Nat := 0                        -- fabric base, in GiB
  size : Nat := 0                        -- GiB
  deriving DecidableEq, Repr, Inhabited

/-- An entry of the Oryx table (R175). -/
structure OryxEntry where
  vf : Nat
  site : Nat
  last : Nat
  stride : Int
  deriving DecidableEq, Repr, Inhabited

/-- A staged collective reduction (R155). -/
structure Reduction where
  vf : Nat
  asid : Nat
  base : Word64
  len : Nat
  parts : Nat
  op : Nat
  exact : Bool
  format : Nat
  pieces : List Piece
  came : List Nat := []                  -- ranks of which a piece has been accepted
  locals : List Nat                      -- commands of this device that take part and have not been told how it ended
  far : List (Nat × Nat) := []           -- device and rank of the participants of other devices that have not been told
  failed : Nat                           -- the status with which it has failed, or 0
  deriving DecidableEq, Repr, Inhabited

/-- The answer to an SPDM request (R424). -/
inductive SpdmReply where
  | version
  | capabilities
  | algorithms
  | digests (d : BitVec 384)
  | certificate (c : List Byte)
  | challenge (nonce : BitVec 256) (sig : BitVec 768)
  | measurements (nonce : BitVec 256) (regs : List (BitVec 384)) (sig : BitVec 768)
  deriving DecidableEq, Repr, Inhabited

/-- A shoot-down under way (R168, R214): form 0 range, 1 identifier, 2 virtual function; `origin` is the device that sent it,
none for this one; `spans` are the pages of the entries that it has removed here. -/
structure TlbInv where
  uid : Nat
  origin : Option Nat := none
  team : Nat
  vf : Nat
  form : Nat
  asid : Nat
  lo : Nat
  hi : Nat
  glob : Bool
  devs : List Nat                        -- devices it has not arrived at
  waiting : Bool                         -- arrived here, acknowledgement withheld for accesses and range locks
  spans : List (Nat × Nat) := []
  deriving DecidableEq, Repr, Inhabited

/-- What this device tells other agents (R154, R155, R168, R299, R405): a piece accepted, the status of a reduction for the
participants of another device, a shoot-down or an `ICINV` answered, and the value that an access returns. -/
inductive Notice where
  | accepted (p : Piece)
  | reduced (dev vf asid : Nat) (base : Word64) (len rank status : Nat)
  | shot (dev uid : Nat)
  | discarded (dev uid : Nat)
  | value (bytes : List Byte)
  deriving DecidableEq, Repr, Inhabited

/-- The turn of one agent: which move the machine makes next. A lane turn says in what order the lanes of a global access
perform, and which of them perform later (R199). -/
inductive Turn where
  | scalar (team : Nat)
  | lane (team : Nat) (order : List Nat := []) (later : List Nat := [])
  | event (i : Instr)
  | perform (team ins pos : Nat)         -- one lane of a global access performs (R198)
  | reject (team ins pos copy : Nat)     -- the target of one copy of a write rejects it (R220, R350)
  | hostMem (port addr : Nat) (bytes : List Byte)
  | peerMem (dev addr : Nat) (bytes : List Byte)   -- another device's team, or its host, has written its local memory (R212)
  | softError (memory : Nat)             -- a corrected soft error in a kind of memory (R111)
  | clearErrors (memory : Nat)           -- the host clears the count of a kind of memory (R184, R197)
  | pieceArrival (p : Piece)             -- a piece of another device takes its credits (R136)
  | pieceAccepted (uid : Nat)            -- another device accepts the next piece of a command of this one (R154)
  | reductionEnd (uid status : Nat)      -- the reduction of another device ends for a command of this one (R155)
  | reductionStall (vf asid : Nat) (base : Word64) (len : Nat)   -- a participant of another device stalls (R156)
  | farCredits (dev vf queue taken : Nat)   -- credits that other senders hold of a landing queue of another device (R136)
  | peerShoot (x : TlbInv)               -- a shoot-down of another device (R214)
  | peerIcinv (dev uid addr len : Nat)   -- an `ICINV` of another device (R299)
  | icinvAnswer (dev uid : Nat)          -- another device has discarded what an `ICINV` names (R299)
  | peerReset (dev : Nat)                -- another device has been reset (R420)
  | completion (job : Nat)               -- a completion record held on a migrating page is tried again (R166, R409)
  | retraction                           -- an allocation whose launch has completed goes back (R292)
  | startUp                              -- the next step of the part's own start-up (R426)
  | enableVfs (pf : Nat)                 -- the host enables SR-IOV on a physical function (R426)
  deriving DecidableEq, Repr, Inhabited

/-- The whole device. -/
structure State where
  clock : Word64
  perDie : Nat                           -- enabled cores of each die (R1)
  module : Bool                          -- form (R1)
  devNumber : Word64
  bootStatus : Word64
  bootStep : Nat                         -- start-up steps done (R426)
  sriov : BitVec 2                       -- physical functions whose virtual functions are enabled (R426)
  measure : List (BitVec 384)
  measureLocked : Bool
  spdmOut : List SpdmReply
  ifaces : List Iface                    -- the two host ports
  limiting : Bool
  limiterCount : Word64
  routeAddr : Word64
  routePort : Nat                        -- port of the last routing command
  routeLoading : Bool
  routeRefused : Bool
  routes : List (BitVec 16)
  linkDown : BitVec 16
  misses : List Nat
  heartbeats : List Nat
  fenced : List Nat
  returned : List Nat                    -- devices that have been reset since they were fenced off (R420)
  isolated : Bool
  noticesOut : List Nat
  pool : List PoolRegion
  oryx : Table OryxEntry
  corrected : List (BitVec 32)           -- by memory kind of R111
  perf : Table Word64                    -- (core * 16 + virtual function) * 32 + counter
  mem : Memory                           -- global memory of every tier, by physical key
  wstore : Memory                        -- weight store, die * 2^29 + offset
  credits : Table Nat                    -- landing-queue credits taken, vf * 16 + queue
  landing : List (Piece × Option Nat)    -- pieces that have arrived and are not accepted, with the command of this device that sent them
  farCredits : Table Nat                 -- credits that this device holds at others, (dev * 16 + vf) * 16 + queue
  farOthers : Table Nat                  -- credits that other senders hold there
  reductions : List Reduction
  sendsOut : List (Nat × Piece)          -- pieces sent, with the target device
  vfs : List VFun
  ctxs : Table Ctx
  launches : Table Launch
  blocks : Table Block
  teams : Table Team
  jobs : Table Job
  cores : Table Core
  ops : List LaneOp                      -- lanes of global accesses that have not performed, in the order of issue (R198)
  tlbinvs : List TlbInv                  -- shoot-downs not yet arrived at this device
  outbox : List Notice                   -- what other agents have been told
  -- the model's own fields
  uids : Nat                             -- next device-wide operation number
  fresh : Nat                            -- index of the next free value
  laneOrder : List Nat                   -- order in which the lanes of the next global access perform, as its turn says
  laneLater : List Nat                   -- lanes of it that perform later
  cur : Nat                              -- team whose stream moves
  agenda : List Turn                     -- turns still to come
  deriving DecidableEq, Repr, Inhabited

/-- Why a step may stop with a fault. -/
inductive Fault where
  /-- Raised by the accesses to global memory when a translation names a physical address that no memory of the part
  has (R17: 512 GiB of local device memory). The spec gives no behaviour for it. Safe: the model stops. -/
  | noSuchMemory
  deriving DecidableEq, Repr

/-- Why a step may have no meaning. -/
inductive Refusal where
  /-- Raised by the arm of an instruction that has no meaning yet. Safe: the model stops. -/
  | notModelled (mnemonic : String)
  deriving DecidableEq, Repr

/-- The device right after reset (R184, R406, R408, R424, R426, DESIGN CHOICE, log 4). -/
def State.reset : State where
  clock := 0
  perDie := 24
  module := false
  devNumber := 0
  bootStatus := 0
  bootStep := 0
  sriov := 0
  measure := List.replicate 8 0
  measureLocked := false
  spdmOut := []
  ifaces := [.pcie5, .pcie5]
  limiting := false
  limiterCount := 0
  routeAddr := 0
  routePort := 0
  routeLoading := false
  routeRefused := false
  routes := []
  linkDown := 0
  misses := List.replicate 16 0
  heartbeats := List.replicate 16 0
  fenced := []
  returned := []
  isolated := false
  noticesOut := []
  pool := List.replicate 64 {}
  oryx := []
  corrected := List.replicate 8 0
  perf := []
  mem := []
  wstore := []
  credits := []
  landing := []
  farCredits := []
  farOthers := []
  reductions := []
  sendsOut := []
  vfs := List.replicate 16 {}
  ctxs := []
  launches := []
  blocks := []
  teams := []
  jobs := []
  cores := []
  ops := []
  tlbinvs := []
  outbox := []
  uids := 0
  fresh := 0
  laneOrder := []
  laneLater := []
  cur := 0
  agenda := []

end Sys2Proof.Machine
end

