-- ==== Sys2Proof/Machine/Memory.lean ====
section
/-! DEFINITION. Sparse tables and byte memories: one read, one write, and the wider accesses built from them (R7, R86). -/

namespace Sys2Proof.Machine

/-! ### Tables -/

/-- The entry of a key, if there is one. -/
def Table.find? {α : Type} : Table α → Nat → Option α
  | [], _ => none
  | (k, x) :: rest, a => if k = a then some x else Table.find? rest a

/-- The entry of a key, or the default entry. -/
def Table.get {α : Type} [Inhabited α] (t : Table α) (k : Nat) : α := (Table.find? t k).getD default

/-- Put an entry at a key, replacing the one there; keys stay rising. -/
def Table.set {α : Type} : Table α → Nat → α → Table α
  | [], a, v => [(a, v)]
  | (k, x) :: rest, a, v =>
    if a < k then (a, v) :: (k, x) :: rest
    else if a = k then (a, v) :: rest
    else (k, x) :: Table.set rest a v

/-- Remove the entry of a key. -/
def Table.erase {α : Type} (t : Table α) (k : Nat) : Table α := t.filter (fun e => e.1 != k)

/-- The key has an entry. -/
def Table.has {α : Type} (t : Table α) (k : Nat) : Bool := (Table.find? t k).isSome

/-- Change the entry of a key. -/
def Table.upd {α : Type} [Inhabited α] (t : Table α) (k : Nat) (f : α → α) : Table α := Table.set t k (f (Table.get t k))

/-- Change every entry. -/
def Table.mapVals {α : Type} (t : Table α) (f : Nat → α → α) : Table α := t.map (fun e => (e.1, f e.1 e.2))

/-! ### Byte memories -/

/-- What an address that the list does not name reads as: zero for the memories that the spec zeroes (R86, R101), and
the model's choice for global memory after reset (DESIGN CHOICE, log 3). -/
def unlistedByte : Byte := 0

/-- The byte at an address. -/
def Memory.read : Memory → Nat → Byte
  | [], _ => unlistedByte
  | (k, x) :: rest, a => if k = a then x else Memory.read rest a

/-- Put a byte that differs from an unlisted one. -/
def Memory.put : Memory → Nat → Byte → Memory
  | [], a, v => [(a, v)]
  | (k, x) :: rest, a, v =>
    if a < k then (a, v) :: (k, x) :: rest
    else if a = k then (a, v) :: rest
    else (k, x) :: Memory.put rest a v

/-- Write one byte, keeping the canonical form. -/
def Memory.write (m : Memory) (a : Nat) (v : Byte) : Memory :=
  if v = unlistedByte then m.filter (fun c => c.1 != a) else Memory.put m a v

/-- The canonical form: addresses strictly rising, and no byte equal to an unlisted one. -/
def Memory.wfFrom : Nat → Memory → Bool
  | _, [] => true
  | lo, (k, x) :: rest => decide (lo ≤ k) && x != unlistedByte && Memory.wfFrom (k + 1) rest
def Memory.wf (m : Memory) : Bool := Memory.wfFrom 0 m

/-- The `n` bytes from an address up. -/
def Memory.readBytes (m : Memory) (a : Nat) : Nat → List Byte
  | 0 => []
  | n + 1 => Memory.read m a :: Memory.readBytes m (a + 1) n

/-- Write bytes from an address up. -/
def Memory.writeBytes : Memory → Nat → List Byte → Memory
  | m, _, [] => m
  | m, a, x :: rest => Memory.writeBytes (Memory.write m a x) (a + 1) rest

/-- A little-endian read of `n` bytes (R7). -/
def Memory.readNat (m : Memory) (a n : Nat) : Nat := leNat (Memory.readBytes m a n)

/-- A little-endian write of the `n` low bytes of `x` (R7). -/
def Memory.writeNat (m : Memory) (a n x : Nat) : Memory := Memory.writeBytes m a (leBytes n x)

/-- The `n` bytes from an address up, in one walk of the list: what `readBytes` gives of a canonical memory. -/
def Memory.sliceFrom : Nat → Nat → Memory → List Byte
  | 0, _, _ => []
  | n + 1, a, [] => unlistedByte :: Memory.sliceFrom n (a + 1) []
  | n + 1, a, (k, x) :: rest =>
    if k = a then x :: Memory.sliceFrom n (a + 1) rest else unlistedByte :: Memory.sliceFrom n (a + 1) ((k, x) :: rest)
def Memory.slice (m : Memory) (a n : Nat) : List Byte := Memory.sliceFrom n a (m.dropWhile (fun c => c.1 < a))

/-- The memory that holds bytes from an address up and nothing else. -/
def Memory.ofBytes : Nat → List Byte → Memory
  | _, [] => []
  | a, x :: rest => if x = unlistedByte then Memory.ofBytes (a + 1) rest else (a, x) :: Memory.ofBytes (a + 1) rest

/-! ### Lists of fixed things -/

/-- Change element `k` of a list. -/
def listUpd {α : Type} : List α → Nat → (α → α) → List α
  | [], _, _ => []
  | x :: rest, 0, f => f x :: rest
  | x :: rest, k + 1, f => x :: listUpd rest k f

/-- A field of a number: bits [lo + w - 1 : lo]. -/
def bitsOf (x lo w : Nat) : Nat := x / 2 ^ lo % 2 ^ w

/-- Sign-extend the low `n` bits of a word. -/
def sextWord (n : Nat) (x : BitVec n) : Word64 := x.signExtend 64

/-- Cut a list into pieces of `n`; `fuel` is at least the number of pieces. -/
def chunksOf {α : Type} (n : Nat) : Nat → List α → List (List α)
  | 0, _ => []
  | fuel + 1, xs =>
    match xs with
    | [] => []
    | _ => xs.take n :: chunksOf n fuel (xs.drop n)

end Sys2Proof.Machine
end

