-- ==== Sys2Proof/Machine/Ops.lean ====
section
/-! DEFINITION. The named operations on the state that every meaning uses: the parts of the machine by key, registers, the
mask, the scratchpad, range locks, counters, and taking a trap and returning from one (R66 to R94, R170 to R174, R382 to
R388). -/

namespace Sys2Proof.Machine

/-- The outcome of a step. -/
abbrev Out := Host.Outcome State Fault Refusal

/-! ### Keys -/

def ctxKey (vf asid : Nat) : Nat := vf * 65536 + asid
def ctxVf (c : Nat) : Nat := c / 65536
def ctxAsid (c : Nat) : Nat := c % 65536
def launchKey (c ident : Nat) : Nat := c * 2 ^ 32 + ident
def launchCtx (l : Nat) : Nat := l / 2 ^ 32
def launchIdent (l : Nat) : Nat := l % 2 ^ 32
def blockKey (l index : Nat) : Nat := l * 2 ^ 32 + index
def blockLaunch (b : Nat) : Nat := b / 2 ^ 32
def blockIndex (b : Nat) : Nat := b % 2 ^ 32
def teamKey (b idx : Nat) : Nat := b * 16 + idx
def teamBlock (k : Nat) : Nat := k / 16
def teamIdx (k : Nat) : Nat := k % 16
def teamLaunch (k : Nat) : Nat := blockLaunch (teamBlock k)
def teamCtx (k : Nat) : Nat := launchCtx (teamLaunch k)
def teamVf (k : Nat) : Nat := ctxVf (teamCtx k)
def teamAsid (k : Nat) : Nat := ctxAsid (teamCtx k)

/-! ### The parts of the machine -/

def State.teamAt (s : State) (k : Nat) : Team := s.teams.get k
def State.setTeamAt (s : State) (k : Nat) (t : Team) : State := { s with teams := s.teams.set k t }
/-- The team whose stream moves. -/
def State.team (s : State) : Team := s.teamAt s.cur
def State.setTeam (s : State) (t : Team) : State := s.setTeamAt s.cur t
def State.blockAt (s : State) (b : Nat) : Block := s.blocks.get b
def State.setBlockAt (s : State) (b : Nat) (x : Block) : State := { s with blocks := s.blocks.set b x }
def State.block (s : State) : Block := s.blockAt (teamBlock s.cur)
def State.launchAt (s : State) (l : Nat) : Launch := s.launches.get l
def State.setLaunchAt (s : State) (l : Nat) (x : Launch) : State := { s with launches := s.launches.set l x }
def State.launch (s : State) : Launch := s.launchAt (teamLaunch s.cur)
def State.kernel (s : State) : Kernel := s.launch.kernel
def State.ctxAt (s : State) (c : Nat) : Ctx := s.ctxs.get c
def State.setCtxAt (s : State) (c : Nat) (x : Ctx) : State := { s with ctxs := s.ctxs.set c x }
def State.ctx (s : State) : Ctx := s.ctxAt (teamCtx s.cur)
def State.setCtx (s : State) (x : Ctx) : State := s.setCtxAt (teamCtx s.cur) x
def State.coreAt (s : State) (c : Nat) : Core := s.cores.get c
def State.setCoreAt (s : State) (c : Nat) (x : Core) : State := { s with cores := s.cores.set c x }
def State.vfAt (s : State) (v : Nat) : VFun := s.vfs.getD v {}
def State.setVfAt (s : State) (v : Nat) (x : VFun) : State := { s with vfs := listUpd s.vfs v (fun _ => x) }

/-- The number of cores of the device (R1, R14), and the die and pair partner of a core. -/
def State.nCores (s : State) : Nat := 4 * s.perDie
def State.dieOf (s : State) (core : Nat) : Nat := if s.perDie = 0 then 0 else core / s.perDie
def coreIdxInDie (s : State) (core : Nat) : Nat := if s.perDie = 0 then 0 else core % s.perDie
def State.isLeader (s : State) (core : Nat) : Bool := coreIdxInDie s core % 2 == 0
def State.partner (s : State) (core : Nat) : Nat := if s.isLeader core then core + 1 else core - 1

/-- The core index of a team within its block (R46). -/
def Block.indexOf (b : Block) (team : Nat) : Nat := b.place.getD team 0
/-- The command of a channel that moves its bytes: of those that have issued and not completed the first (R139). -/
def Chan.lead (n : Chan) : Option (Cmd × Issue) := n.issued.head?
/-- The leading command of a channel goes on. -/
def Chan.setLead (n : Chan) (i : Issue) : Chan := { n with issued := listUpd n.issued 0 (fun e => (e.1, i)) }
/-- Change the progress of every command that has issued. -/
def Chan.mapIssued (n : Chan) (f : Issue → Issue) : Chan := { n with issued := n.issued.map (fun e => (e.1, f e.2)) }
/-- The page fault at which the engine holds the channel: the command, the detail and the address (R142). -/
def Chan.heldAt (n : Chan) : Option (Cmd × Nat × Word64) := n.lead.bind (fun e => e.2.held.map (fun d => (e.1, d.1, d.2)))
/-- Every command of the block's channels has completed, or waits behind one that is held at its page fault (R142, R393). -/
def Block.drained (b : Block) : Bool :=
  b.shares.all (fun h => h.chans.all (fun n => (n.queue.isEmpty && n.issued.isEmpty) || n.heldAt.isSome))
/-- Change every channel of a block. -/
def Block.mapChans (b : Block) (f : Chan → Chan) : Block :=
  { b with shares := b.shares.map (fun h => { h with chans := h.chans.map f }) }
def State.shareIdx (s : State) (k : Nat) : Nat := (s.blockAt (teamBlock k)).indexOf (teamIdx k)
def Block.share (b : Block) (ci : Nat) : Share := b.shares.getD ci { core := 0, slot := 0 }
def State.updShare (s : State) (b ci : Nat) (f : Share → Share) : State :=
  s.setBlockAt b { s.blockAt b with shares := listUpd (s.blockAt b).shares ci f }

/-- The keys of the teams of a block that are in the machine. -/
def State.blockTeams (s : State) (b : Nat) : List Nat := (s.teams.map (·.1)).filter (fun k => teamBlock k == b)

/-! ### Counters -/

def perfKey (core vf n : Nat) : Nat := (core * 16 + vf) * 32 + n
/-- Count `x` events in a performance counter (R194), modulo 2^64 (DEDUCED, log 24). -/
def State.count (s : State) (core vf n x : Nat) : State :=
  { s with perf := s.perf.set (perfKey core vf n) (s.perf.get (perfKey core vf n) + BitVec.ofNat 64 x) }
/-- Count in the bank of the current team's virtual function on its core. -/
def State.countHere (s : State) (n x : Nat) : State := s.count s.team.core (teamVf s.cur) n x
/-- Count a corrected soft error of one kind of memory, saturating (R111, R197, DESIGN CHOICE, log 25). -/
def State.correctedError (s : State) (k : Nat) : State :=
  { s with corrected := listUpd s.corrected k (fun n => if n = 0xFFFFFFFF then n else n + 1) }
/-- The wait of a team's engine operation at issue ends, because it issues or because it is given up: its cycles are counted (R172,
R194, R195, DEDUCED, log 24). -/
def State.waitDone (s : State) (k : Nat) : State :=
  match (s.teamAt k).waited with
  | none => s
  | some z => (s.count (s.teamAt k).core (teamVf k) 9 (s.clock - z).toNat).setTeamAt k { s.teamAt k with waited := none }
/-- An engine operation of the current team begins to wait at issue (R172, R194). -/
def State.waitBegins (s : State) : State :=
  if s.team.waited.isSome then s else (s.countHere 8 1).setTeam { s.team with waited := some s.clock }
/-- The waits of everything that a block holds end: its teams' and its channels'. -/
def State.blockWaits (s : State) (b : Nat) : State :=
  let waits := (s.blockAt b).shares.flatMap (fun h => h.chans.filterMap (fun n => n.waiting.map (fun z => (h.core, z))))
  let s := waits.foldl (fun s w => s.count w.1 (ctxVf (launchCtx (blockLaunch b))) 9 (s.clock - w.2).toNat) s
  (s.blockTeams b).foldl (fun s k => s.waitDone k) s
/-- A device-wide number for an operation that holds range locks. -/
def State.newUid (s : State) : Nat × State := (s.uids, { s with uids := s.uids + 1 })
/-- The index at which the next free value is taken (DESIGN CHOICE, log 7). -/
def State.takeFresh (s : State) : Nat × State := (s.fresh, { s with fresh := s.fresh + 1 })

/-! ### Scalar registers -/

/-- Read a scalar register: s0 reads 0 (R66). -/
def Team.sreg (t : Team) (r : SReg) : Word64 := if r = 0 then 0 else t.sregs[r]
/-- Write a scalar register: a write to s0 is discarded (R66, R268). -/
def Team.setSreg (t : Team) (r : SReg) (x : Word64) : Team := if r = 0 then t else { t with sregs := t.sregs.set r x }
/-- Read a scalar predicate: q0 reads 1 (R66). -/
def Team.qreg (t : Team) (q : QReg) : Bool := q == 0 || t.qregs.getLsbD q.val
/-- Write a scalar predicate: a write to q0 is discarded (R66). -/
def Team.setQreg (t : Team) (q : QReg) (x : Bool) : Team :=
  if q = 0 then t
  else { t with qregs := if x then t.qregs ||| BitVec.twoPow 16 q.val else t.qregs &&& ~~~ BitVec.twoPow 16 q.val }

/-- The team is held on a migrating page by its scalar stream, or by its lane stream (R166). -/
def Team.holds (t : Team) (scalar : Bool) : Bool := t.hold.isSome && (t.holdTrap.map (·.scalar)).getD scalar == scalar
/-- A hold ends: the watchdog has not counted the cycles of it, at most `limit`, since the last progress (R166, R389). -/
def Team.unhold (t : Team) (now : Word64) (limit : Nat) : Team :=
  match t.hold with
  | none => t
  | some z =>
    let n := min (now.toNat - z.toNat) limit - (t.progress.toNat - z.toNat)
    { t with hold := none, holdTrap := none, progress := t.progress + BitVec.ofNat 64 n }
/-- The held access of one stream proceeds. -/
def Team.proceed (t : Team) (scalar : Bool) (now : Word64) : Team :=
  if t.holds scalar then t.unhold now (now.toNat - (t.hold.getD 0).toNat) else t

/-- A held access has begun at clock `z`, and 65,536 cycles have passed since. -/
def rewalkTime (now : Word64) (z : Option Word64) : Bool :=
  match z with
  | none => false
  | some z => decide (65536 ≤ (now - z).toNat)

/-- The settings that a wait begun at clock `z` keeps (R414): those in force then. -/
def State.setSince (s : State) (vf : Nat) (z : Word64) : Settings :=
  let v := s.vfAt vf
  ((List.find? (fun (p : Word64 × Settings) => decide ((s.clock - p.1).toNat < (s.clock - z).toNat)) v.past).map (·.2)).getD v.set

/-- The migration limit of a hold begun at clock `z`, in cycles of the timebase (R9, R166). -/
def migrateLimit (s : State) (vf : Nat) (z : Word64) : Nat := 1800 * (s.setSince vf z).migrate

/-- A hold begun at clock `z` has lasted longer than the migration limit (R166). -/
def State.pastLimit (s : State) (vf : Nat) (z : Word64) : Bool := decide (migrateLimit s vf z < (s.clock - z).toNat)

/-- Complete a scalar instruction: the team as it leaves it, SPC past the instruction (R251). A write of a scalar register has
waited before for the runs that read it (R35, R268): `fetchScalar` gives no such instruction earlier. -/
def scalarDone (s : State) (t : Team) : Out :=
  .next (s.setTeam { t.proceed true s.clock with spc := t.spc + 4, progress := s.clock, gated := false })
/-- Complete a scalar instruction that sets SPC itself. -/
def scalarJump (s : State) (t : Team) (spc : Word64) : Out :=
  .next (s.setTeam { t.proceed true s.clock with spc := spc, progress := s.clock, gated := false })
/-- A scalar instruction that waits has no effect (R268). -/
def scalarWait (s : State) : Out := .next s
/-- The team as it stands at a commit gate from now on, its watchdog stopped (R54, R389, DEDUCED, log 20). -/
def Team.atGate (t : Team) (now : Word64) : Team := if t.gated then t else { t with gated := true, paused := now }
/-- The team leaves its gate or its save: the watchdog goes on (R389). -/
def Team.goOn (t : Team) (now : Word64) : Team :=
  if t.gated || t.saved then { t with gated := false, saved := false, progress := t.progress + (now - t.paused) } else t
/-- A saved team goes on; one that stands at a gate stays there, its watchdog stopped (R389, R395). -/
def Team.unsave (t : Team) (now : Word64) : Team := if t.gated then { t with saved := false } else t.goOn now
/-- The team leaves its gate; one that is saved stays so, its watchdog stopped (R55, R389). -/
def Team.ungate (t : Team) (now : Word64) : Team := if t.saved then { t with gated := false } else t.goOn now
/-- The team stands at a commit gate of a provisional block: nothing of the instruction is performed (R54). -/
def gateHere (s : State) : Out := .next (s.setTeam (s.team.atGate s.clock))

/-- Every run enqueued has retired (R384). -/
def Team.runsRetired (t : Team) : Bool := t.runs.isEmpty && t.active.isNone
/-- Every run enqueued has retired, its lane instructions have completed and its settlements are complete (R36). -/
def Team.drained (t : Team) : Bool := t.runsRetired && t.inflight.isEmpty && t.settling.isNone
/-- Every run enqueued has retired, and no settlement and no `LTRAP` of one is due at the boundary, which come before the entry
of any other trap (R384, R394). -/
def Team.trapReady (t : Team) : Bool := t.runsRetired && t.settling.isNone && t.ltrap.isNone

/-- The lanes of global accesses of a team that have not performed (R198). -/
def State.teamOps (s : State) (k : Nat) : List LaneOp := s.ops.filter (fun o => o.team == k)
/-- An access comes before what a team does next: it is its own, or a barrier of its block has placed it there (R205, R209). -/
def LaneOp.priorTo (o : LaneOp) (k : Nat) : Bool := o.team == k || (o.shared && teamBlock o.team == teamBlock k)
/-- The accesses that have not performed and come before what a team does next, in the order of issue. -/
def State.priorOps (s : State) (k : Nat) : List LaneOp := s.ops.filter (fun o => o.priorTo k)
/-- Every access before what the team does next has been performed (R269). -/
def State.performed (s : State) (k : Nat) : Bool := (s.priorOps k).isEmpty
/-- The current team has drained, and every access of its runs has been performed: the wait of R269. -/
def State.settled (s : State) : Bool := s.team.drained && s.performed s.cur

/-! ### Lane state -/

def Team.lane (t : Team) (i : Nat) : Lane := t.lanes.getD i {}
def Lane.reg (l : Lane) (n : Nat) : Word32 := l.regs.getD n 0
/-- A 64-bit operand occupies an even register and the one above it, the even one low (R7, R62). -/
def Lane.pair (l : Lane) (n : Nat) : Word64 := l.reg (n + 1) ++ l.reg n
/-- A predicate of a lane, by index, inverted by the negate bit; index 127 is true (R65). -/
def Lane.pred (l : Lane) (p : PSrc) : Bool := (if p.idx < 96 then l.preds.getLsbD p.idx else true) != p.neg

/-- Positions below NLIVE whose mask bit is 1 (R30, R32). -/
def Team.activeLanes (t : Team) : List Nat := (List.range t.nlive).filter (fun i => t.mask.getLsbD i)
/-- The active lanes whose two guards are true (R30, R249). -/
def Team.execLanes (t : Team) (c : Ctl) : List Nat :=
  t.activeLanes.filter (fun i => (t.lane i).pred c.g0 && (t.lane i).pred c.g1)
/-- The mask with exactly the given positions. -/
def maskOf (ps : List Nat) : MaskBits := ps.foldl (fun m i => m ||| BitVec.twoPow 1024 i) 0
/-- The mask with positions 0 to n - 1 (R68). -/
def maskBelow (n : Nat) : MaskBits := BitVec.ofNat 1024 (2 ^ n - 1)
/-- Mask word m and the summary word (R30). -/
def maskWord (m : MaskBits) (k : Nat) : Word32 := m.extractLsb' (32 * k) 32
def summaryWord (m : MaskBits) : Word32 :=
  BitVec.ofNat 32 ((List.range 32).foldl (fun acc k => if maskWord m k = 0 then acc else acc + 2 ^ k) 0)
/-- The number of passes of an instruction: the mask words that are not zero (R31). -/
def passes (m : MaskBits) : Nat := ((List.range 32).filter (fun k => maskWord m k != 0)).length

/-- Write one lane register or predicate. -/
def Lane.put (l : Lane) (r : WReg) (x : Word32) : Lane :=
  match r with
  | .v n => { l with regs := l.regs.set n x }
  | .p n => { l with preds := if x.getLsbD 0 then l.preds ||| BitVec.twoPow 96 n else l.preds &&& ~~~ BitVec.twoPow 96 n }
/-- Write values into lanes, in list order. -/
def Team.putLanes : Team → List LaneWrite → Team
  | t, [] => t
  | t, w :: rest => Team.putLanes { t with lanes := listUpd t.lanes w.pos (fun l => l.put w.reg w.val) } rest
/-- The writes of a 32-bit result, a 64-bit result and a predicate result of a lane. -/
def writeReg (i : Nat) (d : Dst) (x : Word32) : List LaneWrite :=
  match d with
  | .v n => [{ pos := i, reg := .v n, val := x }]
  | .discard => []
def writePair (i : Nat) (d : Dst) (x : Word64) : List LaneWrite :=
  match d with
  | .v n => [{ pos := i, reg := .v n, val := x.extractLsb' 0 32 }, { pos := i, reg := .v (n + 1), val := x.extractLsb' 32 32 }]
  | .discard => []
def writePred (i : Nat) (d : PDst) (x : Bool) : List LaneWrite :=
  match d with
  | .p n => [{ pos := i, reg := .p n, val := if x then 1 else 0 }]
  | .discard => []

/-! ### Traps -/

/-- `TRAPINFO` as trap entry writes it (R84). -/
def trapInfoWord (tr : Trap) : Word64 :=
  BitVec.ofNat 64 (tr.cause % 256 + tr.lane % 1024 * 2 ^ 16 + tr.fbyte % 16 * 2 ^ 26 + (if tr.straddle then 2 ^ 30 else 0) +
    (if tr.scalar then 2 ^ 31 else 0) + tr.detail % 256 * 2 ^ 32)

/-- Give up the band datapath that a team's run holds. -/
def State.freeDatapath (s : State) (k : Nat) : State :=
  let c := (s.teamAt k).core
  s.setCoreAt c { s.coreAt c with dps := (s.coreAt c).dps.filter (fun e => e.2 != k) }

/-- The instruction is a barrier. -/
def Until.isBarrier : Until → Bool
  | .barrier _ => true
  | _ => false
/-- A barrier that raised a token is unfinished in a block: none of its teams is saved before the instance completes, since tokens are
saved as 0 (R191). -/
def State.tokenHeld (s : State) (b : Nat) : Bool :=
  (s.blockTeams b).any (fun k => (s.teamAt k).inflight.any (fun f => f.tok != 0 && f.until_.isBarrier))
/-- The blocks of a launch in the machine, lowest first. -/
def State.launchBlocks (s : State) (l : Nat) : List Nat := (s.blocks.map (·.1)).filter (fun b => blockLaunch b == l)
/-- The blocks of a ticket counter that have not started. -/
def Ticket.left (t : Ticket) : Nat := t.stop - t.next
/-- The lowest-numbered unfinished block of a launch, if it has started (R51). -/
def State.lowestBlock (s : State) (l : Nat) : Option Nat :=
  (s.launchBlocks l).head?.filter (fun b =>
    ((s.launchAt l).tickets ++ (s.launchAt l).tail).all (fun t => t.left == 0 || decide (blockIndex b < t.next)))
/-- A block that has become the lowest-numbered unfinished one of its launch since its eviction was asked for is spared, while another
block of the launch runs that could be evicted instead and no team of it has been saved yet (R51, DEDUCED, log 28). -/
def State.spared (s : State) (b : Nat) : Bool :=
  let l := blockLaunch b
  s.lowestBlock l == some b && !(s.blockTeams b).any (fun k => (s.teamAt k).saved) &&
    (s.launchBlocks l).any (fun j => (s.blockAt j).st == .running && !(s.blockAt j).saveDue)
/-- The save of a block is due: its channels have drained, no token holds it back, and it is not spared (R51, R191, R393). -/
def State.saveHolds (s : State) (b : Nat) : Bool :=
  (s.blockAt b).saveDue && (s.blockAt b).drained && !s.tokenHeld b && !s.spared b

/-- A block ends unsuccessfully: a cause ends it, other than a cancel of this cycle that has ended no team yet (R189, R389). -/
def State.endsBad (s : State) (b : Nat) : Bool :=
  match (s.blockAt b).ending with
  | none => false
  | some c => !(c == 0x0E && (s.launchAt (blockLaunch b)).ctr.cancelAt == some s.clock)

/-- At this boundary an action comes before the entry of a trap (R394): a squash before every entry; a cancel, the watchdog
or a save that is due before every entry but that of `LTRAP`. A soft error (cause 0x10) is no entry: its context stops. -/
def State.trapVoid (s : State) (b cause : Nat) : Bool :=
  cause != 0x10 &&
    ((s.blockAt b).squashDue || (cause != 0x0C && ((s.blockAt b).ending.isSome || s.saveHolds b)))

/-- Deliver a trap at a run boundary (R384, R387, R388, R394): `spc` is where `TRET` puts the scalar stream, `resume` the
resume point the dump shows, `aside` the runs set aside. A trap that is not entered leaves its instruction unissued, to raise it
again after the save; that of a stall check, whose results are written by then, waits with the team (R39, R394). A range-lock
trap is counted (R194). A trap in the handler, or without a handler, is escalated: the team stops and the tenant core receives the cause. -/
def deliverTrap (s : State) (k : Nat) (tr : Trap) (spc resume : Word64) (aside : List RunEntry) : State :=
  let t := s.teamAt k
  let c := s.ctxAt (teamCtx k)
  let b := s.blockAt (teamBlock k)
  if s.trapVoid (teamBlock k) tr.cause then
    (s.freeDatapath k).setTeamAt k
      { t with
        active := none
        runs := if tr.scalar then t.runs else aside
        heldTrap := if tr.cause = 0x0B && b.ending.isNone && !b.squashDue then some tr else t.heldTrap }
  else
    let s := if tr.cause = 0x06 then s.count t.core (teamVf k) 10 1 else s
    if t.sup || c.trapBase == 0 || tr.cause == 0x10 then
      ({ s with uids := s.uids + 1 }.freeDatapath k).setTeamAt k { t with escalated := some tr, raisedAt := s.clock, raisedNo := s.uids }
    else
      let t := t.unhold s.clock s.clock.toNat
      (s.freeDatapath k).setTeamAt k
        { t with
          trapInfo := trapInfoWord tr
          trapAddr := tr.addr
          trapRet := some { mask := t.mask, spc := spc, resume := resume, aside := aside, cmd := tr.cmd }
          mask := if tr.scalar then t.mask else tr.lanes
          sup := true
          runs := []
          active := none
          spc := c.trapBase
          ltrap := none
          heldTrap := none
          gated := false
          held := false
          holdTrap := none
          polling := false }

/-- Take a trap (R384). A provisional team holds its trap (R54). -/
def takeTrap (s : State) (k : Nat) (tr : Trap) (spc resume : Word64) (aside : List RunEntry) : State :=
  if (s.blockAt (teamBlock k)).prov then s.setTeamAt k { (s.teamAt k).atGate s.clock with heldTrap := some tr }
  else deliverTrap s k tr spc resume aside

/-- A scalar instruction fails its checks: it waits until the runs enqueued before it have retired and what their boundary
holds due is done, and traps then if a check still fails (R384, R394). -/
def scalarTrap (s : State) (cause detail : Nat) (addr : Word64) : Out :=
  let t := s.team
  if t.trapReady then
    .next (takeTrap s s.cur { cause := cause, detail := detail, addr := addr, lanes := t.mask, scalar := true } t.spc t.spc [])
  else .next s

/-- Return from the handler (R297, R386): the mask, the set-aside runs and the SPC come back. -/
def trapReturn (t : Team) : Team :=
  match t.trapRet with
  | none => { t with sup := false }
  | some r => { t with mask := r.mask, sup := false, runs := r.aside, spc := r.spc, trapRet := none }

/-! ### Scratchpad -/

/-- Where the bytes of a scratchpad address lie: the core index and offset, or none out of bounds (R87, R88, R89). -/
def scratchTarget (cores ci size a n : Nat) : Option (Nat × Nat) :=
  let field := bitsOf a 24 2
  let off := bitsOf a 0 24
  if 2 ^ 27 ≤ a then none
  else if bitsOf a 26 1 = 0 then
    if field = 0 ∧ off + n ≤ size then some (ci, off) else none
  else if field < 3 ∧ field < cores ∧ off + n ≤ size then some (field, off) else none

/-- The scratchpad target of an access of the current team. -/
def State.scratchAt (s : State) (a n : Nat) : Option (Nat × Nat) :=
  scratchTarget s.block.shares.length (s.shareIdx s.cur) s.kernel.scratch a n

def State.scratchRead (s : State) (b ci off n : Nat) : Nat := ((s.blockAt b).share ci).scratch.readNat off n
def State.scratchWrite (s : State) (b ci off n x : Nat) : State :=
  s.updShare b ci (fun h => { h with scratch := h.scratch.writeNat off n x })
def State.scratchWriteBytes (s : State) (b ci off : Nat) (xs : List Byte) : State :=
  s.updShare b ci (fun h => { h with scratch := h.scratch.writeBytes off xs })

/-! ### Range locks -/

/-- The words that an access of `n` bytes touches on the crossbar of a core index (R90). -/
def wordsOf (spot : Nat × Nat) (n : Nat) : List (Nat × Nat) :=
  if n ≤ 4 then [(spot.1, spot.2 / 4)] else [(spot.1, spot.2 / 4), (spot.1, spot.2 / 4 + 1)]

/-- The replay cycles of one pass beyond the first: a bank of a crossbar serves one word in each (R90). -/
def replayExtra (words : List (Nat × Nat)) : Nat :=
  let ws := words.eraseDups
  (ws.map (fun w => (ws.filter (fun v => v.1 == w.1 && v.2 % 128 == w.2 % 128)).length)).foldl max 0 - 1

/-- Count the replay cycles of an instruction, pass by pass: its requests are the words of each lane position (R90, R194). Those of an
access through the peer window are counted on the issuing core too (DESIGN CHOICE, log 44: R90 and R194 do not say on which). -/
def State.countReplay (s : State) (reqs : List (Nat × List (Nat × Nat))) : State :=
  let n := ((List.range 32).map (fun b => replayExtra ((reqs.filter (fun r => r.1 / 32 == b)).flatMap (·.2)))).sum
  if n = 0 then s else s.countHere 11 n

def spaceScratch : Nat := 0
def spaceWbuf : Nat := 1
def spaceVirtual : Nat := 2
def spaceStore : Nat := 3

/-- Two ranges overlap: some address lies in both, so an empty range overlaps nothing. -/
def overlaps (alo ahi blo bhi : Nat) : Bool := decide (max alo blo < min ahi bhi)

/-- An entry is of the given space, and for scratchpad and weight-buffer offsets of the block in the given slot, for
virtual ranges of the given address space (R170, R172). -/
def Lock.sameSpace (l : Lock) (space slot asid : Nat) : Bool :=
  l.space == space && (if space = spaceScratch ∨ space = spaceWbuf then l.slot == slot else true) &&
    (if space = spaceVirtual then l.asid == asid else true)

/-- The entry refuses a thread access (R173, DEDUCED, log 14). -/
def Lock.refuses (l : Lock) (space slot asid lo hi : Nat) (write : Bool) : Bool :=
  l.sameSpace space slot asid &&
    (if write then overlaps lo hi l.start l.hi else l.dest && overlaps lo hi l.lo l.hi)

/-- The lowest index of an entry that refuses a thread access. -/
def lockRefusal (locks : Table Lock) (space slot asid lo hi : Nat) (write : Bool) : Option Nat :=
  (List.find? (fun e => e.2.refuses space slot asid lo hi write) locks).map (·.1)

/-- The range-lock check of a scratchpad access of block `b` on core index `ci`, at the core that holds the bytes. -/
def State.scratchLock (s : State) (b ci off n : Nat) (write : Bool) : Option Nat :=
  let h := (s.blockAt b).share ci
  lockRefusal (s.coreAt h.core).locks spaceScratch h.slot 0 off (off + n) write

/-- The range-lock check of a global access on the issuing core. -/
def State.globalLock (s : State) (core asid a n : Nat) (write : Bool) : Option Nat :=
  lockRefusal (s.coreAt core).locks spaceVirtual 0 asid a (a + n) write

/-- A new entry of an engine operation conflicts with a held one (R172, DEDUCED, log 14). -/
def Lock.conflicts (l new : Lock) : Bool :=
  l.sameSpace new.space new.slot new.asid && overlaps new.lo new.hi l.lo l.hi && (new.dest || l.dest)

/-- The lowest free index of a table of 64 entries. -/
def freeLock (locks : Table Lock) : Option Nat := (List.range 64).find? (fun i => !locks.has i)

/-- The entries can be registered: each is paired with the core whose table takes it. -/
def State.locksFit (s : State) (new : List (Nat × Lock)) : Bool :=
  new.all (fun e => (s.coreAt e.1).locks.all (fun l => !l.2.conflicts e.2)) &&
    new.all (fun e => decide ((s.coreAt e.1).locks.length + (new.filter (fun x => x.1 == e.1)).length ≤ 64))

/-- Register entries, each at the lowest free index of its core's table (R171). -/
def State.addLocks : State → List (Nat × Lock) → State
  | s, [] => s
  | s, (c, l) :: rest =>
    let core := s.coreAt c
    match freeLock core.locks with
    | none => State.addLocks s rest
    | some i => State.addLocks (s.setCoreAt c { core with locks := core.locks.set i l }) rest

/-- Release every entry of an operation, on every core (R174). -/
def State.dropLocks (s : State) (uid : Nat) : State :=
  { s with cores := s.cores.mapVals (fun _ c => { c with locks := c.locks.filter (fun e => e.2.uid != uid) }) }
/-- Release the source entries of an operation (R174). -/
def State.dropSourceLocks (s : State) (uid : Nat) : State :=
  { s with cores := s.cores.mapVals (fun _ c => { c with locks := c.locks.filter (fun e => e.2.uid != uid || e.2.dest) }) }
/-- Raise word 0 of the pointer-bound entries of an operation in one space (R171). -/
def State.raiseLock (s : State) (uid space lo : Nat) : State :=
  { s with cores := s.cores.mapVals (fun _ c =>
      { c with locks := c.locks.mapVals (fun _ l =>
          if l.uid = uid ∧ l.space = space ∧ l.ptr then { l with lo := max l.lo (min lo l.hi) } else l) }) }

/-! ### The order of a matrix array (R373) -/

/-- Join the order of an array, at its end; a pair operation at the head of its leader's order goes to the front of the
follower's (R373). -/
def joinQueue (k : Nat) (front : Bool) (q : List Nat) : List Nat :=
  if front then k :: q.filter (fun j => j != k) else if q.contains k then q else q ++ [k]
/-- Reserve arrays for a pair operation (R373). -/
def State.reserveArrays (s : State) (k : Nat) (cores : List Nat) : State :=
  cores.foldl (fun s c => s.setCoreAt c { s.coreAt c with arrayQ := joinQueue k true (s.coreAt c).arrayQ }) s
/-- Each pair operation that has come to the head of its leader's order reserves the follower's array (R373). -/
def State.promotePairs (s : State) : State :=
  s.cores.foldl (fun s e =>
    match (s.coreAt e.1).arrayQ.head? with
    | none => s
    | some k =>
      match (s.teamAt k).parked.map (·.arrays) with
      | some (own :: rest) => if own = e.1 then s.reserveArrays k rest else s
      | _ => s) s
/-- A team leaves the order of the arrays without starting. -/
def State.leaveArrays (s : State) (k : Nat) : State :=
  { s with cores := s.cores.mapVals (fun _ c => { c with arrayQ := c.arrayQ.filter (fun j => j != k) }) }.promotePairs

/-! ### Constant window -/

/-- A read of the constant window of the current team's launch (R101). -/
def State.windowRead (s : State) (a n : Nat) : Nat := s.launch.window.readNat a n

end Sys2Proof.Machine
end

