-- ==== Sys2Proof/Machine/Operands.lean ====
section
/-! DEFINITION. Every operand form of the two streams: what a source supplies in a lane, which registers an instruction
reads and writes, and the special register values (R62, R65, R67, R73, R76 to R80, R255 to R258). -/

namespace Sys2Proof

/-- The integer type has 64 bits (R303). -/
def IntTy.wide : IntTy → Bool
  | .i64 | .n64 => true
  | _ => false
/-- The integer type is signed (R303). -/
def IntTy.signed : IntTy → Bool
  | .i32 | .i64 => true
  | _ => false
/-- Types of 64 bits (R261). -/
def CvtTy.wide : CvtTy → Bool
  | .i64 | .n64 | .f64 => true
  | _ => false
def Width.bytes : Width → Nat
  | .b1 => 1 | .b2 => 2 | .b4 => 4 | .b8 => 8
def Width.wide : Width → Bool
  | .b8 => true
  | _ => false

end Sys2Proof

namespace Sys2Proof.Machine

/-! ### Constants and exact float encodings of operand codes -/

/-- The F32 encodings that codes 1888 to 1951 supply, by number from 0 (R258). -/
def constF32 (k : Nat) : Word32 :=
  if k < 32 then
    ([0x80000000, 0x7F800000, 0xFF800000, 0x7FC00000,
      0x3F000000, 0x3E800000, 0x3E000000, 0x3D800000, 0x3FC00000, 0x40200000, 0x3F400000, 0x3EC00000,
      0xBF000000, 0xBE800000, 0xBFC00000, 0xBF400000,
      0x40490FDB, 0x3EA2F983, 0x40C90FDB, 0x3F317218, 0x3FB8AA3B, 0x402DF854, 0x3FB504F3, 0x3F3504F3, 0x3E9A209B,
      0x40135D8E,
      0x7F7FFFFF, 0x00800000, 0x00000001, 0x43E00000, 0x47600000, 0x477FE000] : List Word32).getD k 0
  else if k < 48 then BitVec.ofNat 32 ((127 + 7 + (k - 32)) * 2 ^ 23)
  else BitVec.ofNat 32 ((127 - 5 - (k - 48)) * 2 ^ 23)

/-- The F32 encoding of a small integer (|i| below 2^24), exactly (R257). -/
def intF32 (i : Int) : Word32 :=
  let n := i.natAbs
  if n = 0 then 0
  else
    let e := Nat.log2 n
    BitVec.ofNat 32 ((if i < 0 then 2 ^ 31 else 0) + (127 + e) * 2 ^ 23 + (n * 2 ^ (23 - e) - 2 ^ 23))

/-- The F64 encoding of a small integer, exactly (R257). -/
def intF64 (i : Int) : Word64 :=
  let n := i.natAbs
  if n = 0 then 0
  else
    let e := Nat.log2 n
    BitVec.ofNat 64 ((if i < 0 then 2 ^ 63 else 0) + (1023 + e) * 2 ^ 52 + (n * 2 ^ (52 - e) - 2 ^ 52))

/-- The F64 encoding of an F32 value, exactly; a NaN gives the canonical NaN (R258). -/
def widenF32 (x : Word32) : Word64 :=
  let e := (x.extractLsb' 23 8).toNat
  let m := (x.extractLsb' 0 23).toNat
  let sg := if x.getLsbD 31 then 2 ^ 63 else 0
  if e = 255 then (if m = 0 then BitVec.ofNat 64 (sg + 2047 * 2 ^ 52) else 0x7FF8000000000000)
  else if e = 0 then
    if m = 0 then BitVec.ofNat 64 sg
    else
      let k := Nat.log2 m
      BitVec.ofNat 64 (sg + (1023 + k - 149) * 2 ^ 52 + (m * 2 ^ (52 - k) - 2 ^ 52))
  else BitVec.ofNat 64 (sg + (e + 896) * 2 ^ 52 + m * 2 ^ 29)

/-! ### Lane operands -/

/-- A special lane value (R77, R78). -/
def specialValue (t : Team) (i : Nat) : LaneSpecial → Word32
  | .bandw => 32
  | .laneid => BitVec.ofNat 32 i
  | .ord => (t.lane i).ord.setWidth 32
  | .keylo => (t.lane i).key.extractLsb' 0 32
  | .keyhi => (t.lane i).key.extractLsb' 32 32

/-- A scalar register as the run sees it (R35, R67); s0 reads 0. -/
def Active.sreg (a : Active) (r : SReg) : Word64 := if r = 0 then 0 else a.run.sregs[r]

/-- A source as a 32-bit integer or bit string (R257). -/
def src32 (t : Team) (a : Active) (i : Nat) : Src → Word32
  | .v n => (t.lane i).reg n
  | .s r => (a.sreg r).extractLsb' 0 32
  | .special x => specialValue t i x
  | .int k => BitVec.ofInt 32 k
  | .const k => constF32 k
  | .zero => 0

/-- A source as a 64-bit integer or bit string (R257). -/
def src64 (t : Team) (a : Active) (i : Nat) : Src → Word64
  | .v n => (t.lane i).pair n
  | .s r => a.sreg r
  | .special x => (specialValue t i x).setWidth 64
  | .int k => BitVec.ofInt 64 k
  | .const k => (constF32 k).setWidth 64
  | .zero => 0

/-- A source as an F32 value: an integer code is that integer's exact value (R257). -/
def srcF32 (t : Team) (a : Active) (i : Nat) : Src → Word32
  | .int k => intF32 k
  | s => src32 t a i s

/-- A source as an F64 value (R257, R258). -/
def srcF64 (t : Team) (a : Active) (i : Nat) : Src → Word64
  | .int k => intF64 k
  | .const k => widenF32 (constF32 k)
  | s => src64 t a i s

/-- A b operand that may be an immediate: its bit pattern, or sign-extended in 64 bits (R255). -/
def imm32 (t : Team) (a : Active) (i : Nat) : SrcImm → Word32
  | .code s => src32 t a i s
  | .imm x => x
def imm64 (t : Team) (a : Active) (i : Nat) : SrcImm → Word64
  | .code s => src64 t a i s
  | .imm x => x.signExtend 64
def immF32 (t : Team) (a : Active) (i : Nat) : SrcImm → Word32
  | .code s => srcF32 t a i s
  | .imm x => x

/-! ### Which registers an instruction names -/

/-- One operand of a lane instruction, as far as registers are concerned. -/
inductive Opnd where
  | rd (s : Src) (wide : Bool)
  | wr (d : Dst) (wide : Bool)
  | reg (n : Nat)
  | prd (p : PSrc)
  | pwr (d : PDst)
  | trd (t : Nat)
  | twr (t : Nat)
  deriving DecidableEq, Repr, Inhabited

def opImm (s : SrcImm) (wide : Bool) : Opnd :=
  match s with
  | .code s => .rd s wide
  | .imm _ => .rd .zero wide

def dab (ty : IntTy) (d : Dst) (a : Src) (y : SrcImm) : List Opnd := [.wr d ty.wide, .rd a ty.wide, opImm y ty.wide]

/-- The operands of each lane instruction beside its guards (R265). -/
def opnds : Instr → List Opnd
  | .iadd _ ty _ d a y | .isub _ ty _ d a y | .imul _ ty _ d a y => dab ty d a y
  | .imulh _ ty d a y | .idiv _ ty d a y | .irem _ ty d a y | .imin _ ty d a y | .imax _ ty d a y => dab ty d a y
  | .land _ ty d a y | .lor _ ty d a y | .lxor _ ty d a y => dab ty d a y
  | .shl _ ty d a y | .shr _ ty d a y | .sar _ ty d a y | .rol _ ty d a y => dab ty d a y
  | .imad _ ty _ d a y z => [.wr d ty.wide, .rd a ty.wide, .rd y ty.wide, .rd z ty.wide]
  | .iabs _ w _ d a | .ineg _ w _ d a => [.wr d w, .rd a w]
  | .lnot _ ty d a | .popc _ ty d a | .clz _ ty d a | .brev _ ty d a => [.wr d ty.wide, .rd a ty.wide]
  | .bfe _ ty d a p l => [.wr d ty.wide, .rd a ty.wide, .rd p ty.wide, .rd l ty.wide]
  | .bfi _ ty d a y p l => [.wr d ty.wide, .rd a ty.wide, .rd y ty.wide, .rd p ty.wide, .rd l ty.wide]
  | .mov _ ty d y => [.wr d ty.wide, opImm y ty.wide]
  | .sel _ ty d a y p => [.wr d ty.wide, .rd a ty.wide, .rd y ty.wide, .prd p]
  | .icmp _ ty _ d a y => [.pwr d, .rd a ty.wide, .rd y ty.wide]
  | .fadd _ _ d a y | .fsub _ _ d a y | .fmul _ _ d a y => [.wr d false, .rd a false, opImm y false]
  | .ffma _ _ d a y z => [.wr d false, .rd a false, .rd y false, .rd z false]
  | .fmin _ d a y | .fmax _ d a y => [.wr d false, .rd a false, opImm y false]
  | .fabs _ d a | .fneg _ d a | .frint _ _ d a => [.wr d false, .rd a false]
  | .fcmp _ _ d a y => [.pwr d, .rd a false, .rd y false]
  | .dadd _ _ d a y | .dsub _ _ d a y | .dmul _ _ d a y => [.wr d true, .rd a true, .rd y true]
  | .dfma _ _ d a y z => [.wr d true, .rd a true, .rd y true, .rd z true]
  | .dmin _ d a y | .dmax _ d a y => [.wr d true, .rd a true, .rd y true]
  | .dabs _ d a | .dneg _ d a => [.wr d true, .rd a true]
  | .dcmp _ _ d a y => [.pwr d, .rd a true, .rd y true]
  | .cvt _ _ _ dt st d a => [.wr d dt.wide, .rd a st.wide]
  | .rcp _ d a | .rsq _ d a | .sqrt _ d a | .exp2 _ d a | .log2 _ d a | .sin _ d a | .cos _ d a => [.wr d false, .rd a false]
  | .rand _ w d k x => [.wr d w, .rd k true, .rd x true]
  | .pand _ d a y | .por _ d a y | .pxor _ d a y | .pandn _ d a y => [.pwr d, .prd a, .prd y]
  | .vote _ m p =>
    match m with
    | .any d | .all d => [.pwr d, .prd p]
    | .ballot d => [.wr d false, .prd p]
  | .shfl _ _ w d a y => [.wr d w, .rd a w, .rd y false]
  | .reduce _ _ d a | .scan _ _ d a => [.wr d false, .rd a false]
  | .sample _ d v w u => [.wr d false, .pwr v, .rd w false, .rd u false]
  | .msplit _ d g y r z => [.wr d true, .rd g false, .rd y false, .rd r false, .rd z false]
  | .isect _ d f x y l => [.wr d false, .pwr f, .rd x false, .rd y false, .rd l false]
  | .lds _ w _ _ _ d a y => [.wr d w.wide, .rd a false, .rd y false]
  | .sts _ w _ _ a y x => [.rd a false, .rd y false, .rd x w.wide]
  | .atos _ w op _ _ d a x y => [.wr d w, .rd a false, .rd x w, .rd (if op = .cas then y else .zero) w]
  | .gld _ _ w _ _ d a y => [.wr d w, .rd a true, .rd y false]
  | .gst _ _ w _ _ _ a y x => [.rd a true, .rd y false, .rd x w]
  | .gatom _ _ w op _ _ d a x y => [.wr d w, .rd a true, .rd x w, .rd (if op = .cas then y else .zero) w]
  | .gred _ _ w _ _ _ _ a x => [.rd a true, .rd x w]
  | .xfer _ _ _ _ _ a y z => [.rd a true, .rd y false, .rd z false]
  | .tld _ _ _ _ d a y => [.twr d, .rd a false, .rd y false]
  | .tst _ _ _ _ a y t => [.trd t, .rd a false, .rd y false]
  | .tmov _ _ _ d a => [.twr d, .trd a]
  | .tzero _ d => [.twr d]
  | .wld _ a y l => [.rd a true, .rd y false, .rd l false]
  | .mma _ _ d a y t _ | .mmaPair _ _ d a y t _ => [.twr d, .trd a, .trd t, .rd y false]
  | .prune _ _ _ _ d a => [.twr d, .trd a]
  | .become _ v _ => [.reg v]
  | .emit _ a => [.rd a false]
  | .barn _ n _ => [.rd n false]
  | _ => []

/-- The control fields of a lane instruction (R253); `none` for the other instructions. -/
def ctl? : Instr → Option Ctl
  | .iadd c .. | .isub c .. | .imul c .. | .imulh c .. | .imad c .. | .idiv c .. | .irem c .. | .imin c .. | .imax c ..
  | .iabs c .. | .ineg c .. | .land c .. | .lor c .. | .lxor c .. | .lnot c .. | .shl c .. | .shr c .. | .sar c ..
  | .rol c .. | .popc c .. | .clz c .. | .brev c .. | .bfe c .. | .bfi c .. | .mov c .. | .sel c .. | .icmp c ..
  | .fadd c .. | .fsub c .. | .fmul c .. | .ffma c .. | .fmin c .. | .fmax c .. | .fabs c .. | .fneg c .. | .fcmp c ..
  | .frint c .. | .dadd c .. | .dsub c .. | .dmul c .. | .dfma c .. | .dmin c .. | .dmax c .. | .dabs c .. | .dneg c ..
  | .dcmp c .. | .cvt c .. | .rcp c .. | .rsq c .. | .sqrt c .. | .exp2 c .. | .log2 c .. | .sin c .. | .cos c ..
  | .rand c .. | .pand c .. | .por c .. | .pxor c .. | .pandn c .. | .vote c .. | .shfl c .. | .reduce c .. | .scan c ..
  | .sample c .. | .msplit c .. | .isect c .. | .lds c .. | .sts c .. | .atos c .. | .gld c .. | .gst c .. | .gatom c ..
  | .gred c .. | .xfer c .. | .fence c .. | .tld c .. | .tst c .. | .tmov c .. | .tzero c .. | .wld c .. | .mma c ..
  | .mmaPair c .. | .prune c .. | .become c .. | .emit c .. | .ltrap c .. | .bar c .. | .barn c .. | .nop c => some c
  | _ => none

/-- The lane registers and predicates that an operand reads. -/
def Opnd.reads : Opnd → List WReg
  | .rd (.v n) w => if w then [.v n, .v (n + 1)] else [.v n]
  | .reg n => [.v n]
  | .prd p => if p.idx < 96 then [.p p.idx] else []
  | _ => []
/-- The lane registers and predicates that an operand writes. -/
def Opnd.writes : Opnd → List WReg
  | .wr (.v n) w => if w then [.v n, .v (n + 1)] else [.v n]
  | .pwr (.p n) => [.p n]
  | _ => []
/-- The scalar registers that an operand reads. -/
def Opnd.sregs : Opnd → List SReg
  | .rd (.s r) _ => [r]
  | _ => []
/-- The tile registers that an operand reads or writes. -/
def Opnd.tiles : Opnd → List Nat
  | .trd t => [t]
  | .twr t => [t]
  | _ => []

/-- A register at or above G, an odd register for a 64-bit operand, or a tile at or above T: detail 0x06 (R62, R73). -/
def Opnd.outside (G T : Nat) : Opnd → Bool
  | .rd (.v n) w => G ≤ n || (w && n % 2 == 1)
  | .wr (.v n) w => G ≤ n || (w && n % 2 == 1)
  | .reg n => G ≤ n
  | .trd t => T ≤ t
  | .twr t => T ≤ t
  | _ => false

/-- Every register and predicate that an instruction reads, its guards included. -/
def laneReads (i : Instr) : List WReg :=
  (match ctl? i with
    | some c => (Opnd.prd c.g0).reads ++ (Opnd.prd c.g1).reads
    | none => []) ++ (opnds i).flatMap Opnd.reads
/-- Every register and predicate that an instruction writes. -/
def laneWrites (i : Instr) : List WReg := (opnds i).flatMap Opnd.writes
def laneTiles (i : Instr) : List Nat := (opnds i).flatMap Opnd.tiles
/-- Every scalar register that a lane instruction reads (R35, R67): a matrix operation reads its format block too. -/
def laneSregs (i : Instr) : List SReg :=
  (opnds i).flatMap Opnd.sregs ++ (match i with
    | .mma _ _ _ _ _ _ f => [f]
    | .mmaPair _ _ _ _ _ _ f => [f]
    | _ => [])

/-- The scalar register that a scalar instruction writes, if there is one (R35, R268). A call that is not taken writes none. -/
def scalarDest (i : Instr) : Option SReg :=
  match i with
  | .aluAdd d _ _ | .aluSub d _ _ | .aluAnd d _ _ | .aluOr d _ _ | .aluXor d _ _ | .aluSll d _ _ | .aluSrl d _ _ | .aluSra d _ _
  | .aluMul d _ _ | .aluMulh d _ _ | .aluMulhu d _ _ | .aluMin d _ _ | .aluMax d _ _ | .aluMinu d _ _ | .aluMaxu d _ _ => some d
  | .addi d _ _ | .andi d _ _ | .ori d _ _ | .xori d _ _ | .slli d _ _ | .srli d _ _ | .srai d _ _ | .lui d _ => some d
  | .ssel d _ _ _ _ | .spop d _ | .sfind d _ | .sred _ d _ | .ldk d _ _ | .ldkN32 d _ _ => some d
  | .sldN8 d _ _ | .sldN16 d _ _ | .sldN32 d _ _ | .sldB64 d _ _ | .swait d _ _ _ _ _ _ | .bwait d _ => some d
  | .launch d _ | .lwait _ d _ | .lstat _ d _ | .galloc d _ | .flush d _ _ | .srd d _ => some d
  | .call .. | .callr _ => some 63
  | _ => none
def laneOutside (i : Instr) (G T : Nat) : Bool := (opnds i).any (Opnd.outside G T)

/-! ### Weight-store refresh timing -/

/-- The phase of a bank group in its refresh period (R98). -/
def refreshPhase (clock : Word64) (g : Nat) : Nat := (clock.toNat + 57600 * 2 ^ 64 - 3600 * g) % 57600
/-- The cycles until the current window ends, or 0 outside a window (R80, R98). -/
def refreshRemaining (clock : Word64) (g : Nat) : Nat :=
  let ph := refreshPhase clock g
  if ph < 460 then 460 - ph else 0
/-- The cycles until the next window starts, or 0 inside one. -/
def refreshUntil (clock : Word64) (g : Nat) : Nat :=
  let ph := refreshPhase clock g
  if ph < 460 then 0 else 57600 - ph
/-- `SRD WSREF` (R80). -/
def wsrefWord (clock : Word64) (sel : BitVec 4) : Word64 :=
  BitVec.ofNat 64 (sel.toNat * 2 ^ 32 + refreshRemaining clock sel.toNat * 2 ^ 16 + refreshUntil clock sel.toNat)

/-- `MODE` (R82). -/
def modeWord (t : Team) (m : CtxMode) : Word64 :=
  BitVec.ofNat 64 ((if t.sup then 2 ^ 31 else 0) + (match m with
    | .free => 0
    | .record => 2 ^ 29
    | .replay => 2 ^ 30) + (if t.keep then 2 else 0) + (if t.stallchk then 1 else 0))

end Sys2Proof.Machine
end

