-- ==== Sys2Proof/Machine/Flags.lean ====
section
/-! DEFINITION. The part has no flag register: comparisons write predicates. The conditions of the scalar stream, of
`SWAIT` and of the integer lane compare (R252, R260, R274, R285, R316), and the counters that instructions raise and
lower as tokens (R41). -/

namespace Sys2Proof.Machine

/-- The test of a branch and of `SSEL`: q XOR negate (R252, R275). -/
def condHolds (t : Team) (q : QReg) (neg : Bool) : Bool := t.qreg q != neg

/-- `SCMP` (R274). -/
def scondHolds (c : SCond) (a b : Word64) : Bool :=
  match c with
  | .eq => a == b
  | .ne => a != b
  | .lt => a.slt b
  | .ge => !a.slt b
  | .ltu => a.ult b
  | .geu => !a.ult b

/-- The condition of `SWAIT`: unsigned (R285). -/
def waitHolds (c : WaitCond) (x y : Nat) : Bool :=
  match c with
  | .eq => x == y
  | .ne => x != y
  | .geu => decide (y ≤ x)
  | .ltu => decide (x < y)

/-- The conditions of `ICMP` over the values that its type reads (R260, R316). `ICMP` has no `.NUM` and no `.NAN`. -/
def intCond (c : Cond) (a b : Int) : Bool :=
  match c with
  | .eq => a == b
  | .ne => a != b
  | .lt => decide (a < b)
  | .le => decide (a ≤ b)
  | .gt => decide (b < a)
  | .ge => decide (b ≤ a)
  | .num => true
  | .nan => false

/-- The token of a number: t1 to t3 (R41). -/
def Team.token (t : Team) (k : Nat) : BitVec 6 :=
  match k with
  | 1 => t.t1
  | 2 => t.t2
  | 3 => t.t3
  | _ => 0
/-- Raise a token by 1 at issue; number 0 is no token (R41). -/
def Team.raise (t : Team) (k : Nat) : Team :=
  match k with
  | 1 => { t with t1 := t.t1 + 1 }
  | 2 => { t with t2 := t.t2 + 1 }
  | 3 => { t with t3 := t.t3 + 1 }
  | _ => t
/-- Lower a token by 1 when the instruction completes (R41). -/
def Team.lower (t : Team) (k : Nat) : Team :=
  match k with
  | 1 => { t with t1 := t.t1 - 1 }
  | 2 => { t with t2 := t.t2 - 1 }
  | 3 => { t with t3 := t.t3 - 1 }
  | _ => t

/-- The bit of the run's raised tokens that a scoreboard set field adds (R41). -/
def tokenBit (k : Nat) : BitVec 3 :=
  match k with
  | 1 => 1
  | 2 => 2
  | 3 => 4
  | _ => 0

end Sys2Proof.Machine
end

