-- ==== Sys2Proof/Machine/Issue.lean ====
section
/-! DEFINITION. How a lane instruction issues: the checks every one makes, the register scoreboard, stall distances, tokens,
and what follows it in its run (R30 to R41, R249, R266, R302, R337, R338, R356). -/

namespace Sys2Proof.Machine

/-- What an instruction's own rule makes of it once the common checks have passed. -/
inductive LaneRes where
  | results (lat : Nat) (ws : List LaneWrite)    -- fixed latency: results written `lat` cycles later (R39)
  | issued (s : State) (ins : Inflight)          -- variable latency: performed in `s`, completes later (R41)
  | effect (s : State)                           -- performed and complete at issue: its token is raised and lowered there
  | trap (tr : Trap)
  | trapIn (s : State) (tr : Trap)               -- a trap, with what its translations have set in `s` (R165)
  | hold (s : State)                             -- held at issue; nothing performed
  | requeue (s : State)                          -- waits at issue and ends the grant (R356)
  | gate                                         -- a commit gate (R54)
  | stop (f : Fault)

/-- Latencies of R39. -/
def latInt : Nat := 4
def latF32 : Nat := 6
def latF64 : Nat := 8
def latFunc : Nat := 12
def latCross : Nat := 8

/-- Insert a result before the ones due later; equal times keep the order of issue. -/
def insertDue (p : Pend) : List Pend → List Pend
  | [] => [p]
  | q :: rest => if p.due < q.due then p :: q :: rest else q :: insertDue p rest

/-- Results in the order in which they become readable, so that of two for one register the later remains (DESIGN CHOICE, log 43: R39 does
not say which of two results of one run remains). -/
def sortDue (ps : List Pend) : List Pend := ps.foldl (fun acc p => insertDue p acc) []

/-- Write results into the lanes. -/
def Team.land (t : Team) (ps : List Pend) : Team := (sortDue ps).foldl (fun t p => t.putLanes p.writes) t

/-- The team as an instruction at this time of the run reads it (R39): every result due is written, every other register
still holds its previous value. -/
def Team.landDue (t : Team) (a : Active) : Team := t.land (a.pend.filter (fun p => p.due ≤ a.time))

/-- The team with every result of its granted run written (R34, R39). -/
def Team.landAll (t : Team) : Team :=
  match t.active with
  | none => t
  | some a => { t.land a.pend with active := some { a with pend := [] } }

/-- An instruction reads a register whose last producer in the run is not yet readable (R40). An instruction whose guards are false in
every lane counts as a producer (DESIGN CHOICE, log 43: R40 and R65 do not say whether it does). -/
def tooEarly (a : Active) (i : Instr) : Bool :=
  a.pend.any (fun p => a.time < p.due && p.dsts.any (fun r => (laneReads i).contains r))

/-- The tile registers of a core that unfinished instructions of the block of team `k` are still to write: those of every
team of the block on that core, and those of a pair operation that names the core (R75, R373). -/
def State.pendingTiles (s : State) (k core : Nat) : List Nat :=
  (s.blockTeams (teamBlock k)).flatMap (fun j =>
    (s.teamAt j).inflight.flatMap (fun f =>
      match f.until_ with
      | .array cs _ => if cs.contains core then f.tiles else []
      | _ => if (s.teamAt j).core = core then f.tiles else []))

/-- The tile registers that an instruction reads or writes on the follower of its pair: a pair operation's C and D (R372). -/
def followerTiles (i : Instr) : List Nat :=
  match i with
  | .mmaPair _ _ d _ _ t _ => [d, t]
  | _ => []

/-- The instruction reads or writes a pending destination of an unfinished variable-latency instruction, on its own core or on the
follower's (R75, R302, R337, R356, R372). -/
def State.pendingHit (s : State) (k : Nat) (i : Instr) : Bool :=
  let t := s.teamAt k
  t.inflight.any (fun f => f.dsts.any (fun r => (laneReads i).contains r || (laneWrites i).contains r)) ||
    (s.pendingTiles k t.core).any (fun x => (laneTiles i).contains x) ||
    (followerTiles i).any (fun x => (s.pendingTiles k (s.partner t.core)).contains x)

/-- A token named in a wait mask is not 0 (R41). -/
def Team.waitsToken (t : Team) (waits : BitVec 3) : Bool :=
  (List.range 3).any (fun j => waits.getLsbD j && t.token (j + 1) != 0)

/-- The instruction may not issue yet: a pending destination, or a token that it waits for. Its run was granted without this instruction
being known, where its code could not yet be fetched; a run known whole was granted with every token at 0 (R41, DEDUCED, log 15). -/
def State.issueHeld (s : State) (k : Nat) (i : Instr) (c : Ctl) : Bool :=
  (s.teamAt k).waitsToken (BitVec.ofNat 3 c.wait) || s.pendingHit k i

/-- The bytes that a lane instruction occupies in the packed stream (R108). -/
def laneSize (i : Instr) : Nat :=
  match encodeLane i with
  | some w => (packedBytes w).length
  | none => 0

/-- Add a token and an unfinished instruction to the team. -/
def Team.launchIns (t : Team) (f : Inflight) : Team :=
  { t.raise f.tok with inflight := t.inflight ++ [{ f with n := t.nextIns }], nextIns := t.nextIns + 1 }

/-- The granted run after an instruction has issued (R31, R33, R39). -/
def Active.step (a : Active) (c : Ctl) (size p : Nat) (pend : List Pend) : Active :=
  { a with
    lpc := a.lpc + BitVec.ofNat 64 size
    count := a.count + 1
    time := a.time + p + c.stall
    run := { a.run with raised := a.run.raised ||| tokenBit c.set }
    pend := pend
    finished := c.boundary }

/-- The instruction has issued: the team `t` holds its effect on the lanes; results due later are in `new`. -/
def issueDone (s : State) (t : Team) (a : Active) (i : Instr) (c : Ctl) (new : List Pend) : Out :=
  let rest := a.pend.filter (fun p => a.time < p.due)
  .next (s.setTeam { t.proceed false s.clock with
                       active := some (a.step c (laneSize i) (passes t.mask) (rest ++ new)), gated := false, held := false
                       waited := none })

/-- The remainder of the granted run from its next instruction, as a run of its own (R38). It goes on counting toward the 24 instructions
of R33 and keeps the tokens that the run has raised for R41 (DESIGN CHOICE, log 15: R38 does not say whether a run of its own begins
both anew). -/
def Active.remainder (a : Active) : RunEntry := { a.run with addr := a.lpc, done := a.count }

/-- A lane instruction, or the fetch of one, traps: earlier instructions have retired, and the remainder of the run is set
aside with the runs behind it (R38, R384). -/
def laneTrap (s : State) (a : Active) (tr : Trap) : Out :=
  let t := s.team.landAll
  .next (takeTrap (s.setTeam t) s.cur tr t.spc a.lpc (a.remainder :: t.runs.tail))

/-- The remainder of a granted run re-enters arbitration (R38, R356). -/
def State.endGrant (s : State) (k : Nat) : State :=
  let t := (s.teamAt k).landAll
  match t.active with
  | none => s
  | some a => (s.freeDatapath k).setTeamAt k { t with active := none, runs := a.remainder :: t.runs.tail, held := false }

/-- An illegal-instruction trap of a lane instruction: the handler's mask is the mask in force (R266). -/
def illegalLane (t : Team) (detail : Nat) : Trap :=
  { cause := 0x01, detail := detail, lanes := t.mask, lane := t.activeLanes.headD 0 }

/-- A stall-check trap (R40): the handler's mask is the executing lanes, or the mask in force where none executes (DEDUCED, log 10). -/
def stallTrap (t : Team) (c : Ctl) : Trap :=
  let ex := t.execLanes c
  let ps := if ex.isEmpty then t.activeLanes else ex
  { cause := 0x0B, lanes := maskOf ps, lane := ps.headD 0 }

/-- Issue a lane instruction whose own rule is `body`: the rule sees the team as the instruction reads it, and the
positions that execute it. -/
def laneIssue (i : Instr) (c : Ctl) (body : State → Team → Active → List Nat → LaneRes) (s : State) : Out :=
  let t := s.team
  match t.active with
  | none => .next s
  | some a =>
    if a.finished then .next s
    else if laneOutside i s.kernel.regs s.kernel.tiles then laneTrap s a (illegalLane t 0x06)
    else if BitVec.ofNat 3 c.wait &&& a.run.raised != 0 then laneTrap s a (illegalLane t 0x09)
    else if s.issueHeld s.cur i c then .next (s.setTeam { t with held := true })
    else
      let t := t.landDue a
      if t.stallchk && passes t.mask != 0 && tooEarly a i then laneTrap s a (stallTrap t c)
      else
        match body (s.setTeam t) t a (t.execLanes c) with
        | .results lat ws =>
          let t := if c.set = 0 then t else t.launchIns { n := 0, tok := c.set }
          issueDone s t a i c [{ due := a.time + lat, dsts := laneWrites i, writes := ws }]
        | .issued s' ins => issueDone s' (s'.team.launchIns { ins with tok := c.set }) a i c []
        | .effect s' =>
          issueDone s' s'.team a i c []
        | .trap tr => laneTrap s a tr
        | .trapIn s' tr => laneTrap { s' with teams := s.teams } a tr
        | .hold s' => .next (s'.setTeam { s'.team with held := true })
        | .requeue s' => .next (s'.endGrant s.cur)
        | .gate => .next (s.setTeam { t.atGate s.clock with active := some { a with pend := a.pend.filter (fun p => a.time < p.due) } })
        | .stop f => .fault f

/-- A fixed-latency instruction: each executing lane's writes, from its operands (R39, R249). -/
def laneFixed (i : Instr) (c : Ctl) (lat : Nat) (f : Team → Active → Nat → List LaneWrite) (s : State) : Out :=
  laneIssue i c (fun _ t a ex => .results lat (ex.flatMap (fun p => f t a p))) s

/-- A trap of a team instruction: every executing lane (R355). -/
def teamTrap (cause detail : Nat) (addr : Word64) (ex : List Nat) : LaneRes :=
  .trap { cause := cause, detail := detail, addr := addr, lanes := maskOf ex, lane := ex.headD 0 }

end Sys2Proof.Machine
end

