-- ==== Sys2Proof/Machine/Translate.lean ====
section
/-! DEFINITION. Translation: page-table entries, the walk, the TLB and the walk cache, accessed and dirty updates, physical
places, and instruction fetch (R102, R107 to R110, R160 to R169). -/

namespace Sys2Proof.Machine

/-- What an access asks of a translation (R164). -/
inductive Access where
  | read
  | write
  | code
  deriving DecidableEq, Repr, Inhabited

/-- The outcome of a translation. `fault` carries the detail of R383 without its write and code bits. -/
inductive Xl where
  | ok (pa tier dev : Nat) (mc : Bool)
  | fault (detail : Nat)
  | migrating
  | gate
  deriving DecidableEq, Repr, Inhabited

/-- Who translates: the core, the virtual function, the address space, its root, and whether in supervisor state. `prov`
says that setting an accessed bit is a commit gate (R54). -/
structure Who where
  core : Nat
  vf : Nat
  asid : Nat
  root : Word64
  sup : Bool
  prov : Bool
  deriving DecidableEq, Repr, Inhabited

/-- Canonical addresses: bits [63:57] equal bit 56 (R102). -/
def canonical (va : Word64) : Bool :=
  let hi := va.toNat / 2 ^ 56
  hi == 0 || hi == 255

/-! ### Page-table entries (R161, R162) -/

def pteBit (e : Word64) (k : Nat) : Bool := e.getLsbD k
def pteValid (e : Word64) : Bool := pteBit e 0
def pteLeaf (e : Word64) : Bool := pteBit e 1
def pteTier (e : Word64) : Nat := bitsOf e.toNat 50 2
def pteDev (e : Word64) : Nat := bitsOf e.toNat 52 12
/-- The physical address in bits [49:12]. -/
def ptePhys (e : Word64) : Nat := bitsOf e.toNat 12 38 * 4096

/-- log2 of the page size of a leaf (R162). -/
def leafBits (e : Word64) (level : Nat) : Nat :=
  match level with
  | 2 => 30
  | 1 => 21
  | _ => if pteBit e 9 then 16 else 12

/-- A malformed entry (R162). -/
def pteMalformed (e : Word64) (level : Nat) : Bool :=
  pteBit e 11 ||
    (if pteLeaf e then
      3 ≤ level || (1 ≤ level && pteBit e 9) || ptePhys e % 2 ^ leafBits e level != 0 ||
        (pteTier e != 1 && pteDev e != 0 && !pteBit e 7)
    else bitsOf e.toNat 2 8 != 0 || pteTier e != 0 || pteDev e != 0)

/-- The index of level n in a virtual address (R162). -/
def vaIndex (va : Word64) (level : Nat) : Nat := bitsOf va.toNat (12 + 9 * level) 9
/-- The virtual-address bits above a level's index, the tag of a walk-cache entry for that level's table (R167). -/
def vaTag (va : Word64) (level : Nat) : Nat := bitsOf va.toNat (21 + 9 * level) (36 - 9 * level)

/-- The end of a walk: the leaf's address, value and level with the tables used, or a fault detail. -/
inductive Walk where
  | leaf (addr : Nat) (e : Word64) (level : Nat) (tables : List (Nat × Nat))
  | fault (detail : Nat)
  deriving DecidableEq, Repr, Inhabited

/-- Walk from the table at `table` of level `level` down (R162); `fuel` is at least level + 1. -/
def walkFrom (m : Memory) (va : Word64) : Nat → Nat → Nat → List (Nat × Nat) → Walk
  | 0, _, _, _ => .fault 0x08
  | fuel + 1, level, table, used =>
    let addr := table + 8 * vaIndex va level
    let e := BitVec.ofNat 64 (m.readNat addr 8)
    if !pteValid e then .fault 0x00
    else if pteMalformed e level then .fault 0x08
    else if pteLeaf e then .leaf addr e level used
    else if level = 0 then .fault 0x08
    else walkFrom m va fuel (level - 1) (ptePhys e) (used ++ [(level - 1, ptePhys e)])

/-- The deepest cached table for an address, or the root (R167). -/
def walkStart (c : Core) (w : Who) (va : Word64) : Nat × Nat :=
  let hit (level : Nat) : Option Nat :=
    (c.walk.find? (fun e => e.vf == w.vf && e.asid == w.asid && e.level == level && e.tag == vaTag va level)).map (·.table)
  match hit 0, hit 1, hit 2, hit 3 with
  | some t, _, _, _ => (0, t)
  | none, some t, _, _ => (1, t)
  | none, none, some t, _ => (2, t)
  | none, none, none, some t => (3, t)
  | none, none, none, none => (4, ptePhys w.root)

/-- Walk for an address with the core's walk cache; the entry from which it starts is used again, so it counts among the tables
(R162, R167). -/
def State.walk (s : State) (w : Who) (va : Word64) : Walk :=
  let (level, table) := walkStart (s.coreAt w.core) w va
  walkFrom s.mem va (level + 1) level table (if level = 4 then [] else [(level, table)])

/-! ### The TLB -/

/-- The entry serves an address of the address space (R163, R167). -/
def TlbEntry.serves (e : TlbEntry) (w : Who) (va : Word64) : Bool :=
  e.vf == w.vf && (e.glob || e.asid == w.asid) && va.toNat / 2 ^ e.bits == e.page / 2 ^ e.bits

/-- The physical address of a virtual one through an entry. -/
def TlbEntry.phys (e : TlbEntry) (va : Word64) : Nat := e.pa + va.toNat % 2 ^ e.bits

/-- The TLB entry that a leaf fills (R163, R167). -/
def tlbOfLeaf (w : Who) (va : Word64) (addr : Nat) (e : Word64) (level : Nat) : TlbEntry where
  vf := w.vf
  asid := w.asid
  glob := pteBit e 8
  page := va.toNat / 2 ^ leafBits e level * 2 ^ leafBits e level
  bits := leafBits e level
  pa := ptePhys e
  tier := pteTier e
  dev := pteDev e
  write := pteBit e 2
  code := pteBit e 3
  sup := pteBit e 10
  mc := pteBit e 7
  dirty := pteBit e 5
  leaf := addr
  leafVal := e

/-- The permission checks of R164 after the walk, in order: a fault detail, or none. -/
def permFault (sup write code : Bool) (w : Who) (k : Access) : Option Nat :=
  if sup && !w.sup then some 1
  else match k with
    | .write => if write then none else some 1
    | .code => if code then none else some 1
    | .read => none

/-- Put an entry first in a table of at most `cap` entries, least recently used last (R167). -/
def lruPut {α : Type} (cap : Nat) (same : α → Bool) (x : α) (xs : List α) : List α :=
  (x :: xs.filter (fun y => !same y)).take cap

def State.tlbPut (s : State) (w : Who) (e : TlbEntry) : State :=
  let c := s.coreAt w.core
  s.setCoreAt w.core { c with tlb := lruPut 2048 (fun y => y.vf == e.vf && y.asid == e.asid && y.glob == e.glob && y.page == e.page && y.bits == e.bits) e c.tlb }

def State.walkPut (s : State) (w : Who) (va : Word64) (tables : List (Nat × Nat)) : State :=
  let c := s.coreAt w.core
  s.setCoreAt w.core
    { c with walk := tables.foldl (fun acc lt =>
        lruPut 256 (fun y : WalkEntry => y.vf == w.vf && y.asid == w.asid && y.level == lt.1 && y.tag == vaTag va lt.1)
          { vf := w.vf, asid := w.asid, level := lt.1, tag := vaTag va lt.1, table := lt.2 } acc) c.walk }

/-- Set bits of a leaf in memory: an 8-byte compare-and-swap against the value read (R165). The walk and the update are one
step here, so the entry has not changed in between. -/
def State.pteOr (s : State) (addr : Nat) (e bits : Word64) : State :=
  { s with mem := s.mem.writeNat addr 8 (e ||| bits).toNat }

/-- A translation that misses the TLB walks (R162 to R166, R54). The supervisor bit is tested in the leaf alone: that of a
non-leaf entry is no leaf-only bit and has no stated effect on the pages below it (R161, DESIGN CHOICE, log 41). -/
def State.translateWalk (s : State) (w : Who) (va : Word64) (k : Access) : Xl × State :=
  match s.walk w va with
  | .fault d => (.fault d, s)
  | .leaf addr e level tables =>
    match permFault (pteBit e 10) (pteBit e 2) (pteBit e 3) w k with
    | some d => (.fault d, s)
    | none =>
      if pteBit e 6 then (.migrating, s)
      else if w.prov && !pteBit e 4 then (.gate, s)
      else
        let e' := e ||| 0x10 ||| (if k = .write then 0x20 else 0)
        let s := if e' = e then s else s.pteOr addr e e'
        let t := tlbOfLeaf w va addr e' level
        (.ok (t.phys va) t.tier t.dev t.mc, (s.walkPut w va tables).tlbPut w t)

/-- Translate one address (R164, R165, R169). -/
def State.translate (s : State) (w : Who) (va : Word64) (k : Access) : Xl × State :=
  if !canonical va then (.fault 0x00, s)
  else
    match (s.coreAt w.core).tlb.find? (fun e => e.serves w va) with
    | none => s.translateWalk w va k
    | some e =>
      match permFault e.sup e.write e.code w k with
      | some d => (.fault d, s)
      | none =>
        if k = .write && !e.dirty then
          if BitVec.ofNat 64 (s.mem.readNat e.leaf 8) = e.leafVal then
            let e' := { e with dirty := true, leafVal := e.leafVal ||| 0x20 }
            (.ok (e.phys va) e.tier e.dev e.mc, (s.pteOr e.leaf e.leafVal 0x20).tlbPut w e')
          else s.translateWalk w va k
        else (.ok (e.phys va) e.tier e.dev e.mc, s.tlbPut w e)

/-- Who the current team is for a translation. -/
def State.who (s : State) : Who where
  core := s.team.core
  vf := teamVf s.cur
  asid := teamAsid s.cur
  root := s.ctx.root
  sup := s.team.sup
  prov := s.block.prov

/-! ### Physical places -/

/-- The number of this device in the domain (R407, R408). -/
def State.ownDevice (s : State) : Nat := bitsOf s.devNumber.toNat 0 12

/-- The region in use of the pool window that holds an address of it (R417, R418). -/
def State.poolRegion (s : State) (pa : Nat) : Option PoolRegion :=
  s.pool.find? (fun r => r.st != 0 && decide (r.window * 2 ^ 30 ≤ pa) && decide (pa < (r.window + r.size) * 2 ^ 30))

/-- The first key of the memory behind a host port, by bus address, and of the CXL address space behind it, by fabric address.
Each port has its own, of 64-bit addresses (R17, R405, DESIGN CHOICE, log 40: a byte that a host shows at both ports is two). -/
def hostBase (port : Nat) : Nat := 2 ^ 64 * (1 + port)
def fabricBase (port : Nat) : Nat := 2 ^ 64 * (4 + 2 * port)

/-- The key of a byte of the pool window: its place in the fabric, which a region keeps wherever it stands in the window (R19,
R418). -/
def State.poolKey (s : State) (pa : Nat) : Nat :=
  match s.poolRegion pa with
  | some r => fabricBase (if r.port then 1 else 0) + r.base * 2 ^ 30 + (pa - r.window * 2 ^ 30)
  | none => 2 ^ 68 + pa

/-- The key of a physical byte in `mem`: local device memory by its physical address, and the memories of other devices, of the
hosts behind the two ports and of the CXL pool above it (R17). -/
def physKey (s : State) (vf pa tier dev : Nat) : Nat :=
  match tier with
  | 0 => pa
  | 1 => if dev = s.ownDevice then pa else pa + 2 ^ 50 * (1 + dev)
  | 2 => hostBase (s.vfAt vf).port + pa
  | _ => s.poolKey pa

/-- The local device memory has 512 GiB (R16, R17). -/
def localSize : Nat := 2 ^ 39

/-- The key of a local physical address that no memory has (DESIGN CHOICE, log 39). -/
def noMemory (key : Nat) : Bool := decide (localSize ≤ key) && decide (key < 2 ^ 50)

/-- The home die of a line of local memory or of a pool region (R18, R103). -/
def homeDie (pa : Nat) : Nat := (bitsOf pa 12 3 ^^^ bitsOf pa 21 3) / 2

/-! ### Places of accesses (R17, R350, R351, R417) -/

/-- How a thread access uses a global location (R350, R351). -/
inductive Use where
  | read
  | write
  | atomic (host : Bool)     -- `host`: one of the operations that the host performs (R351)
  deriving DecidableEq, Repr, Inhabited

/-- The device can be reached over the Dravnis ports: it lies in the domain, is not fenced off, this device has not
isolated itself, and some permitted port is up (R214, R419 to R422). -/
def State.reachable (s : State) (dev : Nat) : Bool :=
  dev == s.ownDevice ||
    (!s.fenced.contains dev && !s.isolated && decide (dev < s.routes.length) && s.routes.getD dev 0 &&& ~~~ s.linkDown != 0)

/-- A pool region in use holds the address (R417, R418). -/
def State.poolHolds (s : State) (pa : Nat) : Bool := (s.poolRegion pa).isSome

/-- The devices of a multicast group of a context (R350, R421). -/
def Ctx.members (x : Ctx) (g : Nat) : List Nat := ((x.groups.find? (fun m => m.num == g)).map (·.members)).getD []

/-- Where an access that is not of multicast kind is performed, or the detail of its page fault (R350, R351, R417). A multicast
page is read at the device's own copy, whatever tier its leaf names. -/
def State.place (s : State) (c pa tier dev : Nat) (mc : Bool) (u : Use) : Except Nat Nat :=
  let vf := ctxVf c
  if mc then
    if u = .read ∧ ((s.ctxAt c).members dev).contains s.ownDevice then .ok (physKey s vf pa 0 0) else .error 1
  else
    match tier with
    | 0 => .ok (physKey s vf pa 0 0)
    | 1 => if s.reachable dev then .ok (physKey s vf pa 1 dev) else .error 0x11
    | 2 => if u = .atomic false then .error 1 else .ok (physKey s vf pa 2 0)
    | _ => if s.poolHolds pa then .ok (physKey s vf pa 3 0) else .error 1

/-! ### Instruction fetch -/

/-- The end of a fetch of some bytes: the bytes, or the offset of the first byte that failed and why. -/
inductive Fetch where
  | bytes (bs : List Byte)
  | failed (off : Nat) (x : Xl)
  deriving DecidableEq, Repr, Inhabited

/-- Fill a granule from one moment of memory (R107, R109): like a read, it needs the place that holds the code (R350, R351, R417,
R420). -/
def State.fillGranule (s : State) (w : Who) (lane : Bool) (ctx va : Nat) : Except Xl (Granule × State) :=
  match s.translate w (BitVec.ofNat 64 va) .code with
  | (.ok pa tier dev mc, s) =>
    match s.place ctx pa tier dev mc .read with
    | .ok key => .ok ({ lane := lane, ctx := ctx, va := va, bytes := s.mem.readBytes key 64 }, s)
    | .error d => .error (.fault d)
  | (x, _) => .error x

/-- The bytes of the granule at `va`, from the core's instruction cache, from what the team still holds expanded, or by a
fill. A granule so held that differs from memory may be read or not: a free value for the granule and the fetch decides, so that
one fetch finds it wholly old or wholly new (R109, R222, DESIGN CHOICE, log 7). `base` is the number of the fetch. -/
def State.granule (s : State) (w : Who) (lane : Bool) (ctx base va : Nat) : Except Xl (List Byte × State) :=
  let c := s.coreAt w.core
  let is (y : Granule) : Bool := y.lane == lane && y.ctx == ctx && y.va == va
  let put (g : Granule) (s : State) : List Byte × State :=
    let c := s.coreAt w.core
    (g.bytes, s.setCoreAt w.core { c with icache := g :: c.icache.filter (fun y => !is y) })
  match (c.icache ++ s.team.expanded).find? is with
  | none =>
    match s.fillGranule w lane ctx va with
    | .ok (g, s) => .ok (put g s)
    | .error x => .error x
  | some g =>
    match s.fillGranule w lane ctx va with
    | .ok (g', s') =>
      if g'.bytes = g.bytes then .ok (put g' s')
      else if Config.icacheKeeps base va then .ok (g.bytes, { s with fresh := base + 1 })
      else .ok (put g' { s' with fresh := base + 1 })
    | .error x =>
      if x = .fault 1 ∨ x = .fault 0x11 then .error x
      else if Config.icacheKeeps base va then .ok (g.bytes, { s with fresh := base + 1 })
      else .error x

/-- Fetch `n` bytes from `va` through the granules that hold them (R109, R110): `fuel` is at least their number, and `off` counts
from the start. -/
def State.fetchBytes (s : State) (w : Who) (lane : Bool) (ctx base : Nat) : Nat → Nat → Nat → Nat → List Byte → Fetch × State
  | 0, _, _, _, acc => (.bytes acc, s)
  | fuel + 1, va, n, off, acc =>
    if n = 0 then (.bytes acc, s)
    else
      match s.granule w lane ctx base (va / 64 * 64) with
      | .error x => (.failed off x, s)
      | .ok (g, s') =>
        let m := min n (64 - va % 64)
        State.fetchBytes s' w lane ctx base fuel ((va + m) % 2 ^ 64) (n - m) (off + m)
          (acc ++ (List.range m).map (fun i => g.getD (va % 64 + i) 0))

/-- log2 of the size of the page that holds an address, 4 KiB where nothing maps it. -/
def State.pageBits (s : State) (w : Who) (va : Word64) : Nat :=
  match (s.coreAt w.core).tlb.find? (fun e => e.serves w va) with
  | some e => e.bits
  | none =>
    match s.walk w va with
    | .leaf _ e level _ => leafBits e level
    | .fault _ => 12

/-- The `n` bytes from an address cross a page boundary (R110). -/
def State.straddles (s : State) (w : Who) (va n : Nat) : Bool :=
  let size := 2 ^ s.pageBits w (BitVec.ofNat 64 va)
  decide (size < va % size + n)

end Sys2Proof.Machine
end

