-- ==== Sys2Proof/Machine/Fetch.lean ====
section
/-! DEFINITION. Fetching the next instruction of a stream, with the faults of R33, R107, R108, R110, R266 and R267, and
placing an instruction where a stream fetches it. -/

namespace Sys2Proof.Machine

/-- What the next move of a stream is: an instruction, or an outcome that ends the move. -/
inductive Fetched where
  | run (i : Instr) (s : State)
  | out (o : Out)

/-- The team cannot move: it has ended, its context has failed, its block is saved, it waits for the tenant core, for
confirmation of its trap, or is held on a migrating page and may not walk again yet (R54, R166, R387, R393, R398). -/
def State.stopped (s : State) : Bool :=
  let t := s.team
  !s.teams.has s.cur || t.ended || t.saved || t.escalated.isSome || t.heldTrap.isSome || s.ctx.failed || s.block.st != .running ||
    (t.hold.isSome && !t.rewalk)

/-- Begin or continue a migration hold: nothing of the access is performed, and `tr` is what it raises past the migration
limit (R166, R383). -/
def State.holdFor (s : State) (tr : Trap) : State :=
  let t := s.team
  s.setTeam { t with hold := some (t.hold.getD s.clock), rewalk := false, holdTrap := some tr }

/-- The page-fault trap of a scalar fetch or of a scalar instruction's translation (R164, R383). -/
def scalarXl (s : State) (x : Xl) (bits : Nat) (addr : Word64) : Out :=
  match x with
  | .fault d => scalarTrap s 0x07 (d + bits) addr
  | .migrating => .next (s.holdFor { cause := 0x07, detail := 2 + bits, addr := addr, lanes := s.team.mask, scalar := true })
  | .gate => gateHere s
  | .ok .. => .next s

/-- A team holds no granted run, or its run is held at issue: it is at a run boundary for a cancel, the watchdog and a
save (R189, R389, R393). -/
def Team.atBoundary (t : Team) : Bool :=
  match t.active with
  | none => true
  | some _ => t.held || t.gated || t.hold.isSome

/-- The instructions of a run from an address to the boundary bit, as far as they can be fetched and decoded (R109). -/
def State.runInstrs (s : State) (k : Nat) : Nat → Word64 → List Instr
  | 0, _ => []
  | fuel + 1, lpc =>
    let s := { s with cur := k }
    match s.fetchBytes s.who true (teamCtx k) s.fresh 2 lpc.toNat 2 0 [] with
    | (.failed _ _, _) => []
    | (.bytes hs, _) =>
      let h := leNat hs
      if !headerOk h then []
      else
        match s.fetchBytes s.who true (teamCtx k) s.fresh 16 ((lpc.toNat + 2) % 2 ^ 64) (h / 4096) 2 [] with
        | (.failed _ _, _) => []
        | (.bytes bs, _) =>
          match (match unpackBytes h bs with
            | .error _ => none
            | .ok w => (decodeLane w).toOption) with
          | none => []
          | some i =>
            i :: (if ((ctl? i).map (·.boundary)).getD true then []
              else State.runInstrs s k fuel (lpc + BitVec.ofNat 64 (2 + h / 4096)))

/-- The instructions of a run are known to its end: to the boundary bit, or to the last of the `left` that it may still have (R33). -/
def wholeRun (left : Nat) (is : List Instr) : Bool :=
  decide (left ≤ is.length) || ((is.getLast?.bind ctl?).map (·.boundary)).getD false

/-- The interlock of R35: a run of the current team that is queued or executing, and so was enqueued before, reads the scalar
register that the instruction writes, or its code cannot be read to its end now and so may (DEDUCED, log 15). -/
def State.interlocked (s : State) (i : Instr) : Bool :=
  match scalarDest i with
  | none => false
  | some d =>
    d != 0 && (match i with
      | .call q neg _ => condHolds s.team q neg
      | _ => true) &&
    s.team.runs.any (fun r =>
      let is := s.runInstrs s.cur 24 r.start
      is.any (fun j => (laneSregs j).contains d) || !wholeRun 24 is)

/-- Fetch and decode at SPC (R107, R264, R267). A write of a scalar register waits for the runs that read it (R35). -/
def fetchAtSpc (s : State) : Fetched :=
  let t := s.team
  if t.spc.toNat % 4 ≠ 0 then .out (scalarTrap s 0x05 0x00 t.spc)
  else
    match s.fetchBytes s.who false (teamCtx s.cur) s.fresh 4 t.spc.toNat 4 0 [] with
    | (.failed _ x, s) => .out (scalarXl s x 0x40 t.spc)
    | (.bytes bs, s) =>
      match decodeScalar (BitVec.ofNat 32 (leNat bs)) with
      | .error d => .out (scalarTrap s 0x01 d.detail 0)
      | .ok i => if s.interlocked i then .out (.next s) else .run i s

/-- What a team may still fetch in the cycle of a cancel that has ended no member yet: an `EXIT`, which may complete the launch (R189,
DEDUCED, log 27). -/
def exitOnly (s : State) (f : Fetched) : Fetched :=
  match f with
  | .run .exit s' => .run .exit s'
  | _ => .out (.next s)

/-- The scalar stream's next instruction. A team that is to take its cancel or watchdog trap here, or to be saved, does not go on
(R189, R291, R389, R393). -/
def fetchScalar (s : State) : Fetched :=
  let t := s.team
  let b := s.block
  if t.cancelDue || (b.squashDue && t.active.isNone) || s.saveHolds (teamBlock s.cur) then .out (.next s)
  else if b.ending.isSome && t.atBoundary then
    (if s.endsBad (teamBlock s.cur) then .out (.next s) else exitOnly s (fetchAtSpc s))
  else fetchAtSpc s

/-- A trap of the lane code stream: no lane raises it, so the mask stays as it is in force (R110, R384, DEDUCED, log 11). A fetch
fault reports the header's address, a code-format fault none (R84). -/
def codeFault (t : Team) (a : Active) (cause detail fbyte : Nat) (straddle : Bool) : Trap :=
  { cause := cause, detail := detail, addr := if cause = 0x07 then a.lpc else 0, lanes := t.mask, lane := t.activeLanes.headD 0,
    straddle := straddle, fbyte := fbyte }
def codeTrap (s : State) (a : Active) (cause detail fbyte : Nat) (straddle : Bool) : Out :=
  laneTrap s a (codeFault s.team a cause detail fbyte straddle)

/-- A fetch of lane code that failed (R110). -/
def laneXl (s : State) (a : Active) (x : Xl) (off : Nat) (straddle : Bool) : Out :=
  match x with
  | .fault d => codeTrap s a 0x07 (d + 0x40) off straddle
  | .migrating => .next (s.holdFor (codeFault s.team a 0x07 0x42 off straddle))
  | .gate => gateHere s
  | .ok .. => .next s

/-- The defect of a lane word with the checks that depend on the team, the lowest detail of all (R266, DEDUCED, log 9). -/
def laneWordDetail (s : State) (w : BitVec 96) (d : IllegalWord) : Nat :=
  match laneShape w with
  | some i => if laneOutside i s.kernel.regs s.kernel.tiles then min 0x06 d.detail else d.detail
  | none => d.detail

/-- A lane of an instruction with an order that is not relaxed, or of a scratchpad atomic, has not performed: no later lane instruction of
the team issues before it (R205). -/
def State.strongPending (s : State) (k : Nat) : Bool := s.ops.any (fun o => o.team == k && o.strong)

/-- Fetch and decode at LPC (R33, R108, R110, R265, R267). -/
def fetchLane (s : State) : Fetched :=
  let t := s.team
  match t.active with
  | none => .out (.next s)
  | some a =>
    if a.finished || s.strongPending s.cur then .out (.next s)
    else if 24 ≤ a.count then .out (codeTrap s a 0x02 0x03 0 false)
    else
      let at_ := a.lpc.toNat
      let c := teamCtx s.cur
      let base := s.fresh
      match s.fetchBytes s.who true c base 2 at_ 2 0 [] with
      | (.failed off x, s) => .out (laneXl s a x off (s.straddles s.who at_ 2))
      | (.bytes hs, s) =>
        let h := leNat hs
        if !headerOk h then .out (codeTrap s a 0x02 0x01 0 false)
        else
          let n := h / 4096
          match s.fetchBytes s.who true c base 16 ((at_ + 2) % 2 ^ 64) n 2 [] with
          | (.failed off x, s) => .out (laneXl s a x off (s.straddles s.who at_ (2 + n)))
          | (.bytes bs, s) =>
            match unpackBytes h bs with
            | .error _ => .out (codeTrap s a 0x02 0x02 0 false)
            | .ok w =>
              match decodeLane w with
              | .error d => .out (laneTrap s a (illegalLane t (laneWordDetail s w d)))
              | .ok i => .run i s

/-! ### Placing an instruction -/

/-- The code page of a placed instruction, and the handler of its context. -/
def placeVa : Nat := 0x100000
def placeTrapBase : Word64 := 0x200000

/-- A context, page tables that map the lowest GiB to itself, a launch of one block of one team, and a page of code that
holds the bytes: the state in which the team's stream fetches them next. -/
def placeBytes (s : State) (lane : Bool) (bytes : List Byte) : State :=
  let mem := (((s.mem.writeNat 0x10000 8 0x11001).writeNat 0x11000 8 0x12001).writeNat 0x12000 8 0x3F).writeBytes placeVa bytes
  let kernel : Kernel := { scalarBase := placeVa, laneBase := placeVa, regs := 1536, tiles := 24, scratch := 1572864,
                           chans := 16, wbuf := 524288 }
  let one : Counter := { status := 1, expected := 1 }
  let share : Share := { core := 0, slot := 0, tiles := List.replicate 24 [], chans := List.replicate 16 {} }
  let active : Active := { lpc := BitVec.ofNat 64 placeVa, run := { addr := BitVec.ofNat 64 placeVa, start := BitVec.ofNat 64 placeVa } }
  let team : Team :=
    { spc := BitVec.ofNat 64 placeVa
      qregs := 1
      lanes := [{ regs := List.replicate 1536 0 }]
      mask := 1
      nlive := 1
      runs := if lane then [active.run] else []
      active := if lane then some active else none }
  { s with
    mem := mem
    ctxs := s.ctxs.set 0 { root := 0x10000, trapBase := placeTrapBase, nextLaunch := 1 }
    launches := s.launches.set 0 { kernel := kernel, st := .started, ctr := one, mask := 1 }
    blocks := s.blocks.set 0 { shares := [share], bars := List.replicate 8 {}, place := [0] }
    teams := s.teams.set 0 team
    jobs := s.jobs.set 0 { ctr := one, phases := [{ ctr := one, graphs := [{ ctr := one, launches := [0] }] }] }
    cur := 0
    agenda := [if lane then .lane 0 else .scalar 0] }

end Sys2Proof.Machine
end

