-- ==== Sys2Proof/Machine/Firmware.lean ====
section
/-! DEFINITION. What the part's firmware agents do on behalf of a context: reads and writes in its address space, events
posted to the host, the trace and spoor logs, and the watch on shape words (R53, R55, R57 to R59, R157 to R159, R177 to
R180). -/

namespace Sys2Proof.Machine

/-! ### Writes to global memory -/

/-- A watched shape word holds its first value other than 0xFFFFFFFF: that is the launch's extent, published by write `no` (R52, R55). -/
def Launch.noteShape (m : Memory) (no : Nat) (l : Launch) : Launch :=
  match l.shape with
  | none => l
  | some sh =>
    if sh.watching && sh.ext.isNone then
      let x := m.readNat sh.phys 4
      if x = 0xFFFFFFFF then l else { l with shape := some { sh with ext := some x, extNo := no } }
    else l

/-- The place that a write which publishes a shape word takes in the order of such writes: behind every one so far (R176). -/
def State.nextExtNo (s : State) : Nat :=
  s.launches.foldl (fun n e => match e.2.shape with
    | some sh => max n (sh.extNo + 1)
    | none => n) 0

/-- Write bytes of global memory at a physical key. -/
def State.gwrite (s : State) (key : Nat) (bs : List Byte) : State :=
  let m := s.mem.writeBytes key bs
  { s with mem := m, launches := s.launches.mapVals (fun _ l => l.noteShape m s.nextExtNo) }
def State.gwriteNat (s : State) (key n x : Nat) : State := s.gwrite key (leBytes n x)

/-! ### A context's address space, for firmware -/

/-- Where firmware finds a virtual address of a context: the key of its byte and its tier, or why it does not. -/
inductive CtxXl where
  | ok (key tier : Nat)
  | fault
  | migrating
  deriving DecidableEq, Repr, Inhabited

/-- A virtual address of a context, translated in user state by its own walk (R53, R290), with the accessed bit set as any read
sets it (R165), and the place checked as for any access (R350, R351, R417). -/
def State.ctxPhys (s : State) (c : Nat) (va : Word64) (k : Access) : CtxXl × State :=
  let x := s.ctxAt c
  if !canonical va then (.fault, s)
  else
    match walkFrom s.mem va 5 4 (ptePhys x.root) [] with
    | .fault _ => (.fault, s)
    | .leaf addr e level _ =>
      let w : Who := { core := 0, vf := ctxVf c, asid := ctxAsid c, root := x.root, sup := false, prov := false }
      match permFault (pteBit e 10) (pteBit e 2) (pteBit e 3) w k with
      | some _ => (.fault, s)
      | none =>
        if pteBit e 6 then (.migrating, s)
        else
          let e' := e ||| 0x10 ||| (if k = .write then 0x20 else 0)
          let s := if e' = e then s else s.pteOr addr e e'
          let t := tlbOfLeaf w va addr e' level
          match s.place c (t.phys va) t.tier t.dev t.mc (if k = .write then .write else .read) with
          | .ok key => (.ok key t.tier, s)
          | .error _ => (.fault, s)

/-- Read bytes of a context's address space, one by one; none where a translation fails. -/
def State.ctxRead (s : State) (c : Nat) : Nat → Nat → Option (List Byte) × State
  | _, 0 => (some [], s)
  | va, n + 1 =>
    match s.ctxPhys c (BitVec.ofNat 64 va) .read with
    | (.ok key _, s) =>
      let (bs, s') := State.ctxRead s c (va + 1) n
      (bs.map (fun bs => s.mem.read key :: bs), s')
    | (_, s) => (none, s)

/-- Read `n` bytes as a little-endian number. -/
def State.ctxReadNat (s : State) (c va n : Nat) : Option Nat × State :=
  let (bs, s) := s.ctxRead c va n
  (bs.map leNat, s)

/-- Write bytes of a context's address space; a byte whose translation fails is not written. -/
def State.ctxWrite (s : State) (c : Nat) : Nat → List Byte → State
  | _, [] => s
  | va, x :: rest =>
    match s.ctxPhys c (BitVec.ofNat 64 va) .write with
    | (.ok key _, s) => State.ctxWrite (s.gwrite key [x]) c (va + 1) rest
    | (_, s) => State.ctxWrite s c (va + 1) rest

/-- An access of firmware to some bytes of a context's address space meets a migrating page, which holds it (R166): what it belongs to does
not happen yet. -/
def State.ctxHeld (s : State) (c va n : Nat) (k : Access) : Bool :=
  n != 0 && (List.range ((va % 4096 + n + 4095) / 4096)).any (fun i =>
    (s.ctxPhys c (BitVec.ofNat 64 (va / 4096 * 4096 + 4096 * i)) k).1 == .migrating)

/-! ### Events -/

/-- The key of a host bus address on the port of a virtual function (R405). -/
def State.hostKey (s : State) (vf addr : Nat) : Nat := hostBase (s.vfAt vf).port + addr % 2 ^ 64

/-- The event ring is enabled: a size from 4 to 16 (R406). -/
def VFun.ringOn (v : VFun) : Bool :=
  let n := v.ringSize.toNat % 32
  4 ≤ n && n ≤ 16

/-- Count an error in a job queue's sticky status (R157). -/
def stickyError (st : Word32) (code : Nat) : Word32 :=
  let n := st.toNat / 65536
  BitVec.ofNat 32 (min (n + 1) 0xFFFF * 65536 + (if n = 0 then code % 65536 else st.toNat % 65536))

/-- Count a queue error in the sticky status of its queue; any other event has no queue (R159). -/
def VFun.stick (v : VFun) (e : Event) : VFun :=
  if e.code = 0x000E then
    { v with queues := listUpd v.queues e.queue (fun q => { q with sticky := stickyError q.sticky e.detail.toNat }) }
  else v

/-- Post an event in the ring of a virtual function (R158, R159). With the ring disabled a queue error goes to the sticky status of
its queue, so that none is lost, and any other event has no effect (DESIGN CHOICE, log 46). -/
def State.post (s : State) (vf : Nat) (e : Event) : State :=
  let v := s.vfAt vf
  if !v.ringOn then s.setVfAt vf (v.stick e)
  else
    let n := 2 ^ (v.ringSize.toNat % 32)
    let hdr := s.hostKey vf v.ringHeader.toNat
    if (v.ringTail - v.ringHead.setWidth 32).toNat = n then
      let v := { v with irqs := v.irqs + 1 }.stick e
      let s := if e.code = 0x000E then s
        else s.gwriteNat (hdr + 20) 4 (min (s.mem.readNat (hdr + 20) 4 + 1) 0xFFFFFFFF)
      (s.gwriteNat (hdr + 8) 8 1).setVfAt vf v
    else
      let word := e.code % 65536 + e.queue % 64 * 2 ^ 16 + e.ctx % 65536 * 2 ^ 22 + e.detail.toNat * 2 ^ 64
      let tail := v.ringTail + 1
      let s := s.gwriteNat (s.hostKey vf (v.ringBase.toNat + 32 * (v.ringTail.toNat % n))) 32 word
      let s := s.gwriteNat hdr 8 tail.toNat
      s.setVfAt vf { v with ringTail := tail, events := v.events ++ [e], irqs := v.irqs + 1 }

/-! ### Record and replay -/

/-- The number of records that a log holds, and its capacity (R178). -/
def State.logCount (s : State) (c va : Nat) : Nat := (s.ctxReadNat c va 8).1.getD 0
def State.logCapacity (s : State) (c va : Nat) : Nat := (s.ctxReadNat c (va + 16) 8).1.getD 0
/-- Record `n` of a log, as a 128-bit number. -/
def State.logRecord (s : State) (c va n : Nat) : Nat := (s.ctxReadNat c (va + 64 + 16 * n) 16).1.getD 0

/-- The header of a log and its first `n` records have been read: the accessed bits of their pages are set (R165). -/
def State.readLog (s : State) (c va n : Nat) : State := ((s.ctxRead c va 24).2.ctxRead c (va + 64) (16 * n)).2
/-- The part cannot reach a log of a context that records or replays because a page of it migrates: what would be recorded, or compared
with it, does not happen yet (R166, DEDUCED, log 27). -/
def State.logHeld (s : State) (c va : Nat) : Bool :=
  match (s.ctxAt c).mode with
  | .free => false
  | .record => s.ctxHeld c va 24 .write || s.ctxHeld c (va + 64 + 16 * s.logCount c va) 16 .write
  | .replay => s.ctxHeld c va 24 .read || s.ctxHeld c (va + 64) (16 * s.logCount c va) .read
/-- The dispatch trace of a context cannot be reached. -/
def State.traceHeld (s : State) (c : Nat) : Bool := s.logHeld c (s.ctxAt c).traceBuf.toNat

/-- Recording stops: Incomplete in both headers, free mode, an event (R58, R178, R82). -/
def State.stopRecording (s : State) (c : Nat) : State :=
  let x := s.ctxAt c
  let mark (s : State) (va : Nat) : State := s.ctxWrite c (va + 12) [((s.ctxRead c (va + 12) 1).1.getD []).headD 0 ||| 1]
  let s := mark (mark s x.traceBuf.toNat) x.spoorBuf.toNat
  (s.setCtxAt c { s.ctxAt c with mode := .free }).post (ctxVf c) { code := 0x0007, ctx := ctxAsid c }

/-- Append a record to the dispatch trace or the spoor log of a context in record mode (R58, R178). A buffer counts as full when a further
record finds no room, not with the record that takes its last place (DESIGN CHOICE, log 26: neither rule says which). -/
def State.log (s : State) (c : Nat) (spoor : Bool) (entry : Nat) : State :=
  let x := s.ctxAt c
  if x.mode != .record then s
  else
    let va := if spoor then x.spoorBuf.toNat else x.traceBuf.toNat
    let n := s.logCount c va
    let s := s.readLog c va 0
    if s.logCapacity c va ≤ n then s.stopRecording c
    else (s.ctxWrite c (va + 64 + 16 * n) (leBytes 16 entry)).ctxWrite c va (leBytes 8 (n + 1))

/-- The dispatch trace takes a record in record mode, and has been read in replay mode (R58, R59). -/
def State.trace (s : State) (c entry : Nat) : State :=
  let va := (s.ctxAt c).traceBuf.toNat
  if (s.ctxAt c).mode == .replay then s.readLog c va (s.logCount c va) else s.log c false entry

/-- A spoor-log record (R180). -/
def spoorRecord (kind region unit team dev req block launch : Nat) : Nat :=
  launch % 2 ^ 32 + block % 2 ^ 32 * 2 ^ 32 + req % 2 ^ 32 * 2 ^ 64 + dev % 2 ^ 12 * 2 ^ 96 + team % 16 * 2 ^ 108 +
    unit % 256 * 2 ^ 112 + region % 64 * 2 ^ 120 + kind % 4 * 2 ^ 126

/-- The ordered region that holds every byte of a request (R177). -/
def Ctx.regionOf (x : Ctx) (a n : Nat) : Option Nat :=
  (List.range x.regions.length).find? (fun i =>
    match x.regions.getD i (0, 0) with
    | (base, lines) => base ≤ a && a + n ≤ base + 128 * lines)

/-- The key under which a requester's ordered requests to a region at a unit are counted (R180). -/
def reqKey (team unit region : Nat) : Nat := (team * 256 + unit) * 64 + region

/-- What replay says of a request: it may be served now, must wait, or is not in the log (R59). -/
inductive Replay where
  | serve (s : State)
  | wait
  | diverged
  deriving DecidableEq, Repr, Inhabited

/-- The request is served. -/
def Replay.serves : Replay → Bool
  | .serve _ => true
  | _ => false

/-- The index of the first record of a unit from index `i` on; `fuel` is the number of records left. -/
def State.nextOfUnit (s : State) (c va unit : Nat) : Nat → Nat → Option Nat
  | 0, _ => none
  | fuel + 1, i => if bitsOf (s.logRecord c va i) 112 8 = unit then some i else State.nextOfUnit s c va unit fuel (i + 1)

/-- Serve one ordered request of a context at a unit of this device: log it in record mode, hold it to the log in replay mode (R58,
R59, R180, DEDUCED, log 26). -/
def State.serveEntry (s : State) (c unit entry : Nat) : Replay :=
  let x := s.ctxAt c
  match x.mode with
  | .free => .serve s
  | .record => if s.logHeld c x.spoorBuf.toNat then .wait else .serve (s.log c true entry)
  | .replay =>
    let va := x.spoorBuf.toNat
    let n := s.logCount c va
    let pos := x.spoorPos.get unit
    if s.logHeld c va then .wait
    else
    match s.nextOfUnit c va unit (n - pos) pos with
    | none => .diverged
    | some i =>
      if s.logRecord c va i = entry then .serve ((s.readLog c va n).setCtxAt c { x with spoorPos := x.spoorPos.set unit (i + 1) })
      else if (List.range n).any (fun j => pos ≤ j && s.logRecord c va j == entry) then .wait
      else .diverged

/-- Serve one ordered request of a team of this device, which counts it (R180). -/
def State.ordered (s : State) (team kind region unit : Nat) : Replay :=
  let c := teamCtx team
  let key := reqKey team unit region
  let req := (s.ctxAt c).requests.get key
  let entry := spoorRecord kind region unit (teamIdx team) s.ownDevice req (blockIndex (teamBlock team)) (launchIdent (teamLaunch team))
  if (s.ctxAt c).mode = .free then .serve s
  else
    match s.serveEntry c unit entry with
    | .serve s => .serve (s.setCtxAt c { s.ctxAt c with requests := (s.ctxAt c).requests.set key (req + 1) })
    | r => r

/-- The unit that serves an ordered request: the home die of the line (R180). -/
def orderedUnit (pa : Nat) : Nat := homeDie pa

/-- The ordered region of its context to which a team's access is a request: a region holds all its bytes, and they lie in the
local device memory (R177, R180). -/
def State.orderedRegion (s : State) (team va key n : Nat) : Option Nat :=
  if key < localSize then (s.ctxAt (teamCtx team)).regionOf va n else none

/-- The request of a team at the bytes of a key (R58, R59, R180): served, held or diverged. -/
def State.request (s : State) (team va key n : Nat) : Replay :=
  match s.orderedRegion team va key n with
  | none => .serve s
  | some r => s.ordered team 0 r (orderedUnit key)

/-- The credits that a piece needs, and the landing queue they are taken from (R136, R154). -/
def pieceCredits (n : Nat) : Nat := (n + 255) / 256
def landingKey (vf queue : Nat) : Nat := vf * 16 + queue

/-- The landed pieces that satisfy `gone` leave their landing queues, and their credits return (R136). -/
def State.dropLanded (s : State) (gone : Piece × Option Nat → Bool) : State :=
  { s with
    landing := s.landing.filter (fun e => !gone e)
    credits := (s.landing.filter gone).foldl (fun t e =>
      let k := landingKey e.1.vf e.1.queue
      t.set k (t.get k - pieceCredits e.1.bytes.length)) s.credits }

/-- A context ends (R25, R168, R190, R195, R398): its teams stop at once, its launches are marked failed with their counters where
they stand, and all it holds on the cores is freed. -/
def State.endContext (s : State) (c : Nat) : State :=
  let mine (b : Nat) : Bool := launchCtx (blockLaunch b) == c
  let vf := ctxVf c
  let asid := ctxAsid c
  let s := ((s.blocks.map (·.1)).filter mine).foldl (fun s b => s.blockWaits b) s
  let s := s.dropLanded (fun e => ctxKey e.1.vf e.1.asid == c)
  let s : State :=
    { s with
      ops := s.ops.filter (fun o => teamCtx o.team != c)
      blocks := s.blocks.filter (fun e => !mine e.1)
      teams := s.teams.filter (fun e => !mine (teamBlock e.1))
      launches := s.launches.mapVals (fun l x =>
        if launchCtx l = c ∧ x.st ≠ .ended then
          { x with st := .failed, shape := x.shape.map (fun h => { h with watching := false }) }
        else x)
      reductions := s.reductions.filter (fun r => !(r.vf == vf && r.asid == asid))
      cores := s.cores.mapVals (fun _ x =>
        { x with
          tlb := x.tlb.filter (fun e => !(e.vf == vf && e.asid == asid))
          walk := x.walk.filter (fun e => !(e.vf == vf && e.asid == asid))
          icache := x.icache.filter (fun g => g.ctx != c)
          locks := x.locks.filter (fun e => !((x.slots.find? e.2.slot).map mine).getD false)
          slots := x.slots.filter (fun e => !mine e.2)
          dps := x.dps.filter (fun e => teamCtx e.2 != c)
          arrayBusy := match x.arrayBusy with
            | some k => if teamCtx k = c then none else some k
            | none => none
          arrayQ := x.arrayQ.filter (fun k => teamCtx k != c) }) }
  s.promotePairs.setCtxAt c { s.ctxAt c with failed := true, reserve := [], own := [], allocs := [], ws := [] }

/-- A replay divergence fails the context with an event (R59). -/
def State.diverge (s : State) (c : Nat) : State :=
  (s.endContext c).post (ctxVf c) { code := 0x0009, ctx := ctxAsid c }

end Sys2Proof.Machine
end

