-- ==== Sys2Proof/Machine/Float.lean ====
section
/-! DEFINITION. Number formats and exact arithmetic with one rounding: R112 to R117, R122 to R126, R317 to R321, and the special
functions of R133 to R135. A finite value is a sign, a natural mantissa and a power of two. -/

namespace Sys2Proof.Machine

/-- A value of a floating-point format (R112, R113): `fin` has the value (-1)^neg * m * 2^e; its zeros have a sign. -/
inductive Num where
  | nan
  | inf (neg : Bool)
  | fin (neg : Bool) (m : Nat) (e : Int)
  deriving DecidableEq, Repr, Inhabited

/-- Which encodings of a format are not finite: as IEEE 754, one NaN and no infinity (E4M3), none (E2M1). -/
inductive Family where
  | ieee
  | oneNan
  | allFinite
  deriving DecidableEq, Repr, Inhabited

/-- A format: exponent bits, fraction bits, bias (R112). -/
structure Fmt where
  eb : Nat
  fb : Nat
  bias : Nat
  family : Family
  deriving DecidableEq, Repr, Inhabited

def fmtF64 : Fmt := { eb := 11, fb := 52, bias := 1023, family := .ieee }
def fmtF32 : Fmt := { eb := 8, fb := 23, bias := 127, family := .ieee }
def fmtF16 : Fmt := { eb := 5, fb := 10, bias := 15, family := .ieee }
def fmtBF16 : Fmt := { eb := 8, fb := 7, bias := 127, family := .ieee }
def fmtE5M2 : Fmt := { eb := 5, fb := 2, bias := 15, family := .ieee }
def fmtE4M3 : Fmt := { eb := 4, fb := 3, bias := 7, family := .oneNan }
def fmtE2M1 : Fmt := { eb := 2, fb := 1, bias := 1, family := .allFinite }

/-- The encoding of infinity, of the largest finite value, and of the canonical NaN, without sign. -/
def Fmt.infEnc (f : Fmt) : Nat := (2 ^ f.eb - 1) * 2 ^ f.fb
def Fmt.maxFin (f : Fmt) : Nat :=
  match f.family with
  | .ieee => f.infEnc - 1
  | .oneNan => 2 ^ (f.eb + f.fb) - 2
  | .allFinite => 2 ^ (f.eb + f.fb) - 1
def Fmt.nan (f : Fmt) : Nat :=
  match f.family with
  | .ieee => f.infEnc + 2 ^ (f.fb - 1)
  | .oneNan => 2 ^ (f.eb + f.fb) - 1
  | .allFinite => 0
def Fmt.signBit (f : Fmt) (neg : Bool) : Nat := if neg then 2 ^ (f.eb + f.fb) else 0

/-- The value of an encoding (R112, R113). -/
def Fmt.value (f : Fmt) (x : Nat) : Num :=
  let neg := bitsOf x (f.eb + f.fb) 1 == 1
  let mag := bitsOf x 0 (f.eb + f.fb)
  let ex := mag / 2 ^ f.fb
  let fr := mag % 2 ^ f.fb
  if f.family = .ieee ∧ f.infEnc ≤ mag then (if mag = f.infEnc then .inf neg else .nan)
  else if f.family = .oneNan ∧ f.maxFin < mag then .nan
  else if ex = 0 then .fin neg fr (1 - (f.bias : Int) - f.fb)
  else .fin neg (2 ^ f.fb + fr) ((ex : Int) - f.bias - f.fb)

/-! ### Rounding -/

/-- Whether a discarded part rounds the quotient up: `half` compares it with one half (R114). -/
def roundsUp (md : Rm) (neg : Bool) (odd : Bool) (half : Ordering) (inexact : Bool) : Bool :=
  match md with
  | .rn => half == .gt || (half == .eq && odd)
  | .rz => false
  | .rp => inexact && !neg
  | .rm => inexact && neg

/-- Divide a mantissa by 2^s and round (R114). -/
def shiftRound (md : Rm) (neg : Bool) (m s : Nat) : Nat :=
  if s = 0 then m
  else if m.log2 + 1 < s then (if roundsUp md neg false .lt (m != 0) then 1 else 0)
  else
    let q := m / 2 ^ s
    let r := m % 2 ^ s
    if roundsUp md neg (q % 2 == 1) (compare r (2 ^ (s - 1))) (r != 0) then q + 1 else q

/-- Overflow gives infinity in this mode, otherwise the largest finite value (R122). -/
def overflowInf (md : Rm) (neg : Bool) : Bool :=
  match md with
  | .rn => true
  | .rz => false
  | .rp => !neg
  | .rm => neg

/-- The encoding of an infinite result: converted, or by overflow in a mode that gives infinity (R122, R123). -/
def Fmt.infinite (f : Fmt) (sat neg : Bool) : Nat :=
  match f.family with
  | .ieee => f.signBit neg + (if sat then f.maxFin else f.infEnc)
  | .oneNan => if sat then f.signBit neg + f.maxFin else f.nan
  | .allFinite => f.signBit neg + f.maxFin

/-- Round a value once into a format (R114, R122, R123): tininess after rounding, subnormals kept. -/
def Fmt.round (f : Fmt) (md : Rm) (sat : Bool) (x : Num) : Nat :=
  match x with
  | .nan => f.nan
  | .inf neg => f.infinite sat neg
  | .fin neg m e =>
    if m = 0 then f.signBit neg
    else
      let least : Int := 1 - (f.bias : Int) - f.fb
      let q : Int := max ((m.log2 : Int) + e - f.fb) least
      let mant := if q ≤ e then m * 2 ^ (e - q).toNat else shiftRound md neg m (q - e).toNat
      let enc := mant + (q - least).toNat * 2 ^ f.fb
      if enc ≤ f.maxFin then f.signBit neg + enc
      else if overflowInf md neg then f.infinite sat neg
      else f.signBit neg + f.maxFin

/-- A finite value as a signed multiple of 2^e0, for e0 at most its exponent. -/
def scaled (neg : Bool) (m : Nat) (e e0 : Int) : Int :=
  let z : Int := (m * 2 ^ (e - e0).toNat : Nat)
  if neg then -z else z

/-- A signed multiple of a power of two as a value; zero has the given sign. -/
def numOf (z e : Int) (zeroNeg : Bool) : Num := if z = 0 then .fin zeroNeg 0 e else .fin (decide (z < 0)) z.natAbs e

/-- The exact sum (R114): an exact zero of operands of opposite sign is +0, or -0 in the mode toward minus infinity. -/
def Num.add (md : Rm) (x y : Num) : Num :=
  match x, y with
  | .nan, _ => .nan
  | _, .nan => .nan
  | .inf a, .inf b => if a = b then .inf a else .nan
  | .inf a, .fin .. => .inf a
  | .fin .., .inf b => .inf b
  | .fin na ma ea, .fin nb mb eb =>
    let e0 := min ea eb
    numOf (scaled na ma ea e0 + scaled nb mb eb e0) e0 (if na = nb then na else md == .rm)

def Num.neg : Num → Num
  | .nan => .nan
  | .inf a => .inf (!a)
  | .fin a m e => .fin (!a) m e

/-- The exact product (R114). -/
def Num.mul (x y : Num) : Num :=
  match x, y with
  | .nan, _ => .nan
  | _, .nan => .nan
  | .inf a, .inf b => .inf (a != b)
  | .inf a, .fin b m _ => if m = 0 then .nan else .inf (a != b)
  | .fin a m _, .inf b => if m = 0 then .nan else .inf (a != b)
  | .fin a ma ea, .fin b mb eb => .fin (a != b) (ma * mb) (ea + eb)

/-! ### F32 and F64 operations (R317 to R322) -/

def valF32 (x : Word32) : Num := fmtF32.value x.toNat
def valF64 (x : Word64) : Num := fmtF64.value x.toNat
def encF32 (md : Rm) (x : Num) : Word32 := BitVec.ofNat 32 (fmtF32.round md false x)
def encF64 (md : Rm) (x : Num) : Word64 := BitVec.ofNat 64 (fmtF64.round md false x)

def addF32 (md : Rm) (a b : Word32) : Word32 := encF32 md ((valF32 a).add md (valF32 b))
def subF32 (md : Rm) (a b : Word32) : Word32 := encF32 md ((valF32 a).add md (valF32 b).neg)
def mulF32 (md : Rm) (a b : Word32) : Word32 := encF32 md ((valF32 a).mul (valF32 b))
def fmaF32 (md : Rm) (a b c : Word32) : Word32 := encF32 md (((valF32 a).mul (valF32 b)).add md (valF32 c))
def addF64 (md : Rm) (a b : Word64) : Word64 := encF64 md ((valF64 a).add md (valF64 b))
def subF64 (md : Rm) (a b : Word64) : Word64 := encF64 md ((valF64 a).add md (valF64 b).neg)
def mulF64 (md : Rm) (a b : Word64) : Word64 := encF64 md ((valF64 a).mul (valF64 b))
def fmaF64 (md : Rm) (a b c : Word64) : Word64 := encF64 md (((valF64 a).mul (valF64 b)).add md (valF64 c))

/-- The order of R318 on encodings that are not NaN: -0 lies below +0. -/
def Fmt.rank (f : Fmt) (x : Nat) : Int :=
  let mag := bitsOf x 0 (f.eb + f.fb)
  if bitsOf x (f.eb + f.fb) 1 = 1 then -(mag : Int) - 1 else mag
/-- The lesser or greater encoding under R318: a NaN is missing, two give the canonical NaN. -/
def Fmt.pick (f : Fmt) (greater : Bool) (a b : Nat) : Nat :=
  if f.value a = .nan then (if f.value b = .nan then f.nan else b)
  else if f.value b = .nan then a
  else if greater then (if f.rank a < f.rank b then b else a)
  else (if f.rank b < f.rank a then b else a)
def minF32 (a b : Word32) : Word32 := BitVec.ofNat 32 (fmtF32.pick false a.toNat b.toNat)
def maxF32 (a b : Word32) : Word32 := BitVec.ofNat 32 (fmtF32.pick true a.toNat b.toNat)
def minF64 (a b : Word64) : Word64 := BitVec.ofNat 64 (fmtF64.pick false a.toNat b.toNat)
def maxF64 (a b : Word64) : Word64 := BitVec.ofNat 64 (fmtF64.pick true a.toNat b.toNat)

/-- The comparison of R320 on encodings: the two zeros are equal, a NaN satisfies only `.NE` and `.NAN`. -/
def Fmt.cond (f : Fmt) (c : Cond) (a b : Nat) : Bool :=
  let ordered := f.value a != .nan && f.value b != .nan
  let key (x : Nat) : Int :=
    let mag := bitsOf x 0 (f.eb + f.fb)
    if bitsOf x (f.eb + f.fb) 1 = 1 then -(mag : Int) else mag
  match c with
  | .eq => ordered && key a == key b
  | .ne => !(ordered && key a == key b)
  | .lt => ordered && decide (key a < key b)
  | .le => ordered && decide (key a ≤ key b)
  | .gt => ordered && decide (key b < key a)
  | .ge => ordered && decide (key b ≤ key a)
  | .num => ordered
  | .nan => !ordered

/-- The integer that a finite value rounds to. -/
def roundInt (md : Rm) (neg : Bool) (m : Nat) (e : Int) : Int :=
  let k : Nat := if 0 ≤ e then m * 2 ^ e.toNat else shiftRound md neg m (-e).toNat
  if neg then -(k : Int) else k

/-- `FRINT` (R321). -/
def frintF32 (md : Rm) (a : Word32) : Word32 :=
  match valF32 a with
  | .nan => 0x7FC00000
  | .inf _ => a
  | .fin neg m e =>
    if 0 ≤ e ∨ m = 0 then a else encF32 .rz (.fin neg (roundInt md neg m e).natAbs 0)

/-! ### Conversions (R122 to R126, R323) -/

/-- The format of a floating-point conversion type; none for the integers and E8M0. -/
def cvtFmt : CvtTy → Option Fmt
  | .f16 => some fmtF16
  | .bf16 => some fmtBF16
  | .f32 => some fmtF32
  | .f64 => some fmtF64
  | .e4m3 => some fmtE4M3
  | .e5m2 => some fmtE5M2
  | .e2m1 => some fmtE2M1
  | _ => none
def cvtBits : CvtTy → Nat
  | .i8 | .n8 | .e4m3 | .e5m2 | .e8m0 => 8
  | .i16 | .n16 | .f16 | .bf16 => 16
  | .i32 | .n32 | .f32 => 32
  | .i64 | .n64 | .f64 => 64
  | .e2m1 => 4
def cvtInt : CvtTy → Bool
  | .i8 | .i16 | .i32 | .i64 | .n8 | .n16 | .n32 | .n64 => true
  | _ => false
def cvtSigned : CvtTy → Bool
  | .i8 | .i16 | .i32 | .i64 => true
  | _ => false

/-- The value of an E8M0 code (R116). -/
def valE8M0 (e : Nat) : Num := if e = 255 then .nan else .fin false 1 ((e : Int) - 127)

/-- Rounding to E8M0 (R126). -/
def encE8M0 (md : Rm) (sat : Bool) (x : Num) : Nat :=
  match x with
  | .nan => 0xFF
  | .inf _ => if sat then 0xFE else 0xFF
  | .fin _ m e =>
    if m = 0 then 0
    else
      let l := m.log2
      let k : Int := (l : Int) + e
      let up : Bool :=
        match md with
        | .rn => decide (3 * 2 ^ l < 2 * m) || (decide (3 * 2 ^ l = 2 * m) && (k + 127) % 2 != 0)
        | .rp => m != 2 ^ l
        | _ => false
      let k := if up then k + 1 else k
      if k < -127 then 0 else if 127 < k then (if sat then 0xFE else 0xFF) else (k + 127).toNat

/-- The value of a floating-point source encoding. -/
def cvtValue (t : CvtTy) (x : Nat) : Num :=
  match cvtFmt t with
  | some f => f.value x
  | none => valE8M0 x

/-- The range of an integer type, and its bits from an integer. -/
def intMin (signed : Bool) (n : Nat) : Int := if signed then -(2 ^ (n - 1) : Nat) else 0
def intMax (signed : Bool) (n : Nat) : Int := if signed then (2 ^ (n - 1) : Nat) - 1 else (2 ^ n : Nat) - 1
def clampInt (signed : Bool) (n : Nat) (z : Int) : Int := max (intMin signed n) (min z (intMax signed n))
/-- An n-bit pattern as an integer (R115). -/
def readInt (signed : Bool) (n x : Nat) : Int := if signed ∧ 2 ^ (n - 1) ≤ x then (x : Int) - (2 ^ n : Nat) else x
/-- An integer modulo 2^n. -/
def wrapInt (n : Nat) (z : Int) : Nat := (z % (2 ^ n : Nat)).toNat

/-- Convert a value to a type (R122, R123, R124, R126): the result's bits. -/
def cvtFrom (md : Rm) (sat : Bool) (dt : CvtTy) (x : Num) : Nat :=
  match cvtFmt dt with
  | some f => f.round md sat x
  | none =>
    if dt = .e8m0 then encE8M0 md sat x
    else
      let s := cvtSigned dt
      let n := cvtBits dt
      match x with
      | .nan => 0
      | .inf neg => wrapInt n (if neg then intMin s n else intMax s n)
      | .fin neg m e =>
        -- beyond 2^64 the end of the range, without forming the integer
        if m ≠ 0 ∧ 66 < (m.log2 : Int) + e then wrapInt n (if neg then intMin s n else intMax s n)
        else wrapInt n (clampInt s n (roundInt md neg m e))

/-- Convert an integer of `w` bits to a type (R125): only a narrowing or a conversion of equal width clamps. -/
def cvtFromInt (md : Rm) (sat : Bool) (w : Nat) (dt : CvtTy) (z : Int) : Nat :=
  if cvtInt dt then
    wrapInt (cvtBits dt) (if sat && decide (cvtBits dt ≤ w) then clampInt (cvtSigned dt) (cvtBits dt) z else z)
  else cvtFrom md sat dt (numOf z 0 false)

/-- A value that a type holds as it is: an infinity of a format that has one, which equal types leave unchanged (R323). -/
def cvtKeeps (dt st : CvtTy) (x : Num) : Bool :=
  dt == st && (x == .inf false || x == .inf true) && (match cvtFmt dt with
    | some f => f.family == .ieee
    | none => false)

/-- Convert an encoding of a source type (R323): between equal types only a NaN changes (DEDUCED, log 22). -/
def cvtBitsTo (md : Rm) (sat : Bool) (dt st : CvtTy) (x : Nat) : Nat :=
  if cvtInt st then cvtFromInt md sat (cvtBits st) dt (readInt (cvtSigned st) (cvtBits st) x)
  else if dt = st then (if cvtValue st x = .nan then cvtFrom md sat dt .nan else x)
  else cvtFrom md sat dt (cvtValue st x)

/-- The register that holds a converted result: I8 and I16 sign-extended to 32 bits, others zero-extended (R323). -/
def cvtResult (dt : CvtTy) (x : Nat) : Word64 :=
  if dt = .i8 ∨ dt = .i16 then BitVec.ofInt 64 (readInt true (cvtBits dt) x) else BitVec.ofNat 64 x

end Sys2Proof.Machine
end

