-- ==== Sys2Proof/Machine/Perform.lean ====
section
/-! DEFINITION. How the accesses of global lane instructions perform: the atomic operations, one lane's access, and the performing of
the accesses that a team has issued (R177, R180, R198 to R206, R220, R343 to R351). -/

namespace Sys2Proof.Machine

/-! ### Atomic operations (R343, R344) -/

/-- The operation reads its operands as floating point (R335). -/
def atomFloat : AtomOp → Bool
  | .fadd | .fmin | .fmax => true
  | _ => false

/-- The new value of a location, or none where nothing is written (R343). -/
def atomNew (op : AtomOp) (wide : Bool) (old dat cmp : Nat) : Option Nat :=
  let n := if wide then 64 else 32
  let f32 (g : Word32 → Word32 → Word32) : Nat := (g (BitVec.ofNat 32 old) (BitVec.ofNat 32 dat)).toNat
  let f64 (g : Word64 → Word64 → Word64) : Nat := (g (BitVec.ofNat 64 old) (BitVec.ofNat 64 dat)).toNat
  let so := readInt true n old
  let sd := readInt true n dat
  match op with
  | .add => some ((old + dat) % 2 ^ n)
  | .fadd => some (if wide then f64 (addF64 .rn) else f32 (addF32 .rn))
  | .min => some (if sd < so then dat else old)
  | .max => some (if so < sd then dat else old)
  | .minu => some (min old dat)
  | .maxu => some (max old dat)
  | .fmin => some (if wide then f64 minF64 else f32 minF32)
  | .fmax => some (if wide then f64 maxF64 else f32 maxF32)
  | .and => some (old &&& dat)
  | .or => some (old ||| dat)
  | .xor => some (old ^^^ dat)
  | .swap => some dat
  | .cas => if old = cmp then some dat else none

/-- A data operand of a memory instruction as a number: a bit string, or floating point (R335). -/
def dataOf (t : Team) (a : Active) (i : Nat) (wide float : Bool) (x : Src) : Nat :=
  if wide then (if float then srcF64 t a i x else src64 t a i x).toNat
  else (if float then srcF32 t a i x else src32 t a i x).toNat

/-- The writes of a value of 4 or 8 bytes to a destination. -/
def writeData (i : Nat) (d : Dst) (wide : Bool) (x : Nat) : List LaneWrite :=
  if wide then writePair i d (BitVec.ofNat 64 x) else writeReg i d (BitVec.ofNat 32 x)

/-- One atomic operation at a place, with the value that it found (R343). -/
def atomAt (s : State) (op : AtomOp) (wide : Bool) (key dat cmp : Nat) : State × Nat :=
  let n := if wide then 8 else 4
  let old := s.mem.readNat key n
  match atomNew op wide old dat cmp with
  | some z => (s.gwriteNat key n z, old)
  | none => (s, old)

/-! ### One lane's access (R198 to R201) -/

/-- The access only reads. -/
def LaneAct.reads : LaneAct → Bool
  | .read _ => true
  | _ => false

/-- Two accesses touch a common byte. -/
def LaneOp.meets (o p : LaneOp) : Bool :=
  o.keys.any (fun j => p.keys.any (fun k => overlaps j (j + o.bytes) k (k + p.bytes)))

/-- The bytes of the access in the local memory, at which its request is ordered (R177). -/
def LaneOp.localKey (o : LaneOp) : Nat := (o.keys.find? (fun k => k < localSize)).getD (o.keys.headD 0)

/-- The access leaves this device: its target may reject it, or be fenced off (R220). -/
def LaneOp.far (o : LaneOp) : Bool := o.keys.any (fun k => decide (localSize ≤ k))

/-! ### Accesses that have issued and not performed -/

/-- Two accesses are of one lane of one instruction. -/
def LaneOp.sameLane (o p : LaneOp) : Bool := p.team == o.team && p.ins == o.ins && p.pos == o.pos

/-- The accesses that have not performed and that an access comes after at common bytes: those that its team issued before it, and those
that a barrier has placed before it (R205, R209). -/
def State.olderOps (s : State) (o : LaneOp) : List LaneOp :=
  (s.ops.takeWhile (fun p => !o.sameLane p)).filter (fun p =>
    (if p.team = o.team then decide (p.ins < o.ins) else p.shared && teamBlock p.team == teamBlock o.team) && p.meets o)

/-- The value of the bytes of a read that a write holds, where the write is of one copy in the local memory, which cannot reject it, holds
every byte of the read, and is no request to an ordered region (R177, R220). -/
def State.forwards (s : State) (p o : LaneOp) : Option Nat :=
  match p.act, o.act, p.keys, o.keys with
  | .write x, .read _, [k], [j] =>
    if !p.doomed && !p.far && decide (k ≤ j) && decide (j + o.bytes ≤ k + p.bytes) &&
        ((s.ctxAt (teamCtx p.team)).mode == .free || (s.orderedRegion p.team p.va p.localKey p.bytes).isNone) then
      some (bitsOf x (8 * (j - k)) (8 * o.bytes))
    else none
  | _, _, _, _ => none

/-- An access waits for one that it comes after at common bytes: per location the accesses of a team keep their order, reads too (R200,
R205). A read goes on where the latest of them is a write that gives it its value: it returns that value before the write has been
performed (R198, R207, DEDUCED, log 50). An atomic in the scratchpad comes after those of its instruction at lower lane positions,
beside which no other strong access of its team is outstanding (R91). -/
def State.blockedOp (s : State) (o : LaneOp) : Bool :=
  (match (s.olderOps o).getLast? with
    | none => false
    | some p => (s.forwards p o).isNone) ||
    (o.spad.isSome && (s.ops.takeWhile (fun p => !o.sameLane p)).any (fun p => p.team == o.team && p.strong))

/-- The value that a read which is not held returns: that of the latest write before it that has not been performed, or the memory's. -/
def State.valueOf (s : State) (o : LaneOp) : Nat :=
  match (s.olderOps o).getLast?.bind (fun p => s.forwards p o) with
  | some x => x
  | none => s.mem.readNat (o.keys.headD 0) o.bytes

/-- One atomic operation in the scratchpad of a block, with the value that it found (R343, R345). -/
def scratchAtom (s : State) (op : AtomOp) (wide : Bool) (b ci off dat cmp : Nat) : State × Nat :=
  let n := if wide then 8 else 4
  let old := s.scratchRead b ci off n
  match atomNew op wide old dat cmp with
  | some z => (s.scratchWrite b ci off n z, old)
  | none => (s, old)

/-- What an access does at its bytes, and what it returns to its lane (R345 to R350). A write reaches every copy of a multicast
page, and an atomic operation is performed at each. -/
def LaneOp.run (o : LaneOp) (s : State) : State × List LaneWrite :=
  let wide := o.bytes == 8
  match o.act with
  | .read d => (s, writeData o.pos d wide (s.valueOf o))
  | .write x => (o.keys.foldl (fun s k => s.gwriteNat k o.bytes x) s, [])
  | .atom op x cmp d =>
    let m := if wide then 2 ^ 64 else 2 ^ 32
    match o.spad with
    | some (ci, off) =>
      let (s, old) := scratchAtom s op wide (teamBlock o.team) ci off (x % m) (cmp % m)
      (s, writeData o.pos d wide old)
    | none =>
      let old := s.mem.readNat (o.keys.headD 0) o.bytes
      (o.keys.foldl (fun s k => (atomAt s op wide k (x % m) (cmp % m)).1) s, writeData o.pos d wide old)

/-- Some copies of a write fail: they never perform, and the others do (R220, R350). A read is not touched. -/
def LaneOp.doomAt (o : LaneOp) (bad : Nat → Bool) : List LaneOp :=
  if o.act.reads || !o.keys.any bad then [o]
  else
    { o with keys := o.keys.filter bad, doomed := true } ::
      (if o.keys.all bad then [] else [{ o with keys := o.keys.filter (fun k => !bad k) }])

/-- What performing an access comes to: it is performed, is held by a replay log, or ends its context (R59). -/
inductive Perf where
  | ok (s : State) (ws : List LaneWrite)
  | wait
  | diverged (s : State)

/-- The ordered request of an access (R177, R180): at the home slice of its bytes, or at the scratchpad that holds them. -/
def State.requestOp (s : State) (o : LaneOp) : Replay :=
  match o.spad with
  | some _ => s.ordered o.team 1 0 (16 + o.core)
  | none => s.request o.team o.va o.localKey o.bytes

/-- Perform an access, its ordered request first. -/
def State.performOp (s : State) (o : LaneOp) : Perf :=
  match s.requestOp o with
  | .wait => .wait
  | .diverged => .diverged (s.diverge (teamCtx o.team))
  | .serve s => let (s, ws) := o.run s; .ok s ws

/-- An access has performed: what it returned waits with its instruction. -/
def State.landOp (s : State) (o : LaneOp) (ws : List LaneWrite) : State :=
  { s with
    ops := s.ops.filter (fun p => p.doomed || !o.sameLane p)
    teams := s.teams.mapVals (fun k t =>
      if k = o.team then
        { t with inflight := t.inflight.map (fun f => if f.n = o.ins then { f with writes := f.writes ++ ws } else f) }
      else t) }

/-- What performing several accesses comes to. -/
inductive Drain where
  | ok (s : State)
  | wait (s : State)
  | diverged (s : State)

/-- Perform accesses in order; one that its target rejects never performs (R220). -/
def performOps : List LaneOp → State → Drain
  | [], s => .ok s
  | o :: rest, s =>
    if o.doomed then performOps rest s
    else if s.blockedOp o then .wait s
    else
      match s.performOp o with
      | .ok s ws => performOps rest (s.landOp o ws)
      | .wait => .wait s
      | .diverged s => .diverged s

/-- Perform every access that comes before what a team does next. -/
def State.drainOps (s : State) (k : Nat) : Drain := performOps (s.priorOps k) s

/-- A scalar instruction after which every event of the team comes (R205): it goes on once the accesses issued before it have
performed. -/
def withDrained (s : State) (f : State → Out) : Out :=
  match s.drainOps s.cur with
  | .ok s => f s
  | .wait s => .next s
  | .diverged s => .next s

/-- A lane instruction after which every event of the team comes (R205). -/
def laneDrained (s : State) (f : State → LaneRes) : LaneRes :=
  match s.drainOps s.cur with
  | .ok s => f s
  | .wait s => .hold s
  | .diverged s => .requeue s

/-- A request of a team in an ordered region has not been served: the team waits for it before it leaves its core, in record and in
replay mode (R58, R59, DEDUCED, log 50). -/
def State.orderedPending (s : State) (k : Nat) : Bool :=
  (s.ctxAt (teamCtx k)).mode != .free &&
    (s.teamOps k).any (fun o => o.spad.isSome || (s.orderedRegion k o.va o.localKey o.bytes).isSome)

/-- Perform those of some accesses that can perform now, all but those that are rejected. -/
def State.performEach (s : State) (os : List LaneOp) : State :=
  os.foldl (fun s o =>
    if o.doomed || s.blockedOp o then s
    else
      match s.performOp o with
      | .ok s ws => s.landOp o ws
      | .wait => s
      | .diverged s => s) s

/-- The accesses of a launch that its teams have left behind perform (R188, R206). -/
def State.performLaunch (s : State) (l : Nat) : State := s.performEach (s.ops.filter (fun o => teamLaunch o.team == l))

/-- A context stops: its global writes that had been accepted perform, and what its lane instructions would still read is discarded
(R398). -/
def State.performStopped (s : State) (c : Nat) : State :=
  let s := { s with ops := s.ops.filter (fun o => teamCtx o.team != c || !(o.act.reads || o.doomed || o.spad.isSome)) }
  s.performEach (s.ops.filter (fun o => teamCtx o.team == c && (s.requestOp o).serves))

/-- An access that has not performed touches the range of a new entry of an engine operation of team `k`, which waits for it (R172, R205,
R210, R338): one that has issued on the core of the entry, or that comes before what the team does next. -/
def State.opsMeet (s : State) (k core : Nat) (l : Lock) : Bool :=
  s.ops.any (fun o =>
    match o.spad with
    | some (_, off) =>
      l.space == spaceScratch && o.core == core && teamBlock o.team == teamBlock k && overlaps l.lo l.hi off (off + o.bytes)
    | none =>
      l.space == spaceVirtual && (o.core == core || o.priorTo k) && teamVf o.team == teamVf k && teamAsid o.team == l.asid &&
        overlaps l.lo l.hi o.va (o.va + o.bytes) && (l.dest || !o.act.reads))

/-- The virtual addresses of the page through which an access was translated. -/
def LaneOp.pageLo (o : LaneOp) : Nat := o.va / 2 ^ o.page * 2 ^ o.page

/-- An access translated through a page that overlaps one of some ranges of an address space has issued and not performed (R168, R214). -/
def State.opsOver (s : State) (vf : Nat) (asid : Option Nat) (ranges : List (Nat × Nat)) : Bool :=
  s.ops.any (fun o =>
    o.spad.isNone && teamVf o.team == vf && asid.all (fun a => a == teamAsid o.team) &&
      ranges.any (fun r => overlaps r.1 r.2 o.pageLo (o.pageLo + 2 ^ o.page)))

end Sys2Proof.Machine
end

