-- ==== Sys2Proof/Machine/Pool.lean ====
section
/-! DEFINITION. The pool of zeroed pages of a context, its descriptor below `TRAPBASE`, and mapping and unmapping pages (R162,
R292, R293, R390 to R392). -/

namespace Sys2Proof.Machine

/-- The physical key of a virtual address of a context as the tenant core reaches it: the walk alone. -/
def State.rawKey (s : State) (c va : Nat) : Option Nat :=
  let x := s.ctxAt c
  if !canonical (BitVec.ofNat 64 va) then none
  else
    match walkFrom s.mem (BitVec.ofNat 64 va) 5 4 (ptePhys x.root) [] with
    | .fault _ => none
    | .leaf _ e level _ =>
      some (physKey s (ctxVf c) (ptePhys e + va % 2 ^ leafBits e level) (pteTier e) (pteDev e))

/-- Read 8 bytes at an 8-byte-aligned virtual address, and write them. -/
def State.rawRead8 (s : State) (c va : Nat) : Option Nat := (s.rawKey c va).map (fun k => s.mem.readNat k 8)
def State.rawWrite8 (s : State) (c va x : Nat) : State :=
  match s.rawKey c va with
  | none => s
  | some k => s.gwriteNat k 8 x

/-- The pool descriptor (R390): entries taken, entries filled, the ring's address and log2 of its size. -/
structure PoolDesc where
  taken : Nat
  filled : Nat
  ring : Nat
  size : Nat
  deriving DecidableEq, Repr, Inhabited

def State.poolDesc (s : State) (c : Nat) : Option PoolDesc :=
  let base := (s.ctxAt c).trapBase.toNat
  if base = 0 then none
  else
    match s.rawRead8 c (base - 64), s.rawRead8 c (base - 56), s.rawRead8 c (base - 48), s.rawRead8 c (base - 40) with
    | some t, some f, some r, some z =>
      let size := z % 256
      if 4 ≤ size ∧ size ≤ 20 then some { taken := t, filled := f, ring := r, size := size } else none
    | _, _, _, _ => none

/-- The address of ring entry `i`. -/
def PoolDesc.entry (p : PoolDesc) (i : Nat) : Nat := p.ring + 8 * (i % 2 ^ p.size)

/-- The pages of the ring not yet taken (R390). -/
def State.ringPages (s : State) (c : Nat) (p : PoolDesc) : List Nat :=
  (List.range (p.filled - p.taken)).map (fun i => ((s.rawRead8 c (p.entry (p.taken + i))).getD 0) % 2 ^ 38)

/-- Take `n` pages from the pool of a context: from its ring, or where it has no descriptor from the reserve itself (DEDUCED, log 23). -/
def State.poolTake (s : State) (c n : Nat) : Option (List Nat × State) :=
  match s.poolDesc c with
  | some p =>
    let pages := s.ringPages c p
    if pages.length < n then none
    else some (pages.take n, s.rawWrite8 c ((s.ctxAt c).trapBase.toNat - 64) (p.taken + n))
  | none =>
    let x := s.ctxAt c
    if x.reserve.length < n then none
    else some (x.reserve.take n, s.setCtxAt c { x with reserve := x.reserve.drop n })

/-- Zero a page of local memory. -/
def State.zeroPage (s : State) (page : Nat) : State := s.gwrite (page * 4096) (List.replicate 4096 0)

/-! ### Pages that firmware hands out (R390, R392) -/

/-- The first byte of a virtual function's allotment of local memory, and the allotment's size (R405, R414). -/
def State.allotBase (s : State) (vf : Nat) : Nat := ((List.range vf).map (fun v => (s.vfAt v).set.allot)).sum * 2 ^ 30
def State.allotSize (s : State) (vf : Nat) : Nat := (s.vfAt vf).set.allot * 2 ^ 30

/-- A page that firmware may not hand out: one it has handed out, the root table of a context, or a page of a save or dump region (R161,
R390, R393, R401). -/
def State.pageTaken (s : State) (page : Nat) : Bool :=
  let within (base size : Word64) : Bool := overlaps (page * 4096) (page * 4096 + 4096) base.toNat (base.toNat + size.toNat)
  s.ctxs.any (fun e => e.2.own.contains page || within e.2.root 4096 || within e.2.saveBase e.2.saveSize || within e.2.dumpBase e.2.dumpSize)

/-- The first page from number `i` on, of an allotment of `n` pages that begins with page `base`, which is not taken. -/
def State.freePage (s : State) (base n : Nat) : Nat → Nat → Nat
  | 0, i => base + i
  | fuel + 1, i => if s.pageTaken (base + i) then State.freePage s base n fuel ((i + 1) % n) else base + i

/-- Firmware hands out a page to a context: which page of the allotment it is is free, but no page is handed out twice (R390, R392, DESIGN
CHOICE, log 7). -/
def State.takePage (s : State) (c : Nat) : Nat × State :=
  let (k, s) := s.takeFresh
  let vf := ctxVf c
  let n := max 1 (s.allotSize vf / 4096)
  let page := s.freePage (s.allotBase vf / 4096) n n (Config.reservePage c k % n)
  let x := s.ctxAt c
  (page, s.setCtxAt c { x with own := x.own ++ [page] })

/-- Put pages into the ring and raise Filled, as many as it has free entries for; the pages left over (R392). -/
def State.ringFill (s : State) (c : Nat) (pages : List Nat) : List Nat × State :=
  match s.poolDesc c with
  | none => (pages, s)
  | some p =>
    let room := 2 ^ p.size - (p.filled - p.taken)
    let put := pages.take room
    let s := (List.range put.length).foldl (fun s i => s.rawWrite8 c (p.entry (p.filled + i)) (put.getD i 0)) s
    (pages.drop room, s.rawWrite8 c ((s.ctxAt c).trapBase.toNat - 56) (p.filled + put.length))

/-- Give zeroed pages back to the pool (R293). -/
def State.poolReturn (s : State) (c : Nat) (pages : List Nat) : State :=
  let s := pages.foldl (fun s p => s.zeroPage p) s
  let (rest, s) := s.ringFill c pages
  let x := s.ctxAt c
  s.setCtxAt c { x with reserve := x.reserve ++ rest }

/-! ### Mapping -/

/-- No mapping of the context uses the page of an address. -/
def State.unmapped (s : State) (c va : Nat) : Bool :=
  canonical (BitVec.ofNat 64 va) &&
    (match walkFrom s.mem (BitVec.ofNat 64 va) 5 4 (ptePhys (s.ctxAt c).root) [] with
    | .fault 0 => true
    | _ => false)

/-- Write the leaf of one 4 KiB page, with the tables that lead to it: a table that is missing is a new zeroed page. -/
def mapFrom (c va leaf : Nat) : Nat → Nat → State → State
  | 0, table, s => s.gwriteNat (table + 8 * vaIndex (BitVec.ofNat 64 va) 0) 8 leaf
  | level + 1, table, s =>
    let addr := table + 8 * vaIndex (BitVec.ofNat 64 va) (level + 1)
    let e := BitVec.ofNat 64 (s.mem.readNat addr 8)
    if pteValid e then mapFrom c va leaf level (ptePhys e) s
    else
      let (page, s) := s.takePage c
      mapFrom c va leaf level (page * 4096) ((s.zeroPage page).gwriteNat addr 8 (page * 4096 + 1))

/-- Map a page of local memory, writable (R292, DEDUCED, log 23). -/
def State.mapPage (s : State) (c va page : Nat) : State :=
  mapFrom c va (page * 4096 + 7) 4 (ptePhys (s.ctxAt c).root) s

/-- Clear the leaf of one page of an allocation, in the page tables of its context (R292, R293). -/
def State.unmapPage (s : State) (c va : Nat) : State :=
  match walkFrom s.mem (BitVec.ofNat 64 va) 5 4 (ptePhys (s.ctxAt c).root) [] with
  | .leaf addr _ _ _ => s.gwriteNat addr 8 0
  | .fault _ => s

/-- The base of a new allocation of `n` pages: any 4 KiB-aligned address whose pages are unused (R292). The free value is
tried first, then the multiples of its size in whole GiB, from the lowest; each mapped page spoils one of those at most
(DEDUCED, log 23, DESIGN CHOICE, log 7). -/
def State.allocBase (s : State) (c n pick : Nat) : Option Nat :=
  let first := pick % 2 ^ 44 * 4096
  let free (va : Nat) : Bool := decide (va + 4096 * n ≤ 2 ^ 56) && (List.range n).all (fun i => s.unmapped c (va + 4096 * i))
  if free first then some first
  else
    let gib := (4096 * n + 2 ^ 30 - 1) / 2 ^ 30
    ((List.range (s.mem.length + 1)).map (fun i => i * gib * 2 ^ 30)).find? free

end Sys2Proof.Machine
end

