-- ==== Sys2Proof/Machine/Levels.lean ====
section
/-! DEFINITION. Completion counters, the end of teams, blocks and launches, and cancels (R44, R48, R56, R94, R182, R184 to
R190, R292, R293). -/

namespace Sys2Proof.Machine

/-! ### Counters -/

/-- One more member has ended (R187). -/
def Counter.member (c : Counter) (bad : Bool) : Counter :=
  { c with done := c.done + 1, failed := c.failed + (if bad then 1 else 0) }
/-- A member starts: Status becomes running (R187). -/
def Counter.running (c : Counter) : Counter := if c.status = 0 then { c with status := 1 } else c
/-- Known is 1 and Done equals Expected, or the shape has overflowed: such a launch completes with no member counted (R188). -/
def Counter.full (c : Counter) : Bool := c.known && (c.done == c.expected || c.status == 5)
/-- The counter has a final status and counts every member as ended (R188, R189). -/
def Counter.completed (c : Counter) : Bool := c.full && decide (2 ≤ c.status)
/-- A cancel at clock `now` sets Status 4 (R189). -/
def Counter.cancel (c : Counter) (now : Word64) : Counter := { c with status := 4, cancelAt := some now }
/-- The cancel has ended a member: no completion wins over it any more (R189). -/
def Counter.applied (c : Counter) : Counter := { c with cancelAt := none }
/-- The counter when it completes at clock `now`: Status 2 or 3, and 4 stays, unless the cancel fell in the same cycle and has ended no
member (R188, R189, DEDUCED, log 27). -/
def Counter.complete (c : Counter) (now : Word64) : Counter :=
  if c.status < 2 ∨ (c.status = 4 ∧ c.cancelAt = some now) then { c with status := if c.failed = 0 then 2 else 3, cancelAt := none }
  else { c with cancelAt := none }
/-- The 128-bit word (R187). -/
def Counter.word (c : Counter) : Nat :=
  c.failed % 2 ^ 32 + c.done % 2 ^ 32 * 2 ^ 32 + c.expected % 2 ^ 32 * 2 ^ 64 + (if c.known then 2 ^ 123 else 0) +
    c.status % 16 * 2 ^ 124
/-- The view that `LSTAT` and `LWAIT` return (R291). -/
def Counter.view (c : Counter) : Word64 :=
  BitVec.ofNat 64 (c.done % 2 ^ 32 + min c.failed 0xFFFFFF * 2 ^ 32 + (if c.known then 2 ^ 59 else 0) + c.status % 16 * 2 ^ 60)

def Job.updPhase (j : Job) (p : Nat) (f : Phase → Phase) : Job := { j with phases := listUpd j.phases p f }
def Phase.updGraph (p : Phase) (g : Nat) (f : Graph → Graph) : Phase := { p with graphs := listUpd p.graphs g f }
def Job.phase (j : Job) (p : Nat) : Phase := j.phases.getD p {}
def Phase.graph (p : Phase) (g : Nat) : Graph := p.graphs.getD g {}
def State.jobAt (s : State) (j : Nat) : Job := s.jobs.get j
def State.setJobAt (s : State) (j : Nat) (x : Job) : State := { s with jobs := s.jobs.set j x }

/-- The counter of the level of a launch (R291). -/
def State.levelCounter (s : State) (l : Nat) : LevelKind → Counter
  | .launch => (s.launchAt l).ctr
  | .graph => (((s.jobAt (s.launchAt l).job).phase (s.launchAt l).phase).graph (s.launchAt l).graph).ctr
  | .phase => ((s.jobAt (s.launchAt l).job).phase (s.launchAt l).phase).ctr
  | .job => (s.jobAt (s.launchAt l).job).ctr

/-- A launch has completed: a cancelled one whose extent was not published only once its provisional blocks have been squashed, though
its counter is full from the cancel on (R188, R189). -/
def Launch.completed (x : Launch) : Bool := x.ctr.completed && x.st == .ended

/-- The level of a launch has completed. -/
def State.levelCompleted (s : State) (l : Nat) : LevelKind → Bool
  | .launch => (s.launchAt l).completed
  | lv => (s.levelCounter l lv).completed

/-- Change a graph of a job. -/
def State.updGraph (s : State) (j p g : Nat) (f : Graph → Graph) : State :=
  s.setJobAt j ((s.jobAt j).updPhase p (fun x => x.updGraph g f))

/-! ### The end of a level -/

/-- The counter of a completed job goes to memory and its event to the host (R409, R411). -/
def State.jobReport (s : State) (j : Nat) : State :=
  let x := s.jobAt j
  let vf := ctxVf x.ctx
  let s := if x.compl = 0 then s else s.ctxWrite x.ctx x.compl.toNat (leBytes 16 x.ctr.word)
  (s.setJobAt j { x with posted := true, hold := none }).post vf
    { code := if x.ctr.status = 2 then 0x0001 else 0x0002, queue := x.queue, ctx := ctxAsid x.ctx, detail := x.tag }
/-- The completion record of a job meets a migrating page (R166). -/
def State.jobHeld (s : State) (x : Job) : Bool := x.compl != 0 && s.ctxHeld x.ctx x.compl.toNat 16 .write
/-- A job has completed: its record and its event follow at once, or wait until the page of the record has migrated. -/
def State.jobDone (s : State) (j : Nat) : State :=
  let x := s.jobAt j
  if s.jobHeld x then s.setJobAt j { x with hold := some s.clock } else s.jobReport j
/-- A held completion record is tried again; past the migration limit the event is posted without it (R166, DESIGN CHOICE, log 27). -/
def State.reportAgain (s : State) (j : Nat) : State :=
  let x := s.jobAt j
  match x.hold with
  | none => s
  | some z => if (s.ctxAt x.ctx).failed || (s.jobHeld x && !s.pastLimit (ctxVf x.ctx) z) then s else s.jobReport j

/-- A member of a job has ended: the job completes when it was the last (R188). -/
def State.jobMember (s : State) (j : Nat) (bad : Bool) : State :=
  let x := s.jobAt j
  let c := x.ctr.member bad
  if c.full then (s.setJobAt j { x with ctr := c.complete s.clock }).jobDone j else s.setJobAt j { x with ctr := c }

/-- A member of a phase has ended. -/
def State.phaseMember (s : State) (j p : Nat) (bad : Bool) : State :=
  let c := ((s.jobAt j).phase p).ctr.member bad
  let c' := if c.full then c.complete s.clock else c
  let s := s.setJobAt j ((s.jobAt j).updPhase p (fun x => { x with ctr := c' }))
  if c.full then s.jobMember j (c'.status != 2) else s

/-- A member of a graph has ended. -/
def State.graphMember (s : State) (j p g : Nat) (bad : Bool) : State :=
  let c := (((s.jobAt j).phase p).graph g).ctr.member bad
  let c' := if c.full then c.complete s.clock else c
  let s := s.updGraph j p g (fun x => { x with ctr := c' })
  if c.full then s.phaseMember j p (c'.status != 2) else s

/-- Remove every TLB and walk-cache entry of an address space, or of a range of it, from every core of the device (R168). -/
def State.shootRange (s : State) (vf asid lo hi : Nat) : State :=
  { s with cores := s.cores.mapVals (fun _ c =>
      { c with
        tlb := c.tlb.filter (fun e => !(e.vf == vf && !e.glob && e.asid == asid && overlaps e.page (e.page + 2 ^ e.bits) lo hi))
        walk := c.walk.filter (fun e => !(e.vf == vf && e.asid == asid &&
          overlaps (e.tag * 2 ^ (21 + 9 * e.level)) ((e.tag + 1) * 2 ^ (21 + 9 * e.level)) (lo % 2 ^ 57) ((hi - lo) + lo % 2 ^ 57))) }) }

/-- The held accesses of some contexts may walk again: those of their teams, of their engines, and of their launches that read a
shape word (R53, R166). -/
def State.rewalkWhere (s : State) (p : Nat → Bool) : State :=
  { s with
    teams := s.teams.mapVals (fun k t => if p (teamCtx k) then { t with rewalk := true } else t)
    launches := s.launches.mapVals (fun l x => if p (launchCtx l) then { x with rewalk := true } else x)
    blocks := s.blocks.mapVals (fun b x =>
      if p (launchCtx (blockLaunch b)) then x.mapChans (fun n => n.mapIssued (fun i => { i with rewalk := true })) else x) }

/-- The held accesses of a context may walk again, after a `PTFENCE` or a change of its mappings (R166). -/
def State.rewalkCtx (s : State) (c : Nat) : State := s.rewalkWhere (fun d => d == c)

/-- The whole pages of 4 KiB that the bytes `lo` to `hi - 1` overlap (R300). -/
def pageRange (lo hi : Nat) : Nat × Nat := (lo / 4096 * 4096, if lo < hi then (hi + 4095) / 4096 * 4096 else lo / 4096 * 4096)

/-- The channels of the machine. -/
def State.allChans (s : State) : List Chan := s.blocks.flatMap (fun e => e.2.shares.flatMap (·.chans))

/-- The operation numbers of the commands that their engines hold at a page that is not present, in some ranges of addresses (R142,
R217). -/
def State.heldCmds (s : State) (ranges : List (Nat × Nat)) : List Nat :=
  s.allChans.filterMap (fun n =>
    match n.heldAt with
    | some (c, d, a) => if d % 4 = 0 ∧ ranges.any (fun r => decide (r.1 ≤ a.toNat) && decide (a.toNat < r.2)) then some c.uid else none
    | none => none)

/-- The page in which an engine works overlaps one of some ranges of addresses (R217). -/
def UnitXl.within (u : UnitXl) (ranges : List (Nat × Nat)) : Bool :=
  let lo := 4096 * u.unit / 2 ^ u.bits * 2 ^ u.bits
  ranges.any (fun r => overlaps r.1 r.2 lo (lo + 2 ^ u.bits))

/-- The operation numbers of the commands whose engines work in a page that overlaps one of some ranges of addresses (R217). -/
def State.busyCmds (s : State) (ranges : List (Nat × Nat)) : List Nat :=
  s.allChans.flatMap (fun n => n.issued.filterMap (fun e =>
    if (e.2.rd.toList ++ e.2.wr.toList).any (fun u => u.within ranges) then some e.1.uid else none))

/-- The virtual function whose block holds a lock entry of a core (R60, R170). -/
def Core.lockVf (c : Core) (l : Lock) : Option Nat := (c.slots.find? l.slot).map (fun b => ctxVf (launchCtx (blockLaunch b)))

/-- What holds back the end of a shoot-down of a virtual function, in one address space (`asid`) or in every one, over some ranges of
addresses: an access through a page that overlaps one and that has issued and not performed, or a range lock of virtual addresses that
overlaps one or whose engine works in such a page. The lock of a command held at a page of the ranges that is not present counts as
released (R168, R214, R217). -/
def State.lockedOver (s : State) (vf : Nat) (asid : Option Nat) (ranges : List (Nat × Nat)) : Bool :=
  let held := s.heldCmds ranges
  let busy := s.busyCmds ranges
  s.opsOver vf asid ranges ||
    s.cores.any (fun e => e.2.locks.any (fun l =>
      l.2.space == spaceVirtual && e.2.lockVf l.2 == some vf && asid.all (fun a => l.2.asid == a) &&
        (ranges.any (fun r => overlaps l.2.lo l.2.hi r.1 r.2) || busy.contains l.2.uid) && !held.contains l.2.uid))

/-- What holds back the giving back of an allocation (R168, R293). -/
def State.allocLocked (s : State) (c : Nat) (al : Alloc) : Bool :=
  s.lockedOver (ctxVf c) (some (ctxAsid c)) [(al.base, al.base + 4096 * al.pages.length)]

/-- Give an allocation back: its pages are unmapped everywhere, held accesses walk again, and the pages return to the pool (R233,
R293). -/
def State.retract (s : State) (c : Nat) (al : Alloc) : State :=
  let n := al.pages.length
  let s := (List.range n).foldl (fun s i => s.unmapPage c (al.base + 4096 * i)) s
  let s := (s.shootRange (ctxVf c) (ctxAsid c) al.base (al.base + 4096 * n)).rewalkCtx c
  let x := s.ctxAt c
  (s.setCtxAt c { x with allocs := x.allocs.filter (fun y => y.base != al.base) }).poolReturn c al.pages

/-- Give an allocation back as `GFREE` does, or note that it is due back once nothing holds it any more (R292, R293). -/
def State.retractSoon (s : State) (c : Nat) (al : Alloc) : State :=
  if s.allocLocked c al then
    let x := s.ctxAt c
    s.setCtxAt c { x with allocs := x.allocs.map (fun y => if y.base = al.base then { y with due := true } else y) }
  else s.retract c al

/-- What a launch leaves in its context goes when it completes or is cancelled: its allocations (R292) and its random ranges (R182). -/
def State.launchLeaves (s : State) (l : Nat) : State :=
  let c := launchCtx l
  let s := ((s.ctxAt c).allocs.filter (fun al => al.launch == l)).foldl (fun s al => s.retractSoon c al) s
  let y := s.ctxAt c
  s.setCtxAt c { y with rng := y.rng.filter (fun r => r.launch != launchIdent l) }

/-- Every allocation that is due back and that nothing holds any more goes back (R292, R293). -/
def State.retractDue (s : State) : State :=
  s.ctxs.foldl (fun s e => (e.2.allocs.filter (·.due)).foldl (fun s al => if s.allocLocked e.1 al then s else s.retract e.1 al) s) s

/-- A launch completes (R188): the accesses that its teams have left behind perform, what it leaves in its context goes, and it counts
in its graph. -/
def State.launchDone (s : State) (l : Nat) : State :=
  let s := s.performLaunch l
  let x := s.launchAt l
  let s := s.setLaunchAt l { x with ctr := x.ctr.complete s.clock, st := .ended, rngHeld := [], hold := none,
                                    shape := x.shape.map (fun h => { h with watching := false }) }
  let s := s.launchLeaves l
  s.graphMember x.job x.phase x.graph ((s.launchAt l).ctr.status != 2)

/-- The launch completes if its last member has ended and it has not completed yet (R188). -/
def State.launchCheck (s : State) (l : Nat) : State :=
  let x := s.launchAt l
  if x.ctr.full && x.st != .ended && x.st != .failed then s.launchDone l else s

/-! ### The end of teams and blocks -/

/-- Everything a block holds on its cores is freed (R56, R60, R94, R174), and its teams leave the machine: what they wait for ends
(R195), and the reads still outstanding are given up, with the atomics of its scratchpads (R337). -/
def State.removeBlock (s : State) (b : Nat) : State :=
  let ks := s.blockTeams b
  let s := s.blockWaits b
  State.promotePairs { s with
    ops := s.ops.filter (fun o => !(ks.contains o.team && (o.act.reads || o.spad.isSome)))
    blocks := s.blocks.erase b
    teams := s.teams.filter (fun e => teamBlock e.1 != b)
    cores := s.cores.mapVals (fun _ c =>
      { c with
        slots := c.slots.filter (fun e => e.2 != b)
        dps := c.dps.filter (fun e => !ks.contains e.2)
        locks := c.locks.filter (fun e => c.slots.find? e.2.slot != some b)
        arrayBusy := match c.arrayBusy with
          | some k => if ks.contains k then none else some k
          | none => none
        arrayQ := c.arrayQ.filter (fun k => !ks.contains k) }) }

/-- A block ends and counts in its launch (R187, R188). -/
def State.endBlock (s : State) (b : Nat) (bad : Bool) : State :=
  let l := blockLaunch b
  let s := s.removeBlock b
  let x := s.launchAt l
  (s.setLaunchAt l { x with ctr := x.ctr.member bad }).launchCheck l

/-- The team as its end leaves it (R44, R68, R137, R298). -/
def Team.finish (t : Team) : Team :=
  { t with ended := true, runs := [], active := none, inflight := [], settling := none, nlive := 0, mask := 0, yard := [],
           emitBuf := [], arrived := none, polling := false, hold := none, gated := false, held := false, t1 := 0, t2 := 0, t3 := 0 }

/-- A barrier slot whose open instance is complete: for `BAR` every team of the block that has not ended has arrived, for
`BARN` the named number (R379). -/
def State.barrierFull (s : State) (b slot : Nat) : Bool :=
  let r := (s.blockAt b).bars.getD slot {}
  match r.kind with
  | none => false
  | some none => r.arrivals.length == ((s.blockTeams b).filter (fun k => !(s.teamAt k).ended)).length
  | some (some n) => r.arrivals.length == n

/-- Complete the slot's instance if it is full: its teams depart and a new instance opens (R379). -/
def State.barrierCheck (s : State) (b slot : Nat) : State :=
  if s.barrierFull b slot then
    let r := (s.blockAt b).bars.getD slot {}
    let s := s.setBlockAt b { s.blockAt b with bars := listUpd (s.blockAt b).bars slot (fun _ => {}) }
    r.arrivals.foldl (fun s i => s.setTeamAt (teamKey b i) { s.teamAt (teamKey b i) with arrived := none }) s
  else s

/-- A team ends; its block ends with its last team, and a provisional block waits for its confirmation (R44, R54, R298). -/
def State.endTeam (s : State) (k : Nat) : State :=
  let b := teamBlock k
  let s := (s.waitDone k).freeDatapath k
  let s := s.setTeamAt k (s.teamAt k).finish
  let s := (List.range 8).foldl (fun s i => s.barrierCheck b i) s
  if (s.blockAt b).prov then s
  else if (s.blockTeams b).all (fun j => (s.teamAt j).ended) then s.endBlock b (s.endsBad b)
  else s

/-- A predicted launch has been cancelled before its shape word was published (R189): the part watches the word no longer. -/
def Launch.unpublished (x : Launch) : Bool :=
  x.ctr.status == 4 && (match x.shape with
    | some h => h.ext.isNone
    | none => false)

/-- A provisional block is squashed: nothing of it counts (R55, R56). -/
def State.squashBlock (s : State) (b : Nat) : State :=
  let x := s.blockAt b
  let l := blockLaunch b
  let s := s.count (x.share 0).core (ctxVf (launchCtx l)) 13 1
  let s := s.removeBlock b
  let y := s.launchAt l
  let s := s.setLaunchAt l { y with rngHeld := y.rngHeld.filter (fun e => e.1 != blockIndex b) }
  if y.unpublished ∧ s.blocks.any (fun e => blockLaunch e.1 == l) then s else s.launchCheck l

/-! ### Cancel -/

def Ticket.close (t : Ticket) : Ticket := { t with stop := t.next }
/-- The number of blocks of a launch that have not started. -/
def Launch.unstarted (x : Launch) : Nat := ((x.tickets ++ x.tail).map Ticket.left).sum

/-- A cancel of the launch has ended a member: no completion of this cycle wins over the cancel of a level that contains it (R189). -/
def State.cancelApplies (s : State) (l : Nat) : State :=
  let x := s.launchAt l
  let s := s.setLaunchAt l { x with ctr := x.ctr.applied }
  s.setJobAt x.job (((s.jobAt x.job).updPhase x.phase (fun p =>
    { (p.updGraph x.graph (fun g => { g with ctr := g.ctr.applied })) with ctr := p.ctr.applied })) |> fun j => { j with ctr := j.ctr.applied })

/-- Cancel a launch (R189). -/
def State.cancelLaunch (s : State) (l : Nat) : State :=
  let x := s.launchAt l
  if x.st = .ended ∨ x.st = .failed ∨ 2 ≤ x.ctr.status then s
  else
    let unpublished : Bool := (match x.shape with
      | some h => x.st == .pending || (h.watching && h.ext.isNone)
      | none => false)
    let published : Bool := (match x.shape with
      | some h => h.watching && h.ext.isSome
      | none => false)
    let n := if x.st = .pending then x.ctr.expected - x.ctr.done else x.unstarted
    let ctr : Counter :=
      if unpublished then { x.ctr.cancel s.clock with known := true, expected := 0 }
      else if published then x.ctr.cancel s.clock
      else { x.ctr.cancel s.clock with done := x.ctr.done + n, failed := x.ctr.failed + n }
    let s := s.setLaunchAt l { x with ctr := ctr, tickets := x.tickets.map Ticket.close, tail := x.tail.map Ticket.close,
                                      rngHeld := [], shape := x.shape.map (fun h => { h with watching := published }) }
    let s := s.launchLeaves l
    let s := (s.launchBlocks l).foldl (fun s b =>
      let y := s.blockAt b
      if y.prov then s.setBlockAt b { y with squashDue := true }
      else s.setBlockAt b { y with ending := some (y.ending.getD 0x0E) }) s
    let s := if unpublished || published || n != 0 then s.cancelApplies l else s
    if unpublished && !(s.launchBlocks l).isEmpty then s else s.launchCheck l

/-- Cancel every unfinished launch of a graph, and the graph (R189). -/
def State.cancelGraph (s : State) (j p g : Nat) : State :=
  let x := ((s.jobAt j).phase p).graph g
  if 2 ≤ x.ctr.status then s
  else
    let c := (s.jobAt j).ctx
    x.launches.foldl (fun s i => s.cancelLaunch (launchKey c i)) (s.updGraph j p g (fun y => { y with ctr := y.ctr.cancel s.clock }))

def State.cancelPhase (s : State) (j p : Nat) : State :=
  let x := (s.jobAt j).phase p
  if 2 ≤ x.ctr.status then s
  else
    (List.range x.graphs.length).foldl (fun s g => s.cancelGraph j p g)
      (s.setJobAt j ((s.jobAt j).updPhase p (fun y => { y with ctr := y.ctr.cancel s.clock })))

def State.cancelJob (s : State) (j : Nat) : State :=
  let x := s.jobAt j
  if 2 ≤ x.ctr.status then s
  else
    (List.range x.phases.length).foldl (fun s p => s.cancelPhase j p) (s.setJobAt j { x with ctr := x.ctr.cancel s.clock })

/-- Cancel the level of a launch (R189, R291). -/
def State.cancelLevel (s : State) (l : Nat) : LevelKind → State
  | .launch => s.cancelLaunch l
  | .graph => s.cancelGraph (s.launchAt l).job (s.launchAt l).phase (s.launchAt l).graph
  | .phase => s.cancelPhase (s.launchAt l).job (s.launchAt l).phase
  | .job => s.cancelJob (s.launchAt l).job

end Sys2Proof.Machine
end

