-- ==== Sys2Proof/Machine/ScalarSystem.lean ====
section
/-! DEFINITION. Special registers, traps, the end of a team, instruction caches, shoot-downs and random ranges (R76 to R84,
R168, R182, R183, R213, R214, R222, R295 to R301). -/

namespace Sys2Proof.Machine

/-! ### Special registers -/

/-- Lane position 0 of a team, or nothing when NLIVE is 0 (R78). -/
def Team.laneZero (t : Team) (f : Lane → Word64) : Word64 := if t.nlive = 0 then 0 else f (t.lane 0)

/-- What `SRD` of a number reads and whether it waits under R36, or the detail of its trap (R76 to R84). -/
def specialRead (s : State) (n : Nat) : Except Nat (Bool × Word64) :=
  let t := s.team
  match n with
  | 0x000 => .ok (false, 32)
  | 0x001 => .ok (true, 0)
  | 0x002 => .ok (true, t.laneZero (fun l => l.ord.setWidth 64))
  | 0x003 => .ok (true, t.laneZero (fun l => (l.key.extractLsb' 0 32).setWidth 64))
  | 0x004 => .ok (true, t.laneZero (fun l => (l.key.extractLsb' 32 32).setWidth 64))
  | 0x005 => .ok (true, BitVec.ofNat 64 t.nlive)
  | 0x006 => .ok (false, BitVec.ofNat 64 (teamIdx s.cur))
  | 0x007 => .ok (false, BitVec.ofNat 64 (blockIndex (teamBlock s.cur)))
  | 0x008 => .ok (false, s.clock)
  | 0x009 => .ok (false, wsrefWord s.clock t.wsSel)
  | 0x00A => .ok (false, s.ctx.ftv.setWidth 64)
  | 0x00B => .ok (false, modeWord t s.ctx.mode)
  | 0x00C => .ok (false, t.trapInfo)
  | 0x00D => .ok (false, t.trapAddr)
  | 0x00E => .ok (false, s.ctx.trapBase)
  | _ =>
    if 0x020 ≤ n ∧ n < 0x030 then
      if n - 0x020 < s.kernel.chans then
        .ok (false, (((s.block.share (s.shareIdx s.cur)).chans.getD (n - 0x020) {}).wptr))
      else .error 0x5C
    else .error 0x04

/-- `SRD` (R295): after one of `WPTR` every event of the team comes (R205). -/
def execSrd (d : SReg) (n : BitVec 13) (s : State) : Out :=
  match specialRead s n.toNat with
  | .error k => scalarTrap s 0x01 k 0
  | .ok (waits, x) =>
    if waits && !s.team.drained then scalarWait s
    else if 0x020 ≤ n.toNat then withDrained s (fun s => scalarDone s (s.team.setSreg d x))
    else scalarDone s (s.team.setSreg d x)

/-- Which special registers `SWR` writes: 0 illegal, 1 in any state, 2 in supervisor state only (R77). -/
def writeAccess (n : Nat) : Nat :=
  match n with
  | 0x009 => 1
  | 0x00A => 2
  | 0x00B => 1
  | 0x00C => 2
  | 0x00D => 2
  | 0x00E => 2
  | _ => 0

/-- `SWR` (R295): the illegal-instruction checks, then privilege, then the write. A channel's write pointer is never
written, and an undeclared one has detail 0x5C (DEDUCED, log 37). -/
def execSwr (n : BitVec 13) (a : SReg) (s : State) : Out :=
  let t := s.team
  let x := t.sreg a
  let k := n.toNat
  if writeAccess k = 0 then scalarTrap s 0x01 0x04 0
  else if k = 0x00A ∧ 2 < x.toNat then scalarTrap s 0x01 0x43 0
  else if writeAccess k = 2 ∧ !t.sup then scalarTrap s 0x03 0x01 0
  else
    match k with
    | 0x009 => scalarDone s { t with wsSel := x.extractLsb' 0 4 }
    | 0x00A => scalarDone (s.setCtx { s.ctx with ftv := x.extractLsb' 0 32 }) t
    | 0x00B =>
      if !t.drained then scalarWait s
      else scalarDone s { t with stallchk := x.getLsbD 0, keep := x.getLsbD 1 }
    | 0x00C => scalarDone s { t with trapInfo := x &&& 0xFFFFFF00FF }
    | 0x00D => scalarDone s { t with trapAddr := x }
    | _ => scalarDone (s.setCtx { s.ctx with trapBase := x }) t

/-! ### Traps and the end of a team -/

/-- `TRAP` (R296): `TRET` continues at the next instruction. Like every trap it waits for the runs before it (R384). -/
def execTrap (i : BitVec 19) (s : State) : Out :=
  let t := s.team
  if t.trapReady then
    .next (takeTrap s s.cur { cause := 0x0D, addr := i.setWidth 64, lanes := t.mask, scalar := true } (t.spc + 4) (t.spc + 4) [])
  else .next s

/-- The channel of a command resumes it at the page at which it is held (R142). -/
def Chan.resume (uid : Nat) (h : Chan) : Chan :=
  match h.lead with
  | none => h
  | some (c, i) => if c.uid = uid then h.setLead { i with held := none } else h
def State.resumeCmd (s : State) (b : Nat) (cmd : Option Nat) : State :=
  match cmd with
  | none => s
  | some uid =>
    s.setBlockAt b ((s.blockAt b).mapChans (Chan.resume uid))

/-- `TRET` (R297, R386). -/
def execTret (s : State) : Out :=
  let t := s.team
  if !t.sup then scalarTrap s 0x03 0x03 0
  else if !s.settled then scalarWait s
  else
    let s := s.resumeCmd (teamBlock s.cur) (t.trapRet.bind (·.cmd))
    .next (s.setTeam { trapReturn t with progress := s.clock, gated := false })

/-- A command of a team that its engine holds at a page fault: its number, the detail and the address (R142). -/
def heldCommand (b : Block) (team : Nat) (ids : List Nat) : Option (Nat × Nat × Word64) :=
  (b.shares.flatMap (fun h => h.chans)).findSome? (fun h =>
    match h.heldAt with
    | some (c, d, a) => if c.team = team ∧ ids.contains c.id then some (c.uid, d, a) else none
    | none => none)

/-- The page fault of an engine, raised at the `BWAIT` or `EXIT` that waits for the command (R142). -/
def engineTrap (s : State) (uid detail : Nat) (addr : Word64) : Out :=
  let t := s.team
  if t.trapReady then
    .next (takeTrap s s.cur { cause := 0x07, detail := detail, addr := addr, lanes := t.mask, scalar := true, cmd := some uid }
      t.spc t.spc [])
  else .next s

/-- `EXIT` (R142, R298). -/
def execExit (s : State) : Out :=
  let t := s.team
  if !t.drained || s.orderedPending s.cur then scalarWait s
  else if t.cmds.isEmpty then .next (s.endTeam s.cur)
  else
    match heldCommand s.block s.cur t.cmds with
    | some (uid, d, a) => engineTrap s uid d a
    | none => scalarWait s

/-! ### Code -/

/-- `ISYNC` (R222): the team gives up the code it still holds expanded (DEDUCED, log 16). -/
def execIsync (s : State) : Out :=
  if !s.settled then scalarWait s else scalarDone s { s.team with expanded := [] }

/-- The cores whose caches an `ICINV` reaches on this device (R299). -/
def invCores (s : State) (sc : Scope) : List Nat :=
  match sc with
  | .team | .block => s.block.shares.map (·.core)
  | _ => List.range s.nCores

/-- The granule overlaps the bytes `a` to `a + n - 1`. -/
def Granule.hit (g : Granule) (a n : Nat) : Bool := overlaps g.va (g.va + 64) a (a + n)

/-- The caches of some cores give up the granules over the bytes `a` to `a + n - 1`; a team of such a core may hold them expanded
until its `ISYNC` (R222, R299). -/
def State.discardCode (s : State) (cs : List Nat) (a n : Nat) : State :=
  let gone (core : Nat) : List Granule :=
    if cs.contains core then (s.coreAt core).icache.filter (fun g => g.hit a n) else []
  { s with
    teams := s.teams.mapVals (fun k u => { u with expanded := u.expanded ++ (gone u.core).filter (fun g => g.ctx == teamCtx k) })
    cores := s.cores.mapVals (fun c x => if cs.contains c then { x with icache := x.icache.filter (fun g => !g.hit a n) } else x) }

/-- The other devices of the domain that have not been fenced off (R214). -/
def State.otherDevices (s : State) : List Nat :=
  (List.range s.routes.length).filter (fun d => d != s.ownDevice && !s.fenced.contains d && !s.isolated)

/-- The other devices that an `ICINV` reaches (R299). -/
def State.invDevices (s : State) (sc : Scope) : List Nat :=
  match sc with
  | .dom | .sys => s.otherDevices
  | _ => []

/-- `ICINV` (R299): it completes when every other device of its scope has answered, one that has been fenced off no longer answering, and
discards in its own device as it completes: one that is abandoned has no effect there (R268, DEDUCED, log 16). -/
def execIcinv (a y : SReg) (sc : Scope) (s : State) : Out :=
  let t := s.team
  if !s.settled then scalarWait s
  else
    let at_ := (t.sreg a).toNat
    let n := (t.sreg y).toNat
    let discarded := s.discardCode (invCores s sc) at_ n
    match t.icinv with
    | some x => if x.await.isEmpty then scalarDone discarded { discarded.team with icinv := none } else scalarWait s
    | none =>
      let devs := s.invDevices sc
      if devs.isEmpty then scalarDone discarded discarded.team
      else
        let (uid, s) := s.newUid
        .next (s.setTeam { s.team with icinv := some { uid := uid, await := devs, since := s.clock } })

/-! ### Translation -/

/-- The devices that a shoot-down goes to (R214, R300). -/
def State.shootDevices (s : State) (sc : Scope) : List Nat :=
  match sc with
  | .dom | .sys => s.ownDevice :: s.otherDevices
  | _ => [s.ownDevice]

/-- Send a shoot-down (R168, R214, R300). -/
def sendShoot (s : State) (sc : Scope) (form asid lo hi : Nat) (glob : Bool) : Out :=
  let t := s.team
  if !t.sup then scalarTrap s 0x03 0x02 0
  else if !s.settled then scalarWait s
  else
    let devs := s.shootDevices sc
    let (uid, s) := s.newUid
    let inv : TlbInv := { uid := uid, team := s.cur, vf := teamVf s.cur, form := form, asid := asid, lo := lo, hi := hi,
                          glob := glob, devs := devs, waiting := false }
    let s := { s with tlbinvs := s.tlbinvs ++ [inv] }
    scalarDone s { t with shoots := t.shoots ++ [{ uid := uid, await := devs, since := s.clock }] }

def execTlbinv (d a y : SReg) (glob : Bool) (sc : Scope) (s : State) : Out :=
  let t := s.team
  let lo := (t.sreg a).toNat
  sendShoot s sc 0 ((t.sreg d).toNat % 65536) lo (lo + (t.sreg y).toNat) glob
def execTlbinvAsid (d : SReg) (glob : Bool) (sc : Scope) (s : State) : Out :=
  sendShoot s sc 1 ((s.team.sreg d).toNat % 65536) 0 0 glob
def execTlbinvVf (sc : Scope) (s : State) : Out := sendShoot s sc 2 0 0 0 true

/-- `TLBSYNC` (R214, R300). -/
def execTlbsync (s : State) : Out :=
  let t := s.team
  if !t.sup then scalarTrap s 0x03 0x02 0
  else if !s.settled then scalarWait s
  else if t.shoots.all (fun x => x.await.isEmpty) then scalarDone s { t with shoots := [] }
  else scalarWait s

/-- `PTFENCE` (R166, R213, R300): every earlier write has been performed when it drains. -/
def execPtfence (s : State) : Out :=
  if !s.settled then scalarWait s
  else
    let s := s.rewalkCtx (teamCtx s.cur)
    scalarDone s s.team

/-! ### Random ranges -/

/-- The range of an entry: first to first + count - 1, cut at 2^64 - 1 (R182). -/
def RngEntry.overlap (x y : RngEntry) : Bool :=
  x.key == y.key && overlaps x.first.toNat (min (x.first.toNat + x.count.toNat) (2 ^ 64)) y.first.toNat
    (min (y.first.toNat + y.count.toNat) (2 ^ 64))

/-- Add an entry to a context's random-range table (R182, DEDUCED, log 35). -/
def State.addRange (s : State) (c : Nat) (e : RngEntry) : State :=
  if e.count = 0 then s
  else
    let x := s.ctxAt c
    let hits := x.rng.filter (fun y => e.overlap y)
    let s := hits.foldl (fun s y => s.post (ctxVf c)
      { code := 0x000A, ctx := ctxAsid c
        detail := BitVec.ofNat 64 (e.key.toNat % 2 ^ 32 + e.launch % 65536 * 2 ^ 32 + y.launch % 65536 * 2 ^ 48) }) s
    let x := s.ctxAt c
    let x : Ctx := { x with rngOver := BitVec.ofNat 32 (min (x.rngOver.toNat + hits.length) 0xFFFFFFFF) }
    if 256 ≤ x.rng.length then
      (s.setCtxAt c x).post (ctxVf c) { code := 0x000B, ctx := ctxAsid c, detail := BitVec.ofNat 64 e.launch }
    else s.setCtxAt c { x with rng := x.rng ++ [e] }

/-- `RNGREG` (R182, R183, R301). -/
def execRngreg (d a y : SReg) (s : State) : Out :=
  let t := s.team
  let l := teamLaunch s.cur
  let e : RngEntry := { key := t.sreg d, first := t.sreg a, count := t.sreg y, launch := launchIdent l }
  if s.block.prov then
    let x := s.launchAt l
    scalarDone (s.setLaunchAt l { x with rngHeld := x.rngHeld ++ [(blockIndex (teamBlock s.cur), e)] }) t
  else
    let s := s.addRange (teamCtx s.cur) e
    scalarDone s s.team

end Sys2Proof.Machine
end

