-- ==== Sys2Proof/Machine/LaneMulti.lean ====
section
/-! DEFINITION. Lane class 7: `BECOME` and its settlement, `EMIT`, `LTRAP`, the barriers and `NOP` (R42 to R45, R71, R72, R151 to
R153, R355, R375 to R381). -/

namespace Sys2Proof.Machine

/-! ### `BECOME` (R43, R375) -/

/-- `BECOME` reads its register in the executing lanes and settles at the boundary that it ends. -/
def execBecome (c : Ctl) (v w : Nat) (s : State) : Out :=
  laneIssue (.become c v w) c (fun s t a ex =>
    .issued (s.setTeam { t with settling := some { width := w, run := a.remainder
                                                   counts := ex.map (fun p => (p, ((t.lane p).reg v).toNat)) } })
      { n := 0, until_ := .settlement }) s

/-- A lane of the population: its parent's position, its ordinal, and what it will be (R43). -/
structure Heir where
  parent : Nat
  lane : Lane
  deriving DecidableEq, Repr, Inhabited

/-- Insert behind every element whose key is not above. -/
def insertKey (x : Heir) : List Heir → List Heir
  | [] => [x]
  | y :: rest => if x.lane.key.ult y.lane.key then x :: y :: rest else y :: insertKey x rest
/-- The stable sort by key (R43). -/
def sortKeys (xs : List Heir) : List Heir := xs.foldl (fun acc x => insertKey x acc) []

/-- The count of a live lane: its register where it executes the `BECOME`, else 1 (R43). -/
def Settle.count (z : Settle) (p : Nat) : Nat := ((List.find? (fun e => e.1 == p) z.counts).map (·.2)).getD 1

/-- The copies of a lane (R43). -/
def forkLane (p w n : Nat) (l : Lane) : List Heir :=
  (List.range n).map (fun o =>
    { parent := p
      lane := { l with key := l.key + BitVec.ofNat 64 (o * 2 ^ (64 - l.depth - w)), depth := l.depth + w, ord := BitVec.ofNat 16 o } })

/-- The sorted population (R43). -/
def population (t : Team) (z : Settle) : List Heir :=
  sortKeys ((List.range t.nlive).flatMap (fun p => forkLane p z.width (z.count p) (t.lane p)))

/-- The maximal runs of consecutive ordinals of one parent (R43). Where parents have equal keys the sort leaves their siblings in turn; a
run is counted among neighbours of the sorted list, so that such siblings make a run each, and not over the siblings of each parent
(DESIGN CHOICE, log 36: the rule does not say which). -/
def siblingRuns : List Heir → List (List Heir)
  | [] => []
  | x :: rest =>
    match siblingRuns rest with
    | (y :: ys) :: more =>
      if y.parent = x.parent ∧ y.lane.ord.toNat = x.lane.ord.toNat + 1 then (x :: y :: ys) :: more else [x] :: (y :: ys) :: more
    | more => [x] :: more

/-- The record of one run of deferred siblings (R151): the snapshot is the parent's. -/
def yardRecOf (w : Nat) (xs : List Heir) : YardRec :=
  let x := xs.headD default
  { key := x.lane.key, depth := x.lane.depth, width := w, count := xs.length, seq := x.lane.seq, regs := x.lane.regs
    preds := x.lane.preds }

/-- The record of lowest sibling key, the first written among equals (R152). -/
def lowestRec : List YardRec → Option Nat
  | [] => none
  | r :: rest =>
    match lowestRec rest with
    | none => some 0
    | some j => if (rest.getD j default).key.ult r.key then some (j + 1) else some 0

/-- The lane that a record gives birth to (R151). -/
def YardRec.birth (r : YardRec) : Lane :=
  { regs := r.regs, preds := r.preds, key := r.key, depth := r.depth, seq := r.seq
    ord := BitVec.ofNat 16 (bitsOf r.key.toNat (64 - r.depth) r.width) }
/-- The record after a birth; freed when its count reaches 0 (R151). -/
def YardRec.advance (r : YardRec) : YardRec := { r with key := r.key + BitVec.ofNat 64 (2 ^ (64 - r.depth)), count := r.count - 1 }

/-- Drain the yard into at most `n` places (R43, R152): the births in order, and the yard left. -/
def drainYard : Nat → List YardRec → List Heir × List YardRec
  | 0, yard => ([], yard)
  | n + 1, yard =>
    match lowestRec yard with
    | none => ([], yard)
    | some j =>
      let r := yard.getD j default
      let yard := if r.count ≤ 1 then yard.eraseIdx j else listUpd yard j YardRec.advance
      let (born, left) := drainYard n yard
      ({ parent := 0, lane := r.birth } :: born, left)

/-- Place the live lanes (R43): positions above them keep what they last held (R63). -/
def Team.placeLanes (t : Team) (live : List Heir) : Team :=
  { t with lanes := live.map (·.lane) ++ t.lanes.drop live.length, nlive := live.length, mask := maskBelow live.length }

/-- The trap of a settlement, in the priority of R43, with the handler masks of R375. -/
def settleTrap (t : Team) (z : Settle) (room yard : Nat) : Option Trap :=
  let live := List.range t.nlive
  let tr (cause detail : Nat) (ps : List Nat) : Option Trap :=
    some { cause := cause, detail := detail, lanes := maskOf ps, lane := ps.headD 0 }
  let wide := live.filter (fun p => decide (2 ^ z.width ≤ z.count p))
  let deep := live.filter (fun p => decide (1 ≤ z.count p) && decide (64 < (t.lane p).depth + z.width))
  if !t.stack.isEmpty then tr 0x01 0x68 (z.counts.map (·.1))
  else if !wide.isEmpty then tr 0x0A 0x00 wide
  else if !deep.isEmpty then tr 0x09 0x00 deep
  else
    let pop := population t z
    if room < pop.length ∧ yard - t.yard.length < (siblingRuns (pop.drop room)).length then
      tr 0x08 0x00 (live.filter (fun p => decide (2 ≤ z.count p)))
    else none

/-- The settlement itself (R43): the team, the siblings deferred and the births. `room` is L. -/
def settleTeam (t : Team) (z : Settle) (room : Nat) : Team × Nat × Nat :=
  let pop := population t z
  if room < pop.length then
    let deferred := pop.drop room
    ({ t.placeLanes (pop.take room) with yard := t.yard ++ (siblingRuns deferred).map (yardRecOf z.width) }, deferred.length, 0)
  else
    let (born, yard) := drainYard (room - pop.length) t.yard
    ({ t.placeLanes (sortKeys (pop ++ born)) with yard := yard }, 0, born.length)

/-- The `BECOME` of a team is complete, or withdrawn: its token is lowered (R41, R356). -/
def Team.endSettle (t : Team) : Team :=
  let fs := t.inflight.filter (fun f => f.until_ == .settlement)
  { fs.foldl (fun t f => t.lower f.tok) t with settling := none, inflight := t.inflight.filter (fun f => f.until_ != .settlement) }

/-! ### `EMIT` (R45, R72, R153, R377) -/

/-- `EMIT`. -/
def execEmit (c : Ctl) (a : Src) (s : State) : Out :=
  laneIssue (.emit c a) c (fun s t r ex =>
    if s.kernel.emit < t.emitBuf.length + ex.length then teamTrap 0x04 0x03 0 ex
    else
      .effect (s.setTeam
        { t with
          emitBuf := t.emitBuf ++ ex.map (fun p => { key := (t.lane p).key, seq := (t.lane p).seq, val := src32 t r p a })
          lanes := ex.foldl (fun ls p => listUpd ls p (fun l => { l with seq := l.seq + 1 })) t.lanes })) s

/-! ### `LTRAP`, barriers and `NOP` (R355, R378 to R381) -/

/-- `LTRAP`: the trap is entered at the boundary that it ends, and the instruction completes with it (R356, R378). -/
def execLtrap (c : Ctl) (code : Nat) (s : State) : Out :=
  laneIssue (.ltrap c code) c (fun s t _ ex =>
    if ex.isEmpty then .effect s
    else .issued
      (s.setTeam { t with ltrap := some { cause := 0x0C, addr := BitVec.ofNat 64 code, lanes := maskOf ex, lane := ex.headD 0 } })
      { n := 0, until_ := .ltrap }) s

/-- The `LTRAP` of a team completes, or is withdrawn: its token is lowered (R41, R356). -/
def Team.endLtrap (t : Team) : Team :=
  let fs := t.inflight.filter (fun f => f.until_ == .ltrap)
  { fs.foldl (fun t f => t.lower f.tok) t with ltrap := none, inflight := t.inflight.filter (fun f => f.until_ != .ltrap) }

/-- A team waits at an open instance with a token raised: the teams of its block that have been saved go on, since the save waits for
the token (R191). -/
def State.wakeSaved (s : State) (b : Nat) : State :=
  (s.blockTeams b).foldl (fun s k => s.setTeamAt k ((s.teamAt k).unsave s.clock)) s

/-- The accesses that a team has issued and that have not performed come before what any team of its block does after a barrier (R209). -/
def State.shareOps (s : State) (k : Nat) : State :=
  { s with ops := s.ops.map (fun o => if o.team = k then { o with shared := true } else o) }

/-- Arrive at a slot with a token or with none: the first arrival sets the kind of the instance, and another kind does not arrive
(R379). The accesses that the team has issued come before what its block does from then on (R205, R209, DESIGN CHOICE, log 50: that is
more than the instance asks). -/
def arrive (tok slot : Nat) (kind : Option Nat) (s : State) (ex : List Nat) : LaneRes :=
  let b := teamBlock s.cur
  let r := s.block.bars.getD slot {}
  if (match kind with
      | none => false
      | some n => n == 0 || decide (s.kernel.teams < n)) then teamTrap 0x01 0x69 0 ex
  else if r.kind.isSome && r.kind != some kind then teamTrap 0x01 0x69 0 ex
  else
    let s := (s.shareOps s.cur).setBlockAt b
      { s.block with bars := listUpd s.block.bars slot (fun r => { kind := some kind, arrivals := r.arrivals ++ [teamIdx s.cur] }) }
    let s := (s.setTeam { s.team with arrived := some slot }).barrierCheck b slot
    .issued (if tok != 0 && s.team.arrived.isSome then s.wakeSaved b else s) { n := 0, until_ := .barrier slot }

/-- `BAR` and `BARN` arrive whatever the mask and the guards (R355). -/
def execBar (c : Ctl) (slot : Nat) (s : State) : Out := laneIssue (.bar c slot) c (fun s _ _ ex => arrive c.set slot none s ex) s
def execBarn (c : Ctl) (n : Src) (slot : Nat) (s : State) : Out :=
  laneIssue (.barn c n slot) c (fun s t r ex => arrive c.set slot (some (src32 t r (ex.headD 0) n).toNat) s ex) s

/-- `NOP` (R381). -/
def execNop (c : Ctl) (s : State) : Out := laneIssue (.nop c) c (fun s _ _ _ => .effect s) s

end Sys2Proof.Machine
end

