-- ==== Sys2Proof/Machine/ScalarMem.lean ====
section
/-! DEFINITION. The constant window, scalar scratchpad accesses and `SWAIT` (R101, R283 to R285). -/

namespace Sys2Proof.Machine

/-- `LDK` of `n` bytes (R101, R283): misalignment first, then the bound of the window. -/
def ldkOp (n : Nat) (d a : SReg) (i : BitVec 13) (s : State) : Out :=
  let t := s.team
  let at_ := t.sreg a + i.signExtend 64
  if at_.toNat % n ≠ 0 then scalarTrap s 0x05 0x00 at_
  else if 0x10000 < at_.toNat + n then scalarTrap s 0x04 0x02 at_
  else scalarDone s (t.setSreg d (BitVec.ofNat 64 (s.windowRead at_.toNat n)))

def execLdk (d a : SReg) (i : BitVec 13) (s : State) : Out := ldkOp 8 d a i s
def execLdkN32 (d a : SReg) (i : BitVec 13) (s : State) : Out := ldkOp 4 d a i s

/-- The address of a scalar scratchpad access (R284). -/
def scalarAddr (s : State) (a : SReg) (i : BitVec 13) : Word64 := s.team.sreg a + i.signExtend 64

/-- The checks of a scalar scratchpad access of `n` bytes, in the order of R284: the trap's cause and detail, or where
the bytes lie. -/
def scalarTarget (s : State) (at_ : Word64) (n : Nat) (write : Bool) : Except (Nat × Nat) (Nat × Nat) :=
  if at_.toNat % n ≠ 0 then .error (0x05, 0x00)
  else if 2 ^ 32 ≤ at_.toNat then .error (0x04, 0x00)
  else
    match s.scratchAt at_.toNat n with
    | none => .error (0x04, 0x00)
    | some (ci, off) =>
      match s.scratchLock (teamBlock s.cur) ci off n write with
      | some k => .error (0x06, k)
      | none => .ok (ci, off)

/-- `SLD`: the bytes, zero-extended (R284). -/
def sldOp (n : Nat) (d a : SReg) (i : BitVec 13) (s : State) : Out :=
  let at_ := scalarAddr s a i
  match scalarTarget s at_ n false with
  | .error (c, k) => scalarTrap s c k at_
  | .ok (ci, off) => scalarDone s (s.team.setSreg d (BitVec.ofNat 64 (s.scratchRead (teamBlock s.cur) ci off n)))

/-- `SST`: the low bytes of sD (R284). -/
def sstOp (n : Nat) (d a : SReg) (i : BitVec 13) (s : State) : Out :=
  let at_ := scalarAddr s a i
  match scalarTarget s at_ n true with
  | .error (c, k) => scalarTrap s c k at_
  | .ok (ci, off) => scalarDone (s.scratchWrite (teamBlock s.cur) ci off n (s.team.sreg d).toNat) s.team

def execSldN8 (d a : SReg) (i : BitVec 13) (s : State) : Out := sldOp 1 d a i s
def execSldN16 (d a : SReg) (i : BitVec 13) (s : State) : Out := sldOp 2 d a i s
def execSldN32 (d a : SReg) (i : BitVec 13) (s : State) : Out := sldOp 4 d a i s
def execSldB64 (d a : SReg) (i : BitVec 13) (s : State) : Out := sldOp 8 d a i s
def execSstN8 (d a : SReg) (i : BitVec 13) (s : State) : Out := sstOp 1 d a i s
def execSstN16 (d a : SReg) (i : BitVec 13) (s : State) : Out := sstOp 2 d a i s
def execSstN32 (d a : SReg) (i : BitVec 13) (s : State) : Out := sstOp 4 d a i s
def execSstB64 (d a : SReg) (i : BitVec 13) (s : State) : Out := sstOp 8 d a i s

/-! ### `SWAIT` (R285) -/

/-- An access of these bytes comes before what the team does next and has not performed: an access of its scalar stream waits for it (R200,
R205, R209). -/
def State.bytesPending (s : State) (key n : Nat) : Bool :=
  (s.priorOps s.cur).any (fun o => o.keys.any (fun k => overlaps k (k + o.bytes) key (key + n)))

/-- `SWAIT` (R285). Each poll is one move of the scalar stream; one that does not satisfy the condition leaves only the
accessed update of its walk and the note that polling has begun. Range locks are checked at the first poll alone. A hold on a migrating page ends with the poll that proceeds (R166,
R389). -/
def execSwait (d a y : SReg) (wide : Bool) (c : WaitCond) (_acq : Bool) (_sc : Scope) (s : State) : Out :=
  let t := s.team
  let n := if wide then 8 else 4
  let at_ := t.sreg a
  if at_.toNat % n ≠ 0 then scalarTrap s 0x05 0x00 at_
  else if s.block.prov then gateHere s
  else
    match s.translate s.who at_ .read with
    | (.ok pa tier dev mc, s) =>
      match s.place (teamCtx s.cur) pa tier dev mc .read with
      | .error k => scalarTrap s 0x07 k at_
      | .ok key =>
        if noMemory key then .fault .noSuchMemory
        else
          match (if t.polling then none else s.globalLock t.core (teamAsid s.cur) at_.toNat n false) with
          | some k => scalarTrap s 0x06 k at_
          | none =>
            let x := s.mem.readNat key n
            let z := (t.sreg y).toNat % 2 ^ (8 * n)
            if s.bytesPending key n then .next s
            else if waitHolds c x z then
              match s.request s.cur at_.toNat key n with
              | .serve s => scalarDone s { s.team.setSreg d (BitVec.ofNat 64 x) with polling := false }
              | .wait => .next s
              | .diverged => .next (s.diverge (teamCtx s.cur))
            else .next (s.setTeam { s.team.proceed true s.clock with polling := true })
    | (x, s) => scalarXl s x 0 at_

/-- A further poll of the `SWAIT` at which a team waits (R285): the team at SPC reads the word again. A team that is not
polling has no such poll. -/
def execSwaitPoll (s : State) : Out :=
  if s.stopped || !s.team.polling then .next s
  else
    match fetchScalar s with
    | .out o => o
    | .run (.swait d a y wide c acq sc) s => execSwait d a y wide c acq sc s
    | .run _ _ => .next s

end Sys2Proof.Machine
end

