-- ==== Sys2Proof/Machine/Copies.lean ====
section
/-! DEFINITION. Copy commands: their fields, rows and swizzle, their range locks, and batches (R136 to R150, R171, R352, R353). -/

namespace Sys2Proof.Machine

/-- The fields of a copy command (R143, R144). Spaces: 0 virtual address, 1 scratchpad, 2 weight store, 3 illegal. -/
structure CopyCmd where
  top : Nat
  dev : Nat
  lq : Nat
  fmt : Nat
  exact : Bool
  op : Nat
  mask : Nat
  iw : Nat
  ew : Nat
  tf : Nat
  b : Nat
  m : Nat
  k : Nat
  ds : Nat
  ss : Nat
  hint : Nat
  chan : Nat
  kind : Nat
  src : Nat
  dst : Nat
  w3 : Nat
  deriving DecidableEq, Repr, Inhabited

def copyOf (w0 w1 w2 w3 : Word64) : CopyCmd :=
  let f (lo n : Nat) : Nat := bitsOf w0.toNat lo n
  { top := f 60 4, dev := f 48 12, lq := f 44 4, fmt := f 40 4, exact := f 39 1 == 1, op := f 35 4, mask := f 32 3
    iw := f 30 2, ew := f 28 2, tf := f 26 2, b := f 21 5, m := f 18 3, k := f 14 4, ds := f 12 2, ss := f 10 2
    hint := f 8 2, chan := f 4 4, kind := f 0 4, src := w1.toNat, dst := w2.toNat, w3 := w3.toNat }

/-- Word 3 by kind (R144): length; entropy lengths and table; row bytes, rows, strides and index list. -/
def CopyCmd.entropy (c : CopyCmd) : Bool := c.kind == 0 && c.tf == 1
def CopyCmd.len (c : CopyCmd) : Nat := if c.entropy then bitsOf c.w3 0 21 else bitsOf c.w3 0 32
def CopyCmd.srcLen (c : CopyCmd) : Nat := bitsOf c.w3 21 21
def CopyCmd.tableOff (c : CopyCmd) : Nat := bitsOf c.w3 42 20 * 4
def CopyCmd.rowed (c : CopyCmd) : Bool := c.kind == 1 || c.kind == 2 || c.kind == 3
def CopyCmd.rowBytes (c : CopyCmd) : Nat := if c.rowed then bitsOf c.w3 0 12 + 1 else c.len
def CopyCmd.rows (c : CopyCmd) : Nat := if c.rowed then bitsOf c.w3 12 12 + 1 else 1
def CopyCmd.stride (c : CopyCmd) : Nat := bitsOf c.w3 24 20
def CopyCmd.dstStride (c : CopyCmd) : Nat := bitsOf c.w3 44 20
def CopyCmd.indexOff (c : CopyCmd) : Nat := bitsOf c.w3 44 20 * 4
def CopyCmd.indexBytes (c : CopyCmd) : Nat := if c.iw = 0 then 4 else 8
def CopyCmd.rank (c : CopyCmd) : Nat := bitsOf c.w3 32 12
def CopyCmd.parts (c : CopyCmd) : Nat := bitsOf c.w3 44 12 + 1
/-- Element bytes of a collective reduction (R143). A collective of operation 0 delivers bytes: its element has one, whatever its format
field names (DESIGN CHOICE, log 17: R145 does not say what its element is). -/
def CopyCmd.elem (c : CopyCmd) : Nat := if c.op = 0 then 1 else if c.fmt = 1 ∨ c.fmt = 2 then 2 else 4
/-- Element bits of the entropy decoder (R143). -/
def CopyCmd.elemBits (c : CopyCmd) : Nat := if c.ew = 0 then 4 else if c.ew = 1 then 8 else 16

/-- The permitted source and destination spaces of each kind (R144). -/
def spaceOk (kind ss ds : Nat) : Bool :=
  match kind with
  | 0 => ss < 3 && ds < 2
  | 1 => ss < 3 && ds < 2
  | 2 => (ss == 0 || ss == 2) && ds == 1
  | 3 => ss == 1 && ds == 0
  | 4 => ss < 3 && ds == 1
  | 5 => ss < 2 && ds == 0
  | 6 => ss == 0 && ds == 2
  | _ => true

/-- A swizzle outside R146; a width of 0 is no swizzle. -/
def swizzleBad (k m b : Nat) : Bool := m != 0 && !(4 ≤ k && k ≤ 10 && k + m ≤ b && b + m ≤ 24)

/-- Unused high bits of an address word (R144). -/
def highBits (space a : Nat) : Bool := (space == 1 && decide (2 ^ 32 ≤ a)) || (space == 2 && decide (2 ^ 31 ≤ a))

/-- Word 3 is illegal, apart from the entropy length that has detail 0x58 (R286, DEDUCED, log 17). An entropy decode of 0 source bytes is
refused as a length of 0 is (DESIGN CHOICE, log 17: R144 gives the source bytes no minimum). -/
def CopyCmd.wordBad (c : CopyCmd) : Bool :=
  match c.kind with
  | 0 =>
    if c.tf = 1 then c.len == 0 || c.srcLen == 0 || bitsOf c.w3 62 2 != 0
    else c.len == 0 || bitsOf c.w3 32 32 != 0
  | 1 => decide (c.dstStride < c.rowBytes)
  | 3 => decide (c.stride < c.rowBytes)
  | 4 | 6 => c.len == 0 || bitsOf c.w3 32 32 != 0
  | 5 => c.len == 0 || bitsOf c.w3 56 8 != 0 || c.len % c.elem != 0 || c.src % c.elem != 0 || c.dst % c.elem != 0
  | _ => false

/-- The illegal fields of a command, by the details of R286. -/
def CopyCmd.defects (c : CopyCmd) (cores chans : Nat) : List Nat :=
  (if c.top != 0 then [0x50] else []) ++
  (if 3 < c.fmt then [0x53] else []) ++
  (if c.exact && c.fmt == 3 then [0x54] else []) ++
  (if 3 < c.op then [0x55] else []) ++
  (if c.kind = 4 ∧ (c.mask = 0 ∨ 2 ^ cores ≤ c.mask) then [0x56] else []) ++
  (if 1 < c.iw then [0x57] else []) ++
  (if c.ew = 3 ∨ (c.entropy ∧ c.ew = 2 ∧ c.len % 2 ≠ 0) then [0x58] else []) ++
  (if 1 < c.tf ∨ (c.tf = 1 ∧ c.kind ≠ 0) then [0x59] else []) ++
  (if swizzleBad c.k c.m c.b then [0x5A] else []) ++
  (if !spaceOk c.kind c.ss c.ds then [0x5B] else []) ++
  (if chans ≤ c.chan then [0x5C] else []) ++
  (if 6 < c.kind then [0x5D] else []) ++
  (if c.wordBad then [0x5E] else []) ++
  (if highBits c.ss c.src || highBits c.ds c.dst then [0x5F] else [])

/-! ### Swizzle (R146) -/

/-- The swizzled offset. -/
def swizzle (k m b a : Nat) : Nat := if m = 0 then a else a ^^^ (a / 2 ^ b % 2 ^ m * 2 ^ k)

/-- The parts of [lo, hi) inside the block of 2^(k + m) bytes that holds `at_`, by chunk, swizzled. The map permutes the
chunks of such a block. -/
def swizzledParts (k m b lo hi at_ : Nat) : List (Nat × Nat) :=
  let blk := at_ / 2 ^ (k + m) * 2 ^ (k + m)
  (List.range (2 ^ m)).filterMap (fun j =>
    let x := max lo (blk + j * 2 ^ k)
    let y := min hi (blk + (j + 1) * 2 ^ k)
    if x < y then some (swizzle k m b x, swizzle k m b x + (y - x)) else none)

/-- The smallest interval that holds every byte of [lo, hi) after the swizzle (R146, R171). -/
def swizzledSpan (k m b lo hi : Nat) : Nat × Nat :=
  if m = 0 ∨ hi ≤ lo then (lo, hi)
  else
    (((swizzledParts k m b lo hi lo).map (·.1)).foldl min (hi * 2 ^ 10),
     ((swizzledParts k m b lo hi (hi - 1)).map (·.2)).foldl max 0)

/-- The swizzle acts on the destination if that is scratchpad, else on a scratchpad source. -/
def CopyCmd.dstSwz (c : CopyCmd) : Nat := if c.ds = 1 then c.m else 0
def CopyCmd.srcSwz (c : CopyCmd) : Nat := if c.ds = 1 then 0 else if c.ss = 1 then c.m else 0

/-- The bytes that a row arrangement spans from its first byte. -/
def spanOf (rows stride bytes : Nat) : Nat := (rows - 1) * stride + bytes

/-- The source and destination spans that the command itself fixes, or none where its index list decides (R144). -/
def CopyCmd.srcSpan (c : CopyCmd) : Option Nat :=
  match c.kind with
  | 1 => some (spanOf c.rows c.stride c.rowBytes)
  | 2 => none
  | 3 => some (c.rows * c.rowBytes)
  | _ => some (if c.entropy then c.srcLen else c.len)
def CopyCmd.dstSpan (c : CopyCmd) : Option Nat :=
  match c.kind with
  | 1 => some (spanOf c.rows c.dstStride c.rowBytes)
  | 2 => some (c.rows * c.rowBytes)
  | 3 => none
  | 5 => none
  | _ => some c.len

/-- The smallest interval of offsets that covers every byte of some rows of `n` bytes after the swizzle (R146, R171, R360). -/
def rowsHull (k m b : Nat) (rows : List Nat) (n : Nat) : Nat × Nat :=
  let spans := rows.map (fun o => swizzledSpan k m b o (o + n))
  ((spans.map (·.1)).foldl min (spans.headD (0, 0)).1, (spans.map (·.2)).foldl max 0)

/-- The addresses of some rows of `n` bytes from a scratchpad address up, as the scratchpad sees them after a swizzle: the first and
the number of addresses to the last. The Peer and Core bits stay. -/
def swzRange (k m b a : Nat) (rows : List Nat) (n : Nat) : Nat × Nat :=
  let (lo, hi) := rowsHull k m b (rows.map (fun o => a % 2 ^ 24 + o)) n
  (a / 2 ^ 24 * 2 ^ 24 + lo, hi - lo)

/-- The rows of a side of a command, and the bytes of each: kind 1 leaves gaps between its rows, which a swizzle does not move (R146). -/
def CopyCmd.srcRows (c : CopyCmd) : List Nat := if c.kind = 1 then (List.range c.rows).map (fun j => j * c.stride) else [0]
def CopyCmd.dstRows (c : CopyCmd) : List Nat := if c.kind = 1 then (List.range c.rows).map (fun j => j * c.dstStride) else [0]
def CopyCmd.rowPart (c : CopyCmd) (n : Nat) : Nat := if c.kind = 1 then c.rowBytes else n

/-! ### Checks of a command (R96, R97, R145) -/

/-- The bytes of a weight-store address lie in the context's region: their key in the weight store (R95, R96). -/
def storeKey (x : Ctx) (a n : Nat) : Option Nat :=
  if 2 ^ 31 ≤ a then none
  else
    let die := bitsOf a 29 2
    let off := bitsOf a 0 29
    match x.ws.getD die (0, 0) with
    | (base, size) => if off + n ≤ size then some (die * 2 ^ 29 + base + off) else none

/-- The address that a weight-store fault reports (R96). -/
def storeAddr (a : Nat) : Word64 := BitVec.ofNat 64 (a % 2 ^ 63 + 2 ^ 63)

/-- The launch holds weight-store access (R97). -/
def Launch.wsAccess (x : Launch) : Bool := x.kernel.wsAccess || x.wsWrite

/-- A trap that a range check raises: cause, detail, address. -/
abbrev RangeFault := Nat × Nat × Word64

/-- Check one range of `n` bytes that a command fixes; in scratchpad the bytes of its rows as the swizzle moves them (DEDUCED, log
11). -/
def checkRange (s : State) (space a n k m b : Nat) (rows : List Nat) (part : Nat) (write : Bool) : Option RangeFault :=
  match space with
  | 1 =>
    let (a', n') := swzRange k m b a rows part
    if (s.scratchAt a' n').isNone then some (0x04, 0x00, BitVec.ofNat 64 a) else none
  | 2 =>
    if write then
      if !s.launch.wsWrite then some (0x07, 0xA1, storeAddr a)
      else if (storeKey s.ctx a n).isNone then some (0x07, 0xA1, storeAddr a) else none
    else if !s.launch.wsAccess then some (0x07, 0x81, storeAddr a)
    else if (storeKey s.ctx a n).isNone then some (0x07, 0x81, storeAddr a)
    else none
  | _ => none

/-- The first failing check of a command's own ranges: source, destination, index list or decode table. -/
def checkCopy (s : State) (c : CopyCmd) : Option RangeFault :=
  let src := match c.srcSpan with
    | some n => checkRange s c.ss c.src n c.k c.srcSwz c.b c.srcRows (c.rowPart n) false
    | none => if c.ss = 2 ∧ !s.launch.wsAccess then some (0x07, 0x81, storeAddr c.src) else none
  let dst := match c.dstSpan with
    | some n =>
      if c.kind = 4 ∧ 2 ^ 24 ≤ c.dst then some (0x04, 0x00, BitVec.ofNat 64 c.dst)
      else checkRange s c.ds c.dst n c.k c.dstSwz c.b c.dstRows (c.rowPart n) true
    | none => none
  let own := if c.kind = 2 ∨ c.kind = 3 then checkRange s 1 c.indexOff (c.rows * c.indexBytes) 0 0 0 [0] (c.rows * c.indexBytes) false
    else if c.entropy then checkRange s 1 c.tableOff 1024 0 0 0 [0] 1024 false
    else none
  (src.orElse (fun _ => dst)).orElse (fun _ => own)

/-! ### Commit gates (R54) -/

/-- The bytes [a, a + n) all lie in the given ranges. -/
def covered (ranges : List (Nat × Nat)) : Nat → Nat → Nat → Bool
  | 0, _, n => n == 0
  | fuel + 1, a, n =>
    if n = 0 then true
    else
      match ranges.find? (fun r => r.1 ≤ a && a < r.1 + r.2) with
      | none => false
      | some r => covered ranges fuel (r.1 + r.2) (n - (r.1 + r.2 - a))

/-- The stable ranges of a launch (R52). -/
def Launch.stable (x : Launch) : List (Nat × Nat) := (x.shape.map (·.stable)).getD []
def Launch.isStable (x : Launch) (a n : Nat) : Bool := covered x.stable (x.stable.length + 1) a n
def State.isStable (s : State) (a n : Nat) : Bool := s.launch.isStable a n

/-- The index list or decode table that a command reads at issue from its core's scratchpad. -/
def readList (m : Memory) (at_ n w : Nat) : List Nat := (chunksOf w n (m.slice at_ (n * w))).map leNat

/-- A copy of a provisional block is no gate: it writes scratchpad, and reads no global memory outside the stable ranges of its
launch. `index` holds the rows that a gather names (R54). -/
def CopyCmd.ungated (c : CopyCmd) (x : Launch) (index : List Nat) : Bool :=
  c.ds == 1 && (c.ss != 0 ||
    (match c.kind with
    | 1 => (List.range c.rows).all (fun j => x.isStable ((c.src + j * c.stride) % 2 ^ 64) c.rowBytes)
    | 2 => index.all (fun i => x.isStable ((c.src + i * c.stride) % 2 ^ 64) c.rowBytes)
    | _ => x.isStable c.src (c.srcSpan.getD 0)))

/-- A copy is a commit gate in a provisional block (R54). Which rows a gather reads, its index list says as it now stands; the channel
asks again when it reads the list (DEDUCED, log 17). -/
def copyGated (s : State) (c : CopyCmd) : Bool :=
  s.block.prov &&
    !c.ungated s.launch (readList (s.block.share (s.shareIdx s.cur)).scratch c.indexOff c.rows c.indexBytes)

/-! ### Issuing a command -/

/-- Change a channel of a block. -/
def State.updChan (s : State) (b ci ch : Nat) (f : Chan → Chan) : State :=
  s.updShare b ci (fun h => { h with chans := listUpd h.chans ch f })
def State.chanAt (s : State) (b ci ch : Nat) : Chan := ((s.blockAt b).share ci).chans.getD ch {}

/-- The command that the current team appends next. -/
def State.nextCmd (s : State) (after : List Nat) (body : CmdBody) : Cmd :=
  { id := s.team.nextIns, team := s.cur, sup := s.team.sup, uid := s.uids, after := after, body := body }

/-- Append a command to a channel of the current team: it joins the unsealed set (R136, R148). -/
def State.enqueue (s : State) (ch : Nat) (after : List Nat) (body : CmdBody) : State :=
  let t := s.team
  let id := t.nextIns
  let cmd := s.nextCmd after body
  let s := { s with uids := s.uids + 1 }
  let s := s.updChan (teamBlock s.cur) (s.shareIdx s.cur) ch (fun c => { c with queue := c.queue ++ [cmd] })
  s.setTeam { t with nextIns := id + 1, cmds := t.cmds ++ [id], unsealed := t.unsealed ++ [id] }

/-- The channel named by the current team is full (R139). -/
def State.chanFull (s : State) (ch : Nat) : Bool :=
  decide (64 ≤ (s.chanAt (teamBlock s.cur) (s.shareIdx s.cur) ch).queue.length)

/-! ### Batches -/

/-- Batches finish in number order, each when every command of it has completed; the first failure is recorded if the
record is 0 (R149, R150). -/
def finishBatches : Nat → Team → Team
  | 0, t => t
  | fuel + 1, t =>
    match t.sealed with
    | [] => t
    | x :: rest =>
      if x.cmds.any (fun i => t.cmds.contains i) then t
      else
        let bad := t.failed.find? (fun e => x.cmds.contains e.1)
        let rec_ := match bad with
          | some (_, st) => if t.failRec = 0 then BitVec.ofNat 64 (x.num.toNat * 2 ^ 32 + st) else t.failRec
          | none => t.failRec
        finishBatches fuel
          { t with sealed := rest, nFinished := t.nFinished + 1, failRec := rec_
                   failed := t.failed.filter (fun e => !x.cmds.contains e.1) }
def Team.finishAll (t : Team) : Team := finishBatches t.sealed.length t

/-- The unfinished batches of a team number Sealed - Finished (R192). -/
def Team.unfinished (t : Team) : Nat := (t.nSealed - t.nFinished).toNat

end Sys2Proof.Machine
end

