-- ==== Sys2Proof/Machine/ScalarControl.lean ====
section
/-! DEFINITION. Branches, calls, `RUN`, the mask instructions and the lane reductions into scalars (R36, R277 to R282). -/

namespace Sys2Proof.Machine

/-- The register that receives return addresses. -/
def linkReg : SReg := 63

/-- The target of an SB branch (R252, R277). -/
def branchTarget (spc : Word64) (off : BitVec 20) : Word64 := spc + (off.signExtend 64 <<< 2)

/-- `B` (R277). -/
def execB (q : QReg) (neg : Bool) (off : BitVec 20) (s : State) : Out :=
  let t := s.team
  if condHolds t q neg then scalarJump s t (branchTarget t.spc off) else scalarDone s t

/-- `CALL` (R277). -/
def execCall (q : QReg) (neg : Bool) (off : BitVec 20) (s : State) : Out :=
  let t := s.team
  if condHolds t q neg then scalarJump s (t.setSreg linkReg (t.spc + 4)) (branchTarget t.spc off) else scalarDone s t

/-- `JR` (R278). -/
def execJr (a : SReg) (s : State) : Out := scalarJump s s.team (s.team.sreg a)

/-- `CALLR` reads sA before it writes s63 (R278). -/
def execCallr (a : SReg) (s : State) : Out :=
  let t := s.team
  scalarJump s (t.setSreg linkReg (t.spc + 4)) (t.sreg a)

/-- The base that `RUN` adds to: the kernel's lane code, or `TRAPBASE` in the handler (R279, R385). -/
def State.runBase (s : State) : Word64 := if s.team.sup then s.ctx.trapBase else BitVec.ofNat 64 s.kernel.laneBase

/-- `RUN` appends a run, which keeps the scalar registers as they now are; it stalls while the queue holds 8 (R34, R35,
R279). -/
def execRun (d : SReg) (i : BitVec 19) (s : State) : Out :=
  let t := s.team
  if 8 ≤ t.runs.length then scalarWait s
  else
    let addr := s.runBase + t.sreg d + i.setWidth 64
    scalarDone s { t with runs := t.runs ++ [{ addr := addr, start := addr, sregs := t.sregs, no := t.nextRun }], nextRun := t.nextRun + 1 }

/-- The positions below NLIVE in which a predicate is true (R280). -/
def Team.predMask (t : Team) (p : PSrc) : MaskBits := maskOf ((List.range t.nlive).filter (fun i => (t.lane i).pred p))

/-- The team with a new mask: every bit at or above NLIVE stays 0 (R32, R280). -/
def Team.withMask (t : Team) (m : MaskBits) : Team := { t with mask := m &&& maskBelow t.nlive }

/-- `MPUSH` (R69, R280). -/
def execMpush (p : PSrc) (s : State) : Out :=
  let t := s.team
  if !t.drained then scalarWait s
  else if 16 ≤ t.stack.length then scalarTrap s 0x01 0x44 0
  else
    let pm := t.predMask p
    scalarDone s { t.withMask (t.mask &&& pm) with stack := (t.mask, t.mask &&& ~~~ pm) :: t.stack }

/-- `MELSE` (R69, R280). -/
def execMelse (s : State) : Out :=
  let t := s.team
  if !t.drained then scalarWait s
  else
    match t.stack with
    | [] => scalarTrap s 0x01 0x45 0
    | (sv, el) :: rest => scalarDone s { t.withMask el with stack := (sv, 0) :: rest }

/-- `MPOP` (R69, R280): the accesses made under the diverged masks come before those that follow it (R205). -/
def execMpop (s : State) : Out :=
  let t := s.team
  if !t.drained then scalarWait s
  else
    match t.stack with
    | [] => scalarTrap s 0x01 0x45 0
    | (sv, _) :: rest => withDrained s (fun s => scalarDone s { s.team.withMask sv with stack := rest })

/-- The active lanes in which a predicate is true (R281). -/
def Team.predLanes (t : Team) (p : PSrc) : List Nat := t.activeLanes.filter (fun i => (t.lane i).pred p)

def execSany (d : QReg) (p : PSrc) (s : State) : Out :=
  if !s.team.drained then scalarWait s else scalarDone s (s.team.setQreg d (!(s.team.predLanes p).isEmpty))
def execSall (d : QReg) (p : PSrc) (s : State) : Out :=
  if !s.team.drained then scalarWait s
  else scalarDone s (s.team.setQreg d (s.team.activeLanes.all (fun i => (s.team.lane i).pred p)))
def execSpop (d : SReg) (p : PSrc) (s : State) : Out :=
  if !s.team.drained then scalarWait s
  else scalarDone s (s.team.setSreg d (BitVec.ofNat 64 (s.team.predLanes p).length))
def execSfind (d : SReg) (p : PSrc) (s : State) : Out :=
  if !s.team.drained then scalarWait s
  else scalarDone s (s.team.setSreg d (match s.team.predLanes p with
    | [] => 0xFFFFFFFFFFFFFFFF
    | i :: _ => BitVec.ofNat 64 i))

/-- One 32-bit reduction step and its value with no lane (R282, R330). -/
def redStep (op : RedOp) (x y : Word32) : Word32 :=
  match op with
  | .add => x + y
  | .min => if x.slt y then x else y
  | .max => if x.slt y then y else x
  | .minu => if x.ult y then x else y
  | .maxu => if x.ult y then y else x
  | .and => x &&& y
  | .or => x ||| y
  | .xor => x ^^^ y
def redUnit (op : RedOp) : Word32 :=
  match op with
  | .add => 0
  | .min => 0x7FFFFFFF
  | .max => 0x80000000
  | .minu => 0xFFFFFFFF
  | .maxu => 0
  | .and => 0xFFFFFFFF
  | .or => 0
  | .xor => 0

/-- `SRED` over lane values: `.ADD` sums sign-extended values in 64 bits, `.MIN` and `.MAX` sign-extend, the others
zero-extend (R282). -/
def sredValue (op : RedOp) (xs : List Word32) : Word64 :=
  match op with
  | .add => xs.foldl (fun acc x => acc + x.signExtend 64) 0
  | .min => (xs.foldl (redStep .min) (redUnit .min)).signExtend 64
  | .max => (xs.foldl (redStep .max) (redUnit .max)).signExtend 64
  | _ => (xs.foldl (redStep op) (redUnit op)).setWidth 64

/-- `SRED` (R282): a register at or above G has detail 0x06. -/
def execSred (op : RedOp) (d : SReg) (v : Nat) (s : State) : Out :=
  let t := s.team
  if s.kernel.regs ≤ v then scalarTrap s 0x01 0x06 0
  else if !t.drained then scalarWait s
  else scalarDone s (t.setSreg d (sredValue op (t.activeLanes.map (fun i => (t.lane i).reg v))))

end Sys2Proof.Machine
end

