-- ==== Sys2Proof/Machine/LaneCross.lean ====
section
/-! DEFINITION. Lane class 4: predicate logic and the cross-lane instructions (R127, R128, R326 to R334). -/

namespace Sys2Proof.Machine

/-! ### Predicate logic (R326) -/

def predOp (i : Instr) (c : Ctl) (d : PDst) (a y : PSrc) (f : Bool → Bool → Bool) (s : State) : Out :=
  laneFixed i c latInt (fun t _ p => writePred p d (f ((t.lane p).pred a) ((t.lane p).pred y))) s
def execPand (c : Ctl) (d : PDst) (a y : PSrc) (s : State) : Out := predOp (.pand c d a y) c d a y (fun p q => p && q) s
def execPor (c : Ctl) (d : PDst) (a y : PSrc) (s : State) : Out := predOp (.por c d a y) c d a y (fun p q => p || q) s
def execPxor (c : Ctl) (d : PDst) (a y : PSrc) (s : State) : Out := predOp (.pxor c d a y) c d a y (fun p q => p != q) s
def execPandn (c : Ctl) (d : PDst) (a y : PSrc) (s : State) : Out := predOp (.pandn c d a y) c d a y (fun p q => p && !q) s

/-! ### Bands (R30, R327) -/

/-- The positions of band `k` that execute. -/
def bandOf (ex : List Nat) (k : Nat) : List Nat := ex.filter (fun p => p / 32 == k)
/-- A cross-lane instruction of fixed latency, band by band: each band with an executing lane gives its writes. -/
def bandFixed (i : Instr) (c : Ctl) (f : Team → Active → Nat → List Nat → List LaneWrite) (s : State) : Out :=
  laneIssue i c (fun _ t a ex => .results latCross ((List.range 32).flatMap (fun k =>
    let xs := bandOf ex k
    if xs.isEmpty then [] else f t a k xs))) s

/-- `VOTE` (R328). -/
def execVote (c : Ctl) (m : VoteMode) (q : PSrc) (s : State) : Out :=
  bandFixed (.vote c m q) c (fun t _ k xs =>
    let hit := xs.filter (fun p => (t.lane p).pred q)
    xs.flatMap (fun p =>
      match m with
      | .any d => writePred p d (!hit.isEmpty)
      | .all d => writePred p d (hit.length == xs.length)
      | .ballot d => writeReg p d (BitVec.ofNat 32 ((hit.map (fun h => 2 ^ (h - 32 * k))).sum)))) s

/-- The source lane index of `SHFL`, none where it lies outside the band (R329). -/
def shflIndex (m : ShflMode) (i x : Nat) : Option Nat :=
  let j : Int := match m with
    | .idx => x
    | .up => (i : Int) - x
    | .down => (i : Int) + x
    | .xor => (i ^^^ x : Nat)
  if 0 ≤ j ∧ j < 32 then some j.toNat else none

/-- `SHFL` (R329). -/
def execShfl (c : Ctl) (m : ShflMode) (wide : Bool) (d : Dst) (a y : Src) (s : State) : Out :=
  bandFixed (.shfl c m wide d a y) c (fun t r k xs =>
    xs.flatMap (fun p =>
      let j := match shflIndex m (p - 32 * k) (src32 t r p y).toNat with
        | some j => if xs.contains (32 * k + j) then 32 * k + j else p
        | none => p
      if wide then writePair p d (src64 t r j a) else writeReg p d (src32 t r j a))) s

/-! ### `REDUCE` and `SCAN` (R127, R128, R330) -/

def bandStep (op : BandOp) (x y : Word32) : Word32 :=
  match op with
  | .int o => redStep o x y
  | .fadd => addF32 .rn x y
  | .fmin => minF32 x y
  | .fmax => maxF32 x y
def bandUnit (op : BandOp) : Word32 :=
  match op with
  | .int o => redUnit o
  | .fadd => 0x80000000
  | .fmin => 0x7FC00000
  | .fmax => 0x7FC00000
/-- The operand of `REDUCE` and `SCAN`: F32 for the floating-point operations (R257, R330). -/
def bandSrc (op : BandOp) (t : Team) (a : Active) (p : Nat) (x : Src) : Word32 :=
  match op with
  | .int _ => src32 t a p x
  | _ => srcF32 t a p x

/-- The 32 values of a band, the identity where a lane does not execute. -/
def bandValues (unit : Word32) (k : Nat) (xs : List Nat) (f : Nat → Word32) : List Word32 :=
  (List.range 32).map (fun i => if xs.contains (32 * k + i) then f (32 * k + i) else unit)

/-- The butterfly of R127. -/
def butterfly (f : Word32 → Word32 → Word32) : Nat → Nat → List Word32 → List Word32
  | 0, _, xs => xs
  | n + 1, k, xs =>
    butterfly f n (k + 1) ((List.range 32).map (fun i =>
      let j := i ^^^ 2 ^ k
      f (xs.getD (min i j) 0) (xs.getD (max i j) 0)))
/-- The prefixes of R128. -/
def prefixes (f : Word32 → Word32 → Word32) : Nat → Nat → List Word32 → List Word32
  | 0, _, xs => xs
  | n + 1, k, xs =>
    prefixes f n (k + 1) ((List.range 32).map (fun i =>
      if 2 ^ k ≤ i then f (xs.getD (i - 2 ^ k) 0) (xs.getD i 0) else xs.getD i 0))

def execReduce (c : Ctl) (op : BandOp) (d : Dst) (a : Src) (s : State) : Out :=
  bandFixed (.reduce c op d a) c (fun t r k xs =>
    let y := butterfly (bandStep op) 5 0 (bandValues (bandUnit op) k xs (fun p => bandSrc op t r p a))
    xs.flatMap (fun p => writeReg p d (y.getD (p - 32 * k) 0))) s
/-- Every executing lane of a band holds NaN under `.FMIN` or `.FMAX` (R330): the other lanes contribute NaN too. -/
def bandAllNan (op : BandOp) (vs : List Word32) : Bool := (op == .fmin || op == .fmax) && vs.all (fun x => valF32 x == .nan)
/-- The inclusive prefixes of a band (R128). A band whose executing lanes all hold NaN yields the canonical NaN in every lane, though the
steps of R128 would leave the lowest lane its own bits (R330, DEDUCED, log 22). -/
def bandPrefixes (op : BandOp) (vs : List Word32) : List Word32 :=
  if bandAllNan op vs then List.replicate 32 0x7FC00000 else prefixes (bandStep op) 5 0 vs

def execScan (c : Ctl) (op : BandOp) (d : Dst) (a : Src) (s : State) : Out :=
  bandFixed (.scan c op d a) c (fun t r k xs =>
    let y := bandPrefixes op (bandValues (bandUnit op) k xs (fun p => bandSrc op t r p a))
    xs.flatMap (fun p => writeReg p d (y.getD (p - 32 * k) 0))) s

/-! ### `SAMPLE` (R331) -/

def isZeroF32 (x : Word32) : Bool := x &&& 0x7FFFFFFF == 0
/-- The lane drawn from 32 weights by the word `u`, and whether it is valid. -/
def sampleBand (w : List Word32) (u : Word32) : Word32 × Bool :=
  let at_ (i : Nat) : Word32 := w.getD i 0
  let bad (x : Word32) : Bool := valF32 x == .nan || (x.getLsbD 31 && !isZeroF32 x)
  if w.any bad then (0xFFFFFFFF, false)
  else
    match (List.range 32).find? (fun i => at_ i == 0x7F800000) with
    | some i => (BitVec.ofNat 32 i, true)
    | none =>
      if w.all isZeroF32 then (0xFFFFFFFF, false)
      else
        let ps := prefixes (addF32 .rn) 5 0 w
        let total := ps.getD 31 0
        let target := if total = 0x7F800000 then total else encF32 .rn ((numOf u.toNat (-32) false).mul (valF32 total))
        let live := (List.range 32).filter (fun i => !isZeroF32 (at_ i))
        match live.find? (fun i => fmtF32.cond .gt (ps.getD i 0).toNat target.toNat) with
        | some i => (BitVec.ofNat 32 i, true)
        | none => (BitVec.ofNat 32 (live.getLastD 0), true)

def execSample (c : Ctl) (d : Dst) (v : PDst) (w u : Src) (s : State) : Out :=
  bandFixed (.sample c d v w u) c (fun t r k xs =>
    let ws := bandValues 0 k xs (fun p => srcF32 t r p w)
    let (x, ok) := sampleBand ws (src32 t r (xs.headD 0) u)
    xs.flatMap (fun p => writeReg p d x ++ writePred p v ok)) s

/-! ### `MSPLIT` and `ISECT` (R332, R333) -/

/-- Per lane: the address read first where a check fails, or what the lane may go on with. -/
inductive LaneCheck where
  | ok
  | bad (cause detail : Nat) (addr : Word64)
  deriving DecidableEq, Repr, Inhabited

def LaneCheck.cause : LaneCheck → Nat
  | .ok => 0
  | .bad k _ _ => k

/-- The trap of the lowest lane with a cause; the handler's mask holds the lanes of that cause (R89, R338). -/
def laneFaults (checks : List (Nat × LaneCheck)) : Option Trap :=
  match checks.find? (fun x => x.2 != .ok) with
  | some (p, .bad cause detail addr) =>
    some { cause := cause, detail := detail, addr := addr, lane := p
           lanes := maskOf ((checks.filter (fun x => x.2.cause == cause)).map (·.1)) }
  | _ => none

/-- The checks of an array of N32 entries in scratchpad (R332): alignment, bounds, range locks. -/
def arrayCheck (s : State) (base n : Nat) : LaneCheck :=
  if n = 0 then .ok
  else if base % 4 ≠ 0 then .bad 0x05 0x00 (BitVec.ofNat 64 base)
  else
    match s.scratchAt base (4 * n) with
    | none => .bad 0x04 0x00 (BitVec.ofNat 64 base)
    | some (ci, off) =>
      match s.scratchLock (teamBlock s.cur) ci off (4 * n) false with
      | some k => .bad 0x06 k (BitVec.ofNat 64 base)
      | none => .ok

/-- Entry `k` of an array that has passed its checks. -/
def arrayEntry (s : State) (base k : Nat) : Nat :=
  match s.scratchAt base 4 with
  | some (ci, off) => s.scratchRead (teamBlock s.cur) ci (off + 4 * k) 4
  | none => 0

/-- The binary search of R332 and R333: the lowest index in [lo, hi) that the test refuses. -/
def bisect (test : Nat → Bool) : Nat → Nat → Nat → Nat
  | 0, lo, _ => lo
  | fuel + 1, lo, hi =>
    if hi ≤ lo then lo
    else
      let mid := (lo + hi) / 2
      if test mid then bisect test fuel (mid + 1) hi else bisect test fuel lo mid

/-- The entries that such a search reads, one in each step of it. -/
def bisectReads (test : Nat → Bool) : Nat → Nat → Nat → List Nat
  | 0, _, _ => []
  | fuel + 1, lo, hi =>
    if hi ≤ lo then []
    else
      let mid := (lo + hi) / 2
      mid :: (if test mid then bisectReads test fuel (mid + 1) hi else bisectReads test fuel lo mid)

/-- Count the replay cycles of a search, step by step (R90, R332, R333): the entries that each lane position reads of its array. -/
def State.countSearch (s : State) (lanes : List (Nat × Nat × List Nat)) : State :=
  (List.range 35).foldl (fun s k =>
    s.countReplay (lanes.map (fun r => (r.1, match r.2.2[k]? with
      | some e => wordsOf ((s.scratchAt (r.2.1 + 4 * e) 4).getD (0, 0)) 4
      | none => [])))) s

/-- The merge-path split of one lane (R332). -/
def msplitTest (s : State) (dg base mid : Nat) : Bool := decide (arrayEntry s base mid + mid + 1 ≤ dg)
def msplitAt (s : State) (diag base rows nnz : Nat) : Nat × Nat :=
  let dg := min diag (rows + nnz)
  let r := bisect (msplitTest s dg base) 34 (dg - nnz) (min dg rows)
  (r, dg - r)
def msplitReads (s : State) (diag base rows nnz : Nat) : List Nat :=
  let dg := min diag (rows + nnz)
  bisectReads (msplitTest s dg base) 34 (dg - nnz) (min dg rows)

def execMsplit (c : Ctl) (d : Dst) (diag base rows nnz : Src) (s : State) : Out :=
  laneIssue (.msplit c d diag base rows nnz) c (fun s t a ex =>
    let g (p : Nat) (x : Src) : Nat := (src32 t a p x).toNat
    match laneFaults (ex.map (fun p => (p, arrayCheck s (g p base) (g p rows)))) with
    | some tr => .trap tr
    | none =>
      let s := s.countSearch (ex.map (fun p => (p, g p base, msplitReads s (g p diag) (g p base) (g p rows) (g p nnz))))
      .issued s { n := 0, dsts := laneWrites (.msplit c d diag base rows nnz)
                  writes := ex.flatMap (fun p =>
                    let r := msplitAt s (g p diag) (g p base) (g p rows) (g p nnz)
                    writePair p d (BitVec.ofNat 32 r.2 ++ BitVec.ofNat 32 r.1)) }) s

/-- The rank and the find of one lane (R333). -/
def isectAt (s : State) (x base len : Nat) : Nat × Bool :=
  let lo := bisect (fun mid => decide (arrayEntry s base mid < x)) 34 0 len
  (lo, decide (lo < len) && arrayEntry s base lo == x)
def isectReads (s : State) (x base len : Nat) : List Nat :=
  let lo := (isectAt s x base len).1
  bisectReads (fun mid => decide (arrayEntry s base mid < x)) 34 0 len ++ (if lo < len then [lo] else [])

def execIsect (c : Ctl) (d : Dst) (f : PDst) (x base len : Src) (s : State) : Out :=
  laneIssue (.isect c d f x base len) c (fun s t a ex =>
    let g (p : Nat) (y : Src) : Nat := (src32 t a p y).toNat
    match laneFaults (ex.map (fun p => (p, arrayCheck s (g p base) (g p len)))) with
    | some tr => .trap tr
    | none =>
      let s := s.countSearch (ex.map (fun p => (p, g p base, isectReads s (g p x) (g p base) (g p len))))
      .issued s { n := 0, dsts := laneWrites (.isect c d f x base len)
                  writes := ex.flatMap (fun p =>
                    let r := isectAt s (g p x) (g p base) (g p len)
                    writeReg p d (BitVec.ofNat 32 r.1) ++ writePred p f r.2) }) s

end Sys2Proof.Machine
end

