-- ==== Sys2Proof/Machine/Matrix.lean ====
section
/-! DEFINITION. Tiles and matrix products as data: elements and columns of a tile, the element formats, the VQ2 codebooks, the
format block, and the sums of `MMA` (R74, R112, R116 to R120, R129, R366 to R370, R374). -/

namespace Sys2Proof

/-- Bits of an element width (R254). -/
def ElemW.bits : ElemW → Nat
  | .w4 => 4
  | .w8 => 8
  | .w16 => 16
  | .w32 => 32

end Sys2Proof

namespace Sys2Proof.Machine

/-! ### Elements, rows and columns (R74) -/

/-- The elements of width `e` bits of little-endian bytes, the low nibble first at 4 bits. -/
def unpackElems (e : Nat) (bs : List Byte) : List Nat :=
  if e = 4 then bs.flatMap (fun x => [x.toNat % 16, x.toNat / 16])
  else (chunksOf (e / 8) bs.length bs).map leNat
/-- The bytes of elements of width `e` bits. -/
def packElems (e : Nat) (xs : List Nat) : List Byte :=
  if e = 4 then (chunksOf 2 xs.length xs).map (fun p => BitVec.ofNat 8 (p.headD 0 % 16 + 16 * (p.getD 1 0 % 16)))
  else xs.flatMap (leBytes (e / 8))

/-- The columns of rows of equal length `n`. -/
def columns {α : Type} (n : Nat) (rows : List (List α)) : List (List α) :=
  rows.foldr (fun r acc => List.zipWith (fun x xs => x :: xs) r acc) (List.replicate n [])

/-- A tile: 128 rows of 512 bytes. -/
def tileRows (m : Memory) : List (List Byte) := chunksOf 512 128 (m.slice 0 65536)
def tileOf (rows : List (List Byte)) : Memory := Memory.ofBytes 0 rows.flatten
/-- Columns 0 to n - 1 of rows of bytes, each packed at width `e` (R74). -/
def packedColumns (e n : Nat) (rows : List (List Byte)) : List (List Byte) :=
  (columns n (rows.map (fun r => (unpackElems e r).take n))).map (packElems e)

/-- Rows of a transfer through a port, and the bytes of each (R358). -/
def portRows (pt : Port) (w : ElemW) : Nat :=
  match pt with
  | .row => 128
  | .col => 4096 / w.bits
def portBytes (pt : Port) (w : ElemW) : Nat :=
  match pt with
  | .row => 512
  | .col => 16 * w.bits

/-- A tile as the rows of scratchpad that a port transfers, and the tile that such rows make (R361, R362). -/
def tileToRows (pt : Port) (w : ElemW) (m : Memory) : List (List Byte) :=
  match pt with
  | .row => tileRows m
  | .col => packedColumns w.bits (4096 / w.bits) (tileRows m)
def rowsToTile (pt : Port) (w : ElemW) (rows : List (List Byte)) : Memory :=
  match pt with
  | .row => tileOf rows
  | .col => tileOf (packedColumns w.bits 128 rows)

/-- `TMOV` (R363). -/
def tileMove (pt : Port) (w : ElemW) (m : Memory) : Memory :=
  match pt with
  | .row => m
  | .col => tileOf ((packedColumns w.bits 128 (tileRows m)).map (fun r => r ++ List.replicate (512 - 16 * w.bits) 0))

/-- `PRUNE` of one group (R374). -/
def pruneGroup (e k : Nat) (xs : List Nat) : List Nat :=
  let ms := (xs.map (fun x => x % 2 ^ (e - 1))).zipIdx
  List.zipWith (fun x (mi : Nat × Nat) =>
    if (ms.filter (fun y => mi.1 < y.1 || (y.1 == mi.1 && y.2 < mi.2))).length < k then x else 0) xs ms
/-- `PRUNE` of a tile: the `k` largest of every `g` (R374). -/
def tilePrune (w : ElemW) (k g : Nat) (m : Memory) : Memory :=
  tileOf ((tileRows m).map (fun r => packElems w.bits ((chunksOf g 1024 (unpackElems w.bits r)).flatMap (pruneGroup w.bits k))))

/-! ### Element formats (R366, R367) -/

/-- Bits of an element of a format code. -/
def matBits (f : Nat) : Nat :=
  match f with
  | 2 => 4
  | 5 | 6 => 16
  | 7 => 2
  | _ => 8
/-- The format is block-scaled. -/
def matScaled (f : Nat) : Bool := f == 2 || f == 7 || f == 8 || f == 9
/-- The exact value of an element (R113, R115). -/
def matValue (f x : Nat) : Num :=
  match f with
  | 0 | 8 => fmtE4M3.value x
  | 1 | 9 => fmtE5M2.value x
  | 2 => fmtE2M1.value x
  | 3 => numOf (readInt true 8 x) 0 false
  | 4 => numOf x 0 false
  | 5 => fmtBF16.value x
  | 6 => fmtF16.value x
  | _ => .nan
/-- A code that is assigned and permitted for A or for B. -/
def matCode (isB : Bool) (f : Nat) : Bool := decide (f < 10) && (isB || f != 7)
/-- The legal combinations of A, B and an accumulator of type I32 (R367). -/
def matCombo (fa fb : Nat) (i32 : Bool) : Bool :=
  if fa = 3 ∨ fa = 4 then fb == 3 || fb == 4
  else if i32 then false
  else if fa = 5 ∨ fa = 6 then fb == fa
  else decide (fb < 3) || fb == 7 || fb == 8 || fb == 9

/-- The format block (R366). -/
structure FormatBlock where
  fa : Nat
  fb : Nat
  i32 : Bool
  blk : Nat
  table : Bool
  k : Nat
  sw : BitVec 11
  aScale : Nat
  bScale : Nat
  deriving DecidableEq, Repr, Inhabited

def formatBlock (x : Word64) : FormatBlock :=
  let f (lo n : Nat) : Nat := bitsOf x.toNat lo n
  { fa := f 0 4, fb := f 4 4, i32 := f 8 1 == 1, blk := if f 9 1 = 1 then 16 else 32, table := f 10 1 == 1
    k := 16 * (f 11 6 + 1), sw := x.extractLsb' 17 11, aScale := 64 * f 28 18, bScale := 64 * f 46 18 }

/-- The chunk of R129. -/
def FormatBlock.chunk (x : FormatBlock) : Nat := if x.fa = 5 ∨ x.fa = 6 then 16 else 32
def FormatBlock.scaled (x : FormatBlock) : Bool := matScaled x.fa || matScaled x.fb
/-- Bytes of the B range and of one scale array (R368). -/
def FormatBlock.bBytes (x : FormatBlock) : Nat := 16 * x.k * matBits x.fb
def FormatBlock.scaleBytes (x : FormatBlock) : Nat := 128 * x.k / x.blk

/-- The illegal fields of a format block, by the details of R357. -/
def FormatBlock.defects (x : FormatBlock) (pt : Port) : List Nat :=
  (if !matCode false x.fa || !matCode true x.fb then [0x62] else if !matCombo x.fa x.fb x.i32 then [0x63] else []) ++
  (if x.k % x.chunk != 0 || decide ((match pt with
      | .row => 4096 / matBits x.fa
      | .col => 128) < x.k) then [0x64] else []) ++
  (if (x.table && x.fb != 7) || (x.blk == 16 && (!x.scaled || x.fb == 7)) then [0x65] else []) ++
  (if (x.aScale != 0 && !matScaled x.fa) || (x.bScale != 0 && !matScaled x.fb) || (x.sw != 0 && !x.scaled) ||
      !(swizzleOf x.sw).wf then [0x66] else [])

/-! ### VQ2 (R118 to R120) -/

/-- The vectors of `n` magnitudes, coded 0 to 3, whose squared norm exceeds the least one by 2 w, in lexicographic order:
a magnitude of code c adds c (c + 1). -/
def shell : Nat → Nat → List (List Nat)
  | 0, 0 => [[]]
  | 0, _ + 1 => []
  | n + 1, w => (List.range 4).flatMap (fun c => if c * (c + 1) / 2 ≤ w then (shell n (w - c * (c + 1) / 2)).map (fun v => c :: v) else [])

/-- The ROM lattice table: the first 256 vectors by norm, then lexicographically; the shells up to norm 12 hold them all
(R119). -/
def latticeTable : List (List Nat) := ((List.range 6).flatMap (shell 8)).take 256

/-- The magnitudes of a row of a codebook: of the lattice, or of the user table's bytes (R119, R120). -/
def codebookRow (user : Option (List Byte)) (row : Nat) : List Num :=
  match user with
  | none => (latticeTable.getD row []).map (fun c => .fin false (2 * c + 1) (-1))
  | some bs => ((bs.drop (8 * row)).take 8).map (fun x => fmtE4M3.value x.toNat)

/-- The eight weights of an index (R118, R120). -/
def vq2Weights (user : Option (List Byte)) (index : Nat) : List Num :=
  List.zipWith (fun (x : Num) j => if bitsOf index j 1 = 1 then x.neg else x) (codebookRow user (index / 256)) (List.range 8)

/-! ### Operands of `MMA` (R369, R370) -/

/-- Multiply elements by the scales of their blocks (R117). -/
def scaleElems (blk : Nat) (scales : List Byte) (xs : List Num) : List Num :=
  ((chunksOf blk xs.length xs).zipIdx).flatMap (fun p => p.1.map (fun x => x.mul (valE8M0 (scales.getD p.2 0).toNat)))

/-- The scales of each row or column of an array, where its operand is scaled. -/
def scaleRows (x : FormatBlock) (scaled : Bool) (bytes : List Byte) : List (List Byte) :=
  if scaled then chunksOf (x.k / x.blk) 128 bytes else List.replicate 128 []

/-- The 128 rows of K elements of A (R370). -/
def matA (x : FormatBlock) (pt : Port) (tile : Memory) (scales : List Byte) : List (List Num) :=
  let e := matBits x.fa
  let raw : List (List Nat) := match pt with
    | .row => (tileRows tile).map (fun r => (unpackElems e r).take x.k)
    | .col => columns 128 ((tileRows tile).take x.k |>.map (fun r => (unpackElems e r).take 128))
  List.zipWith (fun r sc =>
    let v := r.map (matValue x.fa)
    if matScaled x.fa then scaleElems x.blk sc v else v) raw (scaleRows x (matScaled x.fa) scales)

/-- The 128 columns of K elements of B, from the bytes of its range (R369). -/
def matB (x : FormatBlock) (bytes scales : List Byte) (user : Option (List Byte)) : List (List Num) :=
  List.zipWith (fun col sc =>
    let v : List Num :=
      if x.fb = 7 then (unpackElems 16 col).flatMap (vq2Weights user) else (unpackElems (matBits x.fb) col).map (matValue x.fb)
    if matScaled x.fb then scaleElems x.blk sc v else v)
    (chunksOf (x.k * matBits x.fb / 8) 128 bytes) (scaleRows x (matScaled x.fb) scales)

/-! ### The sums (R129) -/

/-- The exact sum of the products of one chunk. -/
def chunkSum (ps : List (Num × Num)) : Num := ps.foldl (fun acc p => acc.add .rn (p.1.mul p.2)) (.fin false 0 0)
/-- An exact sum of integer products as an integer. -/
def Num.toInt : Num → Int
  | .fin neg m e => (if neg then -1 else 1) * (m * 2 ^ e.toNat : Nat)
  | _ => 0

/-- One element of D: the chunks in ascending order (R129). -/
def dotProduct (x : FormatBlock) (c : Word32) (row col : List Num) : Word32 :=
  (chunksOf x.chunk x.k (row.zip col)).foldl (fun acc ps =>
    if x.i32 then acc + BitVec.ofInt 32 (chunkSum ps).toInt
    else encF32 .rn ((valF32 acc).add .rn (chunkSum ps))) c

/-- D of one array from A, B and the tile C (R370). -/
def matProduct (x : FormatBlock) (a b : List (List Num)) (c : Memory) : Memory :=
  tileOf (List.zipWith (fun row crow =>
    packElems 32 (List.zipWith (fun col z => (dotProduct x (BitVec.ofNat 32 z) row col).toNat) b (unpackElems 32 crow)))
    a (tileRows c))

/-- The elements of B that are zero (R196). -/
def zeroCount (b : List (List Num)) : Nat :=
  (b.map (fun col => (col.filter (fun x =>
    match x with
    | .fin _ m _ => m == 0
    | _ => false)).length)).sum

end Sys2Proof.Machine
end

