-- ==== Sys2Proof/Machine/LaneTile.lean ====
section
/-! DEFINITION. Lane class 6: tile transfers, the weight buffer and the matrix array (R73 to R75, R99, R100, R355 to R374). -/

namespace Sys2Proof.Machine

/-- A team instruction: performed once, and only if a lane executes it; it keeps its token otherwise (R355). -/
def teamIssue (i : Instr) (c : Ctl) (f : State → Team → Active → List Nat → LaneRes) (s : State) : Out :=
  laneIssue i c (fun s t r ex => if ex.isEmpty then .issued s { n := 0 } else f s t r ex) s

/-! ### Tiles (R358 to R363, R374) -/

def State.tile (s : State) (b ci n : Nat) : Memory := ((s.blockAt b).share ci).tiles.getD n []
def State.setTile (s : State) (b ci n : Nat) (m : Memory) : State :=
  s.updShare b ci (fun h => { h with tiles := listUpd h.tiles n (fun _ => m) })
/-- The tile registers of the current team's core. -/
def State.ownTile (s : State) (n : Nat) : Memory := s.tile (teamBlock s.cur) (s.shareIdx s.cur) n
def State.setOwnTile (s : State) (n : Nat) (m : Memory) : State := s.setTile (teamBlock s.cur) (s.shareIdx s.cur) n m

/-- The offsets of the rows of a transfer, before the swizzle (R358). -/
def rowOffsets (a stride n : Nat) : List Nat := (List.range n).map (fun j => a % 2 ^ 24 + j * stride)

/-- The smallest interval of offsets that covers every byte of the rows after the swizzle (R360). -/
def rowsSpan (sw : Swizzle) (rows : List Nat) (r : Nat) : Nat × Nat := rowsHull (sw.k4 + 4) sw.m sw.b rows r

/-- Where a transfer's rows lie, or its trap, in the order of R360. -/
def rowsTarget (s : State) (sw : Swizzle) (a stride n r : Nat) (write : Bool) : Except (Nat × Nat × Word64) Nat :=
  let at_ := BitVec.ofNat 64 a
  if a % 16 ≠ 0 then .error (0x05, 0x00, at_)
  else if stride % 16 ≠ 0 then .error (0x05, 0x01, BitVec.ofNat 64 stride)
  else
    let span := rowsSpan sw (rowOffsets a stride n) r
    match s.scratchAt (a / 2 ^ 24 * 2 ^ 24 + span.1) (span.2 - span.1) with
    | none => .error (0x04, 0x00, at_)
    | some (ci, off) =>
      match s.scratchLock (teamBlock s.cur) ci off (span.2 - span.1) write with
      | some k => .error (0x06, k, at_)
      | none => .ok ci

/-- The 16-byte groups of a row at its swizzled offsets: a swizzle moves them whole (R146, R359). -/
def groupOffsets (sw : Swizzle) (off r : Nat) : List Nat :=
  (List.range (r / 16)).map (fun g => swizzle (sw.k4 + 4) sw.m sw.b (off + 16 * g))

/-- `TLD` (R361). -/
def execTld (c : Ctl) (pt : Port) (w : ElemW) (sw : Swizzle) (d : Nat) (a y : Src) (s : State) : Out :=
  teamIssue (.tld c pt w sw d a y) c (fun s t r ex =>
    let p := ex.headD 0
    let at_ := (src32 t r p a).toNat
    let stride := (src32 t r p y).toNat
    match rowsTarget s sw at_ stride (portRows pt w) (portBytes pt w) false with
    | .error (k, detail, addr) => teamTrap k detail addr ex
    | .ok ci =>
      let m := ((s.blockAt (teamBlock s.cur)).share ci).scratch
      let rows := (rowOffsets at_ stride (portRows pt w)).map (fun o =>
        (groupOffsets sw o (portBytes pt w)).flatMap (fun g => m.slice g 16))
      .issued (s.setOwnTile d (rowsToTile pt w rows)) { n := 0, tiles := [d] }) s

/-- `TST` (R362): a stride below the row bytes has detail 0x61. -/
def execTst (c : Ctl) (pt : Port) (w : ElemW) (sw : Swizzle) (a y : Src) (src : Nat) (s : State) : Out :=
  teamIssue (.tst c pt w sw a y src) c (fun s t r ex =>
    let p := ex.headD 0
    let at_ := (src32 t r p a).toNat
    let stride := (src32 t r p y).toNat
    if stride < portBytes pt w then teamTrap 0x01 0x61 0 ex
    else
      match rowsTarget s sw at_ stride (portRows pt w) (portBytes pt w) true with
      | .error (k, detail, addr) => teamTrap k detail addr ex
      | .ok ci =>
        let rows := tileToRows pt w (s.ownTile src)
        let put (m : Memory) (x : Nat × List Byte) : Memory :=
          ((groupOffsets sw x.1 (portBytes pt w)).zip (chunksOf 16 32 x.2)).foldl (fun m g => m.writeBytes g.1 g.2) m
        .issued (s.updShare (teamBlock s.cur) ci (fun h =>
          { h with scratch := ((rowOffsets at_ stride (portRows pt w)).zip rows).foldl put h.scratch })) { n := 0 }) s

/-- `TMOV` (R363). -/
def execTmov (c : Ctl) (pt : Port) (w : ElemW) (d a : Nat) (s : State) : Out :=
  teamIssue (.tmov c pt w d a) c (fun s _ _ _ => .issued (s.setOwnTile d (tileMove pt w (s.ownTile a))) { n := 0, tiles := [d] }) s

/-- `TZERO` (R363). -/
def execTzero (c : Ctl) (d : Nat) (s : State) : Out :=
  teamIssue (.tzero c d) c (fun s _ _ _ => .issued (s.setOwnTile d []) { n := 0, tiles := [d] }) s

/-- `PRUNE` (R374). -/
def execPrune (c : Ctl) (w : ElemW) (k lg : Nat) (d a : Nat) (s : State) : Out :=
  teamIssue (.prune c w k lg d a) c (fun s _ _ _ =>
    .issued (s.setOwnTile d (tilePrune w k (2 ^ lg) (s.ownTile a))) { n := 0, tiles := [d] }) s

/-! ### Waits at issue (R356) -/

/-- The buffer ranges that unfinished matrix operations of the block read on a core (R365). -/
def State.bufferReads (s : State) (b core : Nat) : List (Nat × Nat) :=
  (s.blockTeams b).flatMap (fun j => (s.teamAt j).inflight.flatMap (fun f =>
    match f.until_ with
    | .array cs rs => if cs.contains core then rs else []
    | _ => []))

/-- The causes for which the remainder of a run waits have cleared (R356, R373). The first of `arrays` is the team's own core:
there its turn must have come. -/
def State.parkCleared (s : State) (k : Nat) (p : Park) : Bool :=
  (if p.register then s.locksFit p.locks
    else p.locks.all (fun e => (s.coreAt e.1).locks.all (fun l => !l.2.conflicts e.2))) &&
  (match p.range with
    | none => true
    | some (lo, hi) => !(s.bufferReads (teamBlock k) (s.teamAt k).core).any (fun r => overlaps lo hi r.1 r.2)) &&
  p.arrays.all (fun c => (s.coreAt c).arrayBusy.isNone && (s.coreAt c).arrayQ.head?.all (fun j => j == k))

/-- Park the current team's run at issue. -/
def parkRun (s : State) (p : Park) : LaneRes := .requeue (s.setTeam { s.team with parked := some p })

/-! ### `WLD` (R364, R365) -/

/-- A new entry of the current team; `slot` is its block's on the core. It holds the context's identifier, whatever its space (R170,
DESIGN CHOICE, log 49). -/
def newLock (s : State) (space lo hi slot engine chan : Nat) (dest ptr : Bool) (uid : Nat) : Lock :=
  { start := lo, lo := lo, hi := hi, space := space, dest := dest, ptr := ptr, engine := engine, chan := chan, team := teamIdx s.cur
    asid := teamAsid s.cur, slot := slot, uid := uid }

/-- The checks of `WLD`, in the order of R364: cause, detail, address. A length of 0 has no byte that a region or the buffer
could fail to hold (R99, DEDUCED, log 18). -/
def wldCheck (s : State) (a off n : Nat) : Option RangeFault :=
  if a % 64 ≠ 0 then some (0x05, 0x00, storeAddr a)
  else if off % 64 ≠ 0 then some (0x05, 0x02, BitVec.ofNat 64 off)
  else if n % 64 ≠ 0 then some (0x05, 0x03, BitVec.ofNat 64 n)
  else if !s.launch.wsAccess || decide (2 ^ 31 ≤ a) then some (0x07, 0x81, storeAddr a)
  else if n ≠ 0 ∧ (storeKey s.ctx a n).isNone then some (0x07, 0x81, storeAddr a)
  else if n ≠ 0 ∧ s.kernel.wbuf < off + n then some (0x04, 0x01, BitVec.ofNat 64 off)
  else none

/-- The 4 KiB pieces of a weight-store range, by address divided by 4096, that meet their refresh window now (R98). -/
def heldPieces (s : State) (a n : Nat) : List Nat :=
  ((List.range ((a % 4096 + n + 4095) / 4096)).map (fun i => a / 4096 + i)).filter (fun u => refreshRemaining s.clock (u % 16) != 0)

/-- `WLD`: the bytes arrive when it completes (R98, R356, R364, R365). -/
def execWld (c : Ctl) (a y len : Src) (s : State) : Out :=
  teamIssue (.wld c a y len) c (fun s t r ex =>
    let p := ex.headD 0
    let at_ := (src64 t r p a).toNat
    let off := (src32 t r p y).toNat
    let n := (src32 t r p len).toNat
    match wldCheck s at_ off n with
    | some (k, detail, addr) => teamTrap k detail addr ex
    | none =>
      if n = 0 then .issued s { n := 0 }
      else
        let slot := (s.block.share (s.shareIdx s.cur)).slot
        let new (uid : Nat) : List (Nat × Lock) :=
          [(t.core, newLock s spaceStore at_ (at_ + n) slot 1 0 false false uid),
           (t.core, newLock s spaceWbuf off (off + n) slot 1 0 true false uid)]
        let park : Park := { locks := new 0, register := true, range := some (off, off + n) }
        if !s.locksFit (new 0) then parkRun s.waitBegins park
        else if !s.parkCleared s.cur park then parkRun s park
        else
          let (uid, s) := (s.waitDone s.cur).newUid
          .issued (s.addLocks (new uid)) { n := 0, until_ := .wld uid at_ off n none }) s

/-! ### `MMA` and `MMA.PAIR` (R366 to R373) -/

/-- A scale array as its smallest interval of offsets after the swizzle, and its bytes in order (R369). -/
def scaleSpan (x : FormatBlock) (off : Nat) : Nat × Nat :=
  let sw := swizzleOf x.sw
  swizzledSpan (sw.k4 + 4) sw.m sw.b off (off + x.scaleBytes)
def scaleArray (x : FormatBlock) (m : Memory) (off : Nat) : List Byte :=
  (groupOffsets (swizzleOf x.sw) off x.scaleBytes).flatMap (fun g => m.slice g 16)

/-- The scale arrays of an operation: offset, and whether it is read on the follower of a pair too. -/
def scaleArrays (x : FormatBlock) : List (Nat × Bool) :=
  (if matScaled x.fa then [(x.aScale, false)] else []) ++ (if matScaled x.fb then [(x.bScale, true)] else [])

/-- The checks of R368 after the encoding: cause, detail, address. Both cores of a pair hold the same S and B, so a check
fails on both or on neither. -/
def mmaCheck (s : State) (x : FormatBlock) (pt : Port) (off : Nat) (pair : Bool) : Option RangeFault :=
  match x.defects pt ++ (if pair && (!s.isLeader s.team.core || !s.kernel.paired) then [0x67] else []) with
  | d :: _ => some (0x01, d, 0)
  | [] =>
    if off % 64 ≠ 0 then some (0x05, 0x02, BitVec.ofNat 64 off)
    else if s.kernel.wbuf < off + x.bBytes + (if x.table then 2048 else 0) then some (0x04, 0x01, BitVec.ofNat 64 off)
    else
      match (scaleArrays x).find? (fun e => decide (s.kernel.scratch < (scaleSpan x e.1).2)) with
      | some e => some (0x04, 0x00, BitVec.ofNat 64 e.1)
      | none => none

/-- The ranges of the weight buffer that an operation reads. -/
def mmaReads (s : State) (x : FormatBlock) (off : Nat) : List (Nat × Nat) :=
  (off, off + x.bBytes) :: (if x.table then [(s.kernel.wbuf - 2048, s.kernel.wbuf)] else [])

/-- The ranges that an operation reads, as source entries on its cores; they are never registered (R173, R368). -/
def mmaLocks (s : State) (x : FormatBlock) (off : Nat) (cis : List Nat) : List (Nat × Lock) :=
  (cis.zipIdx).flatMap (fun e =>
    let h := s.block.share e.1
    (mmaReads s x off).map (fun r => (h.core, newLock s spaceWbuf r.1 r.2 h.slot 0 0 false false 0)) ++
    ((scaleArrays x).filter (fun a => e.2 == 0 || a.2)).map (fun a =>
      (h.core, newLock s spaceScratch (scaleSpan x a.1).1 (scaleSpan x a.1).2 h.slot 0 0 false false 0)))

/-- The operation joins the order of its arrays: a pair operation at the head of its leader's order reserves the follower's (R373). -/
def State.joinArrays (s : State) (k : Nat) (cores : List Nat) : State :=
  match cores with
  | [] => s
  | own :: rest =>
    let s := s.setCoreAt own { s.coreAt own with arrayQ := joinQueue k false (s.coreAt own).arrayQ }
    if (s.coreAt own).arrayQ.head? = some k then s.reserveArrays k rest else s
/-- The operation starts on its arrays. -/
def State.takeArrays (s : State) (k : Nat) (cores : List Nat) : State :=
  (cores.foldl (fun s c =>
    s.setCoreAt c { s.coreAt c with arrayBusy := some k, arrayQ := (s.coreAt c).arrayQ.filter (fun j => j != k) }) s).promotePairs
/-- One half of an operation: D on core index `ci` from A and that core's B and C (R370, R372). -/
def mmaHalf (s : State) (x : FormatBlock) (am : List (List Num)) (off d src ci : Nat) : State :=
  let b := teamBlock s.cur
  let h := (s.blockAt b).share ci
  let user := if x.table then some (h.wbuf.slice (s.kernel.wbuf - 2048) 2048) else none
  let bm := matB x (h.wbuf.slice off x.bBytes) (scaleArray x h.scratch x.bScale) user
  let positions := 128 * x.k * 128
  let (n, s) := s.takeFresh
  let s := (s.count h.core (teamVf s.cur) 3 positions).count h.core (teamVf s.cur) 4 (min (Config.skipped n) (128 * zeroCount bm))
  s.setTile b ci d (matProduct x am bm (s.tile b ci src))

/-- `MMA` and `MMA.PAIR` on the core indices `cis` of the block (DEDUCED, log 19). -/
def mmaOp (i : Instr) (c : Ctl) (pt : Port) (d a : Nat) (y : Src) (src : Nat) (f : SReg) (pair : Bool) (s : State) : Out :=
  teamIssue i c (fun s t r ex =>
    let x := formatBlock (r.sreg f)
    let off := (src32 t r (ex.headD 0) y).toNat
    match mmaCheck s x pt off pair with
    | some (k, detail, addr) => teamTrap k detail addr ex
    | none =>
      let ci := s.shareIdx s.cur
      let cis := if pair then [ci, ci + 1] else [ci]
      let cores := cis.map (fun j => (s.block.share j).core)
      let park : Park := { locks := mmaLocks s x off cis, arrays := cores }
      if !s.parkCleared s.cur { park with arrays := [] } then parkRun s { park with arrays := [] }
      else
        let s := s.joinArrays s.cur cores
        if !s.parkCleared s.cur park then parkRun s park
        else
          let h := s.block.share ci
          let am := matA x pt (s.ownTile a) (scaleArray x h.scratch x.aScale)
          let s := cis.foldl (fun s j => mmaHalf s x am off d src j) (s.takeArrays s.cur cores)
          .issued s { n := 0, tiles := [d], until_ := .array cores (mmaReads s x off) }) s

/-- `MMA` (R370). -/
def execMma (c : Ctl) (pt : Port) (d a : Nat) (y : Src) (src : Nat) (f : SReg) (s : State) : Out :=
  mmaOp (.mma c pt d a y src f) c pt d a y src f false s
/-- `MMA.PAIR` (R372, R373). -/
def execMmaPair (c : Ctl) (pt : Port) (d a : Nat) (y : Src) (src : Nat) (f : SReg) (s : State) : Out :=
  mmaOp (.mmaPair c pt d a y src f) c pt d a y src f true s

end Sys2Proof.Machine
end

