-- ==== Sys2Proof/Machine/Streams.lean ====
section
/-! DEFINITION. The steps of the streams: granting and retiring a run, completing an instruction, settling, entering a held trap,
and the steps of an access held on a migrating page (R34, R36 to R41, R43, R44, R54, R166, R378, R384, R394). A step that is not
due leaves the device as it is. -/

namespace Sys2Proof.Machine

/-- A step that is not due: it does not happen. -/
def notDue (s : State) : Out := .next s

/-! ### `RUN_GRANT` (R37, R41, R51, R81) -/

/-- The number of band datapaths of a core (R15). -/
def datapaths : Nat := 8

/-- The three conditions of R41 for the run at the head of a team's queue (DEDUCED, log 20). -/
def runReady (s : State) (k : Nat) (r : RunEntry) : Bool :=
  let t := s.teamAt k
  let is := s.runInstrs k (24 - r.done) r.addr
  let waits : BitVec 3 := (is.filterMap ctl?).foldl (fun m c => m ||| BitVec.ofNat 3 c.wait) 0
  !t.waitsToken waits &&
    (List.range 3).all (fun j => decide ((t.token (j + 1)).toNat ≤ 39)) && is.all (fun i => !s.pendingHit k i)

/-- The team may be granted a run: it is in its core, at a run boundary with nothing due there, and not held (R37, R380,
R394). -/
def grantable (s : State) (k : Nat) : Bool :=
  let t := s.teamAt k
  let b := s.blockAt (teamBlock k)
  !t.ended && t.active.isNone && !t.runs.isEmpty && t.settling.isNone && t.ltrap.isNone && t.heldTrap.isNone &&
    t.escalated.isNone && t.arrived.isNone && b.st == .running && !t.saved && !s.saveHolds (teamBlock k) && !b.squashDue &&
    b.ending.isNone && !(s.ctxAt (teamCtx k)).failed && t.parked.all (fun p => s.parkCleared k p)

/-- The teams of a core whose run is ready. -/
def readyTeams (s : State) (core : Nat) : List Nat :=
  (s.teams.map (·.1)).filter (fun k =>
    (s.teamAt k).core == core && grantable s k && runReady s k ((s.teamAt k).runs.headD {}))

/-- Grants counted while the run at the head of a team's queue waited, and whether it has aged (R37, DEDUCED, log 12). -/
def headWaited (s : State) (k : Nat) : Nat := ((s.teamAt k).runs.headD {}).waited
def aged (s : State) (k : Nat) : Bool := decide (4096 ≤ headWaited s k)

/-- The order of arbitration among the runs that have not aged, least first (R37, R51). -/
def grantOrder (s : State) (k : Nat) : List Nat :=
  let l := s.launchAt (teamLaunch k)
  [7 - l.prio, l.started.toNat, teamVf k, launchIdent (teamLaunch k), k]
def listLt : List Nat → List Nat → Bool
  | x :: xs, y :: ys => decide (x < y) || (x == y && listLt xs ys)
  | _, _ => false
/-- The clock at which the run at the head of a team's queue became ready. -/
def readyClock (s : State) (k : Nat) : Nat := (((s.teamAt k).runs.headD {}).readyAt.getD s.clock).toNat
/-- Team `k` is granted before team `j`: an aged run first, and of two aged runs the one that became ready first, which has waited for
more grants or, where as many, since an earlier cycle (R37). -/
def grantsFirst (s : State) (k j : Nat) : Bool :=
  if aged s k then
    !aged s j || decide (headWaited s j < headWaited s k) ||
      (headWaited s j == headWaited s k && listLt (readyClock s k :: grantOrder s k) (readyClock s j :: grantOrder s j))
  else !aged s j && listLt (grantOrder s k) (grantOrder s j)
/-- The run at the head of a team's queue is ready at clock `now`: noted where it was not before. -/
def RunEntry.markReady (r : RunEntry) (now : Word64) : RunEntry := { r with readyAt := some (r.readyAt.getD now) }
/-- Note which runs are ready in this cycle (R37). -/
def State.markReady (s : State) : State :=
  { s with teams := s.teams.mapVals (fun k t =>
      if grantable s k && runReady s k (t.runs.headD {}) then { t with runs := listUpd t.runs 0 (fun r => r.markReady s.clock) } else t) }
/-- The team that wins arbitration. -/
def arbitrate (s : State) : List Nat → Option Nat
  | [] => none
  | k :: rest =>
    match arbitrate s rest with
    | none => some k
    | some j => if grantsFirst s j k then some j else some k

/-- A band datapath grants a ready run. -/
def execRunGrant (core dp : Nat) (s : State) : Out :=
  if datapaths ≤ dp ∨ (s.coreAt core).dps.has dp then notDue s
  else
    let ready := readyTeams s core
    match arbitrate s ready with
    | none => notDue s
    | some k =>
      let t := s.teamAt k
      let r := t.runs.headD {}
      let old := aged s k
      let a : Active := { run := { r with waited := 0, readyAt := none }, dp := dp, lpc := r.addr, count := r.done, ftv := (s.ctxAt (teamCtx k)).ftv.toNat }
      let s := (ready.filter (fun j => j != k)).foldl (fun s j =>
        let u := s.teamAt j
        s.setTeamAt j { u with runs := listUpd u.runs 0 (fun x => { x.markReady s.clock with waited := x.waited + 1 }) }) s
      let s := s.setTeamAt k { t with active := some a, parked := none }
      let s := s.setCoreAt core { s.coreAt core with dps := (s.coreAt core).dps.set dp k }
      let s := s.count core (teamVf k) 1 1
      .next (if old then s.count core (teamVf k) 2 1 else s)

/-! ### `RUN_RETIRE` (R34, R137) -/

/-- A run retires: its results are written and it leaves the queue. -/
def execRunRetire (team : Nat) (s : State) : Out :=
  let t := s.teamAt team
  match t.active with
  | none => notDue s
  | some a =>
    if !a.finished || (s.ctxAt (teamCtx team)).failed then notDue s
    else
      let t := t.landAll
      .next (((s.freeDatapath team).setTeamAt team { t with active := none, runs := t.runs.tail, progress := s.clock }).leaveArrays team)

/-! ### `INSTRUCTION_COMPLETION` (R41, R302, R337, R356) -/

/-- What must hold before an unfinished instruction of a team completes holds: the accesses that it awaits have performed (R337), its
barrier has opened, no read of its fill is held in a refresh window (R98). `BECOME` and `LTRAP` complete at their boundary. -/
def completable (s : State) (team : Nat) (f : Inflight) : Bool :=
  match f.until_ with
  | .any => !s.ops.any (fun o => o.team == team && o.ins == f.n && o.awaited)
  | .barrier _ => (s.teamAt team).arrived.isNone
  | .wld _ _ _ _ held => (held.getD []).isEmpty
  | .settlement => false
  | .ltrap => false
  | .array .. => true

/-- The reads of a fill reach the weight store: the pieces that meet their refresh window are held until it ends, and counted (R98,
R194). -/
def holdPieces (s : State) (team : Nat) (f : Inflight) (held : List Nat) : State :=
  let t := s.teamAt team
  let note (u : Until) : Until :=
    match u with
    | .wld uid a dst len _ => .wld uid a dst len (some held)
    | u => u
  (s.count t.core (teamVf team) 12 held.length).setTeamAt team
    { t with inflight := t.inflight.map (fun x => if x.n = f.n then { x with until_ := note x.until_ } else x) }

/-- The pieces that the reads of a fill meet in their window as they reach the store now. -/
def reached (s : State) (u : Until) : List Nat :=
  match u with
  | .wld _ a _ len none => heldPieces s a len
  | _ => []

/-- What a completing instruction does beside its lanes: the bytes of a `WLD` and its locks, the arrays of a matrix
operation. -/
def completeUnit (s : State) (team : Nat) (u : Until) : State :=
  match u with
  | .wld uid a dst len _ =>
    let bytes := s.wstore.slice ((storeKey (s.ctxAt (teamCtx team)) a len).getD 0) len
    (s.updShare (teamBlock team) (s.shareIdx team) (fun h => { h with wbuf := h.wbuf.writeBytes dst bytes })).dropLocks uid
  | .array cores _ => cores.foldl (fun s c => s.setCoreAt c { s.coreAt c with arrayBusy := none }) s
  | _ => s

/-- A result on its way that a completing instruction of the same run has overtaken is not written any more (DEDUCED, log 15). -/
def Pend.without (ws : List LaneWrite) (p : Pend) : Pend :=
  { p with writes := p.writes.filter (fun w => !ws.any (fun x => x.pos == w.pos && x.reg == w.reg)) }

/-- The team as a completing instruction leaves it. -/
def Team.complete (t : Team) (f : Inflight) : Team :=
  let t := (t.putLanes f.writes).lower f.tok
  { t with inflight := t.inflight.filter (fun x => x.n != f.n)
           active := t.active.map (fun a => { a with pend := a.pend.map (Pend.without f.writes) }) }

/-- An unfinished instruction completes: destinations written, token lowered. A fill whose reads meet a refresh window does not yet
(R98). -/
def execInstructionCompletion (team n : Nat) (s : State) : Out :=
  let t := s.teamAt team
  match t.inflight.find? (fun f => f.n == n) with
  | none => notDue s
  | some f =>
    if !completable s team f || (s.ctxAt (teamCtx team)).failed then notDue s
    else if !(reached s f.until_).isEmpty then .next (holdPieces s team f (reached s f.until_))
    else
      let s := completeUnit s team f.until_
      .next (s.setTeamAt team ((s.teamAt team).complete f))

/-! ### `SETTLEMENT` (R43, R44, R375, R376, R394) -/

/-- A `BECOME` settles at its boundary, once every earlier instruction of the team has completed. -/
def execSettlement (team : Nat) (s : State) : Out :=
  let t := s.teamAt team
  let b := s.blockAt (teamBlock team)
  let k := (s.launchAt (teamLaunch team)).kernel
  match t.settling with
  | none => notDue s
  | some z =>
    if t.active.isSome || t.heldTrap.isSome || t.escalated.isSome || t.inflight.any (fun f => f.until_ != .settlement) || b.squashDue ||
        b.st != .running || (s.ctxAt (teamCtx team)).failed || s.orderedPending team then notDue s
    else
      match settleTrap t z k.lanes k.yard with
      | some tr =>
        if b.prov then .next (takeTrap s team tr t.spc z.run.addr (z.run :: t.runs))
        else .next (takeTrap (s.setTeamAt team t.endSettle) team tr t.spc z.run.addr (z.run :: t.runs))
      | none =>
        let (t', deferred, born) := settleTeam t z k.lanes
        let s := (s.count t.core (teamVf team) 6 deferred).count t.core (teamVf team) 7 born
        let t' := t'.endSettle
        let s := s.setTeamAt team t'
        .next (if t'.nlive == 0 && t'.yard.isEmpty && !t'.keep then s.endTeam team else s)

/-! ### `TRAP_ENTRY` (R54, R378, R384, R394) -/

/-- Enter a trap that a provisional block held, now that the block is confirmed: as if it had just been raised (R54, R55). -/
def enterHeld (s : State) (k : Nat) (tr : Trap) : State :=
  let t := { (s.teamAt k) with heldTrap := none, gated := false }
  if tr.scalar then
    let spc := if tr.cause = 0x0D then t.spc + 4 else t.spc
    deliverTrap (s.setTeamAt k t) k tr spc spc []
  else
    match t.active with
    | some a =>
      let t := t.landAll
      deliverTrap (s.setTeamAt k t) k tr t.spc a.lpc (a.remainder :: t.runs.tail)
    | none =>
      match t.settling with
      | some z => deliverTrap (s.setTeamAt k t.endSettle) k tr t.spc z.run.addr (z.run :: t.runs)
      | none => deliverTrap (s.setTeamAt k (if tr.cause = 0x0C then t.endLtrap else t)) k tr t.spc (t.runs.headD {}).addr t.runs

/-- A handler trap that is due at a boundary is entered: an `LTRAP` whose run has retired, which completes with it (R356), or a held
trap. -/
def execTrapEntry (team : Nat) (s : State) : Out :=
  let t := s.teamAt team
  let b := s.blockAt (teamBlock team)
  if b.st != .running || (s.ctxAt (teamCtx team)).failed || t.escalated.isSome || t.ended then notDue s
  else
    match t.ltrap, t.heldTrap with
    | some tr, _ =>
      if t.active.isSome then notDue s
      else
        .next (takeTrap (s.setTeamAt team (if b.prov then { t with ltrap := none } else t.endLtrap)) team tr t.spc
          (t.runs.headD {}).addr t.runs)
    | none, some tr => if b.prov then notDue s else .next (enterHeld s team tr)
    | none, none => notDue s

/-! ### Accesses held on a migrating page (R166) -/

/-- The commands of a team whose engine waits on a migrating page may walk again. -/
def rewalkTeam (b : Block) (team : Nat) : Block :=
  b.mapChans (fun n => if n.lead.map (·.1.team) = some team then n.mapIssued (fun i => { i with rewalk := true }) else n)

/-- The leading commands of a team that wait on a migrating page. -/
def migrating (b : Block) (team : Nat) : List Issue :=
  (b.shares.flatMap (fun h => h.chans)).filterMap (fun n =>
    n.lead.bind (fun e => if e.1.team = team ∧ e.2.migr.isSome then some e.2 else none))

/-- A held access walks again after 65,536 cycles. -/
def execHeldAccessRewalk (team : Nat) (s : State) : Out :=
  let t := s.teamAt team
  let b := s.blockAt (teamBlock team)
  if rewalkTime s.clock t.hold || (migrating b team).any (fun i => rewalkTime s.clock i.migr) then
    .next ((s.setTeamAt team { t with rewalk := true }).setBlockAt (teamBlock team) (rewalkTeam b team))
  else notDue s

/-- A command held longer than the migration limit is held at a page fault of kind migrating (R142, R166). The page is that
of its next byte, whose address the engine recorded. -/
def limitChan (now : Word64) (limit : Word64 → Nat) (team : Nat) (n : Chan) : Chan :=
  match n.lead with
  | some (c, i) =>
    match i.migr with
    | some z =>
      if c.team = team ∧ limit z < (now - z).toNat then
        n.setLead { i with migr := none, held := some (0x06 + (if i.migrWrite then 0x20 else 0), i.migrAddr) }
      else n
    | none => n
  | none => n

/-- A migration hold exceeds its limit and becomes a page fault of kind migrating; a `LAUNCH` that waits to read an image walks once more,
and is refused (R290). -/
def execMigrationLimit (team : Nat) (s : State) : Out :=
  let t := s.teamAt team
  let limit := migrateLimit s (teamVf team)
  match t.hold, t.holdTrap with
  | some z, none => if s.pastLimit (teamVf team) z then .next (s.setTeamAt team { t with rewalk := true }) else notDue s
  | some z, some tr =>
    if !s.pastLimit (teamVf team) z then notDue s
    else if tr.scalar then
      if t.trapReady then .next (takeTrap (s.setTeamAt team (t.unhold s.clock (limit z))) team tr t.spc t.spc [])
      else notDue s
    else
      match t.active with
      | none => notDue s
      | some a =>
        let t := { t.landAll.unhold s.clock (limit z) with held := false }
        .next (takeTrap (s.setTeamAt team t) team tr t.spc a.lpc (a.remainder :: t.runs.tail))
  | _, _ =>
    let b := s.blockAt (teamBlock team)
    if (migrating b team).any (fun i => decide (limit (i.migr.getD s.clock) < (s.clock - i.migr.getD s.clock).toNat)) then
      .next (s.setBlockAt (teamBlock team) (b.mapChans (limitChan s.clock limit team)))
    else notDue s

end Sys2Proof.Machine
end

