-- ==== Sys2Proof/Machine/Submit.lean ====
section
/-! DEFINITION. Launch records, kernel images, the shape of a block, and submitting a launch (R46, R47, R52, R244, R245, R289,
R290, R371, R413). -/

namespace Sys2Proof.Machine

/-! ### The launch record (R289) -/

structure LaunchRec where
  kernel : Nat
  x : Nat
  y : Nat
  z : Nat
  image : Nat
  arg : Nat
  prio : Nat
  wsWrite : Bool
  shape : Nat
  xmax : Nat
  site : Nat
  hint : Nat
  nStable : Nat
  stable : Nat
  reserved : Bool          -- every reserved bit is 0
  deriving DecidableEq, Repr, Inhabited

/-- The fields of a 64-byte record read as a little-endian number. -/
def launchRec (r : Nat) : LaunchRec where
  kernel := bitsOf r 0 64
  x := bitsOf r 64 32
  y := bitsOf r 96 16
  z := bitsOf r 112 16
  image := bitsOf r 128 64
  arg := bitsOf r 192 16
  prio := bitsOf r 228 3
  wsWrite := bitsOf r 231 1 == 1
  shape := bitsOf r 256 64
  xmax := bitsOf r 320 32
  site := bitsOf r 352 32
  hint := bitsOf r 384 32
  nStable := bitsOf r 444 4
  stable := bitsOf r 448 64
  reserved := bitsOf r 208 20 == 0 && bitsOf r 232 24 == 0 && bitsOf r 416 28 == 0

/-- The record breaks neither R47, R52 nor the table of R289. -/
def LaunchRec.ok (r : LaunchRec) : Bool :=
  r.reserved && r.arg % 16 == 0 && decide (1 ≤ r.y) && decide (1 ≤ r.z) &&
    (if r.shape = 0 then
      r.hint == 0 && r.site == 0 && r.xmax == 0 && r.nStable == 0 && r.stable == 0 && decide (1 ≤ r.x) &&
        decide (r.x ≤ 2 ^ 31) && decide (r.x * r.y * r.z ≤ 2 ^ 32 - 1)
    else
      r.y == 1 && r.z == 1 && decide (1 ≤ r.xmax) && decide (r.xmax ≤ 2 ^ 31) && r.shape % 4 == 0 && decide (r.nStable ≤ 8) &&
        r.stable % 16 == 0)

/-! ### The kernel image (R413) -/

/-- A section of code: every page of it has the lane-code bit (R413). -/
def State.codePages (s : State) (c va size : Nat) : Bool :=
  (List.range (((va % 4096) + size + 4095) / 4096)).all (fun i =>
    let a := BitVec.ofNat 64 (va / 4096 * 4096 + 4096 * i)
    canonical a &&
      (match walkFrom s.mem a 5 4 (ptePhys (s.ctxAt c).root) [] with
      | .leaf _ e _ _ => pteBit e 3
      | .fault _ => false))

/-- The kernel of an image whose 64-byte header is `h`, or none where the image is not valid (R244, R245, R413). An image that holds
another value than 0 in the bytes 45 to 47 and 57 to 63 or in bits [7:2] of byte 43, which R413 gives as 0, is not valid (DESIGN
CHOICE, log 42). -/
def kernelOf (s : State) (c base h : Nat) : Option Kernel :=
  let f (byte n : Nat) : Nat := bitsOf h (8 * byte) (8 * n)
  let k : Kernel :=
    { scalarBase := (base + f 0 8) % 2 ^ 64, laneBase := (base + f 8 8) % 2 ^ 64, lanes := f 24 2, live := f 26 2, regs := f 28 2
      teams := f 30 1, tiles := f 31 1, scratch := f 32 4, yard := f 36 2, emit := f 38 4, chans := f 42 1
      paired := f 43 1 % 2 == 1, wsAccess := f 43 1 / 2 % 2 == 1, wbuf := f 44 1 * 32768 }
  let ok := f 0 8 % 4 == 0 && f 8 8 % 4 == 0 && 1 ≤ k.lanes && k.lanes ≤ 1024 && 1 ≤ k.live && k.live ≤ k.lanes &&
    8 ≤ k.regs && k.regs ≤ 1536 && k.regs % 8 == 0 && 1 ≤ k.teams && k.teams ≤ 12 && k.tiles ≤ 24 && k.scratch ≤ 1572864 &&
    k.yard ≤ 4095 && k.emit ≤ 65536 && k.chans ≤ 16 && f 43 1 / 4 == 0 && f 44 1 ≤ 16 && f 45 3 == 0 && f 48 8 % 16 == 0 &&
    f 56 1 ≤ 8 && f 57 7 == 0 && k.lanes * k.teams ≤ 12288 && k.lanes * k.regs ≤ 524288 &&
    s.codePages c k.scalarBase (f 16 4) && s.codePages c k.laneBase (f 20 4)
  if ok then some k else none

/-! ### The shape of a block (R46, R371) -/

/-- The bytes of scratchpad that a block's share with `m` teams takes (R42, R88, R153). -/
def Kernel.footprint (k : Kernel) (m : Nat) : Nat :=
  (k.scratch + 4095) / 4096 * 4096 + m * (k.yard * (16 + 4 * k.regs + 12) + 16 * k.emit)

/-- An empty core can hold a share with `m` teams (R60, R73, R88, R99, R138). -/
def Kernel.fits (k : Kernel) (m : Nat) : Bool :=
  m * (k.lanes * k.regs) ≤ 524288 && m * k.lanes ≤ 4096 && k.footprint m ≤ 1572864 && k.tiles ≤ 24 && k.wbuf ≤ 524288 &&
    k.chans ≤ 16

/-- The largest number of teams, at most `m`, that an empty core can hold. -/
def Kernel.most (k : Kernel) : Nat → Nat
  | 0 => 0
  | m + 1 => if k.fits (m + 1) then m + 1 else k.most m

/-- The teams on each core index (R46): none where the block is refused. A paired kernel has two cores in every case. -/
def Kernel.shape (k : Kernel) : Option (List Nat) :=
  let n0 := k.most k.teams
  let n1 := k.most (k.teams - n0)
  let n2 := k.most (k.teams - n0 - n1)
  if n0 = 0 then none
  else if n0 = k.teams then some (if k.paired then [n0, 0] else [n0])
  else if n1 = 0 then none
  else if n0 + n1 = k.teams then some [n0, n1]
  else if k.paired || n2 = 0 || n0 + n1 + n2 != k.teams then none
  else some [n0, n1, n2]

/-! ### Submission (R290) -/

/-- Read the stable ranges of a launch: pairs of base and length. -/
def readStable (s : State) (c : Nat) : Nat → Nat → Option (List (Nat × Nat)) × State
  | _, 0 => (some [], s)
  | va, n + 1 =>
    match s.ctxReadNat c va 16 with
    | (none, s) => (none, s)
    | (some x, s) =>
      let (rest, s) := readStable s c (va + 16) n
      (rest.map (fun rs => (x % 2 ^ 64, x / 2 ^ 64) :: rs), s)

/-- The launch that a record, a kernel and the stable ranges describe (R46, R47, R52). -/
def launchOf (cores : Nat) (r : LaunchRec) (k : Kernel) (stable : List (Nat × Nat)) : Launch :=
  { kernel := k, arg := r.arg, image := BitVec.ofNat 64 r.image, x := r.x, y := r.y, z := r.z, prio := r.prio
    wsWrite := r.wsWrite
    shape := if r.shape = 0 then none
      else some { word := BitVec.ofNat 64 r.shape, xmax := r.xmax, hint := r.hint, site := r.site, stable := stable }
    ctr := if r.shape = 0 then { expected := r.x * r.y * r.z } else { known := false }
    mask := BitVec.ofNat 96 (2 ^ cores - 1) }

/-- The kernel image or the stable-range table of a launch lies on a migrating page, which holds its submission (R166, R290). -/
def State.imageHeld (s : State) (c : Nat) (r : LaunchRec) : Bool :=
  r.ok && (s.ctxHeld c r.kernel 64 .read || s.ctxHeld c r.stable (16 * r.nStable) .read)

/-- What a record makes of a launch, or none where it is refused (R46, R47, R52, R289, R290). -/
def buildLaunch (s : State) (c : Nat) (r : LaunchRec) : Option Launch × State :=
  if !r.ok then (none, s)
  else
    match s.ctxReadNat c r.kernel 64 with
    | (none, s) => (none, s)
    | (some h, s) =>
      match kernelOf s c r.kernel h with
      | none => (none, s)
      | some k =>
        if k.shape.isNone then (none, s)
        else
          let (stable, s) := readStable s c r.stable r.nStable
          (stable.map (launchOf s.nCores r k), s)

/-- A refused launch ends at once and its event is posted (R290). -/
def State.refuseLaunch (s : State) (l : Nat) : State :=
  let c := launchCtx l
  let x := s.launchAt l
  let s := s.setLaunchAt l { x with refused := true, st := .ended, hold := none, ctr := { status := 3 } }
  let s := s.post (ctxVf c) { code := 0x0003, ctx := ctxAsid c, detail := BitVec.ofNat 64 (launchIdent l) }
  s.graphMember x.job x.phase x.graph true

/-- Submit one launch of a graph under the next identity of its context (R179, R290). -/
def State.submitLaunch (s : State) (c job phase graph : Nat) (r : LaunchRec) (deps : List Nat) (device : Bool) : State :=
  let x := s.ctxAt c
  let ident := x.nextLaunch
  let l := launchKey c ident
  let s := s.setCtxAt c { x with nextLaunch := ident + 1 }
  let s := s.updGraph job phase graph (fun g => { g with launches := g.launches ++ [ident] })
  match buildLaunch s c r with
  | (some y, s) => s.setLaunchAt l { y with job := job, phase := phase, graph := graph, deps := deps, device := device }
  | (none, s) => (s.setLaunchAt l { job := job, phase := phase, graph := graph, deps := deps, device := device }).refuseLaunch l

end Sys2Proof.Machine
end

