-- ==== Sys2Proof/Machine/Dispatcher.lean ====
section
/-! DEFINITION. The dispatcher: starting launches, placing and starting blocks, stealing, publication of a predicted shape, and
squashing (R46 to R59, R85, R97, R101, R175, R176, R178, R179, R183, R185 to R188, R371). -/

namespace Sys2Proof.Machine

/-! ### The dispatch trace (R178, R179) -/

def traceRecord (kind core order block launch : Nat) : Nat :=
  launch % 2 ^ 32 + block % 2 ^ 32 * 2 ^ 32 + order % 2 ^ 32 * 2 ^ 64 + core % 128 * 2 ^ 96 + kind % 16 * 2 ^ 124

/-- The records of a context's dispatch trace. -/
def State.traceRecords (s : State) (c : Nat) : List Nat :=
  let va := (s.ctxAt c).traceBuf.toNat
  (List.range (s.logCount c va)).map (fun i => s.logRecord c va i)

/-- The extent that the trace holds for a launch (R58). -/
def State.tracedExtent (s : State) (l : Nat) : Option Nat :=
  ((s.traceRecords (launchCtx l)).find? (fun r => bitsOf r 124 4 == 1 && bitsOf r 0 32 == launchIdent l)).map (fun r => bitsOf r 32 32)
/-- A start record that replay repeats: not of a block at or above the recorded extent of its launch, which was squashed and
which the recorded prediction does not start (R59). -/
def State.repeats (s : State) (c r : Nat) : Bool :=
  match s.tracedExtent (launchKey c (bitsOf r 0 32)) with
  | some e => decide (bitsOf r 32 32 < e)
  | none => true
/-- The block that the trace assigns to a core next: its launch and its index (R59, DEDUCED, log 26). -/
def State.tracedStart (s : State) (c core : Nat) : Option (Nat × Nat) :=
  let mine := (s.traceRecords c).filter (fun r => bitsOf r 124 4 == 0 && bitsOf r 96 7 == core && s.repeats c r)
  (mine[(s.ctxAt c).starts.get core]?).map (fun r => (launchKey c (bitsOf r 0 32), bitsOf r 32 32))

/-- A publication in replay mode agrees with the trace (R59). -/
def State.extentAgrees (s : State) (l e : Nat) : Bool :=
  (s.ctxAt (launchCtx l)).mode != .replay || s.tracedExtent l == some e

/-! ### The Oryx table (R175, R176) -/

def oryxIndex (vf site : Nat) : Nat := (site % 256) ^^^ (vf * 16)
/-- The entry of a launch site, on a hit. -/
def State.oryxHit (s : State) (vf site : Nat) : Option OryxEntry :=
  match s.oryx.find? (oryxIndex vf site) with
  | none => none
  | some e => if e.vf = vf ∧ e.site = site then some e else none
/-- An extent is published for a site. -/
def State.oryxPut (s : State) (vf site e : Nat) : State :=
  let stride : Int := match s.oryxHit vf site with
    | none => 0
    | some o => max (-(2 ^ 31)) (min (2 ^ 31 - 1) ((e : Int) - (o.last : Int)))
  { s with oryx := s.oryx.set (oryxIndex vf site) { vf := vf, site := site, last := e, stride := stride } }

/-- A publication performed earlier than number `no` still has to take effect at the Oryx index of a site (R176). -/
def State.publishesFirst (s : State) (vf site no : Nat) : Bool :=
  s.launches.any (fun e => !(s.ctxAt (launchCtx e.1)).failed && (match e.2.shape with
    | some h => h.watching && h.ext.isSome && decide (h.extNo < no) && oryxIndex (ctxVf (launchCtx e.1)) h.site == oryxIndex vf site
    | none => false))

/-- The prediction of a launch, clamped (R53, R59, R175). -/
def State.prediction (s : State) (l : Nat) (h : Shape) : Nat :=
  let raw : Int :=
    match (if (s.ctxAt (launchCtx l)).mode = .replay then s.tracedExtent l else none) with
    | some e => (e : Int)
    | none =>
      if h.hint ≠ 0 then (h.hint : Int)
      else match s.oryxHit (ctxVf (launchCtx l)) h.site with
        | some o => (o.last : Int) + o.stride
        | none => 1
  (max 1 (min (h.xmax : Int) raw)).toNat

/-! ### `LAUNCH_START` (R48, R53, R97, R101) -/

/-- A job that no longer holds back the next job of its queue: it has completed, with its record written, or its context has ended (R25,
R48). -/
def State.jobOver (s : State) (j : Nat) : Bool :=
  ((s.jobAt j).ctr.completed && (s.jobAt j).hold.isNone) || (s.ctxAt (s.jobAt j).ctx).failed

/-- The levels above a launch have started it: its job, phase and graph have their turn (R48). -/
def State.launchTurn (s : State) (l : Nat) : Bool :=
  let x := s.launchAt l
  let j := s.jobAt x.job
  (s.jobs.all (fun e => e.1 ≥ x.job || ctxVf e.2.ctx != ctxVf j.ctx || e.2.queue != j.queue || s.jobOver e.1)) &&
    (List.range x.phase).all (fun p => (j.phase p).ctr.completed) &&
    (List.range x.graph).all (fun g => ((j.phase x.phase).graph g).ctr.completed) &&
    x.deps.all (fun i => (s.launchAt (launchKey (launchCtx l) i)).completed)

/-- The order of weight-store launches of one context lets this one start (R97). -/
def State.storeTurn (s : State) (l : Nat) : Bool :=
  let x := s.launchAt l
  s.launches.all (fun e =>
    launchCtx e.1 != launchCtx l || e.1 == l || e.2.st != .started ||
      !((x.wsWrite && e.2.wsAccess) || (x.wsAccess && e.2.wsWrite)))

/-- The bytes that firmware reads in a context's address space, or why it reads none. -/
inductive CtxBytes where
  | ok (bs : List Byte)
  | fault
  | migrating
  deriving DecidableEq, Repr, Inhabited

/-- The bytes, where they were read. -/
def CtxBytes.get? : CtxBytes → Option (List Byte)
  | .ok bs => some bs
  | _ => none

/-- Read bytes of a context's address space, a page at a time, as R290 reads images. -/
def State.ctxPages (s : State) (c : Nat) : Nat → Nat → Nat → CtxBytes × State
  | 0, _, _ => (.ok [], s)
  | fuel + 1, va, n =>
    if n = 0 then (.ok [], s)
    else
      match s.ctxPhys c (BitVec.ofNat 64 va) .read with
      | (.fault, s) => (.fault, s)
      | (.migrating, s) => (.migrating, s)
      | (.ok key _, s) =>
        let m := min n (4096 - va % 4096)
        match State.ctxPages s c fuel (va + m) (n - m) with
        | (.ok bs, s') => (.ok (s.mem.slice key m ++ bs), s')
        | r => r

/-- The constant image of a launch: its 64 KiB, or none, which makes a window of zeros (R101, R289). -/
def State.windowImage (s : State) (l : Nat) : CtxBytes × State :=
  let x := s.launchAt l
  if x.image = 0 then (.ok [], s) else s.ctxPages (launchCtx l) 17 x.image.toNat 65536

/-- The start of a launch meets a migrating page: it is held, and begins anew when the read may walk again; past the migration limit the
page fault refuses the launch (R53, R166, R290). -/
def State.holdLaunch (s : State) (l : Nat) : State :=
  let x := s.launchAt l
  let z := x.hold.getD s.clock
  if s.pastLimit (ctxVf (launchCtx l)) z then s.refuseLaunch l
  else s.setLaunchAt l { x with hold := some z, rewalk := false }

/-- The held start of a launch may walk again, or has been held past the migration limit (R166). -/
def State.startAgain (s : State) (l : Nat) : Bool :=
  let x := s.launchAt l
  match x.hold with
  | none => true
  | some z => x.rewalk || rewalkTime s.clock x.hold || s.pastLimit (ctxVf (launchCtx l)) z

/-- The ranges of the four dies for blocks `lo` to `hi - 1` (R49, R186). -/
def diesTickets (lo hi : Nat) : List Ticket :=
  (List.range 4).map (fun d => { next := lo + d * (hi - lo) / 4, stop := lo + (d + 1) * (hi - lo) / 4 })

/-- The levels above a launch are running once it starts (R187). -/
def State.levelsRunning (s : State) (l : Nat) : State :=
  let x := s.launchAt l
  s.setJobAt x.job (((s.jobAt x.job).updPhase x.phase (fun p =>
    { (p.updGraph x.graph (fun g => { g with ctr := g.ctr.running })) with ctr := p.ctr.running })) |> fun j => { j with ctr := j.ctr.running })

/-- The launch starts with `n` blocks in its tickets (R49); it completes at once if it has none. A start that its image holds leaves
the device `s0` as it was. -/
def State.startWith (s0 s : State) (l : Nat) (x : Launch) (n : Nat) : State :=
  match s.windowImage l with
  | (.fault, s) => s.refuseLaunch l
  | (.migrating, _) => s0.holdLaunch l
  | (.ok bs, s) =>
    let s := s.levelsRunning l
    (s.setLaunchAt l { x with st := .started, started := s.clock, hold := none, window := Memory.ofBytes 0 bs
                              tickets := diesTickets 0 n }).launchCheck l

/-- The place of the shape word of a launch, translated once as a read in user state: local memory, at a multiple of 4 (R53, DEDUCED,
log 27). -/
def State.shapeWord (s : State) (l : Nat) (h : Shape) : CtxXl × State :=
  if h.word.toNat % 4 ≠ 0 then (.fault, s)
  else
    match s.ctxPhys (launchCtx l) h.word .read with
    | (.ok key tier, s) => if tier = 0 then (.ok key tier, s) else (.fault, s)
    | r => r

/-- The start of a launch whose shape is predicted (R53, R55, R59). -/
def State.startPredicted (s0 : State) (l : Nat) (x : Launch) (h : Shape) : State :=
  let c := launchCtx l
  match s0.shapeWord l h with
  | (.fault, s) => s.refuseLaunch l
  | (.migrating, s) => s.holdLaunch l
  | (.ok key _, s) =>
    let e := s.mem.readNat key 4
    if s0.traceHeld c then s0
    else if e = 0xFFFFFFFF then
      let p := s.prediction l h
      s0.startWith s l { x with shape := some { h with phys := key, pred := p, watching := true } } p
    else if s0.publishesFirst (ctxVf c) h.site s0.nextExtNo then s0
    else if !s.extentAgrees l e then s.diverge c
    else
      let s := s.trace c (traceRecord 1 0 0 e (launchIdent l))
      if h.xmax < e then
        let s := s.levelsRunning l
        (s.setLaunchAt l { x with st := .started, started := s.clock, ctr := { status := 5, expected := e }, shape := some { h with ext := some e } }).launchCheck l
      else
        let s := s.oryxPut (ctxVf c) h.site e
        s0.startWith s l { x with ctr := { x.ctr with known := true, expected := e }, shape := some { h with ext := some e, pred := e } } e

/-- A launch starts when its turn has come. -/
def execLaunchStart (launch : Nat) (s : State) : Out :=
  let x := s.launchAt launch
  if !s.launches.has launch || x.st != .pending || (s.ctxAt (launchCtx launch)).failed || !s.launchTurn launch ||
      !s.storeTurn launch || !s.startAgain launch then notDue s
  else
    match x.shape with
    | none => .next (s.startWith s launch x x.ctr.expected)
    | some h => .next (s.startPredicted launch x h)

/-! ### Resources of a core (R49, R60, R73, R88, R99, R138) -/

/-- What the blocks on a core use, or what a share with `m` teams needs: lanes, register cells, scratchpad, tiles, weight
buffer, channels and slots. -/
structure CoreUse where
  lanes : Nat := 0
  cells : Nat := 0
  scratch : Nat := 0
  tiles : Nat := 0
  wbuf : Nat := 0
  chans : Nat := 0
  slots : Nat := 0
  deriving DecidableEq, Repr, Inhabited

def CoreUse.plus (a b : CoreUse) : CoreUse :=
  { lanes := a.lanes + b.lanes, cells := a.cells + b.cells, scratch := a.scratch + b.scratch, tiles := a.tiles + b.tiles
    wbuf := a.wbuf + b.wbuf, chans := a.chans + b.chans, slots := a.slots + b.slots }
def Kernel.need (k : Kernel) (m : Nat) : CoreUse :=
  { lanes := m * k.lanes, cells := m * (k.lanes * k.regs), scratch := k.footprint m, tiles := k.tiles, wbuf := k.wbuf
    chans := k.chans, slots := 1 }
/-- The limits of one core (R16). -/
def CoreUse.fits (u : CoreUse) : Bool :=
  u.lanes ≤ 4096 && u.cells ≤ 524288 && u.scratch ≤ 1572864 && u.tiles ≤ 24 && u.wbuf ≤ 524288 && u.chans ≤ 16 && u.slots ≤ 32

/-- The number of a block's teams placed on a core index. -/
def Block.teamsOn (b : Block) (ci : Nat) : Nat := (b.place.filter (fun i => i == ci)).length

/-- What the blocks resident on a core use. -/
def State.used (s : State) (core : Nat) : CoreUse :=
  ((s.coreAt core).slots.map (fun e =>
    let b := s.blockAt e.2
    let ci := ((List.range b.shares.length).find? (fun i => (b.share i).core == core)).getD 0
    (s.launchAt (blockLaunch e.2)).kernel.need (b.teamsOn ci))).foldl CoreUse.plus {}

/-- A core has free resources for a share with `m` teams. -/
def State.room (s : State) (core : Nat) (k : Kernel) (m : Nat) : Bool := ((s.used core).plus (k.need m)).fits

/-! ### Placement (R46, R49, R371) -/

/-- The core is in a launch's core mask. -/
def Launch.admits (x : Launch) (core : Nat) : Bool := x.mask.getLsbD core

/-- The cores of a die, ascending. -/
def State.dieCores (s : State) (core : Nat) : List Nat := (List.range s.perDie).map (fun i => s.dieOf core * s.perDie + i)

/-- Further core indices, each at the lowest core of the die that can take it; the cores chosen so far are `got`. -/
def furtherCores (s : State) (x : Launch) (die : List Nat) : List Nat → List Nat → Option (List Nat)
  | got, [] => some got
  | got, m :: rest =>
    match die.find? (fun c => x.admits c && !got.contains c && s.room c x.kernel m) with
    | none => none
    | some c => furtherCores s x die (got ++ [c]) rest

/-- The cores on which a block of the launch starts when `core` takes its ticket, by core index. -/
def State.placement (s : State) (x : Launch) (core : Nat) : Option (List Nat) :=
  if !x.admits core || s.nCores ≤ core then none
  else
    match x.kernel.shape with
    | none => none
    | some ms =>
      if x.kernel.paired then
        let lead := if s.isLeader core then core else s.partner core
        let pair := [lead, lead + 1]
        if pair.all x.admits && (pair.zip ms).all (fun e => s.room e.1 x.kernel e.2) then some pair else none
      else
        match ms with
        | [] => none
        | m :: rest => if s.room core x.kernel m then furtherCores s x (s.dieCores core) [core] rest else none

/-! ### Starting a block (R60, R85) -/

/-- Take the lowest free slot of a core for a block (R60). -/
def State.takeSlot (s : State) (b core : Nat) : Nat × State :=
  let c := s.coreAt core
  let n := ((List.range 32).find? (fun i => !c.slots.has i)).getD 31
  (n, s.setCoreAt core { c with slots := c.slots.set n b })

/-- The shares of a block on its cores, each in a slot. -/
def State.takeShares (s : State) (b : Nat) (k : Kernel) : List Nat → List Share × State
  | [] => ([], s)
  | c :: rest =>
    let (n, s) := s.takeSlot b c
    let (hs, s) := State.takeShares s b k rest
    ({ core := c, slot := n, tiles := List.replicate k.tiles [], chans := List.replicate k.chans {} } :: hs, s)

/-- The core index of each team in order, from the number on each index (R46). -/
def teamPlaces (ms : List Nat) : List Nat := (List.range ms.length).flatMap (fun i => List.replicate (ms.getD i 0) i)

/-- A lane of a starting team (R85). -/
def startLane (k : Kernel) (p : Nat) : Lane :=
  { regs := (List.replicate k.regs (0 : Word32)).set 0 (if p < k.live then BitVec.ofNat 32 p else 0) }

/-- A team in its start state (R85). -/
def startTeam (k : Kernel) (arg index idx core : Nat) (now : Word64) : Team :=
  let sregs : Vector Word64 64 := Vector.replicate 64 0
  { core := core
    spc := BitVec.ofNat 64 k.scalarBase
    sregs := (((sregs.set 1 (BitVec.ofNat 64 arg)).set 2 (BitVec.ofNat 64 index)).set 3 (BitVec.ofNat 64 idx)).set 4 (BitVec.ofNat 64 k.live)
    qregs := 1
    lanes := (List.range k.lanes).map (startLane k)
    mask := maskBelow k.live
    nlive := k.live
    progress := now }

/-- Block `index` of a launch starts on the given cores, `core` having taken its ticket (R46, R85, R179). -/
def State.startBlock (s : State) (l index core : Nat) (cores : List Nat) : State :=
  let x := s.launchAt l
  let k := x.kernel
  let c := launchCtx l
  let b := blockKey l index
  let place := teamPlaces (k.shape.getD [])
  let (hs, s) := s.takeShares b k cores
  let y := s.ctxAt c
  let n := y.starts.get core
  let prov := (x.shape.map (·.watching)).getD false
  let s := s.setCtxAt c { y with starts := y.starts.set core (n + 1) }
  let s := s.setBlockAt b { prov := prov, shares := hs, bars := List.replicate 8 {}, place := place, taker := core, startNo := n }
  let s := (List.range k.teams).foldl (fun s i =>
    s.setTeamAt (teamKey b i) (startTeam k x.arg index i (cores.getD (place.getD i 0) 0) s.clock)) s
  let x := s.launchAt l
  (s.setLaunchAt l { x with ctr := x.ctr.running }).trace c (traceRecord 0 core n index (launchIdent l))

/-! ### `TICKET_TAKE` (R49, R51, R59, R185) -/

/-- The launch may start blocks on a core: it has started, its saved blocks have resumed, and the dispatch trace can be reached (R51, R166,
R395). -/
def State.dispatching (s : State) (l core : Nat) : Bool :=
  let x := s.launchAt l
  x.st == .started && !(s.ctxAt (launchCtx l)).failed && x.admits core && !s.traceHeld (launchCtx l) &&
    (s.launchBlocks l).all (fun b => (s.blockAt b).st == .running)

/-- The unstarted blocks of a die (R185). -/
def Launch.dieLeft (x : Launch) (d : Nat) : Nat := (x.tickets.getD d {}).left + (x.tail.getD d {}).left

/-- Hand out the lowest index of a die (R49, R185): the tail launch follows the launch itself. -/
def Launch.takeLow (x : Launch) (d : Nat) : Nat × Launch :=
  let take (t : Ticket) : Ticket := { t with next := t.next + 1 }
  if 0 < (x.tickets.getD d {}).left then ((x.tickets.getD d {}).next, { x with tickets := listUpd x.tickets d take })
  else ((x.tail.getD d {}).next, { x with tail := listUpd x.tail d take })
/-- Hand out the highest index of a die (R50, R185). -/
def Launch.takeHigh (x : Launch) (d : Nat) : Nat × Launch :=
  let take (t : Ticket) : Ticket := { t with stop := t.stop - 1 }
  if 0 < (x.tail.getD d {}).left then ((x.tail.getD d {}).stop - 1, { x with tail := listUpd x.tail d take })
  else ((x.tickets.getD d {}).stop - 1, { x with tickets := listUpd x.tickets d take })

/-- In replay mode the trace assigns this block to the core next; in the other modes nothing is assigned (R59). -/
def State.traceAllows (s : State) (l index core : Nat) : Bool :=
  (s.ctxAt (launchCtx l)).mode != .replay || s.tracedStart (launchCtx l) core == some (l, index)

/-- The launches are ordered by priority, then by start, then by virtual function and launch identity (R37, R49); among launches that agree
in all four the lowest key comes first. -/
def launchOrder (s : State) (l : Nat) : List Nat :=
  let x := s.launchAt l
  [7 - x.prio, x.started.toNat, ctxVf (launchCtx l), launchIdent l, l]
def firstLaunch (s : State) : List Nat → Option Nat
  | [] => none
  | l :: rest =>
    match firstLaunch s rest with
    | none => some l
    | some m => if listLt (launchOrder s m) (launchOrder s l) then some m else some l

/-- A core can take a ticket of a launch from its own die. -/
def State.canTake (s : State) (l core : Nat) : Bool :=
  let x := s.launchAt l
  let d := s.dieOf core
  s.dispatching l core && decide (0 < x.dieLeft d) && (s.placement x core).isSome && s.traceAllows l (x.takeLow d).1 core

/-- The launch of which a core takes a ticket now (R49). -/
def State.takes (s : State) (core : Nat) : Option Nat := firstLaunch s ((s.launches.map (·.1)).filter (fun l => s.canTake l core))

/-- A core takes a ticket and starts a block. -/
def execTicketTake (core : Nat) (s : State) : Out :=
  match s.takes core with
  | none => notDue s
  | some l =>
    let x := s.launchAt l
    let (index, y) := x.takeLow (s.dieOf core)
    .next ((s.setLaunchAt l y).startBlock l index core ((s.placement x core).getD []))

/-! ### `BLOCK_STEAL` (R50) -/

/-- No core of a die is in a launch's core mask. -/
def State.dieBare (s : State) (x : Launch) (d : Nat) : Bool := (List.range s.perDie).all (fun i => !x.admits (d * s.perDie + i))

/-- The die with the most unstarted blocks, the lowest among equals. -/
def richestDie (x : Launch) : Nat → Nat
  | 0 => 0
  | d + 1 => if x.dieLeft (richestDie x d) < x.dieLeft (d + 1) then d + 1 else richestDie x d

/-- The block that a core steals, and the launch without it (R50). In replay mode it is the block that the trace assigns, at
either end of another die's range. -/
def State.stealFrom (s : State) (x : Launch) (l core : Nat) : Option (Nat × Launch) :=
  let own := s.dieOf core
  if (s.ctxAt (launchCtx l)).mode = .replay then
    match s.tracedStart (launchCtx l) core with
    | none => none
    | some (m, index) =>
      if m ≠ l then none
      else
        (((List.range 4).filter (fun d => d != own && decide (0 < x.dieLeft d))).flatMap (fun d => [x.takeLow d, x.takeHigh d])).find?
          (fun e => e.1 == index)
  else if 0 < x.dieLeft own then none
  else
    match (List.range 4).find? (fun d => decide (0 < x.dieLeft d) && s.dieBare x d) with
    | some d => some (x.takeLow d)
    | none => if 0 < x.dieLeft (richestDie x 3) then some (x.takeHigh (richestDie x 3)) else none

/-- A take of a launch reaches the counters of a die in this cycle, so that a steal there comes after it (R185). -/
def State.takeFirst (s : State) (l d : Nat) : Bool := (List.range s.perDie).any (fun i => s.takes (d * s.perDie + i) == some l)

/-- The dies that a steal leaves with fewer blocks: the one it takes from. -/
def stolenFrom (x y : Launch) : List Nat := (List.range 4).filter (fun d => decide (y.dieLeft d < x.dieLeft d))

/-- A core can steal a block of a launch, and no take reaches the counter that it steals from in this cycle (R50, R185). -/
def State.canSteal (s : State) (l core : Nat) : Bool :=
  let x := s.launchAt l
  s.dispatching l core && (s.placement x core).isSome &&
    (match s.stealFrom x l core with
      | none => false
      | some (_, y) => (stolenFrom x y).all (fun d => !s.takeFirst l d))

/-- A core whose die's counter is exhausted steals a block. -/
def execBlockSteal (core : Nat) (s : State) : Out :=
  match firstLaunch s ((s.launches.map (·.1)).filter (fun l => s.canSteal l core)) with
  | none => notDue s
  | some l =>
    let x := s.launchAt l
    match s.stealFrom x l core with
    | none => notDue s
    | some (index, y) => .next ((s.setLaunchAt l y).startBlock l index core ((s.placement x core).getD []))

/-! ### `SHAPE_PUBLICATION` (R55, R176, R183, R186) -/

/-- The ticket counters after a publication (R186). -/
def Ticket.clamp (e : Nat) (t : Ticket) : Ticket := { next := min t.next (min t.stop e), stop := min t.stop e }

/-- A block is confirmed: gated teams proceed, its random ranges are added, and it ends if its teams have ended (R54, R55,
R183). -/
def State.confirmBlock (s : State) (b : Nat) : State :=
  let l := blockLaunch b
  let s := s.setBlockAt b { s.blockAt b with prov := false }
  let s := (s.blockTeams b).foldl (fun s k => s.setTeamAt k ((s.teamAt k).ungate s.clock)) s
  let x := s.launchAt l
  let s := s.setLaunchAt l { x with rngHeld := x.rngHeld.filter (fun e => e.1 != blockIndex b) }
  let s := (x.rngHeld.filter (fun e => e.1 == blockIndex b)).foldl (fun s e => s.addRange (launchCtx l) e.2) s
  if (s.blockTeams b).all (fun k => (s.teamAt k).ended) then s.endBlock b false else s

/-- The counter of a launch at publication: Expected is E, and an overflow is Status 5 (R55, R187, R188). A launch cancelled between its
publishing write and its publication has only provisional blocks, all of which the publication squashes, and counts its E members as
ended and failed at once (DESIGN CHOICE, log 27: R189 says only that it then completes under R188). -/
def Counter.publish (c : Counter) (e xmax : Nat) : Counter :=
  let c := { c with known := true, expected := e }
  if c.status = 4 then { c with done := e, failed := e } else if xmax < e then { c with status := 5 } else c

/-- The extent of a predicted launch has been published (DEDUCED, log 27). -/
def State.publish (s : State) (l : Nat) (x : Launch) (h : Shape) (e : Nat) : State :=
  let c := launchCtx l
  let ok := decide (e ≤ h.xmax) && x.ctr.status != 4
  let s := s.trace c (traceRecord 1 0 0 e (launchIdent l))
  let tail := if ok && decide (h.pred < e) then diesTickets h.pred e else []
  let s := s.setLaunchAt l { x with tickets := x.tickets.map (Ticket.clamp e), tail := tail, ctr := x.ctr.publish e h.xmax
                                    shape := some { h with watching := false } }
  let s := if e ≤ h.xmax then s.oryxPut (ctxVf c) h.site e else s
  let s := (s.launchBlocks l).foldl (fun s b =>
    if !(s.blockAt b).prov then s
    else if ok && decide (blockIndex b < e) then s.confirmBlock b
    else s.setBlockAt b { s.blockAt b with squashDue := true }) s
  s.launchCheck l

/-- A write has published a predicted launch's extent. -/
def execShapePublication (launch : Nat) (s : State) : Out :=
  let x := s.launchAt launch
  match x.shape with
  | none => notDue s
  | some h =>
    match h.ext with
    | none => notDue s
    | some e =>
      if !h.watching || (s.ctxAt (launchCtx launch)).failed || s.publishesFirst (ctxVf (launchCtx launch)) h.site h.extNo ||
          s.traceHeld (launchCtx launch) then notDue s
      else if !s.extentAgrees launch e then .next (s.diverge (launchCtx launch))
      else .next (s.publish launch x h e)

/-! ### `BLOCK_SQUASH` (R55, R56) -/

/-- A team may be squashed: it has ended, is stalled at a gate, or is at a run boundary (R38, R55). -/
def Team.squashable (t : Team) : Bool := t.ended || t.gated || t.active.isNone

/-- A provisional block is squashed. -/
def execBlockSquash (block : Nat) (s : State) : Out :=
  if s.blocks.has block && (s.blockAt block).squashDue && (s.blockTeams block).all (fun k => (s.teamAt k).squashable) &&
      !(s.ctxAt (launchCtx (blockLaunch block))).failed then
    .next (s.squashBlock block)
  else notDue s

end Sys2Proof.Machine
end

