-- ==== Sys2Proof/Machine/Collective.lean ====
section
/-! DEFINITION. Collective sends at their target: acceptance of pieces, landing-queue credits, and reductions in tree and exact
mode (R131, R132, R136, R154 to R156). -/

namespace Sys2Proof.Machine

/-! ### Reductions of one element (R131, R132) -/

/-- The float format of an element code, none for I32 (R143). -/
def redFmt (f : Nat) : Option Fmt :=
  match f with
  | 0 => some fmtF32
  | 1 => some fmtF16
  | 2 => some fmtBF16
  | _ => none
/-- Bytes of an element. -/
def redBytes (f : Nat) : Nat := if f = 1 ∨ f = 2 then 2 else 4

/-- One combination: add, maximum or minimum, rounded in the element format (R114, R131, R155). -/
def redPair (f op x y : Nat) : Nat :=
  match redFmt f with
  | some m =>
    if op = 1 then m.round .rn false ((m.value x).add .rn (m.value y)) else m.pick (op == 2) x y
  | none =>
    if op = 1 then (x + y) % 2 ^ 32
    else if (readInt true 32 x < readInt true 32 y) = (op = 2) then y else x

/-- One round of the canonical tree: neighbours combined, an odd last value unchanged (R131). -/
def treeRound (g : Nat → Nat → Nat) : List Nat → List Nat
  | x :: y :: rest => g x y :: treeRound g rest
  | xs => xs
/-- The canonical binary tree; `fuel` is at least the number of rounds (R131). -/
def treeReduce (g : Nat → Nat → Nat) : Nat → List Nat → Nat
  | 0, xs => xs.headD 0
  | fuel + 1, xs =>
    match xs with
    | [x] => x
    | _ => treeReduce g fuel (treeRound g xs)

/-- The element that P values reduce to (R131, R132). Exact mode changes sums alone: a maximum or minimum is taken by the tree in either
mode (DESIGN CHOICE, log 45). -/
def reduceElem (f op : Nat) (exact : Bool) (xs : List Nat) : Nat :=
  match redFmt f with
  | some m =>
    if exact && op == 1 then m.round .rn false (xs.foldl (fun acc x => acc.add .rn (m.value x)) (.fin false 0 0))
    else treeReduce (redPair f op) xs.length xs
  | none => treeReduce (redPair f op) xs.length xs

/-! ### Contributions (R155) -/

/-- The ranks that have sent every byte, ascending. -/
def Reduction.sent (r : Reduction) (rank : Nat) : Nat := ((r.pieces.filter (fun p => p.rank == rank)).map (fun p => p.bytes.length)).sum
def Reduction.ranks (r : Reduction) : List Nat := (List.range 4096).filter (fun k => r.pieces.any (fun p => p.rank == k) && r.sent k == r.len)
/-- The bytes that a rank contributed. -/
def Reduction.contribution (r : Reduction) (rank : Nat) : List Byte :=
  ((r.pieces.filter (fun p => p.rank == rank)).foldl (fun m p => Memory.writeBytes m p.off p.bytes) ([] : Memory)).slice 0 r.len
/-- The result over the given ranks. -/
def Reduction.result (r : Reduction) (ranks : List Nat) : List Byte :=
  let e := redBytes r.format
  let rows := ranks.map (fun k => unpackElems (8 * e) (r.contribution k))
  packElems (8 * e) ((columns (r.len / e) rows).map (reduceElem r.format r.op r.exact))

/-- A piece belongs to a reduction: equal destination address and length in one address space (R155). -/
def Reduction.takes (r : Reduction) (p : Piece) : Bool := r.vf == p.vf && r.asid == p.asid && r.base == p.base && r.len == p.len
/-- A contribution disagrees in operation, mode, format or P (R155). -/
def Reduction.disagrees (r : Reduction) (p : Piece) : Bool :=
  r.op != p.op || r.exact != p.exact || r.format != p.format || r.parts != p.parts

def newReduction (p : Piece) : Reduction :=
  { vf := p.vf, asid := p.asid, base := p.base, len := p.len, parts := p.parts, op := p.op, exact := p.exact, format := p.format
    pieces := [], locals := [], failed := 0 }

/-- Every participant of another device that has not been told how the reduction ended is told by a notice; where it has failed, what
has landed of it leaves (R141, R155, R156). -/
def State.tellFar (s : State) (r : Reduction) (st : Nat) : State :=
  let s := if st = 0 then s
    else s.dropLanded (fun e => e.2.isNone && e.1.op != 0 && r.takes e.1 && r.far.contains (e.1.fromDev, e.1.rank))
  { s with outbox := s.outbox ++ r.far.map (fun d => .reduced d.1 r.vf r.asid r.base r.len d.2 st) }

/-- The commands of this device for which a reduction ends, each with its status (R155, R156). -/
def Reduction.endsLocal (r : Reduction) (st : Nat) : List (Nat × Nat) := r.locals.map (fun u => (u, st))

/-- A reduction with a new contribution: it completes when all P have arrived. One that a disagreement has failed fails every
participant, those that come later too, and is forgotten when all P have come (R155). With the state, the commands of this device that
end. -/
def State.putReduction (s : State) (r : Reduction) : State × List (Nat × Nat) :=
  let others := s.reductions.filter (fun x => !(x.vf == r.vf && x.asid == r.asid && x.base == r.base && x.len == r.len))
  let ranks := r.ranks
  if r.failed ≠ 0 then
    ({ s.tellFar r r.failed with
       reductions := if r.parts ≤ r.came.length then others else { r with pieces := [], locals := [], far := [] } :: others },
     r.endsLocal r.failed)
  else if ranks.length = r.parts then
    ({ (s.ctxWrite (ctxKey r.vf r.asid) r.base.toNat (r.result ranks)).tellFar r 0 with reductions := others }, r.endsLocal 0)
  else ({ s with reductions := r :: others }, [])

/-- Put a number into a list that does not hold it. -/
def addOnce {α : Type} [BEq α] (x : α) (xs : List α) : List α := if xs.contains x then xs else xs ++ [x]

/-- The reduction that a piece joins, with the piece: `uid` names the command of this device that sent it (R155). -/
def State.joined (s : State) (p : Piece) (uid : Option Nat) : Reduction :=
  let r := (s.reductions.find? (fun r => r.takes p)).getD (newReduction p)
  { r with
    pieces := r.pieces ++ [p]
    came := addOnce p.rank r.came
    locals := uid.toList.foldl (fun us u => addOnce u us) r.locals
    far := if uid.isNone then addOnce (p.fromDev, p.rank) r.far else r.far
    parts := max r.parts p.parts
    failed := if r.failed = 0 ∧ r.disagrees p then 2 else r.failed }

/-- The home slice accepts a piece (R154, R155). -/
def State.acceptPiece (s : State) (p : Piece) (uid : Option Nat) : State × List (Nat × Nat) :=
  if p.op = 0 then (s.ctxWrite (ctxKey p.vf p.asid) ((p.base.toNat + p.off) % 2 ^ 64) p.bytes, []) else s.putReduction (s.joined p uid)

/-- What the acceptance of a piece would write, the piece itself or the result, meets a migrating page: it waits (R166). -/
def State.pieceHeld (s : State) (p : Piece) (uid : Option Nat) : Bool :=
  let c := ctxKey p.vf p.asid
  if p.op = 0 then s.ctxHeld c ((p.base.toNat + p.off) % 2 ^ 64) p.bytes.length .write
  else
    let r := s.joined p uid
    r.failed == 0 && r.ranks.length == r.parts && s.ctxHeld c r.base.toNat r.len .write

/-- A participant of some reductions has stalled: every other one that has sent fails with status 1, and what was accepted of them is
forgotten, so that software may send again (R156). -/
def State.stallReductions (s : State) (hit : Reduction → Bool) : State × List (Nat × Nat) :=
  let ys := s.reductions.filter hit
  ({ ys.foldl (fun s y => s.tellFar y 1) s with reductions := s.reductions.filter (fun y => !hit y) }, ys.flatMap (fun y => y.endsLocal 1))

/-- The reduction of a destination. -/
def Reduction.isAt (y : Reduction) (vf asid : Nat) (base : Word64) (len : Nat) : Bool :=
  y.vf == vf && y.asid == asid && y.base == base && y.len == len

/-! ### Landing queues (R136, R154) -/

/-- The landing queue has the credits for a piece. -/
def State.creditsFor (s : State) (p : Piece) : Bool :=
  decide (s.credits.get (landingKey p.vf p.queue) + pieceCredits p.bytes.length ≤ 256)

/-- A piece arrives in its landing queue, whose credits it takes (R136). -/
def State.land (s : State) (p : Piece) (uid : Option Nat) : State :=
  let k := landingKey p.vf p.queue
  { s with landing := s.landing ++ [(p, uid)], credits := s.credits.set k (s.credits.get k + pieceCredits p.bytes.length) }

/-- The piece is one that R154 allows, for a context of this device. -/
def State.pieceOk (s : State) (p : Piece) : Bool :=
  let at_ := p.base.toNat + p.off
  p.bytes.length != 0 && decide (at_ % 4096 + p.bytes.length ≤ 4096) && decide (p.off + p.bytes.length ≤ p.len) &&
    decide (p.vf < 16) && decide (p.queue < 16) && s.ctxs.has (ctxKey p.vf p.asid) && !(s.ctxAt (ctxKey p.vf p.asid)).failed

/-- The piece of another device arrives (R136): one without credits has not been sent. -/
def State.pieceArrives (s : State) (p : Piece) : State :=
  if s.pieceOk p && s.reachable p.fromDev && p.fromDev != s.ownDevice && s.creditsFor p then s.land p none else s

/-- Two pieces belong to one send. -/
def sameSend (p q : Piece) : Bool :=
  p.fromDev == q.fromDev && p.vf == q.vf && p.queue == q.queue && p.op == q.op && p.asid == q.asid && p.base == q.base &&
    p.len == q.len && p.rank == q.rank

/-- The staged bytes of a virtual function's reductions in tree mode, and its quota of the memory-side cache: sixty-fourths of its
3,072 MiB (R15, R155, R414, DEDUCED, log 30). -/
def State.staged (s : State) (vf : Nat) : Nat :=
  ((s.reductions.filter (fun r => r.vf == vf && !r.exact)).map (fun r => (r.pieces.map (fun p => p.bytes.length)).sum)).sum
def State.stageRoom (s : State) (p : Piece) : Bool :=
  p.op == 0 || p.exact || decide (s.staged p.vf + p.bytes.length ≤ (s.vfAt p.vf).set.cmax * (48 * 2 ^ 20))

end Sys2Proof.Machine
end

