-- ==== Sys2Proof/Machine/Commands.lean ====
section
/-! DEFINITION. Commands in their channels: where their bytes lie, their range locks, and what a command waits for before it issues
(R138, R139, R144, R146, R171, R172, R270, R352, R353). -/

namespace Sys2Proof.Machine

/-! ### Where a channel is -/

/-- A channel of a block: the block, its core index, and the channel number. -/
structure ChanRef where
  blk : Nat
  ci : Nat
  ch : Nat
  deriving DecidableEq, Repr, Inhabited

/-- The channel number `ch mod 16` of the block in slot `ch / 16` of a core (R60, R138). -/
def chanRef (s : State) (core ch : Nat) : Option ChanRef :=
  match (s.coreAt core).slots.find? (ch / 16) with
  | none => none
  | some b =>
    match (List.range (s.blockAt b).shares.length).find? (fun i => ((s.blockAt b).share i).core == core) with
    | none => none
    | some ci => if ch % 16 < ((s.blockAt b).share ci).chans.length then some { blk := b, ci := ci, ch := ch % 16 } else none

def State.chan (s : State) (r : ChanRef) : Chan := s.chanAt r.blk r.ci r.ch
def State.setLead (s : State) (r : ChanRef) (i : Issue) : State := s.updChan r.blk r.ci r.ch (fun h => h.setLead i)
def State.share (s : State) (r : ChanRef) : Share := (s.blockAt r.blk).share r.ci
def refCtx (r : ChanRef) : Nat := launchCtx (blockLaunch r.blk)
def State.refKernel (s : State) (r : ChanRef) : Kernel := (s.launchAt (blockLaunch r.blk)).kernel

/-- Who the engine translates for: the issuing team, in the state in which it issued the command (R142). -/
def engineWho (s : State) (r : ChanRef) (c : Cmd) : Who where
  core := (s.share r).core
  vf := ctxVf (refCtx r)
  asid := ctxAsid (refCtx r)
  root := (s.ctxAt (refCtx r)).root
  sup := c.sup
  prov := (s.blockAt r.blk).prov

/-! ### The bytes of a command (R144, R146, R352) -/

/-- The destination bytes of a command. -/
def CmdBody.total : CmdBody → Nat
  | .copy w0 w1 w2 w3 =>
    let c := copyOf w0 w1 w2 w3
    if c.rowed then c.rows * c.rowBytes else c.len
  | .xfer _ _ rb rows _ _ _ _ => rows.length * rb
  | .flush _ vals => 4 * vals.length

/-- One end of a byte's way: a space of R143 and an address in it, or a byte that the command holds. -/
inductive End where
  | at_ (space addr : Nat)
  | held (x : Byte)
  deriving DecidableEq, Repr, Inhabited

/-- An address in a space after the swizzle of that side (R146): the Peer and Core bits stay. -/
def CopyCmd.place (c : CopyCmd) (m space a : Nat) : End :=
  .at_ space (if space = 1 then a / 2 ^ 24 * 2 ^ 24 + swizzle c.k m c.b (a % 2 ^ 24) else a)

/-- The destination address of byte `j` of a copy before the swizzle. -/
def CopyCmd.dstAt (c : CopyCmd) (index : List Nat) (j : Nat) : Nat :=
  let row := j / c.rowBytes
  let o := j % c.rowBytes
  match c.kind with
  | 1 => c.dst + row * c.dstStride + o
  | 3 => c.dst + index.getD row 0 * c.stride + o
  | _ => c.dst + j
/-- The source address of byte `j` of a copy before the swizzle. -/
def CopyCmd.srcAt (c : CopyCmd) (index : List Nat) (j : Nat) : Nat :=
  let row := j / c.rowBytes
  let o := j % c.rowBytes
  match c.kind with
  | 1 => c.src + row * c.stride + o
  | 2 => c.src + index.getD row 0 * c.stride + o
  | _ => c.src + j

/-- The source and destination of byte `j`. -/
def CmdBody.ends (x : CmdBody) (index : List Nat) (j : Nat) : End × End :=
  match x with
  | .copy w0 w1 w2 w3 =>
    let c := copyOf w0 w1 w2 w3
    (c.place c.srcSwz c.ss (c.srcAt index j), c.place c.dstSwz c.ds (c.dstAt index j))
  | .xfer out _ rb rows _ _ _ _ =>
    let row := rows.getD (j / rb) (0, 0)
    let sp := End.at_ 1 (row.1 + j % rb)
    let g := End.at_ 0 (row.2 + j % rb)
    if out then (sp, g) else (g, sp)
  | .flush a vals => (.held ((leBytes 4 (vals.getD (j / 4) 0).toNat).getD (j % 4) 0), .at_ 0 (a.toNat + j))

/-! ### Range locks of a command (R171, R353) -/

/-- A new entry of a command: scratchpad offsets of core index `ci`, or a range of another space on the issuing core. Every entry holds
the context's identifier, whatever its space (DESIGN CHOICE, log 49). -/
def cmdLock (s : State) (r : ChanRef) (c : Cmd) (space ci lo hi engine : Nat) (dest ptr : Bool) : Nat × Lock :=
  let h := (s.blockAt r.blk).share ci
  (h.core, { start := lo, lo := lo, hi := hi, space := space, dest := dest, ptr := ptr, engine := engine, chan := r.ch
             team := teamIdx c.team, asid := ctxAsid (refCtx r), slot := h.slot, uid := c.uid })

/-- The entry for a range of one of the spaces of R143. -/
def rangeLock (s : State) (r : ChanRef) (c : Cmd) (space lo hi engine : Nat) (dest ptr : Bool) : Nat × Lock :=
  match space with
  | 1 =>
    let ci := ((scratchTarget (s.blockAt r.blk).shares.length r.ci (s.refKernel r).scratch lo (hi - lo)).getD (r.ci, lo)).1
    cmdLock s r c spaceScratch ci (lo % 2 ^ 24) (lo % 2 ^ 24 + (hi - lo)) engine dest ptr
  | 2 => cmdLock s r c spaceStore r.ci lo hi engine dest ptr
  | _ => cmdLock s r c spaceVirtual r.ci lo hi engine dest ptr

/-- The smallest interval over the rows that an index list names. Addresses of the intervals are not taken modulo 2^64, as those of the
accesses are (DESIGN CHOICE, log 48). -/
def rowSpan (base stride bytes : Nat) (index : List Nat) : Nat × Nat :=
  let xs := index.map (fun i => base + i * stride)
  (xs.foldl min (xs.headD base), xs.foldl max 0 + bytes)

/-- Source and destination intervals of a copy, after the swizzle. -/
def CopyCmd.srcRange (c : CopyCmd) (index : List Nat) : Nat × Nat :=
  match c.srcSpan with
  | some n => if c.ss = 1 then (let z := swzRange c.k c.srcSwz c.b c.src c.srcRows (c.rowPart n); (z.1, z.1 + z.2)) else (c.src, c.src + n)
  | none => rowSpan c.src c.stride c.rowBytes index
def CopyCmd.dstRange (c : CopyCmd) (index : List Nat) : Nat × Nat :=
  match c.dstSpan with
  | some n => if c.ds = 1 then (let z := swzRange c.k c.dstSwz c.b c.dst c.dstRows (c.rowPart n); (z.1, z.1 + z.2)) else (c.dst, c.dst + n)
  | none => rowSpan c.dst c.stride c.rowBytes index

/-- The core indices that a multicast names. -/
def maskedCores (s : State) (r : ChanRef) (mask : Nat) : List Nat :=
  (List.range (s.blockAt r.blk).shares.length).filter (fun i => bitsOf mask i 1 == 1)

/-- Every entry that a command registers. -/
def cmdLocks (s : State) (r : ChanRef) (c : Cmd) (index : List Nat) : List (Nat × Lock) :=
  match c.body with
  | .copy w0 w1 w2 w3 =>
    let x := copyOf w0 w1 w2 w3
    let eng := if x.kind = 5 then 2 else 0
    let src := x.srcRange index
    let dst := x.dstRange index
    [rangeLock s r c x.ss src.1 src.2 eng false false] ++
    (if x.kind = 2 ∨ x.kind = 3 then [rangeLock s r c 1 x.indexOff (x.indexOff + x.rows * x.indexBytes) 0 false false] else []) ++
    (if x.entropy then [rangeLock s r c 1 x.tableOff (x.tableOff + 1024) 0 false false] else []) ++
    (match x.kind with
    | 4 => (maskedCores s r x.mask).map (fun i => cmdLock s r c spaceScratch i dst.1 dst.2 3 true true)
    | 5 => []
    | k => [rangeLock s r c x.ds dst.1 dst.2 0 true (decide (k < 3))])
  | .xfer out _ _ _ lo hi glo ghi =>
    [cmdLock s r c spaceScratch r.ci lo hi 0 (!out) (!out), cmdLock s r c spaceVirtual r.ci glo ghi 0 out false]
  | .flush a vals => if vals.isEmpty then [] else [cmdLock s r c spaceVirtual r.ci a.toNat (a.toNat + 4 * vals.length) 0 true false]

def cmdIndex (s : State) (r : ChanRef) (c : Cmd) : List Nat :=
  match c.body with
  | .copy w0 w1 w2 w3 =>
    let x := copyOf w0 w1 w2 w3
    if x.kind = 2 ∨ x.kind = 3 then readList (s.share r).scratch x.indexOff x.rows x.indexBytes else []
  | _ => []
def cmdTable (s : State) (r : ChanRef) (c : Cmd) : List Nat :=
  match c.body with
  | .copy w0 w1 w2 w3 =>
    let x := copyOf w0 w1 w2 w3
    if x.entropy then readList (s.share r).scratch x.tableOff 256 4 else []
  | _ => []

/-- The engine may act for a channel's block. -/
def engineLive (s : State) (r : ChanRef) : Bool := (s.blockAt r.blk).st == .running && !(s.ctxAt (refCtx r)).failed

/-! ### What a command waits for (R139, R172, R270) -/

/-- The runs of a team that may still have accesses to perform, as far as they are left: a run whose last instruction has issued has
none, one that a trap has set aside has (DEDUCED, log 17). -/
def Team.runsLeft (t : Team) : List RunEntry :=
  let queued := match t.active with
    | some a => if a.finished then t.runs.tail else a.remainder :: t.runs.tail
    | none => t.runs
  queued ++ (t.trapRet.map (·.aside)).getD []

/-- The space of a lane instruction's thread access, and whether it writes (R173). -/
def threadAccess : Instr → Option (Nat × Bool)
  | .lds .. | .tld .. | .msplit .. | .isect .. => some (spaceScratch, false)
  | .sts .. | .atos .. | .tst .. => some (spaceScratch, true)
  | .gld .. => some (spaceVirtual, false)
  | .gst .. | .gatom .. | .gred .. => some (spaceVirtual, true)
  | _ => none

/-- The operand has the same value in every lane, which the run already holds. -/
def Src.fixed : Src → Bool
  | .s _ | .int _ | .const _ | .zero => true
  | _ => false

/-- The bytes of a thread access whose address no lane decides: the scratchpad offsets, or the virtual addresses. -/
def fixedRange (t : Team) (a : Active) (i : Instr) : Option (Nat × Nat) :=
  let range (fixed : Bool) (at_ n : Nat) : Option (Nat × Nat) := if fixed then some (at_, at_ + n) else none
  let n (wide : Bool) : Nat := if wide then 8 else 4
  match i with
  | .lds _ w _ _ _ _ x y => range (Src.fixed x && Src.fixed y) ((src32 t a 0 x + src32 t a 0 y).toNat % 2 ^ 24) w.bytes
  | .sts _ w _ _ x y _ => range (Src.fixed x && Src.fixed y) ((src32 t a 0 x + src32 t a 0 y).toNat % 2 ^ 24) w.bytes
  | .atos _ wide _ _ _ _ x _ _ => range (Src.fixed x) ((src32 t a 0 x).toNat % 2 ^ 24) (n wide)
  | .gld _ _ wide _ _ _ x y => range (Src.fixed x && Src.fixed y) (src64 t a 0 x + (src32 t a 0 y).signExtend 64).toNat (n wide)
  | .gst _ _ wide _ _ _ x y _ => range (Src.fixed x && Src.fixed y) (src64 t a 0 x + (src32 t a 0 y).signExtend 64).toNat (n wide)
  | .gatom _ _ wide _ _ _ _ x _ _ => range (Src.fixed x) (src64 t a 0 x).toNat (n wide)
  | .gred _ _ wide _ _ _ _ x _ => range (Src.fixed x) (src64 t a 0 x).toNat (n wide)
  | _ => none

/-- An access of an instruction may touch bytes that the entries of a command lock against it. Where its lanes decide its address, it
may (DEDUCED, log 17). -/
def accessMeets (t : Team) (a : Active) (i : Instr) (locks : List (Nat × Lock)) : Bool :=
  match threadAccess i with
  | none => false
  | some (space, w) =>
    locks.any (fun e => e.2.space == space && (e.2.dest || w) && (match fixedRange t a i with
      | some (lo, hi) => overlaps lo hi e.2.lo e.2.hi
      | none => true))

/-- A run of a team may still access bytes that the entries of a command lock; one whose instructions cannot all be read may. -/
def State.runMeets (s : State) (k : Nat) (x : RunEntry) (locks : List (Nat × Lock)) : Bool :=
  let is := s.runInstrs k (24 - x.done) x.addr
  !wholeRun (24 - x.done) is ||
    is.any (fun i => accessMeets (s.teamAt k) { run := x } i locks)

/-- A thread access earlier than a command, to bytes that its entries lock, is still to perform: of a run enqueued before it, or issued
on its core (R172, R270, R338). -/
def State.cmdEarly (s : State) (c : Cmd) (new : List (Nat × Lock)) : Bool :=
  ((s.teamAt c.team).runsLeft.any (fun x => c.after.contains x.no && s.runMeets c.team x new)) ||
    new.any (fun e => s.opsMeet c.team e.1 e.2)

/-- A gather of a provisional block whose index list has come to name rows outside the stable ranges waits for the block (R54). -/
def State.cmdGated (s : State) (r : ChanRef) (c : Cmd) (index : List Nat) : Bool :=
  (s.blockAt r.blk).prov && (match c.body with
    | .copy w0 w1 w2 w3 => !(copyOf w0 w1 w2 w3).ungated (s.launchAt (blockLaunch r.blk)) index
    | _ => false)

/-- An `XFER` registers its entries when it is appended (R352). -/
def CmdBody.registers : CmdBody → Bool
  | .xfer .. => false
  | _ => true

/-- The entries that a command registers when its channel issues it (R171, R352). -/
def issueLocks (s : State) (r : ChanRef) (c : Cmd) (index : List Nat) : List (Nat × Lock) :=
  if c.body.registers then cmdLocks s r c index else []

/-- A command ahead in the channel that has not registered its entries conflicts with new ones: the newcomer waits for it, which could
not issue after it (R139, R172, R352, DEDUCED, log 14). -/
def State.aheadConflicts (s : State) (r : ChanRef) (new : List (Nat × Lock)) : Bool :=
  let ahead := (s.chan r).queue.filter (fun c => c.body.registers)
  ahead.any (fun c => (cmdLocks s r c (cmdIndex s r c)).any (fun e => new.any (fun n => n.1 == e.1 && e.2.conflicts n.2)))

end Sys2Proof.Machine
end

