-- ==== Sys2Proof/Machine/Engine.lean ====
section
/-! DEFINITION. The copy engine: issuing the head command of a channel, completing its bytes one at a time, faults in flight,
failures, the entropy decoder and collective sends (R139 to R147, R154 to R156, R171 to R174, R353). -/

namespace Sys2Proof.Machine

/-! ### `CHANNEL_ISSUE` (R139, R172) -/

/-- A channel issues its head command once its range locks can be registered; until then it waits. The command leaves the queue (R136). -/
def execChannelIssue (core ch : Nat) (s : State) : Out :=
  match chanRef s core ch with
  | none => notDue s
  | some r =>
    let h := s.chan r
    match h.queue with
    | c :: rest =>
      let index := cmdIndex s r c
      let new := issueLocks s r c index
      if !engineLive s r || s.cmdEarly c new || s.cmdGated r c index then notDue s
      else
        let vf := ctxVf (refCtx r)
        if s.locksFit new then
          let i : Issue := { index := index, dec := { table := cmdTable s r c }, since := s.clock }
          let s := s.addLocks new
          let s := match h.waiting with
            | some z => s.count core vf 9 (s.clock - z).toNat
            | none => s
          .next (s.updChan r.blk r.ci r.ch (fun h => { h with queue := rest, issued := h.issued ++ [(c, i)], waiting := none }))
        else if h.waiting.isSome then notDue s
        else .next ((s.count core vf 8 1).updChan r.blk r.ci r.ch (fun h => { h with waiting := some s.clock }))
    | [] => notDue s

/-- The head command of a channel is due to issue, or to begin its wait for range locks: no access earlier than it is left, and its
locks can be registered or have not been tried (R139, R172). -/
def issueDue (s : State) (core ch : Nat) : Bool :=
  match chanRef s core ch with
  | none => false
  | some r =>
    match (s.chan r).queue with
    | c :: _ =>
      let index := cmdIndex s r c
      let new := issueLocks s r c index
      engineLive s r && !s.cmdEarly c new && !s.cmdGated r c index && ((s.chan r).waiting.isNone || s.locksFit new)
    | [] => false

/-- A channel whose head command is due to issue, of the current team's core or of another core of its block. A command
issues as soon as it can (R139), so before either stream of the team goes on (DEDUCED, log 8). -/
def State.dueChannel (s : State) : Option (Nat × Nat) :=
  let own := (s.coreAt s.team.core).slots.map (fun e => (s.team.core, e.1))
  let block := s.block.shares.map (fun h => (h.core, h.slot))
  ((own ++ block).flatMap (fun e => (List.range 16).map (fun ch => (e.1, 16 * e.2 + ch)))).find? (fun e => issueDue s e.1 e.2)

/-! ### The end of a command (R140, R141, R149, R150, R174) -/

/-- The leading command leaves its channel, and the next that has issued leads it: where that is a collective send, the time that R156
counts begins here (DEDUCED, log 30). -/
def Chan.advance (h : Chan) (now : Word64) : Chan :=
  { h with issued := listUpd h.issued.tail 0 (fun e => (e.1, { e.2 with since := now })) }

/-- The leading command of a channel ends, with a failure status or 0. -/
def endCmd (s : State) (r : ChanRef) (c : Cmd) (st : Nat) : State :=
  let s := s.dropLocks c.uid
  let s := s.updChan r.blk r.ci r.ch (fun h => h.advance s.clock)
  let t := s.teamAt c.team
  s.setTeamAt c.team ({ t with cmds := t.cmds.filter (fun j => j != c.id)
                               failed := if st = 0 then t.failed else t.failed ++ [(c.id, st)] } : Team).finishAll

/-- The leading command fails: its remaining bytes count as completed (R141). -/
def failCmd (s : State) (r : ChanRef) (c : Cmd) (left st : Nat) : State :=
  endCmd (s.updChan r.blk r.ci r.ch (fun h => { h with wptr := h.wptr + BitVec.ofNat 64 left })) r c st

/-! ### One access of the engine -/

/-- What an access of the engine meets: the key of its byte, with the page in which the engine now works; or a fault, with what the
translation has set before it (R165). -/
inductive Met where
  | ok (s : State) (key : Nat) (page : Option UnitXl)
  | fault (s : State) (detail : Nat) (addr : Word64)
  | migrating (addr : Word64)
  | refresh (group : Nat)
  | unreachable (s : State)
  | gate
  | noMemory

/-- The page of an address: the one in which the engine works, which it has translated and stays in until it leaves it (R217), or a
new translation (R142, R164). -/
def engineUnit (s : State) (r : ChanRef) (c : Cmd) (page : Option UnitXl) (va : Nat) (write : Bool) : Xl × State :=
  match page with
  | some p =>
    if p.unit = va / 4096 then (.ok (p.pa + va % 4096) p.tier p.dev p.mc, s)
    else s.translate (engineWho s r c) (BitVec.ofNat 64 va) (if write then .write else .read)
  | none => s.translate (engineWho s r c) (BitVec.ofNat 64 va) (if write then .write else .read)

/-- Translate and place one byte of the engine's virtual side (R142, R164, R214, R217, R350, DEDUCED, log 13). -/
def engineVirtual (s : State) (r : ChanRef) (c : Cmd) (page : Option UnitXl) (va : Nat) (write : Bool) : Met :=
  let at_ := BitVec.ofNat 64 va
  let w := if write then 0x20 else 0
  match engineUnit s r c page at_.toNat write with
  | (.fault d, s) => .fault s (d + w + 4) at_
  | (.migrating, _) => .migrating at_
  | (.gate, _) => .gate
  | (.ok pa tier dev mc, s) =>
    match s.place (refCtx r) pa tier dev mc (if write then .write else .read) with
    | .error d => if d = 0x11 then .unreachable s else .fault s (d + w + 4) at_
    | .ok key =>
      if noMemory key then .noMemory
      else
        let unit := at_.toNat / 4096
        let bits := ((page.filter (fun p => p.unit == unit)).map (·.bits)).getD (s.pageBits (engineWho s r c) at_)
        .ok s key (some { unit := unit, pa := pa - at_.toNat % 4096, tier := tier, dev := dev, mc := mc, bits := bits })

/-- The place of a byte in scratchpad: core index and offset. The range was checked at the `CPY` or `XFER`. -/
def engineScratch (s : State) (r : ChanRef) (a : Nat) : Nat × Nat :=
  (scratchTarget (s.blockAt r.blk).shares.length r.ci (s.refKernel r).scratch a 1).getD (r.ci, a % 2 ^ 24)

/-- Read one byte. -/
def engineRead (s : State) (r : ChanRef) (c : Cmd) (page : Option UnitXl) (e : End) : Met × Byte :=
  match e with
  | .held x => (.ok s 0 page, x)
  | .at_ 1 a =>
    let z := engineScratch s r a
    (.ok s 0 page, ((s.blockAt r.blk).share z.1).scratch.read z.2)
  | .at_ 2 a =>
    match storeKey (s.ctxAt (refCtx r)) a 1 with
    | none => (.fault s 0x85 (storeAddr a), 0)
    | some key =>
      let g := bitsOf a 12 4
      if refreshRemaining s.clock g != 0 then (.refresh (bitsOf a 29 2 * 16 + g), 0) else (.ok s 0 page, s.wstore.read key)
  | .at_ _ a =>
    match engineVirtual s r c page a false with
    | .ok s key page => (.ok s key page, s.mem.read key)
    | m => (m, 0)

/-- Write one byte; a multicast writes it on every core that its mask names (R140). -/
def engineWrite (s : State) (r : ChanRef) (c : Cmd) (page : Option UnitXl) (e : End) (x : Byte) : Met :=
  match e with
  | .held _ => .ok s 0 page
  | .at_ 1 a =>
    let cores := match c.body with
      | .copy w0 w1 w2 w3 =>
        let y := copyOf w0 w1 w2 w3
        if y.kind = 4 then some (maskedCores s r y.mask) else none
      | _ => none
    match cores with
    | some cs => .ok (cs.foldl (fun s i => s.scratchWriteBytes r.blk i (a % 2 ^ 24) [x]) s) 0 page
    | none =>
      let z := engineScratch s r a
      .ok (s.scratchWriteBytes r.blk z.1 z.2 [x]) 0 page
  | .at_ 2 a =>
    match storeKey (s.ctxAt (refCtx r)) a 1 with
    | none => .fault s 0xA5 (storeAddr a)
    | some key => .ok { s with wstore := s.wstore.write key x } 0 page
  | .at_ _ a =>
    match engineVirtual s r c page a true with
    | .ok s key page => .ok (s.gwrite key [x]) key page
    | m => m

/-! ### The entropy decoder (R147) -/

/-- What the decoder makes of its next byte: its source page goes with its state. -/
inductive Decoded where
  | byte (s : State) (d : Decoder) (page : Option UnitXl) (x : Byte)
  | met (m : Met)
  | bad

/-- The next 8 stream bits: bits beyond the source bytes read as 0. -/
def streamBits (s : State) (r : ChanRef) (c : Cmd) (x : CopyCmd) (page : Option UnitXl) (bit : Nat) : Met × Nat :=
  let rd (s : State) (page : Option UnitXl) (i : Nat) : Met × Byte :=
    if i < x.srcLen then engineRead s r c page (x.place x.srcSwz x.ss (x.src + i)) else (.ok s 0 page, 0)
  match rd s page (bit / 8) with
  | (.ok s k page, lo) =>
    if bit % 8 = 0 then (.ok s k page, lo.toNat)
    else
      match rd s page (bit / 8 + 1) with
      | (.ok s k page, hi) => (.ok s k page, (lo.toNat + 256 * hi.toNat) / 2 ^ (bit % 8) % 256)
      | (m, _) => (m, 0)
  | (m, _) => (m, 0)

/-- Decode until a whole byte is at hand; `fuel` counts elements. -/
def decodeByte (s : State) (r : ChanRef) (c : Cmd) (x : CopyCmd) (page : Option UnitXl) : Nat → Decoder → Decoded
  | 0, _ => .bad
  | fuel + 1, d =>
    if 8 ≤ d.have_ then .byte s { d with buf := d.buf / 256, have_ := d.have_ - 8 } page (BitVec.ofNat 8 d.buf)
    else if d.rep ≠ 0 then
      decodeByte s r c x page fuel
        { d with buf := d.buf + d.val % 2 ^ x.elemBits * 2 ^ d.have_, have_ := d.have_ + x.elemBits, rep := d.rep - 1 }
    else
      match streamBits s r c x page d.bit with
      | (.ok s _ page, i) =>
        let e := d.table.getD i 0
        let len := e % 16
        let n := bitsOf e 8 8
        if len = 0 ∨ 8 < len ∨ n = 0 then .bad
        else
          decodeByte s r c x page fuel
            { d with bit := d.bit + len, rep := n - 1, have_ := d.have_ + x.elemBits
                     buf := d.buf + bitsOf e 16 16 % 2 ^ x.elemBits * 2 ^ d.have_, val := bitsOf e 16 16 }
      | (m, _) => .met m

/-! ### One byte of a command (R139, R140) -/

/-- What a move of the engine comes to. -/
inductive Move where
  | go (s : State)                       -- a byte or piece has completed
  | stop (s : State)                     -- the engine can do no more now
  | done (s : State)                     -- the command has left its channel
  | noMemory

/-- The engine stops at an access (R98, R142, R166). -/
def stopAt (s : State) (r : ChanRef) (c : Cmd) (i : Issue) (left : Nat) (write : Bool) (m : Met) : Move :=
  match m with
  | .ok s _ _ => .stop s
  | .fault s d a => .stop (s.setLead r { i with held := some (d, a), migr := none, rd := none, wr := none })
  | .migrating a => .stop (s.setLead r { i with migr := some (i.migr.getD s.clock), migrAddr := a, migrWrite := write, rewalk := false })
  | .refresh g => .stop ((s.count (s.share r).core (ctxVf (refCtx r)) 12 1).setLead r { i with piece := some g })
  | .unreachable s => .done (failCmd s r c left 4)
  | .gate => .stop s
  | .noMemory => .noMemory

/-- Where word 0 of the pointer-bound entries stands after `n` bytes: the space and the lowest address not yet completed
(R146, R171, R353). -/
def boundAt (x : CmdBody) (index : List Nat) (n : Nat) : Option (Nat × Nat) :=
  match x with
  | .copy w0 w1 w2 w3 =>
    let c := copyOf w0 w1 w2 w3
    let a := c.dstAt index n
    match c.kind with
    | 0 | 1 | 2 | 4 =>
      if c.ds = 1 then
        let o := a % 2 ^ 24
        some (spaceScratch, if c.dstSwz = 0 then o else o / 2 ^ c.b * 2 ^ c.b)
      else some (spaceVirtual, a)
    | _ => none
  | .xfer out _ rb rows _ hi _ _ => if out then none else some (spaceScratch, if n / rb < rows.length then (rows.getD (n / rb) (0, 0)).1 else hi)
  | .flush _ _ => none

/-- The bytes that `WPTR` counts after `n` bytes: an `XFER` counts whole rows (R353). -/
def CmdBody.counted (x : CmdBody) (n : Nat) : Nat :=
  match x with
  | .xfer _ _ rb _ _ _ _ _ => n / rb * rb
  | _ => n

/-- Byte `i.done` of a command has completed: `WPTR` and word 0 rise, and the last byte ends the command. -/
def byteDone (s : State) (r : ChanRef) (c : Cmd) (i : Issue) : Move :=
  let n := i.done + 1
  let grown := c.body.counted n - c.body.counted i.done
  let s := s.updChan r.blk r.ci r.ch (fun h => { h with wptr := h.wptr + BitVec.ofNat 64 grown }.setLead { i with done := n, migr := none })
  if n < c.body.total then
    .go (match boundAt c.body i.index n with
      | some (space, lo) => s.raiseLock c.uid space lo
      | none => s)
  else .done (endCmd s r c 0)

/-- A row of a gather from the weight store lies wholly within the region, judged at its first byte (R145). -/
def gatherRowBad (s : State) (r : ChanRef) (x : CmdBody) (i : Issue) : Option Word64 :=
  match x with
  | .copy w0 w1 w2 w3 =>
    let c := copyOf w0 w1 w2 w3
    let a := c.srcAt i.index i.done
    if c.kind = 2 ∧ c.ss = 2 ∧ i.done % c.rowBytes = 0 ∧ (storeKey (s.ctxAt (refCtx r)) a c.rowBytes).isNone then some (storeAddr a)
    else none
  | _ => none

/-- Complete the next byte of the leading command. -/
def byteMove (s : State) (r : ChanRef) (c : Cmd) (i : Issue) : Move :=
  let left := c.body.total - c.body.counted i.done
  let ends := c.body.ends i.index i.done
  match gatherRowBad s r c.body i with
  | some a => .stop (s.setLead r { i with held := some (0x85, a), rd := none, wr := none })
  | none =>
    let entropy : Option CopyCmd := match c.body with
      | .copy w0 w1 w2 w3 => if (copyOf w0 w1 w2 w3).entropy then some (copyOf w0 w1 w2 w3) else none
      | _ => none
    match entropy with
    | some x =>
      match decodeByte s r c x i.rd 8 i.dec with
      | .bad => .done (failCmd s r c left 3)
      | .met m => stopAt s r c i left false m
      | .byte s d rd y =>
        match engineWrite s r c i.wr ends.2 y with
        | .ok s _ wr => byteDone s r c { i with dec := d, rd := rd, wr := wr }
        | m => stopAt s r c { i with rd := rd } left true m
    | none =>
      match engineRead s r c i.rd ends.1 with
      | (.ok s _ rd, y) =>
        match engineWrite s r c i.wr ends.2 y with
        | .ok s _ wr => byteDone s r c { i with rd := rd, wr := wr }
        | m => stopAt s r c { i with rd := rd } left true m
      | (m, _) => stopAt s r c i left false m

/-! ### Collective sends (R154 to R156) -/

/-- The bytes of the next piece: at most 4 KiB, none crossing a 4 KiB boundary of the destination. -/
def pieceSize (x : CopyCmd) (off : Nat) : Nat := min (4096 - (x.dst + off) % 4096) (x.len - off)

/-- Read the source bytes of a piece, as far as the engine can, and what stops it there (R142). -/
def readPiece (s : State) (r : ChanRef) (c : Cmd) (x : CopyCmd) (page : Option UnitXl) : Nat → Nat → Met × State × List Byte
  | _, 0 => (.ok s 0 page, s, [])
  | off, n + 1 =>
    match engineRead s r c page (x.place x.srcSwz x.ss (x.src + off)) with
    | (.ok s' _ page, y) =>
      let (m, s'', ys) := readPiece s' r c x page (off + 1) n
      (m, s'', y :: ys)
    | (m, _) => (m, s, [])

/-- The page that an access leaves the engine in. -/
def Met.page : Met → Option UnitXl
  | .ok _ _ p => p
  | _ => none

/-- The piece of a send that holds the bytes `ys` from offset `off`. -/
def pieceOf (s : State) (r : ChanRef) (x : CopyCmd) (off : Nat) (ys : List Byte) : Piece :=
  { fromDev := s.ownDevice, vf := ctxVf (refCtx r), queue := x.lq, op := x.op, exact := x.exact, format := x.fmt
    rank := x.rank, parts := x.parts, asid := ctxAsid (refCtx r), base := BitVec.ofNat 64 x.dst, len := x.len, off := off, bytes := ys }

/-- The landing queue of another device that a command names, in the tables of credits held there (R136, R154). -/
def farKey (dev vf queue : Nat) : Nat := dev * 256 + landingKey vf queue
/-- The landing queue of another device has the credits for `n` bytes more. -/
def State.farFree (s : State) (k n : Nat) : Bool := decide (s.farCredits.get k + s.farOthers.get k + pieceCredits n ≤ 256)

/-- The bytes of a send that `WPTR` does not yet count (R140). -/
def CopyCmd.unsent (x : CopyCmd) (i : Issue) : Nat := x.len - (if x.op = 0 then i.accepted else 0)

/-- `WPTR` grows (R140). -/
def growPtr (s : State) (r : ChanRef) (n : Nat) : State := s.updChan r.blk r.ci r.ch (fun h => { h with wptr := h.wptr + BitVec.ofNat 64 n })

/-- A send fails (R141): the pieces of it that have landed here leave, and the credits of those under way to another device are no
longer counted as its own. -/
def failSend (s : State) (r : ChanRef) (c : Cmd) (x : CopyCmd) (i : Issue) (st : Nat) : State :=
  let s := s.dropLanded (fun e => e.2 == some c.uid)
  let k := farKey x.dev (ctxVf (refCtx r)) x.lq
  let n := (i.flight.map pieceCredits).sum
  let s := if x.dev = s.ownDevice then s
    else { s with farCredits := s.farCredits.set k (s.farCredits.get k - n), farOthers := s.farOthers.set k (s.farOthers.get k + n) }
  failCmd s r c (x.unsent i) st

/-- Send the next piece: it takes its credits, and waits in its channel without them (R154, DESIGN CHOICE, log 30). What the engine can
read before a page that faults goes as a piece of its own (R142). -/
def sendMove (s : State) (r : ChanRef) (c : Cmd) (x : CopyCmd) (i : Issue) : Move :=
  if !s.reachable x.dev then .done (failSend s r c x i 4)
  else if i.sent then .stop s
  else
    let (m, s', ys) := readPiece s r c x i.rd i.done (pieceSize x i.done)
    if ys.isEmpty then stopAt s' r c i (x.unsent i) false m
    else
      let p := pieceOf s' r x i.done ys
      let n := ys.length
      let own := x.dev == s.ownDevice
      let k := farKey x.dev p.vf p.queue
      if !(if own then s'.creditsFor p else s'.farFree k n) then .stop s
      else
        let s := if own then s'.land p (some c.uid)
          else { s' with sendsOut := s'.sendsOut ++ [(x.dev, p)], farCredits := s'.farCredits.set k (s'.farCredits.get k + pieceCredits n) }
        .go (s.setLead r { i with done := i.done + n, flight := if own then i.flight else i.flight ++ [n]
                                  sent := decide (x.len ≤ i.done + n), migr := none, rd := m.page })

/-- The channel, the command and its progress, of the command that leads its channel, by its number. -/
def State.issued (s : State) (uid : Nat) : Option (ChanRef × Cmd × Issue) :=
  s.blocks.findSome? (fun e => (List.range e.2.shares.length).findSome? (fun ci =>
    let h := e.2.share ci
    (List.range h.chans.length).findSome? (fun ch =>
      match (h.chans.getD ch {}).lead with
      | some (c, i) => if c.uid = uid then some ({ blk := e.1, ci := ci, ch := ch }, c, i) else none
      | none => none)))

/-- Some sends of this device end, each with its status: a reduction has ended for them, and `WPTR` counts their bytes (R140, R141, R155,
R156). -/
def State.endSends (s : State) (ends : List (Nat × Nat)) : State :=
  ends.foldl (fun s e =>
    match s.issued e.1 with
    | none => s
    | some (r, c, i) =>
      match c.body with
      | .copy w0 w1 w2 w3 =>
        let x := copyOf w0 w1 w2 w3
        if e.2 = 0 then endCmd (growPtr s r x.len) r c 0 else failSend s r c x i e.2
      | _ => s) s

/-- The next `n` bytes of a send have been accepted (R140, R154): those of a plain one have completed with it, and the last end it. The
source entries go with the last (R174). -/
def State.accepted (s : State) (uid n : Nat) : State :=
  match s.issued uid with
  | none => s
  | some (r, c, i) =>
    match c.body with
    | .copy w0 w1 w2 w3 =>
      let x := copyOf w0 w1 w2 w3
      let i := { i with accepted := i.accepted + n, flight := i.flight.drop 1, since := s.clock }
      if x.op = 0 ∧ x.len ≤ i.accepted then endCmd (growPtr s r n) r c 0
      else
        let s := if x.len ≤ i.accepted then s.dropSourceLocks uid else s
        (if x.op = 0 then growPtr s r n else s).setLead r i
    | _ => s

/-- `COLLECTIVE_PIECE_ACCEPT`: the home slice accepts a piece that has landed, the next of its send, once the cache quota has room for
what it stages; its credits return (R136, R139, R154, R155). -/
def execCollectivePieceAccept (p : Piece) (s : State) : Out :=
  match s.landing.find? (fun e => sameSend e.1 p) with
  | none => notDue s
  | some (q, uid) =>
    if q != p || !s.pieceOk p || !s.stageRoom p || s.pieceHeld p uid then notDue s
    else
      let (s, ends) := (s.dropLanded (fun e => e == (q, uid))).acceptPiece p uid
      let s := match uid with
        | some u => s.accepted u p.bytes.length
        | none => { s with outbox := s.outbox ++ [Notice.accepted p] }
      .next (s.endSends ends)

/-- Another device accepts the next piece of a command of this one: the credits held there return (R136, R154). -/
def State.farAccepts (s : State) (uid : Nat) : State :=
  match s.issued uid with
  | none => s
  | some (r, c, i) =>
    match c.body, i.flight with
    | .copy w0 w1 w2 w3, n :: _ =>
      let x := copyOf w0 w1 w2 w3
      let k := farKey x.dev (ctxVf (refCtx r)) x.lq
      { s with farCredits := s.farCredits.set k (s.farCredits.get k - pieceCredits n) }.accepted uid n
    | _, _ => s

/-- The reduction of another device ends for a command of this one (R155, R156): it completes only when every piece has been
accepted. -/
def State.farReduced (s : State) (uid st : Nat) : State :=
  match s.issued uid with
  | none => s
  | some (_, c, i) =>
    match c.body with
    | .copy w0 w1 w2 w3 =>
      let x := copyOf w0 w1 w2 w3
      if x.kind = 5 ∧ x.op ≠ 0 ∧ x.dev ≠ s.ownDevice ∧ (st = 1 ∨ st = 2 ∨ (st = 0 ∧ i.accepted = x.len)) then s.endSends [(uid, st)]
      else s
    | _ => s

/-- A participant of another device in some reductions here has stalled (R156). -/
def State.farStall (s : State) (vf asid : Nat) (base : Word64) (len : Nat) : State :=
  let (s, ends) := s.stallReductions (fun y => y.isAt vf asid base len)
  s.endSends ends

/-! ### `COPY_BYTES_COMPLETE` -/

/-- The next move of the engine for a channel: nothing while the leading command is held, or waits on a page or a window. -/
def engineMove (s : State) (r : ChanRef) : Move :=
  match (s.chan r).lead with
  | some (c, i) =>
    if !engineLive s r || i.held.isSome || (i.migr.isSome && !i.rewalk) || i.piece.isSome then .stop s
    else if c.body.total = 0 then .done (endCmd s r c 0)
    else
      match c.body with
      | .copy w0 w1 w2 w3 => if (copyOf w0 w1 w2 w3).kind = 5 then sendMove s r c (copyOf w0 w1 w2 w3) i else byteMove s r c i
      | _ => byteMove s r c i
  | none => .stop s

/-- Up to `n` moves of one command. -/
def engineMoves (r : ChanRef) : Nat → State → Out
  | 0, s => .next s
  | n + 1, s =>
    match engineMove s r with
    | .go s => engineMoves r n s
    | .stop s => .next s
    | .done s => .next s
    | .noMemory => .fault .noSuchMemory

/-- The next bytes of a channel's leading command complete, at most `n` of them (pieces for a collective send). -/
def execCopyBytesComplete (core ch n : Nat) (s : State) : Out :=
  match chanRef s core ch with
  | none => notDue s
  | some r => engineMoves r n s

/-- A collective with no piece accepted for the stall time fails with status 1; a reduction then fails every participant that
has already sent (R156). -/
def execCollectiveStall (core ch : Nat) (s : State) : Out :=
  match chanRef s core ch with
  | none => notDue s
  | some r =>
    match (s.chan r).lead with
    | some (c, i) =>
      match c.body with
      | .copy w0 w1 w2 w3 =>
        let x := copyOf w0 w1 w2 w3
        let limit := 1800 * (s.setSince (ctxVf (refCtx r)) i.since).stall
        if x.kind ≠ 5 ∨ (s.clock - i.since).toNat < limit ∨ !engineLive s r then notDue s
        else
          let hit (y : Reduction) : Bool :=
            x.op != 0 && x.dev == s.ownDevice && y.isAt (ctxVf (refCtx r)) (ctxAsid (refCtx r)) (BitVec.ofNat 64 x.dst) x.len
          let (s, ends) := (failSend s r c x i 1).stallReductions hit
          .next (s.endSends (ends.filter (fun e => e.1 != c.uid)))
      | _ => notDue s
    | none => notDue s

/-! ### `REFRESH_WINDOW_END` (R98) -/

/-- The refresh window of a bank group has ended: the reads that it held are served, those of copies and those of fills. -/
def execRefreshWindowEnd (die group : Nat) (s : State) : Out :=
  if refreshRemaining s.clock group != 0 then notDue s
  else
    let free (i : Issue) : Issue := if i.piece = some (die * 16 + group) then { i with piece := none } else i
    let fill (u : Until) : Until :=
      match u with
      | .wld uid a dst len (some held) => .wld uid a dst len (some (held.filter (fun p => !(bitsOf p 17 2 == die && p % 16 == group))))
      | u => u
    .next { s with
      teams := s.teams.mapVals (fun _ t => { t with inflight := t.inflight.map (fun f => { f with until_ := fill f.until_ }) })
      blocks := s.blocks.mapVals (fun _ b => b.mapChans (fun n => n.mapIssued free)) }

end Sys2Proof.Machine
end

