-- ==== Sys2Proof/Machine/Faults.lean ====
section
/-! DEFINITION. Stopping and saving teams: the first-touch pool, cancels, the watchdog, pre-emption, saves and resumption, fatal
faults and the dump (R189, R191, R220, R387 to R403). -/

namespace Sys2Proof.Machine

/-! ### Ends of teams at a boundary (R189, R389, R394) -/

/-- Nothing that comes before a cancel, the watchdog or a save is due at the team's boundary (R394): a team of a squashed block,
a settlement and an `LTRAP` come first. A settlement or an `LTRAP` whose trap a provisional block holds stands at a commit gate (R54,
R393). -/
def State.clearBoundary (s : State) (k : Nat) : Bool :=
  let t := s.teamAt k
  let b := s.blockAt (teamBlock k)
  t.atBoundary && (t.settling.isNone || t.heldTrap.isSome) && t.ltrap.isNone && !b.squashDue &&
    (b.prov || t.heldTrap.map (·.cause) != some 0x0C)

/-- A team takes a cause that ends its block (R382): it ends, and its block with its last team (DEDUCED, log 29). -/
def State.stopTeam (s : State) (k cause : Nat) : State :=
  (s.setTeamAt k { s.teamAt k with trapInfo := trapInfoWord { cause := cause } }).endTeam k

/-- A team of a cancelled launch ends at its boundary (R189). -/
def execCancel (team : Nat) (s : State) : Out :=
  let t := s.teamAt team
  if s.teams.has team && !t.ended && (s.blockAt (teamBlock team)).ending == some 0x0E && s.clearBoundary team &&
      !(s.ctxAt (teamCtx team)).failed then
    .next ((s.cancelApplies (teamLaunch team)).stopTeam team 0x0E)
  else notDue s

/-- Cycles that the watchdog has counted for a team: not while it is held on a migrating page within the migration limit (R166,
R389). -/
def watched (now : Word64) (limit : Nat) (t : Team) : Nat := (now - (t.unhold now limit).progress).toNat

/-- The migration limit of a team's hold (R166). -/
def State.holdLimit (s : State) (k : Nat) : Nat := migrateLimit s (teamVf k) ((s.teamAt k).hold.getD s.clock)

/-- The watchdog time of a team in cycles of the timebase (R9, R389). -/
def watchdogLimit (s : State) (k : Nat) : Nat := 1800 * (s.setSince (teamVf k) (s.teamAt k).progress).watchdog

/-- A team's watchdog fires, or ends a team of a block for which one has fired (R389). A provisional team is stalled at the
gate that the entry is until it is confirmed (R54). -/
def execWatchdog (team : Nat) (s : State) : Out :=
  let t := s.teamAt team
  let bk := teamBlock team
  let b := s.blockAt bk
  if !s.teams.has team || t.ended || b.prov || b.st != .running || (s.ctxAt (teamCtx team)).failed ||
      t.escalated.isSome then notDue s
  else
    match b.ending with
    | some 0x0F => if s.clearBoundary team then .next (s.stopTeam team 0x0F) else notDue s
    | some _ => notDue s
    | none =>
      if t.gated || t.saved || watched s.clock (s.holdLimit team) t < watchdogLimit s team then notDue s
      else
        let s := s.setBlockAt bk { b with ending := some 0x0F }
        let s := s.post (teamVf team)
          { code := 0x0004, ctx := teamAsid team
            detail := BitVec.ofNat 64 (launchIdent (teamLaunch team) + blockIndex bk * 2 ^ 32)
            info := trapInfoWord { cause := 0x0F } }
        .next (if s.clearBoundary team then s.stopTeam team 0x0F else s)

/-! ### Pre-emption (R393, R395 to R397) -/

/-- A block has a core that a mask does not name. -/
def Block.losesCore (b : Block) (cores : BitVec 96) : Bool := b.shares.any (fun h => !cores.getLsbD h.core)

/-- The blocks of a launch that are running and unfinished, the lowest first. -/
def State.runningBlocks (s : State) (l : Nat) : List Nat := (s.launchBlocks l).filter (fun b => (s.blockAt b).st == .running)

/-- The mask would evict the lowest-numbered unfinished block of the launch, which has started, and leave another block of it its
cores, which could be evicted instead (R51). -/
def State.evictsLowest (s : State) (l : Nat) (cores : BitVec 96) : Bool :=
  match s.lowestBlock l with
  | none => false
  | some b =>
    (s.blockAt b).st == .running && (s.blockAt b).losesCore cores && (s.runningBlocks l).any (fun j => !(s.blockAt j).losesCore cores)

/-- The core mask of a launch changes: the blocks on the cores taken away are to be saved, and saved blocks resume on the cores
given back. A save that has begun goes on to its end. A publication in the same cycle comes first, a completion or a fatal fault
wins (R396, DEDUCED, log 28). -/
def execPreemption (launch : Nat) (cores : BitVec 96) (s : State) : Out :=
  let x := s.launchAt launch
  if !s.launches.has launch || x.st == .ended || x.st == .failed || (s.ctxAt (launchCtx launch)).failed ||
      (x.shape.map (fun h => h.watching && h.ext.isSome)).getD false then notDue s
  else
    let mask := cores &&& BitVec.ofNat 96 (2 ^ s.nCores - 1)
    if s.evictsLowest launch mask then notDue s
    else
    let s := s.setLaunchAt launch { x with mask := mask }
    .next { s with blocks := s.blocks.mapVals (fun b y =>
      if blockLaunch b = launch ∧ y.st = .running then
        { y with saveDue := y.losesCore mask || (s.blockTeams b).any (fun k => (s.teamAt k).saved) }
      else y) }

/-- Every unfinished instruction of a team is a barrier that waits for its instance, with no token: its slot is saved with it (R191,
R393). A `BECOME` or an `LTRAP` whose trap a provisional block holds is saved unissued. -/
def Team.settledDown (t : Team) : Bool :=
  t.inflight.all (fun f => match f.until_ with
    | .barrier _ => f.tok == 0
    | .settlement => t.heldTrap.isSome
    | .ltrap => t.heldTrap.isSome
    | _ => false)

/-- The `BECOME` or `LTRAP` whose trap the team holds, taken back: its token is lowered, and a settlement's run comes back into the queue
(R191, R393). An access that is held on a migrating page has raised no token yet: it raises it as it proceeds (R191, DEDUCED, log 15). -/
def Team.unissue (t : Team) : Team :=
  let u := t.endSettle.endLtrap
  match t.settling with
  | some z => { u with runs := z.run :: u.runs }
  | none => u

/-- A team as it is saved (R393): its run in progress back in the queue, the instruction it was held at unissued, an `ICINV` that waits
abandoned (R268, DEDUCED, log 28). `limit` is the migration limit of its hold. -/
def Team.save (t : Team) (now : Word64) (limit : Nat) : Team :=
  let t := (t.landAll.unhold now limit).unissue
  { t with
    active := none
    runs := match t.active with
      | some a => a.remainder :: t.runs.tail
      | none => t.runs
    paused := if t.gated then t.paused else now
    rewalk := true
    held := false
    polling := false
    parked := none
    icinv := none
    saved := true }

/-- The entries that an operation holds in the tables of a block's cores, by core index. -/
def State.heldLocks (s : State) (b : Block) (uid : Nat) : List (Nat × Lock) :=
  (List.range b.shares.length).flatMap (fun ci =>
    ((s.coreAt (b.share ci).core).locks.filter (fun e => e.2.uid == uid)).map (fun e => (ci, e.2)))

/-- A channel with the entries of its commands: the held one's, and those that a command behind it has registered (R174, R352). Where
its engine goes on after the save it translates anew. -/
def State.saveChan (s : State) (b : Block) (n : Chan) : Chan :=
  { n.mapIssued (fun i => { i with rd := none, wr := none }) with
    locks := (n.issued.map (·.1) ++ n.queue).flatMap (fun c => s.heldLocks b c.uid) }

/-- The save is written to the context's save region. Its layout is the tenant core's: what the region then holds is open, and the
model resumes the block from its own state (R393, R395, DEDUCED, log 28). -/
def State.writeSave (s : State) (c : Nat) : State :=
  let x := s.ctxAt c
  { s with fresh := s.fresh + 1 }.gwrite x.saveBase.toNat ((Config.saveBytes s.fresh).take x.saveSize.toNat)

/-- The block gives up its cores once every team has been saved or has ended (DEDUCED, log 28). -/
def State.saveBlock (s : State) (bk : Nat) : State :=
  let b := s.blockAt bk
  let b' : Block := { b with st := .saved, saveDue := false
                             shares := (b.mapChans (s.saveChan b)).shares }
  let s := (s.setBlockAt bk b').writeSave (launchCtx (blockLaunch bk))
  { s with
    cores := s.cores.mapVals (fun _ c =>
      { c with locks := c.locks.filter (fun e => c.slots.find? e.2.slot != some bk)
               slots := c.slots.filter (fun e => e.2 != bk) }) }

/-- A team of a pre-empted block is saved at its boundary, after the block's channels have drained. -/
def execContextSave (team : Nat) (s : State) : Out :=
  let t := s.teamAt team
  let bk := teamBlock team
  let b := s.blockAt bk
  if !s.teams.has team || t.saved || b.st != .running || !s.saveHolds bk || b.ending.isSome ||
      (s.ctxAt (teamCtx team)).failed || !(t.ended || (s.clearBoundary team && t.settledDown)) then notDue s
  else
    let u := (s.waitDone team).teamAt team
    let s := if t.ended then s
      else (((s.waitDone team).freeDatapath team).setTeamAt team (u.save s.clock (s.holdLimit team))).leaveArrays team
    .next (if (s.blockTeams bk).all (fun k => (s.teamAt k).ended || (s.teamAt k).saved) then s.saveBlock bk else s)

/-- The entries of the held commands of a saved block, for the cores and slots it resumes on (R174, R395). -/
def Block.resumeLocks (b : Block) (hs : List Share) : List (Nat × Lock) :=
  (b.shares.flatMap (fun h => h.chans.flatMap (fun n => n.locks))).map (fun e =>
    let h := hs.getD e.1 { core := 0, slot := 0 }
    (h.core, { e.2 with slot := h.slot }))

/-- The pre-empted blocks of a launch, saved or with their save under way, lowest first (R51, R395). -/
def State.savedBlocks (s : State) (l : Nat) : List Nat :=
  (s.launchBlocks l).filter (fun b => (s.blockAt b).st == .saved || ((s.blockAt b).saveDue && !s.spared b))

/-- A saved block resumes with `core` as its core index 0, or on the pair of `core`, in the state that was saved: the lowest pre-empted
block of its launch first. -/
def execBlockResume (block core : Nat) (s : State) : Out :=
  let l := blockLaunch block
  let x := s.launchAt l
  let b := s.blockAt block
  if !s.blocks.has block || (s.savedBlocks l).head? != some block || b.st != .saved || b.squashDue || (s.ctxAt (launchCtx l)).failed ||
      ((s.ctxAt (launchCtx l)).mode == .replay && core != b.taker) then notDue s
  else
    match s.placement x core with
    | none => notDue s
    | some cores =>
      let (hs, s') := s.takeShares block x.kernel cores
      let locks := b.resumeLocks hs
      if !s'.locksFit locks then notDue s
      else
        let shares := (b.shares.zip hs).map (fun e =>
          { e.1 with core := e.2.core, slot := e.2.slot, chans := e.1.chans.map (fun n => { n with locks := [] }) })
        let s' := s'.setBlockAt block { b with st := .running, shares := shares }
        let s' := (s'.blockTeams block).foldl (fun s k =>
          s.setTeamAt k { (s.teamAt k).unsave s.clock with core := cores.getD (b.indexOf (teamIdx k)) 0 }) s'
        .next (s'.addLocks locks)

/-! ### The dump (R401 to R403) -/

/-- Words 0 to 2 of a range-lock entry (R170). -/
def Lock.word2 (l : Lock) : Nat :=
  2 ^ 63 + l.space % 4 * 2 ^ 61 + (if l.dest then 2 ^ 60 else 0) + (if l.ptr then 2 ^ 59 else 0) + l.engine % 4 * 2 ^ 57 +
    l.chan % 16 * 2 ^ 53 + l.team % 16 * 2 ^ 49 + l.asid % 65536 * 2 ^ 33 + l.slot % 32 * 2 ^ 28
def Lock.bytes (l : Lock) : List Byte := leBytes 8 l.lo ++ leBytes 8 l.hi ++ leBytes 8 l.word2

/-- A job queue register as it reads (R157). -/
def JobQueue.word (q : JobQueue) : Nat :=
  q.base.toNat + q.size.toNat * 2 ^ 59 + q.head.toNat * 2 ^ 64 + q.tail.toNat * 2 ^ 80 + q.sticky.toNat * 2 ^ 96

/-- A fault record (R402). -/
def FaultRec.word (r : FaultRec) (dev : Nat) : Nat :=
  r.info.toNat + r.addr.toNat * 2 ^ 64 + r.launch % 2 ^ 32 * 2 ^ 128 + r.block % 2 ^ 32 * 2 ^ 160 + r.core % 128 * 2 ^ 192 +
    r.team % 16 * 2 ^ 199 + dev % 4096 * 2 ^ 203

/-- The record of a team's fault on a core, raised at clock `z` as number `n`. -/
def faultRec (k core : Nat) (tr : Trap) (z : Word64) (n : Nat) : FaultRec :=
  { info := trapInfoWord tr, addr := tr.addr, launch := launchIdent (teamLaunch k), block := blockIndex (teamBlock k)
    core := core, team := teamIdx k, clock := z, no := n }
/-- The record of a fault that is raised now. -/
def State.faultNow (s : State) (k core : Nat) (tr : Trap) : FaultRec := faultRec k core tr s.clock s.uids

/-- Numbers of `w` bits in order, the first lowest. -/
def packWords (w : Nat) : List Nat → Nat
  | [] => 0
  | x :: rest => x % 2 ^ w + packWords w rest * 2 ^ w

/-- A team record (R403). -/
def State.teamRecord (s : State) (k : Nat) : Nat :=
  let t := s.teamAt k
  let runs := t.runs ++ ((t.trapRet.map (·.aside)).getD [])
  packWords 64 (t.sregs.toList.map (·.toNat)) + t.spc.toNat * 2 ^ 4096 +
    ((t.active.map (fun (a : Active) => a.lpc)).getD 0).toNat * 2 ^ 4160 + ((t.trapRet.map (fun (r : TrapReturn) => r.resume)).getD 0).toNat * 2 ^ 4224 +
    t.trapInfo.toNat * 2 ^ 4288 + t.trapAddr.toNat * 2 ^ 4352 + t.failRec.toNat * 2 ^ 4416 +
    (modeWord t (s.ctxAt (teamCtx k)).mode).toNat % 2 ^ 32 * 2 ^ 4480 + t.nSealed.toNat * 2 ^ 4512 + t.nFinished.toNat * 2 ^ 4544 +
    t.nlive % 65536 * 2 ^ 4576 + (t.qregs ||| 1).toNat * 2 ^ 4592 + t.t1.toNat * 2 ^ 4608 + t.t2.toNat * 2 ^ 4614 +
    t.t3.toNat * 2 ^ 4620 + launchIdent (teamLaunch k) * 2 ^ 4640 + blockIndex (teamBlock k) * 2 ^ 4672 + teamIdx k * 2 ^ 4704 +
    t.core % 128 * 2 ^ 4708 + t.mask.toNat * 2 ^ 4736 + (summaryWord t.mask).toNat * 2 ^ 5760 + t.stack.length * 2 ^ 5792 +
    packWords 64 ((runs.take 8).map (·.addr.toNat)) * 2 ^ 5824 + (runs.take 8).length * 2 ^ 6336

/-- The counters of every level of a context: each job, its phases, their graphs and their launches (R402). -/
def State.levelCounters (s : State) (c : Nat) : List Counter :=
  (s.jobs.filter (fun e => e.2.ctx == c)).flatMap (fun e =>
    e.2.ctr :: e.2.phases.flatMap (fun p => p.ctr :: p.graphs.flatMap (fun g =>
      g.ctr :: g.launches.map (fun i => (s.launchAt (launchKey c i)).ctr))))

/-- The ticket counters of a context's launches (R185, R402). -/
def State.ticketRecords (s : State) (c : Nat) : List Nat :=
  (s.launches.filter (fun e => launchCtx e.1 == c)).flatMap (fun e =>
    [e.2.tickets, e.2.tail].flatMap (fun ts => (List.range ts.length).map (fun d =>
      let t := ts.getD d {}
      t.stop % 2 ^ 32 + t.next % 2 ^ 32 * 2 ^ 32 + d * 2 ^ 64 + launchIdent e.1 * 2 ^ 96)))

/-- The range-lock entries that the blocks of a context hold, core by core. -/
def State.ctxLocks (s : State) (c : Nat) : List Lock :=
  s.cores.flatMap (fun e => (e.2.locks.filter (fun l =>
    ((e.2.slots.find? l.2.slot).map (fun b => launchCtx (blockLaunch b) == c)).getD false)).map (·.2))

/-- The random ranges of a context, its overlap count in the first record (R402). -/
def Ctx.rangeRecords (x : Ctx) : List Nat :=
  (List.range x.rng.length).map (fun i =>
    let r := x.rng.getD i default
    r.key.toNat + r.first.toNat * 2 ^ 64 + r.count.toNat * 2 ^ 128 + r.launch % 2 ^ 32 * 2 ^ 192 +
      (if i = 0 then x.rngOver.toNat * 2 ^ 224 else 0))

/-- The sections of a dump in order: the size of a record and the records' bytes (R402). -/
def State.dumpSections (s : State) (c : Nat) (faults : List FaultRec) : List (Nat × List (List Byte)) :=
  [(1024, ((s.teams.map (·.1)).filter (fun k => teamCtx k == c && !(s.teamAt k).ended)).map (fun k => leBytes 1024 (s.teamRecord k))),
   (24, (s.ctxLocks c).map Lock.bytes),
   (16, (s.levelCounters c).map (fun x => leBytes 16 x.word)),
   (16, (s.ticketRecords c).map (leBytes 16)),
   (16, (s.vfAt (ctxVf c)).queues.map (fun q => leBytes 16 q.word)),
   (32, (s.ctxAt c).rangeRecords.map (leBytes 32)),
   (32, faults.map (fun r => leBytes 32 (r.word s.ownDevice)))]

/-- The directory: each section's offset, record count and record size (R402). -/
def dumpDirectory : Nat → List (Nat × List (List Byte)) → List Byte
  | _, [] => []
  | off, (w, rs) :: rest => leBytes 16 (off + rs.length * 2 ^ 64 + w * 2 ^ 96) ++ dumpDirectory (off + w * rs.length) rest

/-- The header of a dump (R401). -/
def State.dumpHeader (s : State) (c : Nat) (r : FaultRec) (size : Nat) (complete : Bool) : List Byte :=
  leBytes 64 (size + 1 * 2 ^ 64 + 7 * 2 ^ 96 + (if complete then 2 ^ 139 else 0) + ctxVf c % 16 * 2 ^ 140 + ctxAsid c * 2 ^ 144 +
    r.team % 16 * 2 ^ 189 + r.core % 128 * 2 ^ 193 + s.ownDevice * 2 ^ 200 + r.block % 2 ^ 32 * 2 ^ 224 + r.launch % 2 ^ 32 * 2 ^ 256 +
    r.info.toNat * 2 ^ 288 + r.addr.toNat * 2 ^ 352 + r.clock.toNat * 2 ^ 416)

/-- The bytes of a dump, cut at the end of its region (R401). -/
def State.dump (s : State) (c : Nat) (faults : List FaultRec) : List Byte :=
  let secs := s.dumpSections c faults
  let body := dumpDirectory (64 + 16 * 7) secs ++ secs.flatMap (fun e => e.2.flatten)
  let full := 64 + body.length
  let room := (s.ctxAt c).dumpSize.toNat
  (s.dumpHeader c (faults.headD default) (min full room) (decide (full ≤ room)) ++ body).take room

/-! ### Fatal faults (R25, R398) -/

/-- The escalation that the tenant firmware resolves: `TRAP 0x1` in the handler of a context that has one, the empty pool (R387, R388,
R392). -/
def poolEmpty (x : Ctx) (t : Team) (tr : Trap) : Bool := x.trapBase != 0 && t.sup && tr.cause == 0x0D && tr.addr == 1

/-- The faults of a context that wait for the tenant core, but for one team's. -/
def State.otherFaults (s : State) (c k : Nat) : List FaultRec :=
  (s.teams.map (·.1)).filterMap (fun j =>
    let t := s.teamAt j
    if teamCtx j = c ∧ j ≠ k then
      (t.escalated.filter (fun tr => !poolEmpty (s.ctxAt c) t tr)).map (fun tr => faultRec j t.core tr t.raisedAt t.raisedNo)
    else none)

/-- A fault record in its place in the order raised. -/
def inOrder (r : FaultRec) : List FaultRec → List FaultRec
  | [] => [r]
  | x :: rest => if r.no < x.no then r :: x :: rest else x :: inOrder r rest

/-- A fatal fault of team `k` ends its context: its teams stop, its accepted writes perform, the dump is written, its resources are
freed, and the event is posted (DEDUCED, log 29). -/
def State.fatal (s : State) (k : Nat) (r : FaultRec) : State :=
  let c := teamCtx k
  let faults := (r :: s.otherFaults c k).foldr inOrder []
  let s := s.performStopped c
  let bytes := s.dump c faults
  let s := s.gwrite (s.ctxAt c).dumpBase.toNat bytes
  let s := s.setCtxAt c { s.ctxAt c with faults := faults }
  (s.endContext c).post (ctxVf c) { code := 0x0012, ctx := ctxAsid c, detail := BitVec.ofNat 64 bytes.length }

/-- The fault of an uncorrectable soft error, met by the scalar stream or by a lane instruction (R84, R111). -/
def softFault (e : SoftError) : Trap :=
  { cause := 0x10, addr := BitVec.ofNat 64 e.addr, lane := if e.scalar then 0 else e.lane % 1024, scalar := e.scalar }

/-- An escalation that is not resolved ends the context; or a read of the team meets an uncorrectable soft error `err`,
which a provisional team holds until it is confirmed (R54, R111, R387, R388, R398, R401). -/
def execFatalFault (team : Nat) (err : SoftError) (s : State) : Out :=
  let t := s.teamAt team
  if !s.teams.has team || t.ended || (s.ctxAt (teamCtx team)).failed then notDue s
  else
    match t.escalated with
    | some tr => if poolEmpty (s.ctxAt (teamCtx team)) t tr then notDue s else .next (s.fatal team (faultRec team t.core tr t.raisedAt t.raisedNo))
    | none =>
      let tr := softFault err
      if (s.blockAt (teamBlock team)).st != .running || t.heldTrap.isSome then notDue s
      else if (s.blockAt (teamBlock team)).prov then .next (takeTrap s team tr t.spc t.spc t.runs)
      else .next (s.fatal team (s.faultNow team t.core tr))

/-- A write of a team that has issued and that its target rejects, or whose target has been fenced off, at an address (R220). -/
def State.failedWrite (s : State) (team addr : Nat) : Option LaneOp :=
  s.ops.find? (fun o => o.team == team && o.va == addr && !o.act.reads && o.doomed)

/-- A translated write of the team fails later, on the core that issued it (R220, R226, R398, R401). -/
def execLateWriteFailure (team addr : Nat) (s : State) : Out :=
  match s.failedWrite team addr with
  | none => notDue s
  | some o =>
    if (s.ctxAt (teamCtx team)).failed then notDue s
    else .next (s.fatal team (s.faultNow team o.core { cause := 0x11, addr := BitVec.ofNat 64 addr }))

/-! ### `POOL_REFILL` (R390 to R392) -/

/-- The tenant core moves pages from the reserve into the ring and resumes the team behind its `TRAP`, or ends the context for
want of pages. The watchdog of a team that is saved or gated stands until the team goes on (R389). -/
def execPoolRefill (team : Nat) (s : State) : Out :=
  let t := s.teamAt team
  let c := teamCtx team
  match t.escalated with
  | none => notDue s
  | some tr =>
    if !poolEmpty (s.ctxAt c) t tr || (s.ctxAt c).failed || t.ended then notDue s
    else
      let pages := (s.ctxAt c).reserve
      if pages.isEmpty then .next ((s.post (ctxVf c) { code := 0x0005, ctx := ctxAsid c }).fatal team (faultRec team t.core tr t.raisedAt t.raisedNo))
      else
        let (rest, s) := s.ringFill c pages
        let moved := pages.take (pages.length - rest.length)
        let s := moved.foldl (fun s p => s.zeroPage p) s
        let s := s.setCtxAt c { s.ctxAt c with reserve := rest }
        .next (s.setTeamAt team { t with escalated := none, spc := t.spc + 4
                                         progress := if t.saved || t.gated then t.paused else s.clock })

end Sys2Proof.Machine
end

