-- ==== Sys2Proof/Machine/LaneInt.lean ====
section
/-! DEFINITION. Lane class 0: integer arithmetic, bit operations, moves and compares (R303 to R316). -/

namespace Sys2Proof.Machine

/-- The width of a class 0 type (R303). -/
def tyBits (ty : IntTy) : Nat := if ty.wide then 64 else 32

/-- A V operand and a b operand as n-bit patterns (R257, R303). -/
def srcNat (ty : IntTy) (t : Team) (a : Active) (i : Nat) (x : Src) : Nat :=
  if ty.wide then (src64 t a i x).toNat else (src32 t a i x).toNat
def immNat (ty : IntTy) (t : Team) (a : Active) (i : Nat) (x : SrcImm) : Nat :=
  if ty.wide then (imm64 t a i x).toNat else (imm32 t a i x).toNat
/-- A pattern read under the type. -/
def tyInt (ty : IntTy) (x : Nat) : Int := readInt ty.signed (tyBits ty) x
/-- An exact result, wrapped or clamped (R303). -/
def fitInt (ty : IntTy) (sat : Bool) (z : Int) : Nat :=
  wrapInt (tyBits ty) (if sat then clampInt ty.signed (tyBits ty) z else z)
/-- Write an n-bit result. -/
def writeTy (ty : IntTy) (i : Nat) (d : Dst) (x : Nat) : List LaneWrite :=
  if ty.wide then writePair i d (BitVec.ofNat 64 x) else writeReg i d (BitVec.ofNat 32 x)

/-- A class 0 instruction of two operands, from its integer operation (R303). -/
def intOp2 (i : Instr) (c : Ctl) (ty : IntTy) (sat : Bool) (d : Dst) (x : Src) (y : SrcImm) (f : Int → Int → Int) (s : State) : Out :=
  laneFixed i c latInt (fun t a p =>
    writeTy ty p d (fitInt ty sat (f (tyInt ty (srcNat ty t a p x)) (tyInt ty (immNat ty t a p y))))) s

/-- A class 0 instruction of two operands, from its operation on bit patterns. -/
def bitOp2 (i : Instr) (c : Ctl) (ty : IntTy) (d : Dst) (x : Src) (y : SrcImm) (f : Nat → Nat → Nat) (s : State) : Out :=
  laneFixed i c latInt (fun t a p => writeTy ty p d (f (srcNat ty t a p x) (immNat ty t a p y))) s

/-- A class 0 instruction of one operand. -/
def bitOp1 (i : Instr) (c : Ctl) (ty : IntTy) (d : Dst) (x : Src) (f : Nat → Nat) (s : State) : Out :=
  laneFixed i c latInt (fun t a p => writeTy ty p d (f (srcNat ty t a p x))) s

/-! ### Arithmetic (R305 to R310) -/

def execIadd (c : Ctl) (ty : IntTy) (sat : Bool) (d : Dst) (a : Src) (y : SrcImm) (s : State) : Out :=
  intOp2 (.iadd c ty sat d a y) c ty sat d a y (fun x z => x + z) s
def execIsub (c : Ctl) (ty : IntTy) (sat : Bool) (d : Dst) (a : Src) (y : SrcImm) (s : State) : Out :=
  intOp2 (.isub c ty sat d a y) c ty sat d a y (fun x z => x - z) s
def execImul (c : Ctl) (ty : IntTy) (sat : Bool) (d : Dst) (a : Src) (y : SrcImm) (s : State) : Out :=
  intOp2 (.imul c ty sat d a y) c ty sat d a y (fun x z => x * z) s
/-- `IMULH` (R306): the high n bits of the product. -/
def execImulh (c : Ctl) (ty : IntTy) (d : Dst) (a : Src) (y : SrcImm) (s : State) : Out :=
  intOp2 (.imulh c ty d a y) c ty false d a y (fun x z => x * z / ((2 ^ tyBits ty : Nat) : Int)) s
/-- `IMAD` (R307): one wrap or clamp of the exact result. -/
def execImad (c : Ctl) (ty : IntTy) (sat : Bool) (d : Dst) (a y z : Src) (s : State) : Out :=
  laneFixed (.imad c ty sat d a y z) c latInt (fun t r p =>
    writeTy ty p d (fitInt ty sat
      (tyInt ty (srcNat ty t r p a) * tyInt ty (srcNat ty t r p y) + tyInt ty (srcNat ty t r p z)))) s

/-- `IDIV` (R308): truncating; by zero all ones. -/
def divInt (x y : Int) : Int := if y = 0 then -1 else x.tdiv y
/-- `IREM` (R308): of the sign of the dividend; by zero the dividend. -/
def remInt (x y : Int) : Int := if y = 0 then x else x.tmod y
def execIdiv (c : Ctl) (ty : IntTy) (d : Dst) (a : Src) (y : SrcImm) (s : State) : Out :=
  intOp2 (.idiv c ty d a y) c ty false d a y divInt s
def execIrem (c : Ctl) (ty : IntTy) (d : Dst) (a : Src) (y : SrcImm) (s : State) : Out :=
  intOp2 (.irem c ty d a y) c ty false d a y remInt s

def execImin (c : Ctl) (ty : IntTy) (d : Dst) (a : Src) (y : SrcImm) (s : State) : Out :=
  intOp2 (.imin c ty d a y) c ty false d a y min s
def execImax (c : Ctl) (ty : IntTy) (d : Dst) (a : Src) (y : SrcImm) (s : State) : Out :=
  intOp2 (.imax c ty d a y) c ty false d a y max s

/-- The signed type of a width, for `IABS` and `INEG`, whose N types are illegal (R310). -/
def signedTy (wide : Bool) : IntTy := if wide then .i64 else .i32
def execIabs (c : Ctl) (wide sat : Bool) (d : Dst) (a : Src) (s : State) : Out :=
  laneFixed (.iabs c wide sat d a) c latInt (fun t r p =>
    writeTy (signedTy wide) p d (fitInt (signedTy wide) sat ((tyInt (signedTy wide) (srcNat (signedTy wide) t r p a)).natAbs : Int))) s
def execIneg (c : Ctl) (wide sat : Bool) (d : Dst) (a : Src) (s : State) : Out :=
  laneFixed (.ineg c wide sat d a) c latInt (fun t r p =>
    writeTy (signedTy wide) p d (fitInt (signedTy wide) sat (-(tyInt (signedTy wide) (srcNat (signedTy wide) t r p a))))) s

/-! ### Bits (R311 to R315) -/

def execLand (c : Ctl) (ty : IntTy) (d : Dst) (a : Src) (y : SrcImm) (s : State) : Out :=
  bitOp2 (.land c ty d a y) c ty d a y (fun x z => x &&& z) s
def execLor (c : Ctl) (ty : IntTy) (d : Dst) (a : Src) (y : SrcImm) (s : State) : Out :=
  bitOp2 (.lor c ty d a y) c ty d a y (fun x z => x ||| z) s
def execLxor (c : Ctl) (ty : IntTy) (d : Dst) (a : Src) (y : SrcImm) (s : State) : Out :=
  bitOp2 (.lxor c ty d a y) c ty d a y (fun x z => x ^^^ z) s
def execLnot (c : Ctl) (ty : IntTy) (d : Dst) (a : Src) (s : State) : Out :=
  bitOp1 (.lnot c ty d a) c ty d a (fun x => 2 ^ tyBits ty - 1 - x) s

def execShl (c : Ctl) (ty : IntTy) (d : Dst) (a : Src) (y : SrcImm) (s : State) : Out :=
  bitOp2 (.shl c ty d a y) c ty d a y (fun x k => x * 2 ^ (k % tyBits ty) % 2 ^ tyBits ty) s
def execShr (c : Ctl) (ty : IntTy) (d : Dst) (a : Src) (y : SrcImm) (s : State) : Out :=
  bitOp2 (.shr c ty d a y) c ty d a y (fun x k => x / 2 ^ (k % tyBits ty)) s
/-- `SAR` reads its operand signed whatever the type (R312). -/
def execSar (c : Ctl) (ty : IntTy) (d : Dst) (a : Src) (y : SrcImm) (s : State) : Out :=
  bitOp2 (.sar c ty d a y) c ty d a y (fun x k =>
    wrapInt (tyBits ty) (readInt true (tyBits ty) x / ((2 ^ (k % tyBits ty) : Nat) : Int))) s
def rotl (n x k : Nat) : Nat := (x * 2 ^ k + x / 2 ^ (n - k)) % 2 ^ n
def execRol (c : Ctl) (ty : IntTy) (d : Dst) (a : Src) (y : SrcImm) (s : State) : Out :=
  bitOp2 (.rol c ty d a y) c ty d a y (fun x k => rotl (tyBits ty) x (k % tyBits ty)) s

def bitList (n x : Nat) : List Nat := (List.range n).map (fun j => x / 2 ^ j % 2)
def popcount (n x : Nat) : Nat := (bitList n x).sum
def leadingZeros (n x : Nat) : Nat := if x = 0 then n else n - 1 - x.log2
def bitReverse (n x : Nat) : Nat := (bitList n x).foldl (fun acc d => 2 * acc + d) 0
def execPopc (c : Ctl) (ty : IntTy) (d : Dst) (a : Src) (s : State) : Out :=
  bitOp1 (.popc c ty d a) c ty d a (popcount (tyBits ty)) s
def execClz (c : Ctl) (ty : IntTy) (d : Dst) (a : Src) (s : State) : Out :=
  bitOp1 (.clz c ty d a) c ty d a (leadingZeros (tyBits ty)) s
def execBrev (c : Ctl) (ty : IntTy) (d : Dst) (a : Src) (s : State) : Out :=
  bitOp1 (.brev c ty d a) c ty d a (bitReverse (tyBits ty)) s

/-- `BFE` (R314): the length is cut at the width. -/
def bfe (ty : IntTy) (x pos len : Nat) : Nat :=
  let n := tyBits ty
  let p := pos % n
  let l := min len (n - p)
  if l = 0 then 0 else wrapInt n (readInt ty.signed l (bitsOf x p l))
def execBfe (c : Ctl) (ty : IntTy) (d : Dst) (a pos len : Src) (s : State) : Out :=
  laneFixed (.bfe c ty d a pos len) c latInt (fun t r p =>
    writeTy ty p d (bfe ty (srcNat ty t r p a) (srcNat ty t r p pos) (srcNat ty t r p len))) s
/-- `BFI` (R314): the field's low bits go into the base at the position. -/
def bfi (n fld base pos len : Nat) : Nat :=
  let p := pos % n
  let l := min len (n - p)
  base - bitsOf base p l * 2 ^ p + fld % 2 ^ l * 2 ^ p
def execBfi (c : Ctl) (ty : IntTy) (d : Dst) (a y pos len : Src) (s : State) : Out :=
  laneFixed (.bfi c ty d a y pos len) c latInt (fun t r p =>
    writeTy ty p d (bfi (tyBits ty) (srcNat ty t r p a) (srcNat ty t r p y) (srcNat ty t r p pos) (srcNat ty t r p len))) s

def execMov (c : Ctl) (ty : IntTy) (d : Dst) (y : SrcImm) (s : State) : Out :=
  laneFixed (.mov c ty d y) c latInt (fun t r p => writeTy ty p d (immNat ty t r p y)) s
def execSel (c : Ctl) (ty : IntTy) (d : Dst) (a y : Src) (q : PSrc) (s : State) : Out :=
  laneFixed (.sel c ty d a y q) c latInt (fun t r p =>
    writeTy ty p d (if (t.lane p).pred q then srcNat ty t r p a else srcNat ty t r p y)) s

/-- `ICMP` (R316). -/
def execIcmp (c : Ctl) (ty : IntTy) (cd : Cond) (d : PDst) (a y : Src) (s : State) : Out :=
  laneFixed (.icmp c ty cd d a y) c latInt (fun t r p =>
    writePred p d (intCond cd (tyInt ty (srcNat ty t r p a)) (tyInt ty (srcNat ty t r p y)))) s

end Sys2Proof.Machine
end

