-- ==== Sys2Proof/Machine/LaneMemory.lean ====
section
/-! DEFINITION. Lane class 5: scratchpad and global accesses, atomics, `XFER` and `FENCE` (R89 to R93, R169, R335 to R354). -/

namespace Sys2Proof.Machine

/-! ### Scratchpad (R341, R342, R345) -/

/-- The address of `LDS` and `STS` (R336). -/
def scratchVa (t : Team) (r : Active) (p : Nat) (a y : Src) : Nat := (src32 t r p a + src32 t r p y).toNat

/-- The checks of one lane's scratchpad access, in the order of R338. -/
def scratchCheck (s : State) (at_ n : Nat) (write : Bool) : LaneCheck :=
  if at_ % n ≠ 0 then .bad 0x05 0x00 (BitVec.ofNat 64 at_)
  else
    match s.scratchAt at_ n with
    | none => .bad 0x04 0x00 (BitVec.ofNat 64 at_)
    | some (ci, off) =>
      match s.scratchLock (teamBlock s.cur) ci off n write with
      | some k => .bad 0x06 k (BitVec.ofNat 64 at_)
      | none => .ok

/-- Where the bytes of an access that has passed its checks lie. -/
def scratchSpot (s : State) (at_ n : Nat) : Nat × Nat := (s.scratchAt at_ n).getD (0, 0)

/-- `LDS` (R341). -/
def execLds (c : Ctl) (w : Width) (sx : Bool) (o : Order) (sc : Scope) (d : Dst) (a y : Src) (s : State) : Out :=
  laneIssue (.lds c w sx o sc d a y) c (fun s t r ex =>
    match laneFaults (ex.map (fun p => (p, scratchCheck s (scratchVa t r p a y) w.bytes false))) with
    | some tr => .trap tr
    | none =>
      let s := s.countReplay (ex.map (fun p => (p, wordsOf (scratchSpot s (scratchVa t r p a y) w.bytes) w.bytes)))
      .issued s { n := 0, dsts := laneWrites (.lds c w sx o sc d a y)
                  writes := ex.flatMap (fun p =>
                    let at_ := scratchSpot s (scratchVa t r p a y) w.bytes
                    let x := s.scratchRead (teamBlock s.cur) at_.1 at_.2 w.bytes
                    writeData p d w.wide (if sx then wrapInt 64 (readInt true (8 * w.bytes) x) else x)) }) s

/-- An instruction with release or sequentially consistent order goes on once every access before it has performed (R205, R208, R220); one
that no lane executes is no event. -/
def releaseAfter (o : Order) (ex : List Nat) (s : State) (f : State → LaneRes) : LaneRes :=
  match o with
  | .rel | .ar | .sc => if ex.isEmpty then f s else laneDrained s f
  | _ => f s

/-- `STS`: the highest-positioned lane's byte remains (R91, R342). -/
def execSts (c : Ctl) (w : Width) (o : Order) (sc : Scope) (a y x : Src) (s : State) : Out :=
  laneIssue (.sts c w o sc a y x) c (fun s t r ex =>
    match laneFaults (ex.map (fun p => (p, scratchCheck s (scratchVa t r p a y) w.bytes true))) with
    | some tr => .trap tr
    | none =>
      releaseAfter o ex s (fun s =>
        let s := s.countReplay (ex.map (fun p => (p, wordsOf (scratchSpot s (scratchVa t r p a y) w.bytes) w.bytes)))
        .issued (ex.foldl (fun s p =>
          let at_ := scratchSpot s (scratchVa t r p a y) w.bytes
          s.scratchWrite (teamBlock s.cur) at_.1 at_.2 w.bytes (dataOf t r p w.wide false x)) s) { n := 0 })) s

/-- Issue the accesses of an instruction, in the order in which its lanes perform. One performs later if its turn says so, if it comes
after one at common bytes that has not performed, or if a replay log holds it (R59, R199, R200, DESIGN CHOICE, log 50). No turn delays
one before which no later lane instruction of the team issues. -/
def issueOps : List LaneOp → State → List LaneWrite → Perf
  | [], s, ws => .ok s ws
  | o :: rest, s, ws =>
    if (!o.strong && s.laneLater.contains o.pos) || s.blockedOp o then issueOps rest { s with ops := s.ops ++ [o] } ws
    else
      match s.performOp o with
      | .ok s new => issueOps rest s (ws ++ new)
      | .wait => issueOps rest { s with ops := s.ops ++ [o] } ws
      | .diverged s => .diverged s

/-- The instruction has issued, with what its accesses have returned so far, or has failed its context (R59). -/
def perfRes (s : State) (dsts : List WReg) : Perf → LaneRes
  | .ok s' ws => .issued s' { n := 0, dsts := dsts, writes := ws }
  | .wait => .hold s
  | .diverged s' => .requeue s'

/-- The access of one lane of `ATOS` (R345). -/
def atosOp (s : State) (wide : Bool) (op : AtomOp) (d : Dst) (at_ p x cmp : Nat) : LaneOp :=
  let n := if wide then 8 else 4
  let spot := scratchSpot s at_ n
  { team := s.cur, ins := s.team.nextIns, pos := p, va := at_, bytes := n, pa := 0, tier := 0, dev := 0, keys := []
    core := (s.block.share spot.1).core, act := .atom op x cmp d, awaited := true, strong := true, spad := some spot }

/-- `ATOS`: the lanes in ascending position (R91, R345), each logged and held on its own (R59, R177, R180). -/
def execAtos (c : Ctl) (wide : Bool) (op : AtomOp) (o : Order) (sc : Scope) (d : Dst) (a x cmp : Src) (s : State) : Out :=
  laneIssue (.atos c wide op o sc d a x cmp) c (fun s t r ex =>
    let n := if wide then 8 else 4
    let at_ (p : Nat) : Nat := (src32 t r p a).toNat
    match laneFaults (ex.map (fun p => (p, scratchCheck s (at_ p) n true))) with
    | some tr => .trap tr
    | none =>
      releaseAfter o ex s (fun s =>
        let s := s.countReplay (ex.map (fun p => (p, wordsOf (scratchSpot s (at_ p) n) n)))
        let ops := ex.map (fun p => atosOp s wide op d (at_ p) p (dataOf t r p wide (atomFloat op) x) (dataOf t r p wide false cmp))
        perfRes s (laneWrites (.atos c wide op o sc d a x cmp)) (issueOps ops s []))) s

/-! ### Global accesses (R169, R336, R338, R346 to R351) -/

/-- Insert a number into a rising list without repeats. -/
def insertNat (x : Nat) : List Nat → List Nat
  | [] => [x]
  | y :: rest => if x < y then x :: y :: rest else if x = y then y :: rest else y :: insertNat x rest

/-- The distinct 4 KiB units of the aligned addresses, ascending (R169, R338). -/
def unitsOf (n : Nat) (vas : List Nat) : List Nat := ((vas.filter (fun v => v % n == 0)).map (· / 4096)).foldl (fun acc u => insertNat u acc) []

/-- Translate units, each once (R169). -/
def translateUnits (w : Who) (k : Access) : List Nat → State → List (Nat × Xl) × State
  | [], s => ([], s)
  | u :: rest, s =>
    let (x, s) := s.translate w (BitVec.ofNat 64 (u * 4096)) k
    let (xs, s) := translateUnits w k rest s
    ((u, x) :: xs, s)

/-- What a global access of a lane is, for the checks of R350 and R351; whether its instruction completes only when it has performed
(R337), and whether it carries an order that is not relaxed (R204). -/
structure GlobalUse where
  bytes : Nat
  use : Use
  mc : Bool                              -- the multicast form
  awaited : Bool
  strong : Bool
  deriving DecidableEq, Repr, Inhabited

/-- Where a lane's access is performed: physical address, tier, device, the key of its bytes. -/
structure Spot where
  pa : Nat
  tier : Nat
  dev : Nat
  key : Nat
  deriving DecidableEq, Repr, Inhabited

/-- The outcome of a lane's address: a place, a page-fault detail, migrating, or a gate. -/
inductive Place where
  | spot (x : Spot)
  | fault (detail : Nat)
  | migrating
  | gate
  deriving DecidableEq, Repr, Inhabited

/-- The place found, where one was. -/
def Place.spotOf : Place → Spot
  | .spot x => x
  | _ => default

/-- The detail of the page fault of an access of the multicast form, or none where it passes the checks of R350: the leaf has the
multicast bit and is local, and every member can be reached. -/
def multicastFault (s : State) (c tier dev : Nat) (mc : Bool) : Option Nat :=
  if !(mc && tier == 0) then some 1
  else if ((s.ctxAt c).members dev).all (fun d => s.reachable d) then none
  else some 0x11

/-- The place of a lane's address, from the translation of its unit (R350, R351). -/
def placeOf (s : State) (xs : List (Nat × Xl)) (g : GlobalUse) (va : Nat) : Place :=
  let c := teamCtx s.cur
  let hit : Option Xl := (List.find? (fun (e : Nat × Xl) => e.1 == va / 4096) xs).map (·.2)
  match hit with
  | none => .fault 0
  | some (.fault d) => .fault d
  | some .migrating => .migrating
  | some .gate => .gate
  | some (.ok pa tier dev mc) =>
    let pa := pa + va % 4096
    if g.mc then
      match multicastFault s c tier dev mc with
      | some d => .fault d
      | none => .spot { pa := pa, tier := tier, dev := dev, key := physKey s (ctxVf c) pa 0 0 }
    else
      match s.place c pa tier dev mc g.use with
      | .error d => .fault d
      | .ok key => .spot { pa := pa, tier := tier, dev := dev, key := key }

/-- The checks of one lane's global access, in the order of R338. -/
def globalCheck (s : State) (xs : List (Nat × Xl)) (g : GlobalUse) (va : Nat) : LaneCheck :=
  let w := g.use != .read
  if va % g.bytes ≠ 0 then .bad 0x05 0x00 (BitVec.ofNat 64 va)
  else
    match placeOf s xs g va with
    | .fault d => .bad 0x07 (d + (if w then 0x20 else 0)) (BitVec.ofNat 64 va)
    | .spot _ =>
      match s.globalLock s.team.core (teamAsid s.cur) va g.bytes w with
      | some k => .bad 0x06 k (BitVec.ofNat 64 va)
      | none => .ok
    | _ => .ok

/-- The order in which the lanes of one global access perform: its turn says which (R199, DESIGN CHOICE, log 6). -/
def laneSeq (s : State) (ex : List Nat) : List Nat :=
  let first := (s.laneOrder.filter (fun p => ex.contains p)).eraseDups
  first ++ ex.filter (fun p => !first.contains p)

/-- The keys of the bytes that a lane's access reaches: those of every copy of a multicast page, or its own (R350). -/
def spotKeys (s : State) (g : GlobalUse) (w : Spot) : List Nat :=
  let c := teamCtx s.cur
  if g.mc then ((s.ctxAt c).members w.dev).map (fun d => physKey s (ctxVf c) w.pa 1 d) else [w.key]

/-- The access of one lane of the instruction that the current team issues (R198). One with an order that is not relaxed performs before
its instruction completes and before any later lane instruction of the team issues (R205, DESIGN CHOICE, log 50). -/
def laneOp (s : State) (g : GlobalUse) (va p : Nat) (w : Spot) (act : LaneAct) : LaneOp :=
  { team := s.cur, ins := s.team.nextIns, pos := p, va := va, bytes := g.bytes, pa := w.pa, tier := w.tier, dev := w.dev
    keys := spotKeys s g w, core := s.team.core, act := act, awaited := g.awaited || g.strong, strong := g.strong
    page := s.pageBits s.who (BitVec.ofNat 64 va) }

/-- Issue a global access: every lane is checked before any performs; `gated` says that a provisional block may not go on
(R54, R338, R339). -/
def globalIssue (i : Instr) (g : GlobalUse) (va : Nat → Nat) (gated : Bool) (act : Nat → LaneAct) (s : State) (ex : List Nat) :
    LaneRes :=
  let k : Access := if g.use = .read then .read else .write
  let (xs, s') := translateUnits s.who k (unitsOf g.bytes (ex.map va)) s
  let at_ (p : Nat) : Place := placeOf s' xs g (va p)
  match laneFaults (ex.map (fun p => (p, globalCheck s' xs g (va p)))) with
  | some tr => .trapIn s' tr
  | none =>
    if (gated && !ex.isEmpty) || ex.any (fun p => at_ p == .gate) then .gate
    else
      match ex.find? (fun p => at_ p == .migrating) with
      | some p =>
        .hold (s.holdFor { cause := 0x07, detail := 2 + (if g.use = .read then 0 else 0x20), addr := BitVec.ofNat 64 (va p)
                           lanes := maskOf (ex.filter (fun q => at_ q == .migrating)), lane := p })
      | none =>
        let spot (p : Nat) : Spot := (at_ p).spotOf
        if ex.any (fun p => (spotKeys s' g (spot p)).any noMemory) then .stop .noSuchMemory
        else
          let ops := (laneSeq s ex).map (fun p => laneOp s' g (va p) p (spot p) (act p))
          let issue (s' : State) : LaneRes := perfRes s (laneWrites i) (issueOps ops s' [])
          if g.strong && !ex.isEmpty then laneDrained s' issue else issue s'

/-- The address of `GLD` and `GST` (R336). -/
def globalVa (t : Team) (r : Active) (p : Nat) (a y : Src) : Nat := (src64 t r p a + (src32 t r p y).signExtend 64).toNat

/-- `GLD` (R346). -/
def execGld (c : Ctl) (h : Hint) (wide : Bool) (o : Order) (sc : Scope) (d : Dst) (a y : Src) (s : State) : Out :=
  laneIssue (.gld c h wide o sc d a y) c (fun s t r ex =>
    let n := if wide then 8 else 4
    let va (p : Nat) : Nat := globalVa t r p a y
    globalIssue (.gld c h wide o sc d a y) { bytes := n, use := .read, mc := false, awaited := true, strong := o != .rlx } va
      (s.block.prov && !ex.all (fun p => s.isStable (va p) n)) (fun _ => .read d) s ex) s

/-- `GST` (R347, R350). -/
def execGst (c : Ctl) (h : Hint) (wide mc : Bool) (o : Order) (sc : Scope) (a y x : Src) (s : State) : Out :=
  laneIssue (.gst c h wide mc o sc a y x) c (fun s t r ex =>
    globalIssue (.gst c h wide mc o sc a y x)
      { bytes := if wide then 8 else 4, use := .write, mc := mc, awaited := false, strong := o != .rlx }
      (fun p => globalVa t r p a y) s.block.prov (fun p => .write (dataOf t r p wide false x)) s ex) s

/-- The operations that host memory performs (R351). -/
def hostAtom (op : AtomOp) (returns : Bool) : Bool := op == .add || (returns && (op == .swap || op == .cas))

/-- `GATOM` (R348). -/
def execGatom (c : Ctl) (h : Hint) (wide : Bool) (op : AtomOp) (o : Order) (sc : Scope) (d : Dst) (a x cmp : Src) (s : State) : Out :=
  laneIssue (.gatom c h wide op o sc d a x cmp) c (fun s t r ex =>
    globalIssue (.gatom c h wide op o sc d a x cmp)
      { bytes := if wide then 8 else 4, use := .atomic (hostAtom op true), mc := false, awaited := true, strong := o != .rlx }
      (fun p => (src64 t r p a).toNat) s.block.prov
      (fun p => .atom op (dataOf t r p wide (atomFloat op) x) (dataOf t r p wide false cmp) d) s ex) s

/-- `GRED` (R349, R350). -/
def execGred (c : Ctl) (h : Hint) (wide mc : Bool) (op : AtomOp) (o : Order) (sc : Scope) (a x : Src) (s : State) : Out :=
  laneIssue (.gred c h wide mc op o sc a x) c (fun s t r ex =>
    globalIssue (.gred c h wide mc op o sc a x)
      { bytes := if wide then 8 else 4, use := .atomic (hostAtom op false), mc := mc, awaited := false, strong := o != .rlx }
      (fun p => (src64 t r p a).toNat) s.block.prov
      (fun p => .atom op (dataOf t r p wide (atomFloat op) x) 0 .discard) s ex) s

/-! ### `XFER` and `FENCE` (R352 to R354) -/

/-- The checks of one row, in the order of R338: misalignment of the global and the scratchpad address, then bounds in the
issuing core's own allocation. -/
def rowCheck (s : State) (g sp n : Nat) : LaneCheck :=
  if g % 4 ≠ 0 then .bad 0x05 0x00 (BitVec.ofNat 64 g)
  else if sp % 4 ≠ 0 then .bad 0x05 0x00 (BitVec.ofNat 64 sp)
  else
    match s.scratchAt sp n with
    | some (ci, _) => if ci = s.shareIdx s.cur then .ok else .bad 0x04 0x00 (BitVec.ofNat 64 sp)
    | none => .bad 0x04 0x00 (BitVec.ofNat 64 sp)

def hintCode : Hint → BitVec 2
  | .normal => 0
  | .stream => 1
  | .noAlloc => 2
  | .bypass => 3

/-- `XFER` (R352, R353): its rows hold their offset in the scratchpad and their global address. It registers its range locks, and waits
at issue while it cannot (R172). -/
def execXfer (c : Ctl) (h : Hint) (out : Bool) (ch rb : Nat) (a base stride : Src) (s : State) : Out :=
  laneIssue (.xfer c h out ch rb a base stride) c (fun s t r ex =>
    let n := 32 * (rb + 1)
    let g (p : Nat) : Nat := (src64 t r p a).toNat
    let sp (p : Nat) : Nat := (src32 t r p base).toNat + p * (src32 t r p stride).toNat
    if ex.isEmpty then .issued s { n := 0 }
    else if s.kernel.chans ≤ ch then .trap (illegalLane t 0x5C)
    else if (src32 t r 0 stride).toNat < n then .trap (illegalLane t 0x60)
    else
      match laneFaults (ex.map (fun p => (p, rowCheck s (g p) (sp p) n))) with
      | some tr => .trap tr
      | none =>
        if s.block.prov && (out || !ex.all (fun p => s.isStable (g p) n)) then .gate
        else if s.chanFull ch then .hold s
        else
          let rows := ex.map (fun p => (sp p % 2 ^ 24, g p))
          let gs := ex.map g
          let body : CmdBody := .xfer out (hintCode h) n rows (sp (ex.headD 0) % 2 ^ 24) (sp (ex.getLastD 0) % 2 ^ 24 + n)
            (gs.foldl min (gs.headD 0)) (gs.foldl max 0 + n)
          let ref : ChanRef := { blk := teamBlock s.cur, ci := s.shareIdx s.cur, ch := ch }
          let new := cmdLocks s ref (s.nextCmd [] body) []
          if !s.locksFit new || s.aheadConflicts ref new || new.any (fun e => s.opsMeet s.cur e.1 e.2) then
            .hold s.waitBegins
          else .issued (((s.waitDone s.cur).addLocks new).enqueue ch [] body) { n := 0 }) s

/-- `FENCE`: an event of the team, whatever the mask and guards (R354). The accesses that the team has issued perform before it (DESIGN
CHOICE, log 50); scratchpad accesses perform at their issue (DESIGN CHOICE, log 2). -/
def execFence (c : Ctl) (o : Order) (sc : Scope) (s : State) : Out :=
  laneIssue (.fence c o sc) c (fun s _ _ _ => laneDrained s (fun s => .issued s { n := 0 })) s

end Sys2Proof.Machine
end

