-- ==== Sys2Proof/Machine/ScalarLevels.lean ====
section
/-! DEFINITION. `LAUNCH`, the level instructions, and allocation (R289 to R293). -/

namespace Sys2Proof.Machine

/-- The unfinished device launches of a context (R290). -/
def State.deviceLaunches (s : State) (c : Nat) : Nat :=
  (s.launches.filter (fun e => launchCtx e.1 == c && e.2.device && e.2.st != .ended)).length

/-- A `LAUNCH` waits until what it reads of an image or a table has migrated; its hold begins anew after one of its record (R166, R290). -/
def State.holdImage (s : State) : State :=
  let t := s.team
  s.setTeam { t with hold := some (if t.holdTrap.isNone then t.hold.getD s.clock else s.clock), rewalk := false, holdTrap := none }
/-- The hold of the current team's `LAUNCH` has lasted longer than the migration limit: the read fails, and the launch is refused. -/
def State.imageLimit (s : State) : Bool :=
  let t := s.team
  t.holdTrap.isNone && t.hold.any (fun z => s.pastLimit (teamVf s.cur) z)

/-- `LAUNCH` (R289, R290). -/
def execLaunch (d a : SReg) (s : State) : Out :=
  let t := s.team
  let at_ := t.sreg a
  let c := teamCtx s.cur
  if at_.toNat % 64 ≠ 0 then scalarTrap s 0x05 0x00 at_
  else if s.block.prov then gateHere s
  else if !s.settled then scalarWait s
  else if 4096 ≤ s.deviceLaunches c then scalarWait s
  else
    match s.translate s.who at_ .read with
    | (.ok pa tier dev mc, s) =>
      match s.place c pa tier dev mc .read with
      | .error k => scalarTrap s 0x07 k at_
      | .ok key =>
        if noMemory key then .fault .noSuchMemory
        else
          let r := launchRec (s.mem.readNat key 64)
          if s.imageHeld c r && !s.imageLimit then .next s.holdImage
          else
          let x := s.launch
          let ident := s.ctx.nextLaunch
          let s := s.updGraph x.job x.phase x.graph (fun g => { g with ctr := { g.ctr with expected := g.ctr.expected + 1 } })
          let s := s.submitLaunch c x.job x.phase x.graph r [] true
          scalarDone s (s.team.setSreg d (BitVec.ofNat 64 ident))
    | (x, s) => scalarXl s x 0 at_

/-! ### Levels (R291) -/

/-- The launch that sA names: the team's own for -1, or an assigned identity of its context. -/
def levelLaunch (s : State) (x : Word64) : Option Nat :=
  if x = 0xFFFFFFFFFFFFFFFF then some (teamLaunch s.cur)
  else if 2 ^ 32 ≤ x.toNat ∨ s.ctx.nextLaunch ≤ x.toNat then none
  else some (launchKey (teamCtx s.cur) x.toNat)

/-- The level of launch `l` contains the team's own launch. -/
def ownLevel (s : State) (lv : LevelKind) (l : Nat) : Bool :=
  let x := s.launch
  let y := s.launchAt l
  match lv with
  | .launch => l == teamLaunch s.cur
  | .graph => x.job == y.job && x.phase == y.phase && x.graph == y.graph
  | .phase => x.job == y.job && x.phase == y.phase
  | .job => x.job == y.job

/-- `LSTAT` (R291). -/
def execLstat (lv : LevelKind) (d a : SReg) (s : State) : Out :=
  match levelLaunch s (s.team.sreg a) with
  | none => scalarTrap s 0x01 0x40 0
  | some l =>
    if s.block.prov then gateHere s
    else scalarDone s (s.team.setSreg d (s.levelCounter l lv).view)

/-- `LWAIT` (R291). -/
def execLwait (lv : LevelKind) (d a : SReg) (s : State) : Out :=
  match levelLaunch s (s.team.sreg a) with
  | none => scalarTrap s 0x01 0x40 0
  | some l =>
    if ownLevel s lv l then scalarTrap s 0x01 0x41 0
    else if s.block.prov then gateHere s
    else if s.levelCompleted l lv then scalarDone s (s.team.setSreg d (s.levelCounter l lv).view)
    else scalarWait s

/-- `LCANCEL` (R189, R291): when the level holds the team's own launch, the team goes no further. -/
def execLcancel (lv : LevelKind) (a : SReg) (s : State) : Out :=
  match levelLaunch s (s.team.sreg a) with
  | none => scalarTrap s 0x01 0x40 0
  | some l =>
    if s.block.prov then gateHere s
    else
      let own := ownLevel s lv l && decide ((s.levelCounter l lv).status < 2)
      let s := s.cancelLevel l lv
      scalarDone s { s.team with cancelDue := own }

/-! ### Allocation (R292, R293) -/

/-- `GALLOC` (R292). -/
def execGalloc (d a : SReg) (s : State) : Out :=
  let t := s.team
  let n := (t.sreg a).toNat
  let c := teamCtx s.cur
  if s.block.prov then gateHere s
  else if n = 0 ∨ 2 ^ 32 < n then scalarDone s (t.setSreg d 0)
  else
    let pages := (n + 4095) / 4096
    let (k, s) := s.takeFresh
    match s.poolTake c pages, s.allocBase c pages (Config.gallocPage k) with
    | some (ps, s), some base =>
      let s := (List.range pages).foldl (fun s i => (s.zeroPage (ps.getD i 0)).mapPage c (base + 4096 * i) (ps.getD i 0)) s
      let x := s.ctxAt c
      let s := s.setCtxAt c { x with allocs := x.allocs ++
        [{ base := base, pages := ps, launch := teamLaunch s.cur, block := blockIndex (teamBlock s.cur) }] }
      let s := s.rewalkCtx c
      scalarDone s (s.team.setSreg d (BitVec.ofNat 64 base))
    | _, _ => scalarDone s (t.setSreg d 0)

/-- `GFREE` (R293): it completes once no range lock lies over the allocation and every access to it has performed (R168, R214). -/
def execGfree (a : SReg) (s : State) : Out :=
  let t := s.team
  let c := teamCtx s.cur
  let at_ := (t.sreg a).toNat
  match s.ctx.allocs.find? (fun al => al.base == at_ && al.launch == teamLaunch s.cur && al.block == blockIndex (teamBlock s.cur)) with
  | none => scalarTrap s 0x01 0x42 0
  | some al =>
    if s.allocLocked c al then scalarWait s
    else
      let s := s.retract c al
      scalarDone s s.team

end Sys2Proof.Machine
end

