-- ==== Sys2Proof/Machine/Domain.lean ====
section
/-! DEFINITION. The device in its domain and against time: shoot-downs, heartbeats and links, fencing off, accesses of outside
agents, the timebase and the current limiter (R27, R166, R168, R193, R212 to R217, R405, R419, R420, R425). -/

namespace Sys2Proof.Machine

/-! ### Fencing off (R214, R419, R420) -/

/-- The virtual functions that have a live context. -/
def State.liveVfs (s : State) : List Nat := (List.range 16).filter (fun v => decide (0 < (s.vfAt v).live))

/-- Post one event to every virtual function with a live context (DEDUCED, log 29). -/
def State.postAll (s : State) (e : Event) : State := s.liveVfs.foldl (fun s v => s.post v e) s

/-- A shoot-down or an `ICINV` without one of the devices that it waits for. -/
def Shoot.without (x : Shoot) (dev : Nat) : Shoot := { x with await := x.await.filter (fun d => d != dev) }
/-- A shoot-down under way that a device has acknowledged, or counts as having acknowledged. -/
def TlbInv.without (x : TlbInv) (own dev : Nat) : TlbInv :=
  { x with devs := x.devs.filter (fun d => d != dev), waiting := x.waiting && dev != own }
/-- Some device has still to acknowledge the shoot-down. -/
def TlbInv.open_ (x : TlbInv) : Bool := x.waiting || !x.devs.isEmpty

/-- A device counts as having acknowledged whatever this device has asked of it (R214). -/
def State.countAcked (s : State) (dev : Nat) : State :=
  { s with
    teams := s.teams.mapVals (fun _ t => { t with shoots := t.shoots.map (fun x => x.without dev), icinv := t.icinv.map (fun x => x.without dev) })
    tlbinvs := (s.tlbinvs.map (fun x => if x.origin.isNone then x.without s.ownDevice dev else x)).filter TlbInv.open_ }

/-- The key lies in the memory of another device, or of a given one. -/
def remoteKey (k : Nat) : Bool := decide (2 ^ 50 ≤ k) && decide (k < 2 ^ 64)
def keyOf (dev k : Nat) : Bool := k / 2 ^ 50 == 1 + dev

/-- A device is fenced off here: its routes are closed, the writes to its memory that have not performed fail, pending shoot-downs
count it as acknowledged, and the host is told (R214, R220, R420). A read translated before and not yet performed still returns the
bytes of that memory (DESIGN CHOICE, log 16). -/
def State.fenceOff (s : State) (dev : Nat) : State :=
  if s.fenced.contains dev then s
  else
    let s : State :=
      { s.countAcked dev with
        fenced := s.fenced ++ [dev]
        ops := s.ops.flatMap (fun o => o.doomAt (keyOf dev)) }
    s.postAll
      { code := 0x0006, detail := BitVec.ofNat 64 dev }

/-- The device isolates itself: every Dravnis port closes, and no other device answers any more (R420, DEDUCED, log 16). The writes to
other devices that have not performed fail as late writes do (R214, R220, R234); a read of another device's memory that was translated
before still returns (DESIGN CHOICE, log 16). -/
def State.isolate (s : State) : State :=
  if s.isolated then s
  else
    let s : State :=
      { s with
        isolated := true
        linkDown := 0xFFFF
        ops := s.ops.flatMap (fun o => o.doomAt remoteKey)
        teams := s.teams.mapVals (fun _ t => { t with icinv := t.icinv.map (fun x => { x with await := [] }) }) }
    s.postAll { code := 0x0010 }

/-- This device declares another failed and broadcasts a fence notice; itself it isolates, and counts as having acknowledged (R214,
R420). -/
def State.declareFailed (s : State) (dev : Nat) : State :=
  if s.fenced.contains dev then s
  else if dev = s.ownDevice then (s.countAcked dev).isolate
  else { (s.fenceOff dev) with noticesOut := s.noticesOut ++ [dev] }

/-- The other devices whose every permitted port is down (R422, DEDUCED, log 34). -/
def State.cutOff (s : State) : List Nat :=
  (List.range s.routes.length).filter (fun d => d != s.ownDevice && s.routes.getD d 0 != 0 && s.routes.getD d 0 &&& ~~~ s.linkDown == 0)

/-- Every device whose every permitted port is down is declared failed (R419, R422). -/
def State.declareCutOff (s : State) : State := s.cutOff.foldl (fun s d => s.declareFailed d) s

/-- A port is down (R419). -/
def State.portDown (s : State) (port : Nat) : State :=
  { s with linkDown := s.linkDown ||| BitVec.twoPow 16 port }.declareCutOff

/-- The port works: it has trained, once the device has its number and a routing table, and is not down (R419, R426, DEDUCED,
log 34). -/
def State.portUp (s : State) (port : Nat) : Bool :=
  decide (port < 16) && s.devNumber.getLsbD 63 && !s.routes.isEmpty && !s.linkDown.getLsbD port && !s.isolated

/-- A port sends its heartbeat flit and receives that of the other end (R419). -/
def execHeartbeat (port : Nat) (s : State) : Out :=
  if s.portUp port then
    .next { s with heartbeats := listUpd s.heartbeats port (· + 1), misses := listUpd s.misses port (fun _ => 0) }
  else notDue s

/-- A port misses a heartbeat; the sixteenth in a row brings it down (R419). -/
def execHeartbeatMiss (port : Nat) (s : State) : Out :=
  if s.portUp port then
    let n := s.misses.getD port 0 + 1
    let s := { s with misses := listUpd s.misses port (fun _ => n) }
    .next (if 16 ≤ n then s.portDown port else s)
  else notDue s

/-- A port loses its link (R419). -/
def execLinkDown (port : Nat) (s : State) : Out := if s.portUp port then .next (s.portDown port) else notDue s

/-- A fence notice arrives (R420): it names another device, or this one. A second one has no effect. -/
def execFenceNotice (dev : Nat) (s : State) : Out := .next (if dev = s.ownDevice then s.isolate else s.fenceOff dev)

/-! ### Shoot-downs (R166, R168, R213, R214, R217) -/

/-- A TLB entry matches a shoot-down (R168). -/
def TlbInv.hits (x : TlbInv) (e : TlbEntry) : Bool :=
  e.vf == x.vf &&
    (match x.form with
    | 0 => (if e.glob then x.glob else e.asid == x.asid) && overlaps e.page (e.page + 2 ^ e.bits) x.lo x.hi
    | 1 => if e.glob then x.glob else e.asid == x.asid
    | _ => true)

/-- A walk-cache entry covers part of the range of a shoot-down (R168). Its tag holds the bits [56:21 + 9n]. -/
def TlbInv.hitsWalk (x : TlbInv) (e : WalkEntry) : Bool :=
  e.vf == x.vf &&
    (match x.form with
    | 0 => e.asid == x.asid &&
        overlaps (e.tag * 2 ^ (21 + 9 * e.level)) ((e.tag + 1) * 2 ^ (21 + 9 * e.level)) (x.lo % 2 ^ 57) (x.hi - x.lo + x.lo % 2 ^ 57)
    | 1 => e.asid == x.asid
    | _ => true)

/-- The virtual addresses that a shoot-down names: whole pages, those of the entries removed among them, or all (R300). -/
def TlbInv.ranges (x : TlbInv) : List (Nat × Nat) := if x.form = 0 then pageRange x.lo x.hi :: x.spans else [(0, 2 ^ 80)]

/-- Accesses and range locks that hold back the acknowledgement: of every address space of the virtual function where global entries
are named (R168). -/
def State.shootLocked (s : State) (x : TlbInv) : Bool :=
  s.lockedOver x.vf (if x.form < 2 ∧ !x.glob then some x.asid else none) x.ranges

/-- The pages of the entries that a shoot-down removes here. -/
def State.hitPages (s : State) (x : TlbInv) : List (Nat × Nat) :=
  s.cores.flatMap (fun e => (e.2.tlb.filter x.hits).map (fun y => (y.page, y.page + 2 ^ y.bits)))

/-- A device has acknowledged a shoot-down of a team of this device. -/
def State.acknowledge (s : State) (x : TlbInv) (dev : Nat) : State :=
  s.setTeamAt x.team
    { s.teamAt x.team with shoots := (s.teamAt x.team).shoots.map (fun y => if y.uid = x.uid then y.without dev else y) }

/-- The entries that a shoot-down names leave every core, and held accesses may walk again (R166, R168). -/
def State.removeEntries (s : State) (x : TlbInv) : State :=
  { s with
    cores := s.cores.mapVals (fun _ c =>
      { c with tlb := c.tlb.filter (fun e => !x.hits e), walk := c.walk.filter (fun e => !x.hitsWalk e) }) }.rewalkWhere (fun _ => true)

/-- A device acknowledges: this device to the one that sent the shoot-down, or a device to this one's team, unless the team has left the
machine. -/
def State.ackIf (s : State) (x : TlbInv) (dev : Nat) : State :=
  match x.origin with
  | some d => { s with outbox := s.outbox ++ [.shot d x.uid] }
  | none => if s.teams.has x.team then s.acknowledge x dev else s

/-- The next arrival of one shoot-down: at this device, where the acknowledgement waits for range locks; then at each other
device in turn, which answers for itself (DEDUCED, log 16). -/
def arriveOne (s : State) (x : TlbInv) : Option (State × Option TlbInv) :=
  if x.devs.contains s.ownDevice then
    let x := { x with spans := s.hitPages x, devs := x.devs.filter (fun d => d != s.ownDevice) }
    let s' := s.removeEntries x
    if s'.shootLocked x then some (s', some { x with waiting := true })
    else some (s'.ackIf x s.ownDevice, if x.devs.isEmpty then none else some x)
  else if x.waiting && !s.shootLocked x then
    some (s.ackIf x s.ownDevice, if x.devs.isEmpty then none else some { x with waiting := false })
  else
    match x.devs with
    | [] => none
    | d :: rest =>
      if s.reachable d then some (s.ackIf x d, if rest.isEmpty && !x.waiting then none else some { x with devs := rest }) else none

/-- The first shoot-down that can arrive somewhere. -/
def arriveFirst (s : State) : List TlbInv → Option (State × List TlbInv)
  | [] => none
  | x :: rest =>
    match arriveOne s x with
    | some (s', y) => some (s', y.toList ++ rest)
    | none => (arriveFirst s rest).map (fun r => (r.1, x :: r.2))

/-- A shoot-down arrives at a device, which removes its entries and acknowledges it. -/
def execTlbinvArrival (s : State) : Out :=
  match arriveFirst s s.tlbinvs with
  | none => notDue s
  | some (s', xs) => .next { s' with tlbinvs := xs }

/-- The devices that have not acknowledged a team's shoot-downs within the timeout of its virtual function (R214). -/
def silentDevices (s : State) (k : Nat) : List Nat :=
  ((s.teamAt k).shoots.filter (fun x =>
    decide (1800 * (s.setSince (teamVf k) x.since).shoot < (s.clock - x.since).toNat))).flatMap (·.await)

/-- A shoot-down of a team has not been acknowledged in time: the silent devices are fenced off. -/
def execShootdownTimeout (team : Nat) (s : State) : Out := .next ((silentDevices s team).foldl (fun s d => s.declareFailed d) s)

/-! ### Accesses of outside agents (R212, R351, R404, R405) -/

/-- A value goes back to the agent that reads it. -/
def State.reply (s : State) (bs : List Byte) : State := { s with outbox := s.outbox ++ [.value bs] }

/-- Perform an access of an outside agent at a physical address of local memory; `room` bytes can be reached from `base` up. A read and
an atomic operation return what they found. -/
def outsideAccess (s : State) (base room : Nat) (x : OutsideAccess) : State :=
  match x with
  | .write a bs => if a + bs.length ≤ room then s.gwrite (base + a) bs else s
  | .read a n => if a + n ≤ room then s.reply (s.mem.slice (base + a) n) else s
  | .atom op wide a y cmp =>
    let n := if wide then 8 else 4
    if a % n = 0 ∧ a + n ≤ room then
      let (s, old) := atomAt s op wide (base + a) (y.toNat % 2 ^ (8 * n)) (cmp.toNat % 2 ^ (8 * n))
      s.reply (leBytes n old)
    else s

/-- The address of an access. -/
def accessAddr : OutsideAccess → Nat
  | .write a _ => a
  | .read a _ => a
  | .atom _ _ a _ _ => a

/-- A request of another device at an ordered region of its context: this device records it, or holds it to the log (R180). -/
def State.peerRequest (s : State) (dev addr : Nat) (r : Option Requester) : Replay :=
  match r with
  | none => .serve s
  | some r =>
    let unit := homeDie addr
    s.serveEntry (ctxKey r.vf r.asid) unit (spoorRecord 0 r.region unit r.team dev r.req r.block r.launch)

/-- A request of another device is performed at the home slice (R351), its record first (R180). -/
def execPeerDeviceAccess (dev : Nat) (x : PeerAccess) (s : State) : Out :=
  if dev != s.ownDevice && s.reachable dev then
    match s.peerRequest dev (accessAddr x.access) x.requester with
    | .serve s => .next (outsideAccess s 0 localSize x.access)
    | .wait => notDue s
    | .diverged => .next (s.diverge (ctxKey ((x.requester.map (·.vf)).getD 0) ((x.requester.map (·.asid)).getD 0)))
  else notDue s

/-- The atomic operations of a host (R404, DEDUCED, log 31). -/
def hostOp (x : OutsideAccess) : Bool :=
  match x with
  | .atom op .. => op == .add || op == .swap || op == .cas
  | _ => true

/-- The markhor core runs: it applies the configuration as the second step of start-up (R426). -/
def State.markhorUp (s : State) : Bool := decide (2 ≤ s.bootStep)
/-- The physical functions are presented and every virtual function has its identity and defaults: the part's own start-up is over
(R423, R426). -/
def State.started (s : State) : Bool := decide (3 ≤ s.bootStep)
/-- A virtual function can be reached by its host, which has enabled SR-IOV on its physical function (R423, R426). -/
def State.vfUp (s : State) (vf : Nat) : Bool := decide (vf < 16) && s.started && s.sriov.getLsbD (s.vfAt vf).port

/-- A host access through BAR2 of a virtual function (R212, R405). -/
def execHostBar2Access (vf : Nat) (x : OutsideAccess) (s : State) : Out :=
  if s.vfUp vf && hostOp x then .next (outsideAccess s (s.allotBase vf) (s.allotSize vf) x) else notDue s

/-! ### The timebase and the current limiter (R27, R193, R425) -/

/-- The supply current exceeds the rating. -/
def execCurrentLimiter (s : State) : Out := .next { s with limiting := true }
/-- The supply current is back within the rating. -/
def execCurrentBackWithinRating (s : State) : Out := .next { s with limiting := false }
/-- A run of a virtual function is granted on some datapath of a core. -/
def State.activeOn (s : State) (c vf : Nat) : Bool := (s.coreAt c).dps.any (fun d => teamVf d.2 == vf)
/-- The array of a core is slaved as follower to an operation of a virtual function (R373). -/
def State.slavedOn (s : State) (c vf : Nat) : Bool :=
  match (s.coreAt c).arrayBusy with
  | some k => (s.teamAt k).core != c && teamVf k == vf
  | none => false
/-- Core cycles pass on a core: counters 0 and 5 (R194). How many is open, since a core's clock varies (R28, DESIGN CHOICE, log 7). -/
def State.coreTime (s : State) (c : Nat) : State :=
  let m := Config.coreCycles s.fresh
  (List.range 16).foldl (fun s v =>
    let s := if s.activeOn c v then s.count c v 0 m else s
    if s.slavedOn c v then s.count c v 5 m else s) { s with fresh := s.fresh + 1 }

/-- One cycle of the timebase (DESIGN CHOICE, log 38): `CLOCK` runs from the second step of start-up on (R426), and the runs that are
ready in the cycle are noted (R37). -/
def execTimebaseCycle (s : State) : Out :=
  .next ((s.cores.map (·.1)).foldl State.coreTime
    { s.markReady with
      clock := if s.markhorUp then s.clock + 1 else s.clock
      limiterCount := if s.limiting then s.limiterCount + 1 else s.limiterCount })

/-! ### Moves of other devices (R136, R214, R299, R420) -/

/-- A shoot-down of another device reaches this one, which is to answer it (R168, R214). -/
def State.peerShoot (s : State) (x : TlbInv) : State :=
  match x.origin with
  | some d => if s.reachable d && d != s.ownDevice then { s with tlbinvs := s.tlbinvs ++ [{ x with devs := [s.ownDevice], waiting := false, spans := [] }] } else s
  | none => s

/-- An `ICINV` of another device discards what it names in every instruction cache here, and is answered (R299). -/
def State.peerIcinv (s : State) (dev uid addr len : Nat) : State :=
  if s.reachable dev && dev != s.ownDevice then
    let s := s.discardCode (List.range s.nCores) addr len
    { s with outbox := s.outbox ++ [.discarded dev uid] }
  else s

/-- Another device answers an `ICINV` of this one (R299). -/
def State.icinvAnswer (s : State) (dev uid : Nat) : State :=
  if s.reachable dev then
    { s with teams := s.teams.mapVals (fun _ t =>
        { t with icinv := t.icinv.map (fun x => if x.uid = uid then x.without dev else x) }) }
  else s

/-- Another device has been reset: its landing queues are empty, and it rejoins with the next routing table (R136, R420). -/
def State.peerReset (s : State) (dev : Nat) : State :=
  { s with
    returned := if s.fenced.contains dev then (s.returned ++ [dev]).eraseDups else s.returned
    farCredits := s.farCredits.filter (fun e => e.1 / 256 != dev)
    farOthers := s.farOthers.filter (fun e => e.1 / 256 != dev) }

end Sys2Proof.Machine
end

