-- ==== Sys2Proof/Machine/Sha384.lean ====
section
/-! DEFINITION. SHA-384, the digest of the measurements and of the attestation (R423, R424, PRESUMED, log 33: the standard function of
that name, which the manual does not restate). Its constants are computed here from what they are, roots of primes, and not listed. -/

namespace Sys2Proof.Machine

/-- The primes among the numbers from `lo` on, `count` numbers tried. -/
def primesFrom (lo count : Nat) : List Nat :=
  (List.range' lo count).filter (fun p => (List.range' 2 20).all (fun d => p ≤ d || p % d ≠ 0))

/-- The largest number of `bits` bits whose power `k` is at most `x`, beside `top`, which already stands above those bits. -/
def rootBits (k x : Nat) : Nat → Nat → Nat
  | 0, top => top
  | bits + 1, top => rootBits k x bits (if (top + 2 ^ bits) ^ k ≤ x then top + 2 ^ bits else top)

/-- The first 64 bits after the point of the root of degree `k` of a prime below 512. -/
def rootFraction (k p : Nat) : Word64 := BitVec.ofNat 64 (rootBits k (p * 2 ^ (64 * k)) 69 0)

/-- One constant a round: from the cube roots of the 80 primes below 410. -/
def roundKeys : List Word64 := (primesFrom 2 408).map (rootFraction 3)

/-- The digest is kept as two rows of four words: the first row takes what a round makes new, the second its share of it. -/
structure ShaRows where
  upper : List Word64
  lower : List Word64
  deriving DecidableEq, Repr

/-- The words before the first block: from the square roots of the 9th to the 16th prime. -/
def ShaRows.start : ShaRows :=
  let ws := (primesFrom 23 31).map (rootFraction 2)
  { upper := ws.take 4, lower := ws.drop 4 }

/-- A word turned right by each of some amounts, the turns added without carry. -/
def turned (by' : List Nat) (x : Word64) : Word64 := by'.foldl (fun acc n => acc ^^^ x.rotateRight n) 0

/-- Numbers of bytes with the highest first. -/
def beNat (bs : List Byte) : Nat := leNat bs.reverse
def beBytes (n x : Nat) : List Byte := (leBytes n x).reverse

/-- The word that follows sixteen words of a block, the newest of them first. -/
def nextWord (newest : List Word64) : Word64 :=
  let back (k : Nat) : Word64 := newest.getD (k - 1) 0
  [back 16, turned [1, 8] (back 15) ^^^ (back 15 >>> 7), back 7, turned [19, 61] (back 2) ^^^ (back 2 >>> 6)].foldl (· + ·) 0

/-- A round: where a bit of `e` is set the bit of `f` is taken and else that of `g`, and of `a`, `b`, `c` the bit that two of them
have. -/
def ShaRows.round (r : ShaRows) (key word : Word64) : ShaRows :=
  let at' (ws : List Word64) (k : Nat) : Word64 := ws.getD k 0
  let (e, f, g) := (at' r.lower 0, at' r.lower 1, at' r.lower 2)
  let (a, b, c) := (at' r.upper 0, at' r.upper 1, at' r.upper 2)
  let fresh := [at' r.lower 3, turned [14, 18, 41] e, g ^^^ (e &&& (f ^^^ g)), key, word].foldl (· + ·) 0
  let mixed := turned [28, 34, 39] a + ((a &&& b) ||| (c &&& (a ||| b)))
  { upper := (fresh + mixed) :: r.upper.take 3, lower := (at' r.upper 3 + fresh) :: r.lower.take 3 }

/-- The rounds with the given keys; the sixteen newest words of the block stand newest first, the one in use last. -/
def ShaRows.rounds : List Word64 → List Word64 → ShaRows → ShaRows
  | [], _, r => r
  | key :: keys, newest, r => rounds keys (nextWord newest :: newest.take 15) (r.round key (newest.getD 15 0))

/-- One block of 128 bytes. -/
def ShaRows.block (r : ShaRows) (bytes : List Byte) : ShaRows :=
  let ws := (chunksOf 8 16 bytes).map (fun bs => BitVec.ofNat 64 (beNat bs))
  let out := r.rounds roundKeys ws.reverse
  { upper := r.upper.zipWith (· + ·) out.upper, lower := r.lower.zipWith (· + ·) out.lower }

/-- The message with its padding: a 1 bit, zeros, and the length in bits in 16 bytes. -/
def shaPadded (bs : List Byte) : List Byte :=
  bs ++ 0x80 :: (List.replicate ((239 - bs.length % 128) % 128) 0 ++ beBytes 16 (8 * bs.length))

/-- SHA-384 of a byte string: the first six words. -/
def sha384 (bs : List Byte) : BitVec 384 :=
  let m := shaPadded bs
  let r := (chunksOf 128 (m.length / 128) m).foldl ShaRows.block ShaRows.start
  BitVec.ofNat 384 (beNat ((r.upper ++ r.lower.take 2).flatMap (fun w => beBytes 8 w.toNat)))

/-- A digest as its 48 bytes. -/
def digestBytes (d : BitVec 384) : List Byte := beBytes 48 d.toNat

end Sys2Proof.Machine
end

