-- ==== Sys2Proof/Machine/Host.lean ====
section
/-! DEFINITION. The host and the firmware that serves it: reset and start-up, register windows, job queues, settings, the routing
table, pool regions, jobs and contexts (R404 to R423, R426, R157 to R159). -/

namespace Sys2Proof.Machine

/-! ### Reset and start-up (R423, R424, R426) -/

/-- Extend a measurement register (R424). -/
def extend (old digest : BitVec 384) : BitVec 384 := sha384 (digestBytes old ++ digestBytes digest)

/-- The image that verified boot refuses: 1 start-up configuration, 2 markhor firmware, 3 tenant firmware, or 0 (R423). -/
def refusedImage : Nat := Config.bootRefused % 4

/-- The boot status (R408, DESIGN CHOICE, log 5). -/
def bootWord : Word64 :=
  if refusedImage = 0 then 1 else BitVec.ofNat 64 (refusedImage * 2 + (1 + Config.bootReason % 3) * 16)

/-- The measurement registers once they lock: 1 the identity of Voxfort, 2 to 4 the images verified, 5 the fuses (R424). -/
def measured : List (BitVec 384) :=
  (List.range 8).map (fun i =>
    let n := i + 1
    if n = 1 ∨ n = 5 then extend 0 (Config.imageDigest n)
    else if 2 ≤ n ∧ n ≤ 4 ∧ (refusedImage = 0 ∨ n - 1 < refusedImage) then extend 0 (Config.imageDigest n)
    else 0)

/-- The interface of a host port in the start-up configuration (R20). -/
def startIface (port : Nat) : Iface :=
  match Config.startInterface port % 5 with
  | 0 => .pcie5
  | 1 => .pcie6
  | 2 => .pcie7
  | 3 => .cxl2
  | _ => .cxl3

/-- A virtual function as start-up leaves it (R405, R414). -/
def startVf (v : Nat) : VFun := { port := Config.startPort v % 2, set := { allot := Config.startAllotment v } }

/-- Reset, and the first step of start-up: Voxfort verifies and measures, and starts the markhor core unless an image is refused (R423,
R424, R426). The part's bin and form, the memories of other agents and the order of the moves still to come are not of the device's
state. -/
def execDeviceReset (s : State) : Out :=
  .next
    { State.reset with
      perDie := s.perDie
      module := s.module
      mem := s.mem.filter (fun c => decide (localSize ≤ c.1))
      bootStatus := bootWord
      measure := measured
      measureLocked := true
      bootStep := 1
      fresh := s.fresh
      laneOrder := s.laneOrder
      agenda := s.agenda }

/-- The part's own next step of start-up (R426): the markhor core applies the configuration, or starts the tenant cores, which set each
virtual function's identity and defaults. A part that has refused an image stays at the first step (DEDUCED, log 52). -/
def State.startUp (s : State) : State :=
  if s.bootStep = 1 ∧ refusedImage = 0 then
    { s with bootStep := 2, clock := 0, ifaces := [startIface 0, startIface 1], vfs := (List.range 16).map startVf }
  else if s.bootStep = 2 then { s with bootStep := 3 }
  else s

/-- A physical function is presented: both once the part's own start-up is over, or function 0 alone after a refused image (R423). -/
def State.pfUp (s : State) (pf : Nat) : Bool :=
  decide (pf < 2) && (s.started || (decide (s.bootStep = 1 ∧ refusedImage ≠ 0) && pf == 0))

/-- The host enables SR-IOV on a physical function: the virtual functions that belong to it can be reached (R426). After a refused
image none is enabled (R423). -/
def State.enableVfs (s : State) (pf : Nat) : State :=
  if s.started && decide (pf < 2) then { s with sriov := s.sriov ||| BitVec.twoPow 2 pf } else s

/-! ### Register windows as the host reads them (R406 to R408, R418) -/

/-- The identity register (R407). -/
def State.identity (s : State) : Word64 :=
  BitVec.ofNat 64 (1 + 1 * 2 ^ 8 + s.nCores % 128 * 2 ^ 16 + (if s.module then 2 ^ 31 else 0) + Config.stepping.toNat * 2 ^ 32 +
    s.ownDevice * 2 ^ 36)

/-- The settings block as 64 bytes (R415). -/
def Settings.bytes (x : Settings) : List Byte :=
  leBytes 4 x.stall ++ leBytes 4 x.shoot ++ leBytes 4 x.migrate ++ leBytes 4 x.watchdog ++ leBytes 1 x.cmin ++ leBytes 1 x.cmax ++
    leBytes 1 x.weight ++ leBytes 1 0 ++ leBytes 4 x.allot ++ leBytes 40 0

/-- A pool region register (R418). -/
def PoolRegion.word (r : PoolRegion) : Nat :=
  r.size % 2 ^ 16 * 2 ^ 14 + r.base % 2 ^ 34 * 2 ^ 30 + r.st % 4 * 2 ^ 68 + (if r.port then 2 ^ 70 else 0) + r.window % 2 ^ 16 * 2 ^ 96

/-- The byte at an offset of a virtual function's window: an offset that the table does not name reads 0 (R406). -/
def State.vfWindow (s : State) (vf off : Nat) : Byte :=
  let v := s.vfAt vf
  let at_ (base : Nat) (x : Nat) : Byte := BitVec.ofNat 8 (x / 2 ^ (8 * (off - base)))
  if off < 0x0008 then at_ 0 s.identity.toNat
  else if off < 0x0010 then at_ 0x0008 v.ringBase.toNat
  else if off < 0x0018 then at_ 0x0010 v.ringHeader.toNat
  else if off < 0x0020 then at_ 0x0018 v.ringSize.toNat
  else if off < 0x0028 then at_ 0x0020 v.ringHead.toNat
  else if 0x0100 ≤ off ∧ off < 0x0500 then at_ ((off / 16) * 16) (v.queues.getD ((off - 0x0100) / 16) {}).word
  else if 0x0500 ≤ off ∧ off < 0x0600 then at_ ((off / 4) * 4) (v.queues.getD ((off - 0x0500) / 4) {}).tail.toNat
  else if 0x0600 ≤ off ∧ off < 0x0640 then v.set.bytes.getD (off - 0x0600) 0
  else if 0x1000 ≤ off ∧ (off - 0x1000) / 256 < s.nCores then
    at_ ((off / 8) * 8) (s.perf.get (perfKey ((off - 0x1000) / 256) vf (off % 256 / 8))).toNat
  else 0

/-- The byte at an offset of a physical function's window (R408). -/
def State.pfWindow (s : State) (off : Nat) : Byte :=
  let at_ (base : Nat) (x : Nat) : Byte := BitVec.ofNat 8 (x / 2 ^ (8 * (off - base)))
  if off < 0x0008 then at_ 0 s.identity.toNat
  else if off < 0x0010 then at_ 0x0008 s.bootStatus.toNat
  else if off < 0x0018 then at_ 0x0010 s.limiterCount.toNat
  else if off < 0x0020 then at_ 0x0018 s.devNumber.toNat
  else if off < 0x0028 then at_ 0x0020 s.routeAddr.toNat
  else if off < 0x0030 then at_ 0x0028 ((if s.routeLoading then 2 else 0) + (if s.routeRefused then 4 else 0))
  else if off < 0x0038 then at_ 0x0030 Config.saveMinimum.toNat
  else if 0x0100 ≤ off ∧ off < 0x0500 then (s.vfAt ((off - 0x0100) / 64)).set.bytes.getD (off % 64) 0
  else if 0x0800 ≤ off ∧ off < 0x0C00 then at_ ((off / 16) * 16) (s.pool.getD ((off - 0x0800) / 16) {}).word
  else 0

/-! ### `REGISTER_WRITE` (R406, R408, R418) -/

/-- A write to a register of a virtual function's window: enabling the ring begins its count of entries (R158, DEDUCED, log 31). -/
def VFun.write (v : VFun) (off : Nat) (x : Word64) : VFun :=
  if off = 0x0008 then { v with ringBase := x }
  else if off = 0x0010 then { v with ringHeader := x }
  else if off = 0x0018 then
    let w : VFun := { v with ringSize := BitVec.ofNat 64 (x.toNat % 32) }
    if w.ringOn && !v.ringOn then { w with ringTail := 0 } else w
  else v

/-- A write to half of a pool region register: the fields while State is free, and the command (R418). -/
def PoolRegion.write (r : PoolRegion) (high : Bool) (x : Word64) : PoolRegion :=
  if high then
    let r : PoolRegion := if r.st = 0 then { r with port := x.getLsbD 6 } else r
    let c := x.toNat % 4
    if c = 1 ∨ c = 2 then { r with cmd := c } else r
  else if r.st = 0 then { r with size := bitsOf x.toNat 14 16, base := bitsOf x.toNat 30 34 }
  else r

/-- A host write of 8 bytes to a window: `pf` says whose window, `fn` the number of the function. Other offsets ignore it. -/
def execRegisterWrite (pf : Bool) (fn off : Nat) (x : Word64) (s : State) : Out :=
  if pf then
    if !s.pfUp fn then notDue s
    else if off = 0x0020 then .next { s with routeAddr := x }
    else if 0x0800 ≤ off ∧ off < 0x0C00 ∧ off % 8 = 0 then
      .next { s with pool := listUpd s.pool ((off - 0x0800) / 16) (fun r => r.write (off % 16 == 8) x) }
    else .next s
  else if s.vfUp fn then .next (s.setVfAt fn ((s.vfAt fn).write off x))
  else notDue s

/-! ### Doorbells, queues and counters (R157, R158, R194, R406) -/

/-- The host returns space of the event ring. -/
def execEventHeadDoorbell (vf : Nat) (x : Word32) (s : State) : Out :=
  if s.vfUp vf then .next (s.setVfAt vf { s.vfAt vf with ringHead := x.setWidth 64 }) else notDue s

/-- A size field that enables a queue or a ring (R157). -/
def sizeOk (n : Nat) : Bool := 4 ≤ n && n ≤ 16

/-- A write of a job queue register. Enabling a queue leaves Head and Tail, which only the tenant core and the doorbell write, but for
the bits beyond the entries of the new size (R136, R157, R406, DEDUCED, log 31). -/
def JobQueue.write (q : JobQueue) (ringOn : Bool) (x : BitVec 128) : JobQueue :=
  let size : BitVec 5 := x.extractLsb' 59 5
  let q : JobQueue := if x.extractLsb' 96 32 = 0 then { q with sticky := 0 } else q
  if sizeOk q.size.toNat then (if size = 0 then { q with size := 0 } else q)
  else
    let q : JobQueue := { q with base := x.extractLsb' 0 58 }
    let kept (i : BitVec 16) : BitVec 16 := BitVec.ofNat 16 (i.toNat % 2 ^ size.toNat)
    if sizeOk size.toNat && ringOn then { q with size := size, head := kept q.head, tail := kept q.tail } else { q with size := 0 }

/-- The host writes the register of a job queue. -/
def execJobQueueWrite (vf q : Nat) (x : BitVec 128) (s : State) : Out :=
  if s.vfUp vf then
    let v := s.vfAt vf
    .next (s.setVfAt vf { v with queues := listUpd v.queues q (fun y => y.write v.ringOn x) })
  else notDue s

/-- Post a queue error (R159, R411). -/
def State.queueError (s : State) (vf q ctx code : Nat) : State :=
  s.post vf { code := 0x000E, queue := q, ctx := ctx, detail := BitVec.ofNat 64 code }

/-- The host sets the tail of a job queue. -/
def execTailDoorbell (vf q : Nat) (x : BitVec 16) (s : State) : Out :=
  if !s.vfUp vf then notDue s
  else
    let v := s.vfAt vf
    let y := v.queues.getD q {}
    if !sizeOk y.size.toNat then .next s
    else if 2 ^ y.size.toNat ≤ x.toNat then .next (s.queueError vf q 0 0x0006)
    else .next (s.setVfAt vf { v with queues := listUpd v.queues q (fun z => { z with tail := x }) })

/-- The host clears a performance counter. -/
def execPerfCounterClear (vf core n : Nat) (s : State) : Out :=
  if s.vfUp vf ∧ core < s.nCores ∧ n < 32 then .next { s with perf := s.perf.set (perfKey core vf n) 0 } else notDue s

/-! ### `SETTINGS_WRITE` (R414 to R416) -/

/-- The sum of the cache minimums of the other virtual functions. -/
def State.otherMinimums (s : State) (vf : Nat) : Nat :=
  ((List.range 16).map (fun v => if v = vf then 0 else (s.vfAt v).set.cmin)).sum

/-- A value is within a range. -/
def within (lo hi x : Nat) : Bool := lo ≤ x && x ≤ hi

/-- A write of four bytes of a settings block: a field whose value lies outside its range stays (R415, DEDUCED, log 31). -/
def Settings.write4 (y : Settings) (others off x : Nat) : Settings :=
  match off with
  | 0 => if within 1000 10000000 x then { y with stall := x } else y
  | 4 => if within 100 100000 x then { y with shoot := x } else y
  | 8 => if within 100 1000000 x then { y with migrate := x } else y
  | 12 => if within 1000 60000000 x then { y with watchdog := x } else y
  | 16 =>
    let y : Settings := if x % 256 ≤ 64 ∧ x % 256 + others ≤ 64 then { y with cmin := x % 256 } else y
    let y : Settings := if within y.cmin 64 (bitsOf x 8 8) then { y with cmax := bitsOf x 8 8 } else y
    if within 1 15 (bitsOf x 16 8) then { y with weight := bitsOf x 16 8 } else y
  | _ => y

/-- The host writes 4 or 8 bytes of the settings block of a virtual function through its own physical function (R408, R415). -/
def execSettingsWrite (pf vf off bytes : Nat) (x : Word64) (s : State) : Out :=
  if !s.pfUp pf ∨ 16 ≤ vf ∨ (s.vfAt vf).port ≠ pf ∨ !(bytes == 4 || bytes == 8) ∨ off % bytes ≠ 0 then notDue s
  else
    let v := s.vfAt vf
    let y := v.set.write4 (s.otherMinimums vf) off (x.toNat % 2 ^ 32)
    let y := if bytes = 8 then y.write4 (s.otherMinimums vf) (off + 4) (x.toNat / 2 ^ 32) else y
    .next (s.setVfAt vf { v with set := y, past := v.past ++ [(s.clock, v.set)] })

/-! ### Device number and routing table (R408, R419, R422) -/

/-- The first write after reset sets the device number. -/
def execDeviceNumberWrite (x : Word64) (s : State) : Out :=
  if !s.pfUp 0 || s.devNumber.getLsbD 63 then notDue s
  else .next { s with devNumber := BitVec.ofNat 64 (x.toNat % 4096 + 2 ^ 63) }

/-- The host asks for a routing table. -/
def execLoadRoutingTable (pf : Nat) (s : State) : Out :=
  if s.pfUp pf && !s.routeLoading then .next { s with routeLoading := true, routePort := pf } else notDue s

/-- Bytes of host memory behind a port. -/
def State.hostNat (s : State) (port addr n : Nat) : Nat := s.mem.readNat (hostBase port + addr % 2 ^ 64) n

/-- The routing table that an image holds, or none where it is refused (R422). -/
def State.routeImage (s : State) : Option (List (BitVec 16)) :=
  let at_ (off n : Nat) : Nat := s.hostNat s.routePort (s.routeAddr.toNat + off) n
  let n := at_ 0 4
  if within 1 4096 n && decide (s.ownDevice < n) && at_ 4 12 == 0 then
    let t := (List.range n).map (fun k => BitVec.ofNat 16 (at_ (16 + 2 * k) 2))
    if t.getD s.ownDevice 0 = 0 then some t else none
  else none

/-- A routing table comes into force: the devices that have been reset since they were fenced off rejoin, and one that every
permitted port toward it leaves cut off is declared failed (R419, R420, R422). -/
def State.loadRoutes (s : State) (t : List (BitVec 16)) : State :=
  let s : State :=
    { s with
      routeLoading := false
      routeRefused := false
      routes := t
      fenced := s.fenced.filter (fun d => !s.returned.contains d)
      returned := [] }
  if s.isolated then s else s.declareCutOff

/-- The markhor core completes the load, or refuses it and the previous table stays in force. -/
def execRoutingLoadComplete (s : State) : Out :=
  if !s.routeLoading || !s.markhorUp then notDue s
  else
    match s.routeImage with
    | some t => .next (s.loadRoutes t)
    | none => .next { s with routeLoading := false, routeRefused := true }

/-! ### Pool regions (R19, R417, R418) -/

/-- A region may stand at a window offset: inside the window, over no region in use. -/
def State.windowFree (s : State) (size w : Nat) : Bool :=
  decide (w + size ≤ 65536) && s.pool.all (fun r => r.st == 0 || !overlaps w (w + size) r.window (r.window + r.size))

/-- The window offset for a region: a free value where it is free, else the lowest that is (DESIGN CHOICE, log 7). -/
def State.chooseWindow (s : State) (size pick : Nat) : Option Nat :=
  if s.windowFree size (pick % 65536) then some (pick % 65536)
  else (0 :: s.pool.map (fun r => r.window + r.size)).find? (fun w => s.windowFree size w)

/-- A region can be assigned (R418). -/
def State.assignable (s : State) (r : PoolRegion) : Bool :=
  r.st == 0 && r.size != 0 && s.ifaces.getD (if r.port then 1 else 0) .pcie5 == .cxl3 &&
    s.pool.all (fun y => y.st == 0 || y.port != r.port || !overlaps r.base (r.base + r.size) y.base (y.base + y.size))

/-- The markhor core acts on command 1 of a region's register. -/
def execPoolAssign (r : Nat) (s : State) : Out :=
  let x := s.pool.getD r {}
  if x.cmd ≠ 1 || !s.markhorUp then notDue s
  else
    let done (y : PoolRegion) (s : State) : State := { s with pool := listUpd s.pool r (fun _ => { y with cmd := 0 }) }
    if !s.assignable x then .next (done x s)
    else
      let (k, s) := s.takeFresh
      match s.chooseWindow x.size (Config.poolWindow k) with
      | some w => .next (done { x with st := 1, window := w } s)
      | none => .next (done x s)

/-- The markhor core acts on command 2 of a region's register. -/
def execPoolRelease (r : Nat) (s : State) : Out :=
  let x := s.pool.getD r {}
  if x.cmd ≠ 2 || !s.markhorUp then notDue s
  else .next { s with pool := listUpd s.pool r (fun y => { y with cmd := 0, st := if y.st = 1 then 2 else y.st }) }

/-- A table of level `level` leads to a leaf of tier CXL pool in the range [lo, hi) of the window; `fuel` is above the level. -/
def mapsPool (m : Memory) (lo hi : Nat) : Nat → Nat → Nat → Bool
  | 0, _, _ => false
  | fuel + 1, level, table =>
    (List.range 512).any (fun i =>
      let e := BitVec.ofNat 64 (m.readNat (table + 8 * i) 8)
      pteValid e && !pteMalformed e level &&
        (if pteLeaf e then pteTier e == 3 && overlaps (ptePhys e) (ptePhys e + 2 ^ leafBits e level) lo hi
        else level != 0 && mapsPool m lo hi fuel (level - 1) (ptePhys e)))

/-- The keys of a pool region's bytes (R19). -/
def PoolRegion.keys (x : PoolRegion) : Nat × Nat :=
  let lo := fabricBase (if x.port then 1 else 0) + x.base * 2 ^ 30
  (lo, lo + x.size * 2 ^ 30)

/-- An access translated before may still reach a pool region: one that has not performed, a command whose engine works in one of its
pages, or any that a shoot-down which this device has still to acknowledge may wait for (R168, R233, R417). -/
def State.poolReached (s : State) (x : PoolRegion) : Bool :=
  let lo := x.window * 2 ^ 30
  let hi := (x.window + x.size) * 2 ^ 30
  s.ops.any (fun o => o.keys.any (fun k => overlaps k (k + o.bytes) x.keys.1 x.keys.2)) ||
    s.allChans.any (fun n => n.issued.any (fun e =>
      (e.2.rd.toList ++ e.2.wr.toList).any (fun u => u.tier == 3 && overlaps u.pa (u.pa + 4096) lo hi))) ||
    s.tlbinvs.any (fun i => i.waiting || i.devs.contains s.ownDevice)

/-- No context maps a region, no TLB holds an entry for it, and no access translated before may still reach it: every leaf has been
cleared and shot down (R233, R417). -/
def State.poolUnused (s : State) (x : PoolRegion) : Bool :=
  let lo := x.window * 2 ^ 30
  let hi := (x.window + x.size) * 2 ^ 30
  !s.poolReached x &&
  s.ctxs.all (fun c => c.2.failed || !mapsPool s.mem lo hi 5 4 (ptePhys c.2.root)) &&
    s.cores.all (fun c => c.2.tlb.all (fun e => e.tier != 3 || !overlaps e.pa (e.pa + 2 ^ e.bits) lo hi))

/-- A region's release completes: its lines are in its own memory, its State is free, and the event is posted. -/
def execPoolReleaseComplete (r : Nat) (s : State) : Out :=
  let x := s.pool.getD r {}
  if x.st ≠ 2 || !s.markhorUp || !s.poolUnused x then notDue s
  else .next (({ s with pool := listUpd s.pool r (fun y => { y with st := 0 }) }).postAll { code := 0x0011, detail := BitVec.ofNat 64 r })

/-! ### Job entries (R157, R409, R411) -/

/-- A physical range lies within the allotment of a virtual function. -/
def State.inAllotment (s : State) (vf base size : Nat) : Bool :=
  decide (s.allotBase vf ≤ base) && decide (base + size ≤ s.allotBase vf + s.allotSize vf)

/-- A job queue entry. -/
structure JobEntry where
  command : Nat
  asid : Nat
  tag : Nat
  desc : Nat
  compl : Nat
  deriving DecidableEq, Repr, Inhabited

/-- The key of an entry of a job queue, whose base is a host address or a device address: a device address lies in the allotment of the
virtual function (R157, DESIGN CHOICE, log 51: the register does not say which it is). -/
def State.entryKey (s : State) (vf addr : Nat) : Nat :=
  if Config.queueOnDevice addr && s.inAllotment vf addr 64 then addr else s.hostKey vf addr

/-- The job queue entry at a key (R409). -/
def State.entryAt (s : State) (key : Nat) : JobEntry :=
  let r (off n : Nat) : Nat := s.mem.readNat (key + off) n
  { command := r 0 1, asid := r 6 2, tag := r 8 8, desc := r 16 8, compl := r 24 8 }

/-- The entry at the head of a queue that is enabled and not empty (DEDUCED, log 32). -/
def State.headEntry (s : State) (vf q : Nat) : Option JobEntry :=
  let y := (s.vfAt vf).queues.getD q {}
  if !s.vfUp vf || 64 ≤ q || !sizeOk y.size.toNat || y.head == y.tail then none
  else some (s.entryAt (s.entryKey vf (64 * y.base.toNat + 64 * y.head.toNat)))

/-- The tenant core moves on to the next entry of a queue (R411). -/
def State.popEntry (s : State) (vf q : Nat) : State :=
  let v := s.vfAt vf
  s.setVfAt vf { v with queues := listUpd v.queues q (fun y =>
    { y with head := BitVec.ofNat 16 ((y.head.toNat + 1) % 2 ^ y.size.toNat), hold := none }) }

/-- Refuse an entry (R411). -/
def State.refuseEntry (s : State) (vf q : Nat) (e : JobEntry) (code : Nat) : Out :=
  .next ((s.popEntry vf q).queueError vf q e.asid code)

/-- The entry at the head of a queue waits for a migrating page; past the migration limit the tenant core goes on as `past` says (R166,
DEDUCED, log 27). -/
def State.holdEntry (s : State) (vf q : Nat) (past : Out) : Out :=
  let v := s.vfAt vf
  let z := (v.queues.getD q {}).hold.getD s.clock
  if s.pastLimit vf z then past
  else .next (s.setVfAt vf { v with queues := listUpd v.queues q (fun y => { y with hold := some z }) })

/-- The code of a read that a migrating page holds: no error code of R411. -/
def heldRead : Nat := 0x0000
/-- The tenant core refuses an entry whose descriptor it could not read, or waits where a migrating page holds the read. -/
def State.refuseOrHold (s : State) (vf q : Nat) (e : JobEntry) (code : Nat) : Out :=
  if code = heldRead then s.holdEntry vf q (s.refuseEntry vf q e 0x0003) else s.refuseEntry vf q e code

/-! ### `SUBMIT_JOB` (R410) -/

/-- The bytes of a structure that the tenant core reads in a context's address space, with the accessed bits set, or the code of the
failure (R411). -/
def State.readPages (s : State) (c fuel va n : Nat) : Except Nat (List Byte × State) :=
  match s.ctxPages c fuel va n with
  | (.ok bs, s) => .ok (bs, s)
  | (.migrating, _) => .error heldRead
  | (.fault, _) => .error 0x0003

/-- A graph record: its phase number and its launches with their dependence masks. -/
structure GraphRec where
  phase : Nat
  launches : List (LaunchRec × Nat)
  deriving DecidableEq, Repr, Inhabited

/-- The entries of a graph record from their bytes: none where a mask names the launch itself or a later one. -/
def graphEntries : Nat → Nat → List Byte → Option (List (LaunchRec × Nat))
  | 0, _, _ => some []
  | n + 1, i, bs =>
    let mask := leNat ((bs.drop 64).take 8)
    if 2 ^ i ≤ mask then none
    else (graphEntries n (i + 1) (bs.drop 72)).map (fun rest => (launchRec (leNat (bs.take 64)), mask) :: rest)

/-- The graph records of a descriptor, or the error code (R410, R411). A header whose bits [127:64] are not 0 is malformed (DESIGN CHOICE,
log 42: R410 gives them as 0 and does not say what another value does). -/
def readGraphs (s : State) (c : Nat) : Nat → Nat → Nat → Except Nat (List GraphRec × State)
  | 0, _, _ => .ok ([], s)
  | g + 1, va, last =>
    match s.readPages c 4 va 16 with
    | .error k => .error k
    | .ok (h, s) =>
      let n := leNat (h.take 4)
      let phase := leNat ((h.drop 4).take 4)
      if !within 1 64 n || decide (phase < last) || leNat (h.drop 8) != 0 then .error 0x0004
      else
        match s.readPages c 8 (va + 16) (72 * n) with
        | .error k => .error k
        | .ok (bs, s) =>
          match graphEntries n 0 bs with
          | none => .error 0x0004
          | some es =>
            match readGraphs s c g (va + 16 + 72 * n) phase with
            | .error k => .error k
            | .ok (rest, s) => .ok ({ phase := phase, launches := es } :: rest, s)

/-- Graphs with equal phase numbers form one phase, in their order (R410). -/
def groupPhases : List GraphRec → List (List GraphRec)
  | [] => []
  | g :: rest =>
    match groupPhases rest with
    | (h :: hs) :: more => if h.phase = g.phase then (g :: h :: hs) :: more else [g] :: (h :: hs) :: more
    | more => [g] :: more

/-- A job with its levels as they stand at submission (R187). -/
def newJob (c q tag compl : Nat) (ps : List (List GraphRec)) : Job :=
  { ctr := { expected := ps.length }
    phases := ps.map (fun gs => { ctr := { expected := gs.length }
                                  graphs := gs.map (fun g => { ctr := { expected := g.launches.length } }) })
    ctx := c, queue := q, tag := BitVec.ofNat 64 tag, compl := BitVec.ofNat 64 compl }

/-- The dependences of a mask on the launches of a graph whose first identity is `base`. -/
def maskDeps (base mask : Nat) : List Nat := ((List.range 64).filter (fun i => bitsOf mask i 1 == 1)).map (fun i => base + i)

/-- Submit the launches of one graph in order. -/
def submitGraph (c j p g : Nat) (r : GraphRec) (s : State) : State :=
  let base := (s.ctxAt c).nextLaunch
  r.launches.foldl (fun s e => s.submitLaunch c j p g e.1 (maskDeps base e.2) false) s

/-- The number of a new job: above every other. -/
def State.nextJob (s : State) : Nat := s.jobs.foldl (fun n e => max n (e.1 + 1)) 0

/-- Submit a job (R290, R410). -/
def State.submit (s : State) (c q : Nat) (e : JobEntry) (gs : List GraphRec) : State :=
  let ps := groupPhases gs
  let j := s.nextJob
  let s := s.setJobAt j (newJob c q e.tag e.compl ps)
  (List.range ps.length).foldl (fun s p =>
    (List.range (ps.getD p []).length).foldl (fun s g => submitGraph c j p g ((ps.getD p []).getD g default) s) s) s

/-- The tenant core accepts a job entry, or refuses it. Contexts are created and destroyed by the two other commands. -/
def execSubmitJob (vf q : Nat) (s : State) : Out :=
  match s.headEntry vf q with
  | none => notDue s
  | some e =>
    let c := ctxKey vf e.asid
    if e.command = 2 ∨ e.command = 3 then notDue s
    else if e.command ≠ 1 then s.refuseEntry vf q e 0x0001
    else if !s.ctxs.has c || (s.ctxAt c).failed then s.refuseEntry vf q e 0x0002
    else
      match s.readPages c 3 e.desc 8 with
      | .error k => s.refuseOrHold vf q e k
      | .ok (h, s') =>
        if !within 1 65535 (leNat h) then s.refuseEntry vf q e 0x0004
        else
          match readGraphs s' c (leNat h) (e.desc + 8) 0 with
          | .error k => s.refuseOrHold vf q e k
          | .ok (gs, s') =>
            let accepted : Out := .next ((s'.submit c q e gs).popEntry vf q)
            if gs.any (fun g => g.launches.any (fun r => s'.imageHeld c r.1)) then s.holdEntry vf q accepted else accepted

/-! ### `CREATE_CONTEXT` and `DESTROY_CONTEXT` (R412) -/

/-- A list entry of an ordered region: base and lines, or none (R412). -/
def regionOf (x : Nat) : Option (Nat × Nat) :=
  let base := bitsOf x 0 64
  let lines := bitsOf x 64 32
  if base % 128 = 0 ∧ 1 ≤ lines ∧ lines ≤ 2 ^ 24 ∧ bitsOf x 96 32 = 0 then some (base, lines) else none

/-- No two regions overlap (R177). -/
def regionsApart : List (Nat × Nat) → Bool
  | [] => true
  | x :: rest => rest.all (fun y => !overlaps x.1 (x.1 + 128 * x.2) y.1 (y.1 + 128 * y.2)) && regionsApart rest

/-- A multicast group record, or none (R412). -/
def groupOf (domain : Nat) (bs : List Byte) : Option McGroup :=
  let f (off : Nat) : Nat := leNat ((bs.drop off).take 2)
  let n := f 2
  let members := (List.range n).map (fun m => f (8 + 2 * m))
  if f 0 ≤ 4095 ∧ 1 ≤ n ∧ n ≤ 64 ∧ f 4 = 0 ∧ f 6 = 0 ∧ (bs.drop (8 + 2 * n)).all (fun y => y == 0) ∧
      members.all (fun m => decide (m < domain)) ∧ members.eraseDups.length = n then
    some { num := f 0, members := members }
  else none

/-- Every element, or none. -/
def allSome {α : Type} : List (Option α) → Option (List α)
  | [] => some []
  | none :: _ => none
  | some x :: rest => (allSome rest).map (fun xs => x :: xs)

/-- The lowest 2 MiB-aligned base on a die at which a region of `size` bytes overlaps no region of another context (R96, DEDUCED,
log 18). -/
def State.storeBase (s : State) (die size : Nat) : Option Nat :=
  let used := s.ctxs.map (fun e => e.2.ws.getD die (0, 0))
  ((List.range 256).map (fun i => i * 2 ^ 21)).find? (fun z =>
    decide (z + size ≤ 2 ^ 29) && used.all (fun u => !overlaps z (z + size) u.1 (u.1 + u.2)))

/-- The weight-store regions of a new context, one for each die, or none where one does not fit (R96, R412). -/
def State.storeRegions (s : State) (d : Nat) : Option (List (Nat × Nat)) :=
  allSome ((List.range 4).map (fun die =>
    let size := bitsOf d (16 * die) 16 * 2 ^ 21
    if size = 0 then some (0, 0) else (s.storeBase die size).map (fun z => (z, size))))

/-- The region's bytes become zero (R96). -/
def State.zeroStore (s : State) (ws : List (Nat × Nat)) : State :=
  { s with wstore := s.wstore.filter (fun c =>
      let die := c.1 / 2 ^ 29
      let off := c.1 % 2 ^ 29
      let u := ws.getD die (0, 0)
      !(decide (u.1 ≤ off) && decide (off < u.1 + u.2))) }

/-- The checks of a context descriptor that read nothing else (R412); `d` is the descriptor as a number (DEDUCED, log 32). -/
def State.descOk (s : State) (vf d : Nat) : Bool :=
  let f (byte n : Nat) : Nat := bitsOf d (8 * byte) (8 * n)
  let mode := f 10 1
  f 0 8 % 4096 == 0 && decide (f 0 8 < 2 ^ 50) && s.inAllotment vf (f 0 8) 4096 && decide (mode ≤ 2) && decide (f 11 1 ≤ 2) &&
    f 12 4 == 0 && f 16 8 % 4 == 0 && s.inAllotment vf (f 24 8) (f 32 8) && decide (Config.saveMinimum.toNat ≤ f 32 8) &&
    s.inAllotment vf (f 40 8) (f 48 8) && (mode == 0 || (f 56 8 != 0 && f 64 8 != 0)) && f 72 8 % 8 == 0 && decide (f 80 2 ≤ 64) &&
    decide (f 82 2 ≤ 16) && f 84 4 == 0 && decide (f 88 8 * 4096 ≤ s.allotSize vf) && f 104 8 % 8 == 0 &&
    (f 82 2 != 0 || f 104 8 == 0) && f 112 16 == 0

/-- The pool reserve of a context takes `n` pages (R392, R412). -/
def State.fillReserve (s : State) (c : Nat) : Nat → State
  | 0 => s
  | n + 1 =>
    let (page, s) := s.takePage c
    let x := s.ctxAt c
    State.fillReserve (s.setCtxAt c { x with reserve := x.reserve ++ [page] }) c n

/-- The context that a descriptor describes, before its lists are read and its reserve is filled. -/
def descCtx (d : Nat) (ws : List (Nat × Nat)) : Ctx :=
  let f (byte n : Nat) : Nat := bitsOf d (8 * byte) (8 * n)
  { root := BitVec.ofNat 64 (f 0 8), trapBase := BitVec.ofNat 64 (f 16 8), ftv := BitVec.ofNat 32 (f 11 1)
    mode := match f 10 1 with
      | 1 => .record
      | 2 => .replay
      | _ => .free
    saveBase := BitVec.ofNat 64 (f 24 8), saveSize := BitVec.ofNat 64 (f 32 8), dumpBase := BitVec.ofNat 64 (f 40 8)
    dumpSize := BitVec.ofNat 64 (f 48 8), traceBuf := BitVec.ofNat 64 (f 56 8), spoorBuf := BitVec.ofNat 64 (f 64 8)
    ws := ws }

/-- Read the two lists of a new context from its own address space (R412). -/
def State.readLists (s : State) (c d : Nat) : Option (List (Nat × Nat) × List McGroup × State) :=
  let f (byte n : Nat) : Nat := bitsOf d (8 * byte) (8 * n)
  match s.readPages c 4 (f 72 8) (16 * f 80 2) with
  | .error _ => none
  | .ok (rs, s) =>
    match s.readPages c 4 (f 104 8) (136 * f 82 2) with
    | .error _ => none
    | .ok (gs, s) =>
      match allSome ((chunksOf 16 (f 80 2) rs).map (fun x => regionOf (leNat x))),
          allSome ((chunksOf 136 (f 82 2) gs).map (groupOf s.routes.length)) with
      | some rs, some gs =>
        if regionsApart rs && (gs.map (·.num)).eraseDups.length == gs.length then some (rs, gs, s) else none
      | _, _ => none

/-- A log header that a replay may use: of this count of enabled cores, and complete (R59, R178). -/
def State.logUsable (s : State) (c va : Nat) : Bool :=
  match s.readPages c 3 va 16 with
  | .error _ => false
  | .ok (h, _) => leNat ((h.drop 8).take 4) == s.nCores && bitsOf (leNat (h.drop 12)) 0 1 == 0

/-- Write the header of a log at creation in record mode: no records, complete, this count of cores; the capacity stands in
the buffer that was supplied (R160, R178, DEDUCED, log 26). -/
def State.logHeader (s : State) (c va : Nat) (spoor : Bool) : State :=
  (s.ctxWrite c va (leBytes 16 (s.nCores * 2 ^ 64 + (if spoor then 2 ^ 97 else 0)))).ctxWrite c (va + 24) (leBytes 40 0)

/-- New pages of the memory that firmware hands out, zeroed, at consecutive virtual addresses of a context. -/
def State.newPages (s : State) (c va : Nat) : Nat → State
  | 0 => s
  | n + 1 =>
    let (page, s) := s.takePage c
    State.newPages ((s.zeroPage page).mapPage c va page) c (va + 4096) n

/-- The tenant core builds the pool of a context: a ring whose size and address it chooses, filled from the reserve with zeroed pages, and
its description in the 64 bytes below `TRAPBASE`, where the handler's page is mapped (R390, R392, DESIGN CHOICE, log 53). -/
def State.buildPool (s : State) (c : Nat) : State :=
  let base := (s.ctxAt c).trapBase.toNat
  if base = 0 ∨ ((List.range 8).any (fun i => (s.rawKey c (base - 64 + 8 * i)).isNone)) then s
  else
    let (k, s) := s.takeFresh
    let size := 4 + Config.poolSize k % 17
    let n := (8 * 2 ^ size + 4095) / 4096
    match s.allocBase c n (Config.gallocPage k) with
    | none => s
    | some ring =>
      let s := s.newPages c ring n
      let desc : List Nat := [0, 0, ring, size, 0, 0, 0, 0]
      let s := (List.range 8).foldl (fun s i => s.rawWrite8 c (base - 64 + 8 * i) (desc.getD i 0)) s
      let pages := (s.ctxAt c).reserve
      let s := (pages.take (2 ^ size)).foldl (fun s p => s.zeroPage p) s
      let (rest, s) := s.ringFill c pages
      s.setCtxAt c { s.ctxAt c with reserve := rest }

/-- What the creation of a context reads and writes in its address space meets a migrating page (R166, R412). -/
def State.createHeld (s : State) (c d : Nat) : Bool :=
  let f (byte n : Nat) : Nat := bitsOf d (8 * byte) (8 * n)
  let x := s.ctxAt c
  let log (va : Word64) : Bool := match x.mode with
    | .free => false
    | .record => s.ctxHeld c va.toNat 64 .write
    | .replay => s.ctxHeld c va.toNat 24 .read
  s.ctxHeld c (f 72 8) (16 * f 80 2) .read || s.ctxHeld c (f 104 8) (136 * f 82 2) .read || log x.traceBuf || log x.spoorBuf

/-- Create the context of a descriptor whose own fields have been checked, or refuse the entry for what its address space holds. -/
def State.createWith (s : State) (vf q : Nat) (e : JobEntry) (d : Nat) (ws : List (Nat × Nat)) : Out :=
  let c := ctxKey vf (bitsOf d 64 16)
  let x := descCtx d ws
  match (s.setCtxAt c x).readLists c d with
  | none => s.refuseEntry vf q e 0x0004
  | some (rs, gs, s') =>
    if x.mode == .replay && !(s'.logUsable c x.traceBuf.toNat && s'.logUsable c x.spoorBuf.toNat) then
      (s.post vf { code := 0x0008, queue := q, ctx := ctxAsid c }).refuseEntry vf q e 0x0004
    else
      let s' := (s'.setCtxAt c { x with regions := rs, groups := gs }).fillReserve c (bitsOf d 704 64)
      let s' := (s'.zeroStore ws).setVfAt vf { s'.vfAt vf with live := (s'.vfAt vf).live + 1 }
      let s' := match x.mode with
        | .free => s'
        | .record => (s'.logHeader c x.traceBuf.toNat false).logHeader c x.spoorBuf.toNat true
        | .replay => (s'.readLog c x.traceBuf.toNat 0).readLog c x.spoorBuf.toNat 0
      .next ((s'.buildPool c).popEntry vf q)

/-- The tenant core checks a context descriptor and creates the context. -/
def execCreateContext (vf q : Nat) (s : State) : Out :=
  match s.headEntry vf q with
  | none => notDue s
  | some e =>
    if e.command ≠ 2 then notDue s
    else
      let d := s.hostNat (s.vfAt vf).port e.desc 128
      let c := ctxKey vf (bitsOf d 64 16)
      if s.ctxs.has c then s.refuseEntry vf q e 0x0002
      else if 64 ≤ (s.vfAt vf).live then s.refuseEntry vf q e 0x0005
      else if !s.descOk vf d then s.refuseEntry vf q e 0x0004
      else
        match s.storeRegions (bitsOf d 768 64) with
        | none => s.refuseEntry vf q e 0x0004
        | some ws =>
          if (s.setCtxAt c (descCtx d ws)).createHeld c d then s.holdEntry vf q (s.createWith vf q e d ws)
          else s.createWith vf q e d ws

/-- The context leaves the machine: with it its launches, its jobs and its entries of every TLB (R168). -/
def State.removeContext (s : State) (c : Nat) : State :=
  let s := s.endContext c
  { s with
    ctxs := s.ctxs.erase c
    launches := s.launches.filter (fun e => launchCtx e.1 != c)
    jobs := s.jobs.filter (fun e => e.2.ctx != c) }

/-- The tenant core destroys a context once its jobs have ended (DEDUCED, log 32). -/
def execDestroyContext (vf q : Nat) (s : State) : Out :=
  match s.headEntry vf q with
  | none => notDue s
  | some e =>
    let c := ctxKey vf e.asid
    if e.command ≠ 3 then notDue s
    else if !s.ctxs.has c then s.refuseEntry vf q e 0x0002
    else if s.jobs.any (fun j => j.2.ctx == c && !s.jobOver j.1) then notDue s
    else
      let s := s.removeContext c
      let v := s.vfAt vf
      .next ((s.setVfAt vf { v with live := v.live - 1 }).popEntry vf q)

end Sys2Proof.Machine
end

