-- ==== Sys2Proof/Machine/Functions.lean ====
section
/-! DEFINITION. The special functions RCP, RSQ, SQRT, EXP2, LOG2, SIN and COS in the three function-table versions (R133 to
R135). Version 0 evaluates each function in fixed point with at least 190 correct bits beyond the rounding position and marks
what it cut off, so that the one rounding to F32 sees on which side of a midpoint the exact value lies (DEDUCED, log 21). -/

namespace Sys2Proof.Machine

/-- A function name. -/
inductive Fn where
  | rcp | rsq | sqrt | exp2 | log2 | sin | cos
  deriving DecidableEq, Repr, Inhabited

def canonF32 : Word32 := 0x7FC00000

/-- The results of R134 for special inputs, and none where an algorithm runs. -/
def fnSpecial (f : Fn) (x : Word32) : Option Word32 :=
  match valF32 x with
  | .nan => some canonF32
  | .inf neg =>
    match f with
    | .rcp => some (if neg then 0x80000000 else 0)
    | .rsq => some (if neg then canonF32 else 0)
    | .sqrt | .log2 => some (if neg then canonF32 else 0x7F800000)
    | .exp2 => some (if neg then 0 else 0x7F800000)
    | .sin | .cos => some canonF32
  | .fin neg m _ =>
    if m = 0 then
      match f with
      | .rcp | .rsq => some (if neg then 0xFF800000 else 0x7F800000)
      | .sqrt | .sin => some x
      | .exp2 | .cos => some 0x3F800000
      | .log2 => some 0xFF800000
    else if neg then
      match f with
      | .rsq | .sqrt | .log2 => some canonF32
      | _ => none
    else none

/-! ### Version 0 -/

/-- The integer square root, one bit at a time from bit `n` - 1 down. -/
def sqrtFrom (x : Nat) : Nat → Nat → Nat
  | 0, r => r
  | n + 1, r => sqrtFrom x n (if (r + 2 ^ n) * (r + 2 ^ n) ≤ x then r + 2 ^ n else r)
def isqrt (x : Nat) : Nat := sqrtFrom x (x.log2 / 2 + 1) 0

/-- A truncated mantissa with one bit more that says whether something was cut off. -/
def sticky (neg : Bool) (m : Nat) (inexact : Bool) (e : Int) : Num := .fin neg (2 * m + (if inexact then 1 else 0)) (e - 1)

def rcpExact (neg : Bool) (m : Nat) (e : Int) : Num :=
  let k := m.log2 + 40
  sticky neg (2 ^ k / m) (2 ^ k % m != 0) (-(k : Int) - e)

/-- A value with an even exponent. -/
def evenExp (m : Nat) (e : Int) : Nat × Int := if e % 2 = 0 then (m, e) else (2 * m, e - 1)

def sqrtExact (m : Nat) (e : Int) : Num :=
  let (m, e) := evenExp m e
  let x := m * 2 ^ 80
  let y := isqrt x
  sticky false y (y * y != x) (e / 2 - 40)

def rsqExact (m : Nat) (e : Int) : Num :=
  let (m, e) := evenExp m e
  let y := isqrt (2 ^ 160 / m)
  sticky false y (y * y * m != 2 ^ 160) (-80 - e / 2)

/-- ln 2 with 256 fraction bits and half of pi with 400. -/
def ln2Fix : Nat := 80260960185991308862233904206310070533990667611589946606122867505419956976171
def halfPiFix : Nat :=
  4056188623365485619431135675650447259580575800089632601795595518807615452686995249372761680463408407713783389863663788118

/-- The series of the exponential from term `k` on, in 256 fraction bits. -/
def expSeries (t : Nat) : Nat → Nat → Nat → Nat
  | 0, _, _ => 0
  | n + 1, k, term => term + expSeries t n (k + 1) (term * t / 2 ^ 256 / (k + 1))

def exp2Exact (neg : Bool) (m : Nat) (e : Int) : Num :=
  if 8 ≤ (m.log2 : Int) + e then (if neg then .fin false 1 (-400) else .inf false)
  else
    let z : Int := scaled neg m e (-256)
    let n : Int := z / ((2 ^ 256 : Nat) : Int)
    let f : Nat := (z % ((2 ^ 256 : Nat) : Int)).toNat
    if f = 0 then .fin false 1 n
    else sticky false (expSeries (f * ln2Fix / 2 ^ 256) 64 0 (2 ^ 256)) true (n - 256)

/-- The binary logarithm of a value in [1, 2) with 320 fraction bits, bit by bit. -/
def log2Bits : Nat → Nat → Nat → Nat
  | 0, _, r => r
  | n + 1, y, r =>
    let z := y * y / 2 ^ 320
    if 2 ^ 321 ≤ z then log2Bits n (z / 2) (2 * r + 1) else log2Bits n z (2 * r)

def log2Exact (m : Nat) (e : Int) : Num :=
  let l := m.log2
  let ex : Int := (l : Int) + e
  if m = 2 ^ l then numOf ex 0 false
  else
    let v : Int := ex * ((2 ^ 200 : Nat) : Int) + (log2Bits 200 (m * 2 ^ (320 - l)) 0 : Nat)
    -- the exact value lies strictly between v and v + 1 units of 2^-200
    .fin (decide (v < 0)) (if 0 ≤ v then 2 * v.toNat + 1 else 2 * v.natAbs - 1) (-201)

/-- Terms of the sine (k odd) and cosine (k even) series in 400 fraction bits; `sq` is the square of the angle. -/
def trigSeries (sq : Nat) : Nat → Nat → Int → Int
  | 0, _, _ => 0
  | n + 1, k, term => term + trigSeries sq n (k + 2) (-(term * (sq : Int) / ((2 ^ 400 : Nat) : Int) / (((k + 1) * (k + 2) : Nat) : Int)))

/-- Sine or cosine of 2 pi x for x = ± m * 2^e with e at least -149: reduced exactly by quadrants. -/
def trigExact (cosine neg : Bool) (m : Nat) (e : Int) : Num :=
  let a : Int := (m * 2 ^ (e + 149).toNat % 2 ^ 149 : Nat)
  let unit : Int := (2 ^ 149 : Nat)
  let n : Int := (8 * a / unit + 1) / 2
  let g : Int := 4 * a - n * unit
  let q := n % 4
  let th : Nat := g.natAbs * halfPiFix / 2 ^ 149
  let sq : Nat := th * th / 2 ^ 400
  let sinMag : Nat := (trigSeries sq 44 1 (th : Int)).natAbs
  let cosMag : Nat := (trigSeries sq 44 0 ((2 ^ 400 : Nat) : Int)).natAbs
  let sine (flip : Bool) : Num := if g = 0 then .fin flip 0 0 else sticky (decide (g < 0) != flip) sinMag true (-400)
  let cosn (flip : Bool) : Num := if g = 0 then .fin flip 1 0 else sticky flip cosMag true (-400)
  let r :=
    if cosine then
      if q = 0 then cosn false else if q = 1 then sine true else if q = 2 then cosn true else sine false
    else if q = 0 then sine neg else if q = 1 then cosn neg else if q = 2 then sine (!neg) else cosn (!neg)
  match r with
  | .fin s 0 k => .fin (if cosine then false else (if neg then true else s && false)) 0 k
  | x => x

/-- Version 0: the exact value rounded once (R133, R134). -/
def fn0 (f : Fn) (x : Word32) : Word32 :=
  match fnSpecial f x with
  | some r => r
  | none =>
    match valF32 x with
    | .fin neg m e =>
      encF32 .rn (match f with
        | .rcp => rcpExact neg m e
        | .rsq => rsqExact m e
        | .sqrt => sqrtExact m e
        | .exp2 => exp2Exact neg m e
        | .log2 => log2Exact m e
        | .sin => trigExact false neg m e
        | .cos => trigExact true neg m e)
    | _ => canonF32

/-- A subnormal F32 encoding, and the zero of its sign. -/
def subnormalF32 (x : Word32) : Bool := x.extractLsb' 23 8 == 0 && x.extractLsb' 0 23 != 0
def flushF32 (x : Word32) : Word32 := if subnormalF32 x then x &&& 0x80000000 else x

/-- Version 1: subnormal inputs and results are zero (R133, DEDUCED, log 22). -/
def fn1 (f : Fn) (x : Word32) : Word32 := flushF32 (fn0 f (flushF32 x))

/-! ### Version 2 (R135) -/

/-- One F32 rounding, and the fused multiply-add of the algorithms, on values. -/
def rne (x : Num) : Num := valF32 (encF32 .rn x)
def fma2 (a b c : Num) : Num := rne ((a.mul b).add .rn c)
def mul2 (a b : Num) : Num := rne (a.mul b)
def add2 (a b : Num) : Num := rne (a.add .rn b)
/-- The value of an F32 constant, and an exact dyadic. -/
def kF32 (x : Word32) : Num := valF32 x
def dy (z : Int) (e : Int) : Num := numOf z e false
/-- Multiply exactly by a power of two. -/
def Num.scale (x : Num) (k : Int) : Num :=
  match x with
  | .fin n m e => .fin n m (e + k)
  | y => y

/-- The table entries: each function at an exact point, rounded to F32. -/
def tabExp (i : Nat) : Num := kF32 (fn0 .exp2 (encF32 .rn (dy i (-6))))
def tabRcp64 (j : Nat) : Num := kF32 (fn0 .rcp (encF32 .rn (dy (64 + j) (-6))))
def tabLog (j : Nat) : Num := kF32 (fn0 .log2 (encF32 .rn (dy (64 + j) (-6))))
def tabRcp128 (j : Nat) : Num := kF32 (fn0 .rcp (encF32 .rn (dy (128 + j) (-7))))
def tabRsq (j : Nat) : Num := kF32 (fn0 .rsq (encF32 .rn (dy (32 + j) (-5))))

def exp2V2 (neg : Bool) (m : Nat) (e : Int) : Num :=
  if 40 ≤ (m.log2 : Int) + e then (if neg then .fin false 1 (-400) else .inf false)
  else
    let z := scaled neg m e (-149)
    let n := z / ((2 ^ 149 : Nat) : Int)
    let f := z % ((2 ^ 149 : Nat) : Int)
    let i := (f / ((2 ^ 143 : Nat) : Int)).toNat
    let g := dy (f % ((2 ^ 143 : Nat) : Int)) (-149)
    let h := fma2 (fma2 (fma2 (kF32 0x3D635847) g (kF32 0x3E75FDF0)) g (kF32 0x3F317218)) g (kF32 0x3F800000)
    rne ((mul2 (tabExp i) h).scale n)

def log2V2 (m : Nat) (e : Int) : Num :=
  let l := m.log2
  let ex : Int := (l : Int) + e
  let mm := dy m (-(l : Int))
  let j := (m * 64 / 2 ^ l) - 64
  let u := fma2 mm (tabRcp64 j) (dy (-1) 0)
  let h := fma2 (fma2 (fma2 (kF32 0xBEB8AA3B) u (kF32 0x3EF6384F)) u (kF32 0xBF38AA3B)) u (kF32 0x3FB8AA3B)
  let s := add2 (dy ex 0) (tabLog j)
  fma2 h u s

def rcpV2 (neg : Bool) (m : Nat) (e : Int) : Num :=
  let l := m.log2
  let ex : Int := (l : Int) + e
  let mm := dy m (-(l : Int))
  let p := tabRcp128 ((m * 128 / 2 ^ l) - 128)
  let a := fma2 mm.neg p (dy 1 0)
  let h := fma2 a a a
  let y := fma2 p h p
  rne ((if neg then y.neg else y).scale (-ex))

def rsqV2 (m : Nat) (e : Int) : Num :=
  let l := m.log2
  let ex0 : Int := (l : Int) + e
  let ex := if ex0 % 2 = 0 then ex0 else ex0 - 1
  let sh : Int := -(l : Int) + (ex0 - ex)
  let mm := dy m sh
  let q := tabRsq ((m * 32 * 2 ^ (ex0 - ex).toNat / 2 ^ l) - 32)
  let d := mul2 mm q
  let a := fma2 d.neg q (dy 1 0)
  let h := fma2 a (kF32 0x3EC00000) (kF32 0x3F000000)
  let y := fma2 (mul2 q a) h q
  rne (y.scale (-(ex / 2)))

def trigV2 (cosine : Bool) (neg : Bool) (m : Nat) (e : Int) : Num :=
  let x : Num := .fin neg m e
  let n := roundInt .rn neg m (e + 2)
  let g := x.add .rn (dy (-n) (-2))
  let q := n % 4
  let z := mul2 g g
  let s := mul2 (fma2 (fma2 (fma2 (kF32 0xC2996966) z (kF32 0x42A335E3)) z (kF32 0xC2255DE7)) z (kF32 0x40C90FDB)) g
  let c := fma2 (fma2 (fma2 (kF32 0xC2AAE9E4) z (kF32 0x4281E0F8)) z (kF32 0xC19DE9E6)) z (dy 1 0)
  if cosine then
    if q = 0 then c else if q = 1 then s.neg else if q = 2 then c.neg else s
  else if q = 0 then s else if q = 1 then c else if q = 2 then s.neg else c.neg

/-- Version 2 (R135). -/
def fn2 (f : Fn) (x : Word32) : Word32 :=
  match fnSpecial f x with
  | some r => r
  | none =>
    match valF32 x with
    | .fin neg m e =>
      encF32 .rn (match f with
        | .rcp => rcpV2 neg m e
        | .rsq => rsqV2 m e
        | .sqrt => (Num.fin neg m e).mul (rsqV2 m e)
        | .exp2 => exp2V2 neg m e
        | .log2 => log2V2 m e
        | .sin => trigV2 false neg m e
        | .cos => trigV2 true neg m e)
    | _ => canonF32

/-- A function instruction under a function-table version (R81, R133, R324). -/
def fnValue (f : Fn) (ftv : Nat) (x : Word32) : Word32 :=
  match ftv with
  | 0 => fn0 f x
  | 1 => fn1 f x
  | _ => fn2 f x

end Sys2Proof.Machine
end

