-- ==== Sys2Proof/Machine/LaneFloat.lean ====
section
/-! DEFINITION. Lane classes 1, 2 and 3: F32 and F64 arithmetic, conversion, the special functions and `RAND` (R317 to
R325). -/

namespace Sys2Proof.Machine

/-! ### F32 (R317 to R321) -/

/-- An F32 instruction of two operands. -/
def f32Op2 (i : Instr) (c : Ctl) (d : Dst) (x : Src) (y : SrcImm) (f : Word32 → Word32 → Word32) (s : State) : Out :=
  laneFixed i c latF32 (fun t a p => writeReg p d (f (srcF32 t a p x) (immF32 t a p y))) s
/-- An F32 instruction of one operand. -/
def f32Op1 (i : Instr) (c : Ctl) (lat : Nat) (d : Dst) (x : Src) (f : Word32 → Word32) (s : State) : Out :=
  laneFixed i c lat (fun t a p => writeReg p d (f (srcF32 t a p x))) s

def execFadd (c : Ctl) (md : Rm) (d : Dst) (a : Src) (y : SrcImm) (s : State) : Out :=
  f32Op2 (.fadd c md d a y) c d a y (addF32 md) s
def execFsub (c : Ctl) (md : Rm) (d : Dst) (a : Src) (y : SrcImm) (s : State) : Out :=
  f32Op2 (.fsub c md d a y) c d a y (subF32 md) s
def execFmul (c : Ctl) (md : Rm) (d : Dst) (a : Src) (y : SrcImm) (s : State) : Out :=
  f32Op2 (.fmul c md d a y) c d a y (mulF32 md) s
def execFfma (c : Ctl) (md : Rm) (d : Dst) (a y z : Src) (s : State) : Out :=
  laneFixed (.ffma c md d a y z) c latF32 (fun t r p =>
    writeReg p d (fmaF32 md (srcF32 t r p a) (srcF32 t r p y) (srcF32 t r p z))) s
def execFmin (c : Ctl) (d : Dst) (a : Src) (y : SrcImm) (s : State) : Out := f32Op2 (.fmin c d a y) c d a y minF32 s
def execFmax (c : Ctl) (d : Dst) (a : Src) (y : SrcImm) (s : State) : Out := f32Op2 (.fmax c d a y) c d a y maxF32 s
def execFabs (c : Ctl) (d : Dst) (a : Src) (s : State) : Out := f32Op1 (.fabs c d a) c latF32 d a (fun x => x &&& 0x7FFFFFFF) s
def execFneg (c : Ctl) (d : Dst) (a : Src) (s : State) : Out := f32Op1 (.fneg c d a) c latF32 d a (fun x => x ^^^ 0x80000000) s
def execFcmp (c : Ctl) (cd : Cond) (d : PDst) (a y : Src) (s : State) : Out :=
  laneFixed (.fcmp c cd d a y) c latF32 (fun t r p =>
    writePred p d (fmtF32.cond cd (srcF32 t r p a).toNat (srcF32 t r p y).toNat)) s
def execFrint (c : Ctl) (md : Rm) (d : Dst) (a : Src) (s : State) : Out := f32Op1 (.frint c md d a) c latF32 d a (frintF32 md) s

/-! ### F64 (R322) -/

def f64Op2 (i : Instr) (c : Ctl) (d : Dst) (x y : Src) (f : Word64 → Word64 → Word64) (s : State) : Out :=
  laneFixed i c latF64 (fun t a p => writePair p d (f (srcF64 t a p x) (srcF64 t a p y))) s
def f64Op1 (i : Instr) (c : Ctl) (d : Dst) (x : Src) (f : Word64 → Word64) (s : State) : Out :=
  laneFixed i c latF64 (fun t a p => writePair p d (f (srcF64 t a p x))) s

def execDadd (c : Ctl) (md : Rm) (d : Dst) (a y : Src) (s : State) : Out := f64Op2 (.dadd c md d a y) c d a y (addF64 md) s
def execDsub (c : Ctl) (md : Rm) (d : Dst) (a y : Src) (s : State) : Out := f64Op2 (.dsub c md d a y) c d a y (subF64 md) s
def execDmul (c : Ctl) (md : Rm) (d : Dst) (a y : Src) (s : State) : Out := f64Op2 (.dmul c md d a y) c d a y (mulF64 md) s
def execDfma (c : Ctl) (md : Rm) (d : Dst) (a y z : Src) (s : State) : Out :=
  laneFixed (.dfma c md d a y z) c latF64 (fun t r p =>
    writePair p d (fmaF64 md (srcF64 t r p a) (srcF64 t r p y) (srcF64 t r p z))) s
def execDmin (c : Ctl) (d : Dst) (a y : Src) (s : State) : Out := f64Op2 (.dmin c d a y) c d a y minF64 s
def execDmax (c : Ctl) (d : Dst) (a y : Src) (s : State) : Out := f64Op2 (.dmax c d a y) c d a y maxF64 s
def execDabs (c : Ctl) (d : Dst) (a : Src) (s : State) : Out :=
  f64Op1 (.dabs c d a) c d a (fun x => x &&& 0x7FFFFFFFFFFFFFFF) s
def execDneg (c : Ctl) (d : Dst) (a : Src) (s : State) : Out :=
  f64Op1 (.dneg c d a) c d a (fun x => x ^^^ 0x8000000000000000) s
def execDcmp (c : Ctl) (cd : Cond) (d : PDst) (a y : Src) (s : State) : Out :=
  laneFixed (.dcmp c cd d a y) c latF64 (fun t r p =>
    writePred p d (fmtF64.cond cd (srcF64 t r p a).toNat (srcF64 t r p y).toNat)) s

/-! ### Conversion (R323) -/

/-- The value that a source which is no register supplies under a floating-point source type: the exact integer, the
constant's F32 value, or +0; special lane values and registers supply bits (R323). -/
def cvtOperand : Src → Option Num
  | .int k => some (numOf k 0 false)
  | .const k => some (valF32 (constF32 k))
  | .zero => some (.fin false 0 0)
  | _ => none

/-- The result bits of a conversion in one lane. Between equal types `.SAT` leaves an infinity unchanged, a constant's as a register's
(DEDUCED, log 22). -/
def cvtLane (md : Rm) (sat : Bool) (dt st : CvtTy) (t : Team) (a : Active) (p : Nat) (x : Src) : Nat :=
  let bits := (if st.wide then (src64 t a p x).toNat else (src32 t a p x).toNat) % 2 ^ cvtBits st
  if cvtInt st then cvtBitsTo md sat dt st bits
  else
    match cvtOperand x with
    | some v => cvtFrom md (sat && !cvtKeeps dt st v) dt v
    | none => cvtBitsTo md sat dt st bits

def execCvt (c : Ctl) (md : Rm) (sat : Bool) (dt st : CvtTy) (d : Dst) (a : Src) (s : State) : Out :=
  laneFixed (.cvt c md sat dt st d a) c latF64 (fun t r p =>
    let x := cvtResult dt (cvtLane md sat dt st t r p a)
    if dt.wide then writePair p d x else writeReg p d (x.extractLsb' 0 32)) s

/-! ### Special functions and `RAND` (R324, R325) -/

def fnOp (i : Instr) (c : Ctl) (f : Fn) (d : Dst) (x : Src) (s : State) : Out :=
  laneFixed i c latFunc (fun t a p => writeReg p d (fnValue f a.ftv (srcF32 t a p x))) s
def execRcp (c : Ctl) (d : Dst) (a : Src) (s : State) : Out := fnOp (.rcp c d a) c .rcp d a s
def execRsq (c : Ctl) (d : Dst) (a : Src) (s : State) : Out := fnOp (.rsq c d a) c .rsq d a s
def execSqrt (c : Ctl) (d : Dst) (a : Src) (s : State) : Out := fnOp (.sqrt c d a) c .sqrt d a s
def execExp2 (c : Ctl) (d : Dst) (a : Src) (s : State) : Out := fnOp (.exp2 c d a) c .exp2 d a s
def execLog2 (c : Ctl) (d : Dst) (a : Src) (s : State) : Out := fnOp (.log2 c d a) c .log2 d a s
def execSin (c : Ctl) (d : Dst) (a : Src) (s : State) : Out := fnOp (.sin c d a) c .sin d a s
def execCos (c : Ctl) (d : Dst) (a : Src) (s : State) : Out := fnOp (.cos c d a) c .cos d a s

/-- Round `r` of `RAND` (R325). -/
def randRound (r : Nat) (x : Word32 × Word32 × Word32 × Word32) : Word32 × Word32 × Word32 × Word32 :=
  match x with
  | (x0, x1, x2, x3) =>
    let y0 := x0 + x1 + BitVec.ofNat 32 r * BitVec.ofNat 32 0x9E3779B9
    let y3 := (x3 ^^^ y0).rotateLeft 16
    let y2 := x2 + y3
    let y1 := (x1 ^^^ y2).rotateLeft 12
    let z0 := y0 + y1
    let z3 := (y3 ^^^ z0).rotateLeft 8
    let z2 := y2 + z3
    let z1 := (y1 ^^^ z2).rotateLeft 7
    (z0, z1, z2, z3)
/-- Rounds 1 to `n` of `RAND` (R325). -/
def randRounds (n : Nat) (x : Word32 × Word32 × Word32 × Word32) : Word32 × Word32 × Word32 × Word32 :=
  (List.range n).foldl (fun x k => randRound (k + 1) x) x
/-- The 64-bit result of `RAND` (R325). -/
def randValue (key ctr : Word64) : Word64 :=
  match randRounds 10 (ctr.extractLsb' 0 32, ctr.extractLsb' 32 32, key.extractLsb' 0 32, key.extractLsb' 32 32) with
  | (x0, x1, x2, x3) => (x1 ^^^ x2) ++ (x0 ^^^ x3)
def execRand (c : Ctl) (wide : Bool) (d : Dst) (key ctr : Src) (s : State) : Out :=
  laneFixed (.rand c wide d key ctr) c latFunc (fun t r p =>
    let x := randValue (src64 t r p key) (src64 t r p ctr)
    if wide then writePair p d x else writeReg p d (x.extractLsb' 0 32)) s

end Sys2Proof.Machine
end

