-- ==== Sys2Proof/Machine/ScalarAlu.lean ====
section
/-! DEFINITION. Scalar arithmetic, immediates, compares, selects and scalar predicates (R268, R271 to R276). -/

namespace Sys2Proof.Machine

/-- A register operation: sD from sA and sB (R271). -/
def aluOp (d a y : SReg) (f : Word64 → Word64 → Word64) (s : State) : Out :=
  scalarDone s (s.team.setSreg d (f (s.team.sreg a) (s.team.sreg y)))

/-- An immediate operation: sD from sA and a 64-bit value (R272). -/
def immOp (d a : SReg) (x : Word64) (f : Word64 → Word64 → Word64) (s : State) : Out :=
  scalarDone s (s.team.setSreg d (f (s.team.sreg a) x))

/-- A predicate operation (R276). -/
def qOp (d a y : QReg) (f : Bool → Bool → Bool) (s : State) : Out :=
  scalarDone s (s.team.setQreg d (f (s.team.qreg a) (s.team.qreg y)))

/-- Shifts take the low 6 bits of their count (R271). -/
def shiftCount (x : Word64) : Nat := x.toNat % 64
def mulHigh (x y : Word64) : Word64 := ((x.signExtend 128) * (y.signExtend 128)).extractLsb' 64 64
def mulHighU (x y : Word64) : Word64 := ((x.setWidth 128) * (y.setWidth 128)).extractLsb' 64 64

def execAluAdd (d a y : SReg) (s : State) : Out := aluOp d a y (fun x z => x + z) s
def execAluSub (d a y : SReg) (s : State) : Out := aluOp d a y (fun x z => x - z) s
def execAluAnd (d a y : SReg) (s : State) : Out := aluOp d a y (fun x z => x &&& z) s
def execAluOr (d a y : SReg) (s : State) : Out := aluOp d a y (fun x z => x ||| z) s
def execAluXor (d a y : SReg) (s : State) : Out := aluOp d a y (fun x z => x ^^^ z) s
def execAluSll (d a y : SReg) (s : State) : Out := aluOp d a y (fun x z => x <<< shiftCount z) s
def execAluSrl (d a y : SReg) (s : State) : Out := aluOp d a y (fun x z => x >>> shiftCount z) s
def execAluSra (d a y : SReg) (s : State) : Out := aluOp d a y (fun x z => x.sshiftRight (shiftCount z)) s
def execAluMul (d a y : SReg) (s : State) : Out := aluOp d a y (fun x z => x * z) s
def execAluMulh (d a y : SReg) (s : State) : Out := aluOp d a y mulHigh s
def execAluMulhu (d a y : SReg) (s : State) : Out := aluOp d a y mulHighU s
def execAluMin (d a y : SReg) (s : State) : Out := aluOp d a y (fun x z => if x.slt z then x else z) s
def execAluMax (d a y : SReg) (s : State) : Out := aluOp d a y (fun x z => if x.slt z then z else x) s
def execAluMinu (d a y : SReg) (s : State) : Out := aluOp d a y (fun x z => if x.ult z then x else z) s
def execAluMaxu (d a y : SReg) (s : State) : Out := aluOp d a y (fun x z => if x.ult z then z else x) s

def execAddi (d a : SReg) (i : BitVec 13) (s : State) : Out := immOp d a (i.signExtend 64) (fun x z => x + z) s
def execAndi (d a : SReg) (i : BitVec 13) (s : State) : Out := immOp d a (i.signExtend 64) (fun x z => x &&& z) s
def execOri (d a : SReg) (i : BitVec 13) (s : State) : Out := immOp d a (i.signExtend 64) (fun x z => x ||| z) s
def execXori (d a : SReg) (i : BitVec 13) (s : State) : Out := immOp d a (i.signExtend 64) (fun x z => x ^^^ z) s

/-- A shift immediate from 64 up is illegal with detail 0x04 (R272); the decoder refuses its word. -/
def shiftImm (d a : SReg) (k : Nat) (f : Word64 → Nat → Word64) (s : State) : Out :=
  if 64 ≤ k then scalarTrap s 0x01 0x04 0 else scalarDone s (s.team.setSreg d (f (s.team.sreg a) k))
def execSlli (d a : SReg) (k : Nat) (s : State) : Out := shiftImm d a k (fun x n => x <<< n) s
def execSrli (d a : SReg) (k : Nat) (s : State) : Out := shiftImm d a k (fun x n => x >>> n) s
def execSrai (d a : SReg) (k : Nat) (s : State) : Out := shiftImm d a k (fun x n => x.sshiftRight n) s

/-- `LUI`: sext(imm19, 19) × 2^13 (R273). -/
def execLui (d : SReg) (i : BitVec 19) (s : State) : Out := scalarDone s (s.team.setSreg d (i.signExtend 64 <<< 13))

/-- `SCMP` (R274). -/
def execScmp (c : SCond) (d : QReg) (a y : SReg) (s : State) : Out :=
  scalarDone s (s.team.setQreg d (scondHolds c (s.team.sreg a) (s.team.sreg y)))

/-- `SSEL` (R275). -/
def execSsel (d : SReg) (q : QReg) (neg : Bool) (a y : SReg) (s : State) : Out :=
  scalarDone s (s.team.setSreg d (if condHolds s.team q neg then s.team.sreg a else s.team.sreg y))

def execQand (d a y : QReg) (s : State) : Out := qOp d a y (fun x z => x && z) s
def execQor (d a y : QReg) (s : State) : Out := qOp d a y (fun x z => x || z) s
def execQxor (d a y : QReg) (s : State) : Out := qOp d a y (fun x z => xor x z) s
def execQandn (d a y : QReg) (s : State) : Out := qOp d a y (fun x z => x && !z) s

end Sys2Proof.Machine
end

