-- ==== Sys2Proof/Machine/ScalarCopy.lean ====
section
/-! DEFINITION. `CPY`, `BSEAL`, `BWAIT` and `FLUSH` (R286 to R288, R294). -/

namespace Sys2Proof.Machine

/-- The four registers of a copy command: sA and the three after it; s0 reads 0 (R286). -/
def copyWord (t : Team) (a : SReg) (k : Nat) : Word64 := t.sreg (Fin.ofNat 64 (a.val + k))

/-- `CPY` (R145, R286). -/
def execCpy (a : SReg) (s : State) : Out :=
  let t := s.team
  let w (k : Nat) : Word64 := copyWord t a k
  let c := copyOf (w 0) (w 1) (w 2) (w 3)
  match c.defects s.block.shares.length s.kernel.chans with
  | d :: _ => scalarTrap s 0x01 d 0
  | [] =>
    match checkCopy s c with
    | some (cause, detail, addr) => scalarTrap s cause detail addr
    | none =>
      if copyGated s c then gateHere s
      else if s.chanFull c.chan then scalarWait s
      else
        let s := s.enqueue c.chan (t.runs.map (·.no)) (.copy (w 0) (w 1) (w 2) (w 3))
        scalarDone s s.team

/-- `BSEAL` (R148, R287). -/
def execBseal (sc : Scope) (s : State) : Out :=
  let t := s.team
  if !s.settled then scalarWait s
  else if 16 ≤ t.unfinished then scalarWait s
  else
    let x : Batch := { num := t.nSealed, scope := sc, cmds := t.unsealed }
    scalarDone s ({ t with sealed := t.sealed ++ [x], nSealed := t.nSealed + 1, unsealed := [] } : Team).finishAll

/-- `BWAIT` (R142, R149, R205, R288): the batches beyond the last `n` must have finished. -/
def execBwait (d : SReg) (n : Nat) (s : State) : Out :=
  let t := s.team
  if t.unfinished ≤ n then withDrained s (fun s => scalarDone s { s.team.setSreg d s.team.failRec with failRec := 0 })
  else
    let waited := (t.sealed.take (t.sealed.length - n)).flatMap (·.cmds)
    match heldCommand s.block s.cur waited with
    | some (uid, k, addr) => engineTrap s uid k addr
    | none => scalarWait s

/-- Insert an entry of the ordered-output buffer after those whose key and sequence are not above its own (R45). -/
def insertEmit (e : EmitEntry) : List EmitEntry → List EmitEntry
  | [] => [e]
  | x :: rest =>
    if e.key.ult x.key || (e.key == x.key && e.seq.ult x.seq) then e :: x :: rest else x :: insertEmit e rest
/-- Sort the buffer by key, then sequence, keeping the order of appending (R45). -/
def sortEmit (xs : List EmitEntry) : List EmitEntry := xs.foldl (fun acc e => insertEmit e acc) []

/-- `FLUSH` (R153, R294): the command holds the values as they stand when it is appended (DESIGN CHOICE, log 47). -/
def execFlush (d a : SReg) (ch : Nat) (s : State) : Out :=
  let t := s.team
  let at_ := t.sreg a
  if s.kernel.chans ≤ ch then scalarTrap s 0x01 0x5C 0
  else if at_.toNat % 4 ≠ 0 then scalarTrap s 0x05 0x00 at_
  else if s.block.prov then gateHere s
  else if !t.drained then scalarWait s
  else if s.chanFull ch then scalarWait s
  else
    let vals := (sortEmit t.emitBuf).map (·.val)
    let s := s.enqueue ch [] (.flush at_ vals)
    scalarDone s { s.team.setSreg d (BitVec.ofNat 64 vals.length) with emitBuf := [] }

end Sys2Proof.Machine
end

