-- ==== Sys2Proof/Machine/Spdm.lean ====
section
/-! DEFINITION. The SPDM 1.3 requests of a physical function, answered with ECDSA P-384, SHA-384 and certificate slot 0 (R424). -/

namespace Sys2Proof.Machine

/-- A request through a physical function that is presented is answered; none changes anything else (DESIGN CHOICE, log 33). -/
def answer (pf : Nat) (r : SpdmReply) (s : State) : Out :=
  if s.pfUp pf then .next { s with spdmOut := s.spdmOut ++ [r] } else notDue s

/-- SPDM GET_VERSION: version 1.3. -/
def execGetVersion (pf : Nat) (s : State) : Out := answer pf .version s

/-- SPDM GET_CAPABILITIES. -/
def execGetCapabilities (pf : Nat) (s : State) : Out := answer pf .capabilities s

/-- SPDM NEGOTIATE_ALGORITHMS: ECDSA P-384 and SHA-384. -/
def execNegotiateAlgorithms (pf : Nat) (s : State) : Out := answer pf .algorithms s

/-- SPDM GET_DIGESTS: the digest of the certificate chain of slot 0. -/
def execGetDigests (pf : Nat) (s : State) : Out := answer pf (.digests (sha384 Config.certificate)) s

/-- SPDM GET_CERTIFICATE: the chain of slot 0. -/
def execGetCertificate (pf : Nat) (s : State) : Out := answer pf (.certificate Config.certificate) s

/-- The bytes of the measurement registers. -/
def measureBytes (s : State) : List Byte := s.measure.flatMap digestBytes

/-- SPDM CHALLENGE: a signature over the nonce, the chain and the measurements. -/
def execChallenge (pf : Nat) (nonce : BitVec 256) (s : State) : Out :=
  answer pf (.challenge nonce (Config.sign (sha384 (leBytes 32 nonce.toNat ++ Config.certificate ++ measureBytes s)))) s

/-- SPDM signed GET_MEASUREMENTS: the eight registers and a signature over them and the nonce. -/
def execGetMeasurements (pf : Nat) (nonce : BitVec 256) (s : State) : Out :=
  answer pf (.measurements nonce s.measure (Config.sign (sha384 (leBytes 32 nonce.toNat ++ measureBytes s)))) s

end Sys2Proof.Machine
end

