-- ==== Sys2Proof/Machine/Dispatch.lean ====
section
/-! DEFINITION. Which meaning each instruction has: one direct call per constructor. -/

namespace Sys2Proof.Machine

/-- One instruction, or one other step of the part, at a state. -/
def exec (i : Instr) (s : State) : Host.Outcome State Fault Refusal :=
  match i with
  | .aluAdd x0 x1 x2 => Sys2Proof.Machine.execAluAdd x0 x1 x2 s
  | .aluSub x0 x1 x2 => Sys2Proof.Machine.execAluSub x0 x1 x2 s
  | .aluAnd x0 x1 x2 => Sys2Proof.Machine.execAluAnd x0 x1 x2 s
  | .aluOr x0 x1 x2 => Sys2Proof.Machine.execAluOr x0 x1 x2 s
  | .aluXor x0 x1 x2 => Sys2Proof.Machine.execAluXor x0 x1 x2 s
  | .aluSll x0 x1 x2 => Sys2Proof.Machine.execAluSll x0 x1 x2 s
  | .aluSrl x0 x1 x2 => Sys2Proof.Machine.execAluSrl x0 x1 x2 s
  | .aluSra x0 x1 x2 => Sys2Proof.Machine.execAluSra x0 x1 x2 s
  | .aluMul x0 x1 x2 => Sys2Proof.Machine.execAluMul x0 x1 x2 s
  | .aluMulh x0 x1 x2 => Sys2Proof.Machine.execAluMulh x0 x1 x2 s
  | .aluMulhu x0 x1 x2 => Sys2Proof.Machine.execAluMulhu x0 x1 x2 s
  | .aluMin x0 x1 x2 => Sys2Proof.Machine.execAluMin x0 x1 x2 s
  | .aluMax x0 x1 x2 => Sys2Proof.Machine.execAluMax x0 x1 x2 s
  | .aluMinu x0 x1 x2 => Sys2Proof.Machine.execAluMinu x0 x1 x2 s
  | .aluMaxu x0 x1 x2 => Sys2Proof.Machine.execAluMaxu x0 x1 x2 s
  | .addi x0 x1 x2 => Sys2Proof.Machine.execAddi x0 x1 x2 s
  | .andi x0 x1 x2 => Sys2Proof.Machine.execAndi x0 x1 x2 s
  | .ori x0 x1 x2 => Sys2Proof.Machine.execOri x0 x1 x2 s
  | .xori x0 x1 x2 => Sys2Proof.Machine.execXori x0 x1 x2 s
  | .slli x0 x1 x2 => Sys2Proof.Machine.execSlli x0 x1 x2 s
  | .srli x0 x1 x2 => Sys2Proof.Machine.execSrli x0 x1 x2 s
  | .srai x0 x1 x2 => Sys2Proof.Machine.execSrai x0 x1 x2 s
  | .lui x0 x1 => Sys2Proof.Machine.execLui x0 x1 s
  | .scmp x0 x1 x2 x3 => Sys2Proof.Machine.execScmp x0 x1 x2 x3 s
  | .ssel x0 x1 x2 x3 x4 => Sys2Proof.Machine.execSsel x0 x1 x2 x3 x4 s
  | .qand x0 x1 x2 => Sys2Proof.Machine.execQand x0 x1 x2 s
  | .qor x0 x1 x2 => Sys2Proof.Machine.execQor x0 x1 x2 s
  | .qxor x0 x1 x2 => Sys2Proof.Machine.execQxor x0 x1 x2 s
  | .qandn x0 x1 x2 => Sys2Proof.Machine.execQandn x0 x1 x2 s
  | .b x0 x1 x2 => Sys2Proof.Machine.execB x0 x1 x2 s
  | .call x0 x1 x2 => Sys2Proof.Machine.execCall x0 x1 x2 s
  | .jr x0 => Sys2Proof.Machine.execJr x0 s
  | .callr x0 => Sys2Proof.Machine.execCallr x0 s
  | .run x0 x1 => Sys2Proof.Machine.execRun x0 x1 s
  | .mpush x0 => Sys2Proof.Machine.execMpush x0 s
  | .melse => Sys2Proof.Machine.execMelse s
  | .mpop => Sys2Proof.Machine.execMpop s
  | .sany x0 x1 => Sys2Proof.Machine.execSany x0 x1 s
  | .sall x0 x1 => Sys2Proof.Machine.execSall x0 x1 s
  | .spop x0 x1 => Sys2Proof.Machine.execSpop x0 x1 s
  | .sfind x0 x1 => Sys2Proof.Machine.execSfind x0 x1 s
  | .sred x0 x1 x2 => Sys2Proof.Machine.execSred x0 x1 x2 s
  | .ldk x0 x1 x2 => Sys2Proof.Machine.execLdk x0 x1 x2 s
  | .ldkN32 x0 x1 x2 => Sys2Proof.Machine.execLdkN32 x0 x1 x2 s
  | .sldN8 x0 x1 x2 => Sys2Proof.Machine.execSldN8 x0 x1 x2 s
  | .sldN16 x0 x1 x2 => Sys2Proof.Machine.execSldN16 x0 x1 x2 s
  | .sldN32 x0 x1 x2 => Sys2Proof.Machine.execSldN32 x0 x1 x2 s
  | .sldB64 x0 x1 x2 => Sys2Proof.Machine.execSldB64 x0 x1 x2 s
  | .sstN8 x0 x1 x2 => Sys2Proof.Machine.execSstN8 x0 x1 x2 s
  | .sstN16 x0 x1 x2 => Sys2Proof.Machine.execSstN16 x0 x1 x2 s
  | .sstN32 x0 x1 x2 => Sys2Proof.Machine.execSstN32 x0 x1 x2 s
  | .sstB64 x0 x1 x2 => Sys2Proof.Machine.execSstB64 x0 x1 x2 s
  | .swait x0 x1 x2 x3 x4 x5 x6 => Sys2Proof.Machine.execSwait x0 x1 x2 x3 x4 x5 x6 s
  | .swaitPoll => Sys2Proof.Machine.execSwaitPoll s
  | .cpy x0 => Sys2Proof.Machine.execCpy x0 s
  | .bseal x0 => Sys2Proof.Machine.execBseal x0 s
  | .bwait x0 x1 => Sys2Proof.Machine.execBwait x0 x1 s
  | .launch x0 x1 => Sys2Proof.Machine.execLaunch x0 x1 s
  | .lwait x0 x1 x2 => Sys2Proof.Machine.execLwait x0 x1 x2 s
  | .lstat x0 x1 x2 => Sys2Proof.Machine.execLstat x0 x1 x2 s
  | .lcancel x0 x1 => Sys2Proof.Machine.execLcancel x0 x1 s
  | .galloc x0 x1 => Sys2Proof.Machine.execGalloc x0 x1 s
  | .gfree x0 => Sys2Proof.Machine.execGfree x0 s
  | .flush x0 x1 x2 => Sys2Proof.Machine.execFlush x0 x1 x2 s
  | .srd x0 x1 => Sys2Proof.Machine.execSrd x0 x1 s
  | .swr x0 x1 => Sys2Proof.Machine.execSwr x0 x1 s
  | .trap x0 => Sys2Proof.Machine.execTrap x0 s
  | .tret => Sys2Proof.Machine.execTret s
  | .exit => Sys2Proof.Machine.execExit s
  | .isync => Sys2Proof.Machine.execIsync s
  | .icinv x0 x1 x2 => Sys2Proof.Machine.execIcinv x0 x1 x2 s
  | .tlbinv x0 x1 x2 x3 x4 => Sys2Proof.Machine.execTlbinv x0 x1 x2 x3 x4 s
  | .tlbinvAsid x0 x1 x2 => Sys2Proof.Machine.execTlbinvAsid x0 x1 x2 s
  | .tlbinvVf x0 => Sys2Proof.Machine.execTlbinvVf x0 s
  | .tlbsync => Sys2Proof.Machine.execTlbsync s
  | .ptfence => Sys2Proof.Machine.execPtfence s
  | .rngreg x0 x1 x2 => Sys2Proof.Machine.execRngreg x0 x1 x2 s
  | .iadd x0 x1 x2 x3 x4 x5 => Sys2Proof.Machine.execIadd x0 x1 x2 x3 x4 x5 s
  | .isub x0 x1 x2 x3 x4 x5 => Sys2Proof.Machine.execIsub x0 x1 x2 x3 x4 x5 s
  | .imul x0 x1 x2 x3 x4 x5 => Sys2Proof.Machine.execImul x0 x1 x2 x3 x4 x5 s
  | .imulh x0 x1 x2 x3 x4 => Sys2Proof.Machine.execImulh x0 x1 x2 x3 x4 s
  | .imad x0 x1 x2 x3 x4 x5 x6 => Sys2Proof.Machine.execImad x0 x1 x2 x3 x4 x5 x6 s
  | .idiv x0 x1 x2 x3 x4 => Sys2Proof.Machine.execIdiv x0 x1 x2 x3 x4 s
  | .irem x0 x1 x2 x3 x4 => Sys2Proof.Machine.execIrem x0 x1 x2 x3 x4 s
  | .imin x0 x1 x2 x3 x4 => Sys2Proof.Machine.execImin x0 x1 x2 x3 x4 s
  | .imax x0 x1 x2 x3 x4 => Sys2Proof.Machine.execImax x0 x1 x2 x3 x4 s
  | .iabs x0 x1 x2 x3 x4 => Sys2Proof.Machine.execIabs x0 x1 x2 x3 x4 s
  | .ineg x0 x1 x2 x3 x4 => Sys2Proof.Machine.execIneg x0 x1 x2 x3 x4 s
  | .land x0 x1 x2 x3 x4 => Sys2Proof.Machine.execLand x0 x1 x2 x3 x4 s
  | .lor x0 x1 x2 x3 x4 => Sys2Proof.Machine.execLor x0 x1 x2 x3 x4 s
  | .lxor x0 x1 x2 x3 x4 => Sys2Proof.Machine.execLxor x0 x1 x2 x3 x4 s
  | .lnot x0 x1 x2 x3 => Sys2Proof.Machine.execLnot x0 x1 x2 x3 s
  | .shl x0 x1 x2 x3 x4 => Sys2Proof.Machine.execShl x0 x1 x2 x3 x4 s
  | .shr x0 x1 x2 x3 x4 => Sys2Proof.Machine.execShr x0 x1 x2 x3 x4 s
  | .sar x0 x1 x2 x3 x4 => Sys2Proof.Machine.execSar x0 x1 x2 x3 x4 s
  | .rol x0 x1 x2 x3 x4 => Sys2Proof.Machine.execRol x0 x1 x2 x3 x4 s
  | .popc x0 x1 x2 x3 => Sys2Proof.Machine.execPopc x0 x1 x2 x3 s
  | .clz x0 x1 x2 x3 => Sys2Proof.Machine.execClz x0 x1 x2 x3 s
  | .brev x0 x1 x2 x3 => Sys2Proof.Machine.execBrev x0 x1 x2 x3 s
  | .bfe x0 x1 x2 x3 x4 x5 => Sys2Proof.Machine.execBfe x0 x1 x2 x3 x4 x5 s
  | .bfi x0 x1 x2 x3 x4 x5 x6 => Sys2Proof.Machine.execBfi x0 x1 x2 x3 x4 x5 x6 s
  | .mov x0 x1 x2 x3 => Sys2Proof.Machine.execMov x0 x1 x2 x3 s
  | .sel x0 x1 x2 x3 x4 x5 => Sys2Proof.Machine.execSel x0 x1 x2 x3 x4 x5 s
  | .icmp x0 x1 x2 x3 x4 x5 => Sys2Proof.Machine.execIcmp x0 x1 x2 x3 x4 x5 s
  | .fadd x0 x1 x2 x3 x4 => Sys2Proof.Machine.execFadd x0 x1 x2 x3 x4 s
  | .fsub x0 x1 x2 x3 x4 => Sys2Proof.Machine.execFsub x0 x1 x2 x3 x4 s
  | .fmul x0 x1 x2 x3 x4 => Sys2Proof.Machine.execFmul x0 x1 x2 x3 x4 s
  | .ffma x0 x1 x2 x3 x4 x5 => Sys2Proof.Machine.execFfma x0 x1 x2 x3 x4 x5 s
  | .fmin x0 x1 x2 x3 => Sys2Proof.Machine.execFmin x0 x1 x2 x3 s
  | .fmax x0 x1 x2 x3 => Sys2Proof.Machine.execFmax x0 x1 x2 x3 s
  | .fabs x0 x1 x2 => Sys2Proof.Machine.execFabs x0 x1 x2 s
  | .fneg x0 x1 x2 => Sys2Proof.Machine.execFneg x0 x1 x2 s
  | .fcmp x0 x1 x2 x3 x4 => Sys2Proof.Machine.execFcmp x0 x1 x2 x3 x4 s
  | .frint x0 x1 x2 x3 => Sys2Proof.Machine.execFrint x0 x1 x2 x3 s
  | .dadd x0 x1 x2 x3 x4 => Sys2Proof.Machine.execDadd x0 x1 x2 x3 x4 s
  | .dsub x0 x1 x2 x3 x4 => Sys2Proof.Machine.execDsub x0 x1 x2 x3 x4 s
  | .dmul x0 x1 x2 x3 x4 => Sys2Proof.Machine.execDmul x0 x1 x2 x3 x4 s
  | .dfma x0 x1 x2 x3 x4 x5 => Sys2Proof.Machine.execDfma x0 x1 x2 x3 x4 x5 s
  | .dmin x0 x1 x2 x3 => Sys2Proof.Machine.execDmin x0 x1 x2 x3 s
  | .dmax x0 x1 x2 x3 => Sys2Proof.Machine.execDmax x0 x1 x2 x3 s
  | .dabs x0 x1 x2 => Sys2Proof.Machine.execDabs x0 x1 x2 s
  | .dneg x0 x1 x2 => Sys2Proof.Machine.execDneg x0 x1 x2 s
  | .dcmp x0 x1 x2 x3 x4 => Sys2Proof.Machine.execDcmp x0 x1 x2 x3 x4 s
  | .cvt x0 x1 x2 x3 x4 x5 x6 => Sys2Proof.Machine.execCvt x0 x1 x2 x3 x4 x5 x6 s
  | .rcp x0 x1 x2 => Sys2Proof.Machine.execRcp x0 x1 x2 s
  | .rsq x0 x1 x2 => Sys2Proof.Machine.execRsq x0 x1 x2 s
  | .sqrt x0 x1 x2 => Sys2Proof.Machine.execSqrt x0 x1 x2 s
  | .exp2 x0 x1 x2 => Sys2Proof.Machine.execExp2 x0 x1 x2 s
  | .log2 x0 x1 x2 => Sys2Proof.Machine.execLog2 x0 x1 x2 s
  | .sin x0 x1 x2 => Sys2Proof.Machine.execSin x0 x1 x2 s
  | .cos x0 x1 x2 => Sys2Proof.Machine.execCos x0 x1 x2 s
  | .rand x0 x1 x2 x3 x4 => Sys2Proof.Machine.execRand x0 x1 x2 x3 x4 s
  | .pand x0 x1 x2 x3 => Sys2Proof.Machine.execPand x0 x1 x2 x3 s
  | .por x0 x1 x2 x3 => Sys2Proof.Machine.execPor x0 x1 x2 x3 s
  | .pxor x0 x1 x2 x3 => Sys2Proof.Machine.execPxor x0 x1 x2 x3 s
  | .pandn x0 x1 x2 x3 => Sys2Proof.Machine.execPandn x0 x1 x2 x3 s
  | .vote x0 x1 x2 => Sys2Proof.Machine.execVote x0 x1 x2 s
  | .shfl x0 x1 x2 x3 x4 x5 => Sys2Proof.Machine.execShfl x0 x1 x2 x3 x4 x5 s
  | .reduce x0 x1 x2 x3 => Sys2Proof.Machine.execReduce x0 x1 x2 x3 s
  | .scan x0 x1 x2 x3 => Sys2Proof.Machine.execScan x0 x1 x2 x3 s
  | .sample x0 x1 x2 x3 x4 => Sys2Proof.Machine.execSample x0 x1 x2 x3 x4 s
  | .msplit x0 x1 x2 x3 x4 x5 => Sys2Proof.Machine.execMsplit x0 x1 x2 x3 x4 x5 s
  | .isect x0 x1 x2 x3 x4 x5 => Sys2Proof.Machine.execIsect x0 x1 x2 x3 x4 x5 s
  | .lds x0 x1 x2 x3 x4 x5 x6 x7 => Sys2Proof.Machine.execLds x0 x1 x2 x3 x4 x5 x6 x7 s
  | .sts x0 x1 x2 x3 x4 x5 x6 => Sys2Proof.Machine.execSts x0 x1 x2 x3 x4 x5 x6 s
  | .atos x0 x1 x2 x3 x4 x5 x6 x7 x8 => Sys2Proof.Machine.execAtos x0 x1 x2 x3 x4 x5 x6 x7 x8 s
  | .gld x0 x1 x2 x3 x4 x5 x6 x7 => Sys2Proof.Machine.execGld x0 x1 x2 x3 x4 x5 x6 x7 s
  | .gst x0 x1 x2 x3 x4 x5 x6 x7 x8 => Sys2Proof.Machine.execGst x0 x1 x2 x3 x4 x5 x6 x7 x8 s
  | .gatom x0 x1 x2 x3 x4 x5 x6 x7 x8 x9 => Sys2Proof.Machine.execGatom x0 x1 x2 x3 x4 x5 x6 x7 x8 x9 s
  | .gred x0 x1 x2 x3 x4 x5 x6 x7 x8 => Sys2Proof.Machine.execGred x0 x1 x2 x3 x4 x5 x6 x7 x8 s
  | .xfer x0 x1 x2 x3 x4 x5 x6 x7 => Sys2Proof.Machine.execXfer x0 x1 x2 x3 x4 x5 x6 x7 s
  | .fence x0 x1 x2 => Sys2Proof.Machine.execFence x0 x1 x2 s
  | .tld x0 x1 x2 x3 x4 x5 x6 => Sys2Proof.Machine.execTld x0 x1 x2 x3 x4 x5 x6 s
  | .tst x0 x1 x2 x3 x4 x5 x6 => Sys2Proof.Machine.execTst x0 x1 x2 x3 x4 x5 x6 s
  | .tmov x0 x1 x2 x3 x4 => Sys2Proof.Machine.execTmov x0 x1 x2 x3 x4 s
  | .tzero x0 x1 => Sys2Proof.Machine.execTzero x0 x1 s
  | .wld x0 x1 x2 x3 => Sys2Proof.Machine.execWld x0 x1 x2 x3 s
  | .mma x0 x1 x2 x3 x4 x5 x6 => Sys2Proof.Machine.execMma x0 x1 x2 x3 x4 x5 x6 s
  | .mmaPair x0 x1 x2 x3 x4 x5 x6 => Sys2Proof.Machine.execMmaPair x0 x1 x2 x3 x4 x5 x6 s
  | .prune x0 x1 x2 x3 x4 x5 => Sys2Proof.Machine.execPrune x0 x1 x2 x3 x4 x5 s
  | .become x0 x1 x2 => Sys2Proof.Machine.execBecome x0 x1 x2 s
  | .emit x0 x1 => Sys2Proof.Machine.execEmit x0 x1 s
  | .ltrap x0 x1 => Sys2Proof.Machine.execLtrap x0 x1 s
  | .bar x0 x1 => Sys2Proof.Machine.execBar x0 x1 s
  | .barn x0 x1 x2 => Sys2Proof.Machine.execBarn x0 x1 x2 s
  | .nop x0 => Sys2Proof.Machine.execNop x0 s
  | .runGrant x0 x1 => Sys2Proof.Machine.execRunGrant x0 x1 s
  | .runRetire x0 => Sys2Proof.Machine.execRunRetire x0 s
  | .instructionCompletion x0 x1 => Sys2Proof.Machine.execInstructionCompletion x0 x1 s
  | .settlement x0 => Sys2Proof.Machine.execSettlement x0 s
  | .channelIssue x0 x1 => Sys2Proof.Machine.execChannelIssue x0 x1 s
  | .copyBytesComplete x0 x1 x2 => Sys2Proof.Machine.execCopyBytesComplete x0 x1 x2 s
  | .collectivePieceAccept x0 => Sys2Proof.Machine.execCollectivePieceAccept x0 s
  | .collectiveStall x0 x1 => Sys2Proof.Machine.execCollectiveStall x0 x1 s
  | .launchStart x0 => Sys2Proof.Machine.execLaunchStart x0 s
  | .ticketTake x0 => Sys2Proof.Machine.execTicketTake x0 s
  | .blockSteal x0 => Sys2Proof.Machine.execBlockSteal x0 s
  | .shapePublication x0 => Sys2Proof.Machine.execShapePublication x0 s
  | .blockSquash x0 => Sys2Proof.Machine.execBlockSquash x0 s
  | .trapEntry x0 => Sys2Proof.Machine.execTrapEntry x0 s
  | .poolRefill x0 => Sys2Proof.Machine.execPoolRefill x0 s
  | .cancel x0 => Sys2Proof.Machine.execCancel x0 s
  | .watchdog x0 => Sys2Proof.Machine.execWatchdog x0 s
  | .preemption x0 x1 => Sys2Proof.Machine.execPreemption x0 x1 s
  | .contextSave x0 => Sys2Proof.Machine.execContextSave x0 s
  | .blockResume x0 x1 => Sys2Proof.Machine.execBlockResume x0 x1 s
  | .fatalFault x0 x1 => Sys2Proof.Machine.execFatalFault x0 x1 s
  | .lateWriteFailure x0 x1 => Sys2Proof.Machine.execLateWriteFailure x0 x1 s
  | .heldAccessRewalk x0 => Sys2Proof.Machine.execHeldAccessRewalk x0 s
  | .migrationLimit x0 => Sys2Proof.Machine.execMigrationLimit x0 s
  | .refreshWindowEnd x0 x1 => Sys2Proof.Machine.execRefreshWindowEnd x0 x1 s
  | .tlbinvArrival => Sys2Proof.Machine.execTlbinvArrival s
  | .shootdownTimeout x0 => Sys2Proof.Machine.execShootdownTimeout x0 s
  | .heartbeat x0 => Sys2Proof.Machine.execHeartbeat x0 s
  | .heartbeatMiss x0 => Sys2Proof.Machine.execHeartbeatMiss x0 s
  | .linkDown x0 => Sys2Proof.Machine.execLinkDown x0 s
  | .fenceNotice x0 => Sys2Proof.Machine.execFenceNotice x0 s
  | .peerDeviceAccess x0 x1 => Sys2Proof.Machine.execPeerDeviceAccess x0 x1 s
  | .hostBar2Access x0 x1 => Sys2Proof.Machine.execHostBar2Access x0 x1 s
  | .currentLimiter => Sys2Proof.Machine.execCurrentLimiter s
  | .deviceReset => Sys2Proof.Machine.execDeviceReset s
  | .registerWrite x0 x1 x2 x3 => Sys2Proof.Machine.execRegisterWrite x0 x1 x2 x3 s
  | .eventHeadDoorbell x0 x1 => Sys2Proof.Machine.execEventHeadDoorbell x0 x1 s
  | .jobQueueWrite x0 x1 x2 => Sys2Proof.Machine.execJobQueueWrite x0 x1 x2 s
  | .tailDoorbell x0 x1 x2 => Sys2Proof.Machine.execTailDoorbell x0 x1 x2 s
  | .perfCounterClear x0 x1 x2 => Sys2Proof.Machine.execPerfCounterClear x0 x1 x2 s
  | .settingsWrite x0 x1 x2 x3 x4 => Sys2Proof.Machine.execSettingsWrite x0 x1 x2 x3 x4 s
  | .deviceNumberWrite x0 => Sys2Proof.Machine.execDeviceNumberWrite x0 s
  | .loadRoutingTable x0 => Sys2Proof.Machine.execLoadRoutingTable x0 s
  | .routingLoadComplete => Sys2Proof.Machine.execRoutingLoadComplete s
  | .poolAssign x0 => Sys2Proof.Machine.execPoolAssign x0 s
  | .poolRelease x0 => Sys2Proof.Machine.execPoolRelease x0 s
  | .poolReleaseComplete x0 => Sys2Proof.Machine.execPoolReleaseComplete x0 s
  | .submitJob x0 x1 => Sys2Proof.Machine.execSubmitJob x0 x1 s
  | .createContext x0 x1 => Sys2Proof.Machine.execCreateContext x0 x1 s
  | .destroyContext x0 x1 => Sys2Proof.Machine.execDestroyContext x0 x1 s
  | .getVersion x0 => Sys2Proof.Machine.execGetVersion x0 s
  | .getCapabilities x0 => Sys2Proof.Machine.execGetCapabilities x0 s
  | .negotiateAlgorithms x0 => Sys2Proof.Machine.execNegotiateAlgorithms x0 s
  | .getDigests x0 => Sys2Proof.Machine.execGetDigests x0 s
  | .getCertificate x0 => Sys2Proof.Machine.execGetCertificate x0 s
  | .challenge x0 x1 => Sys2Proof.Machine.execChallenge x0 x1 s
  | .getMeasurements x0 x1 => Sys2Proof.Machine.execGetMeasurements x0 x1 s
  | .timebaseCycle => Sys2Proof.Machine.execTimebaseCycle s
  | .currentBackWithinRating => Sys2Proof.Machine.execCurrentBackWithinRating s

end Sys2Proof.Machine
end

