-- ==== Sys2Proof/Machine/Turns.lean ====
section
/-! DEFINITION. The next turn of the device: which agent moves, and which instruction that is (DESIGN CHOICE, log 1). -/

namespace Sys2Proof.Machine

/-- The next move of a team's stream, which `fetch` reads: none where the team cannot move, and a copy command that is due to issue
comes first (R139, DEDUCED, log 8). -/
def streamMove (fetch : State → Fetched) (k : Nat) (s : State) : Fetched :=
  let s := { s with cur := k }
  if s.stopped then .out (.next s)
  else
    match s.dueChannel with
    | some c => .run (.channelIssue c.1 c.2) s
    | none => fetch s

/-- Another bus master has written bytes of host memory at an address of a host port (R404). -/
def State.hostWrites (s : State) (port addr : Nat) (bytes : List Byte) : State :=
  { s with mem := s.mem.writeBytes (hostBase port + addr % 2 ^ 64) bytes }

/-- One lane of a global access, by its instruction and position. -/
def State.opAt (s : State) (team ins pos : Nat) : List LaneOp := s.ops.filter (fun o => o.team == team && o.ins == ins && o.pos == pos)

/-- The target of one copy of a write outside this device rejects it (R220, R350). -/
def State.rejectOp (s : State) (team ins pos copy : Nat) : State :=
  { s with ops := s.ops.flatMap (fun o =>
      if o.team = team ∧ o.ins = ins ∧ o.pos = pos then o.doomAt (fun k => o.keys[copy]? == some k && decide (localSize ≤ k)) else [o]) }

/-- A team or the host of another device has written that device's local memory (R212). -/
def State.peerWrites (s : State) (dev addr : Nat) (bytes : List Byte) : State :=
  if dev = s.ownDevice ∨ localSize < addr + bytes.length then s else s.gwrite (physKey s 0 addr 1 dev) bytes

/-- What a turn that runs no instruction does (DESIGN CHOICE, log 1). -/
def State.turn (s : State) : Turn → State
  | .perform k n p => s.performEach (s.opAt k n p)
  | .reject k n p c => s.rejectOp k n p c
  | .hostMem port addr bytes => s.hostWrites port addr bytes
  | .peerMem dev addr bytes => s.peerWrites dev addr bytes
  | .softError k => s.correctedError k
  | .clearErrors k => { s with corrected := listUpd s.corrected k (fun _ => 0) }
  | .pieceArrival p => s.pieceArrives p
  | .pieceAccepted uid => s.farAccepts uid
  | .reductionEnd uid st => s.farReduced uid st
  | .reductionStall vf asid base len => s.farStall vf asid base len
  | .farCredits dev vf queue taken => { s with farOthers := s.farOthers.set (farKey dev vf queue) taken }
  | .peerShoot x => s.peerShoot x
  | .peerIcinv dev uid addr len => s.peerIcinv dev uid addr len
  | .icinvAnswer dev uid => s.icinvAnswer dev uid
  | .peerReset dev => s.peerReset dev
  | .completion j => s.reportAgain j
  | .retraction => s.retractDue
  | .startUp => s.startUp
  | .enableVfs pf => s.enableVfs pf
  | .scalar _ => s
  | .lane .. => s
  | .event _ => s

/-- The move of one turn. -/
def turnMove (t : Turn) (s : State) : Fetched :=
  match t with
  | .scalar k => streamMove fetchScalar k s
  | .lane k order later => streamMove fetchLane k { s with laneOrder := order, laneLater := later }
  | .event i => .run i s
  | t => .out (.next (s.turn t))

/-- The next move: the next turn of the agenda. With none left, the scalar stream of the current team moves, and where there is
no such team a cycle of the timebase passes. -/
def nextMove (s : State) : Fetched :=
  match s.agenda with
  | t :: rest => turnMove t { s with agenda := rest }
  | [] => if s.teams.has s.cur then streamMove fetchScalar s.cur s else .run .timebaseCycle s

end Sys2Proof.Machine
end

