-- ==== Sys2Proof/Machine/Step.lean ====
section
/-! DEFINITION. One step of the device: the agent whose turn it is moves (DESIGN CHOICE, log 1). -/

namespace Sys2Proof.Machine

/-- One step: the next move ends at once, or its instruction executes. -/
def step (s : State) : Host.Outcome State Fault Refusal :=
  match nextMove s with
  | .out o => o
  | .run i s => exec i s

/-- The state with an instruction placed where the next step fetches it (DESIGN CHOICE, log 1). -/
def State.withFetchWord (s : State) (nbits w : Nat) : State :=
  if nbits ≤ 32 then placeBytes s false (leBytes 4 (w % 2 ^ 32))
  else placeBytes s true (packedBytes (BitVec.ofNat 96 w))

end Sys2Proof.Machine
end

