-- ==== Sys2Proof/Safety.lean ====
section
/-! DEFINITION. What counts as a safe run and what a move leaves alone, in the terms that statements use. -/

namespace Sys2Proof.Machine

/-! ### Runs -/

/-- A step that goes on. -/
def Steps (s t : State) : Prop := step s = .next t

/-- The states that a machine can reach from `s` in some number of steps. -/
inductive Reaches (s : State) : State → Prop where
  | here : Reaches s s
  | more {t u : State} : Reaches s t → Steps t u → Reaches s u

/-! ### Frames -/

/-- Every byte of every memory of the part reads in `t` as it does in `s`: global memory, the weight store, each block's
scratchpad, tiles and weight buffer on each of its cores, and each launch's constant window. -/
structure SameMemory (s t : State) : Prop where
  global : ∀ a, Memory.read t.mem a = Memory.read s.mem a
  store : ∀ a, Memory.read t.wstore a = Memory.read s.wstore a
  scratch : ∀ b ci a, Memory.read ((t.blockAt b).share ci).scratch a = Memory.read ((s.blockAt b).share ci).scratch a
  tile : ∀ b ci n a, Memory.read (((t.blockAt b).share ci).tiles.getD n []) a = Memory.read (((s.blockAt b).share ci).tiles.getD n []) a
  buffer : ∀ b ci a, Memory.read ((t.blockAt b).share ci).wbuf a = Memory.read ((s.blockAt b).share ci).wbuf a
  window : ∀ l a, Memory.read (t.launchAt l).window a = Memory.read (s.launchAt l).window a

/-- `t` is `s` but for the team of number `k`: no other field of the device and no other team differs, and no byte of memory. -/
structure OnlyTeamAt (k : Nat) (s t : State) : Prop where
  rest : t = { s with teams := t.teams }
  others : ∀ j, j ≠ k → Table.find? t.teams j = Table.find? s.teams j
  memory : SameMemory s t

/-- `t` is `s` but for the team whose stream moves. -/
abbrev OnlyTeam (s t : State) : Prop := OnlyTeamAt s.cur s t

/-- A team after its stream (the scalar one or the lane one) has completed an instruction: an access of that stream that was held on a
migrating page has proceeded (R166), and the team stands at no gate (R54). -/
def Team.goneOn (u : Team) (scalar : Bool) : Team :=
  { u with
    gated := false
    hold := if u.holds scalar then none else u.hold
    holdTrap := if u.holds scalar then none else u.holdTrap }

/-- A scalar instruction has completed and leaves the team as `u`, but that SPC is at the next instruction. The watchdog counts it
as progress (R389). -/
def Completed (s t : State) (u : Team) : Prop :=
  OnlyTeam s t ∧ t.team = { u.goneOn true with spc := s.team.spc + 4, progress := s.clock }

/-- A completed scalar instruction whose one result is `v` in the scalar register `d`; s0 takes no write (R66). -/
structure WroteSreg (s t : State) (d : SReg) (v : Word64) : Prop where
  done : Completed s t { s.team with sregs := t.team.sregs }
  regs : ∀ r, t.team.sreg r = if r = d ∧ r ≠ 0 then v else s.team.sreg r

/-- A completed scalar instruction whose one result is `v` in the scalar predicate `d`; q0 takes no write (R66). -/
structure WroteQreg (s t : State) (d : QReg) (v : Bool) : Prop where
  done : Completed s t { s.team with qregs := t.team.qregs }
  preds : ∀ q, t.team.qreg q = if q = d ∧ q ≠ 0 then v else s.team.qreg q

/-- The instruction answers a next state in which its one result is `v` in the scalar register `d`. -/
def GivesSreg (i : Instr) (s : State) (d : SReg) (v : Word64) : Prop := ∃ t, exec i s = .next t ∧ WroteSreg s t d v

/-- The instruction answers a next state in which its one result is `v` in the scalar predicate `d`. -/
def GivesQreg (i : Instr) (s : State) (d : QReg) (v : Bool) : Prop := ∃ t, exec i s = .next t ∧ WroteQreg s t d v

/-- The instruction answers the next state that leaves the team as `u` and everything else alone. -/
def GivesTeam (i : Instr) (s : State) (u : Team) : Prop := ∃ t, exec i s = .next t ∧ Completed s t u

/-! ### Traps -/

/-- Nothing stands between a failing check and the handler: the runs enqueued before have retired, and no settlement and no `LTRAP` of
one is due at the boundary (R384, R394), the team is not in the handler already (R387), its context has one (R388), its block is not provisional (R54), and nothing that comes first is due at
the boundary (R394). -/
structure CanTrap (s : State) : Prop where
  retired : s.team.trapReady = true
  user : s.team.sup = false
  handler : s.ctx.trapBase ≠ 0
  confirmed : s.block.prov = false
  first : s.block.squashDue = false ∧ s.block.ending = none ∧ s.block.saveDue = false

/-- The current team has entered its handler for a trap of its scalar stream, from `s` to `t` (R84, R384): cause, detail and
address, and where `TRET` continues. -/
structure EnteredScalar (s t : State) (cause detail : Nat) (addr back : Word64) : Prop where
  rest : t = { s with teams := t.teams, cores := t.cores }
  others : ∀ j, j ≠ s.cur → Table.find? t.teams j = Table.find? s.teams j
  memory : SameMemory s t
  cores : ∀ c, t.coreAt c = { s.coreAt c with dps := (t.coreAt c).dps }
  team : t.team =
    { s.team with
      trapInfo := t.team.trapInfo, trapAddr := addr, sup := true, spc := s.ctx.trapBase, runs := [], active := none
      trapRet := some { mask := s.team.mask, spc := back, resume := back, aside := [], cmd := none }
      ltrap := none, heldTrap := none, gated := false, held := false, polling := false, hold := none, holdTrap := none
      progress := t.team.progress }
  watch : s.team.hold = none → t.team.progress = s.team.progress
  cause : t.team.trapInfo.extractLsb' 0 8 = BitVec.ofNat 8 cause
  detail : t.team.trapInfo.extractLsb' 32 8 = BitVec.ofNat 8 detail
  lane : t.team.trapInfo.extractLsb' 16 10 = 0
  stream : t.team.trapInfo.getLsbD 31 = true

/-- The instruction answers the state in which its trap has been entered. -/
def Traps (i : Instr) (s : State) (cause detail : Nat) (addr : Word64) : Prop :=
  ∃ t, exec i s = .next t ∧ EnteredScalar s t cause detail addr s.team.spc

/-! ### Lane instructions -/

/-- The granted run `a` of the current team may issue `i` now: the run has not ended (R33), every register is declared (R62, R73),
the wait mask names no token that the run has raised and none that is not 0 (R41), no pending destination is touched (R302, R337, R356),
and a stall check, if it is on, finds no register read too early (R40). -/
structure Issuable (i : Instr) (c : Ctl) (s : State) (a : Active) : Prop where
  granted : s.team.active = some a
  more : a.finished = false
  inside : laneOutside i s.kernel.regs s.kernel.tiles = false
  tokens : BitVec.ofNat 3 c.wait &&& a.run.raised = 0
  free : s.issueHeld s.cur i c = false
  early : s.team.stallchk = true → tooEarly a i = false

/-- The team after `i` has issued in the granted run `a`. `m` is the mask that its passes were counted with, `pend` the results that
it adds to those still to come, `ins` what it adds to the unfinished instructions. Results that were due have been written; the run
has gone on by the instruction's bytes, its passes and its stall field (R31, R39, R108); its token is raised if it is unfinished (R41). -/
structure IssuedTeam (s t : State) (i : Instr) (c : Ctl) (a : Active) (pend : List Pend) (ins : Option Inflight) : Prop where
  active : t.team.active = some
    { a with
      lpc := a.lpc + BitVec.ofNat 64 (laneSize i)
      count := a.count + 1
      time := a.time + passes s.team.mask + c.stall
      run := { a.run with raised := a.run.raised ||| tokenBit c.set }
      pend := a.pend.filter (fun p => a.time < p.due) ++ pend
      finished := c.boundary }
  inflight : t.team.inflight = s.team.inflight ++ (ins.map (fun f => { f with n := s.team.nextIns, tok := c.set })).toList
  tokens : ∀ k, t.team.token k = s.team.token k + (if ins.isSome ∧ k = c.set ∧ 1 ≤ k ∧ k ≤ 3 then 1 else 0)

/-- What issuing leaves of the team beside what `IssuedTeam` names: the lanes hold the results that were due, and no other register,
predicate, mask, mode or special register differs. -/
structure IssuedFrame (s t : State) (a : Active) : Prop where
  lanes : t.team.lanes = (s.team.landDue a).lanes
  team : t.team =
    { s.team.goneOn false with
      lanes := t.team.lanes, active := t.team.active, inflight := t.team.inflight, nextIns := t.team.nextIns, t1 := t.team.t1
      t2 := t.team.t2, t3 := t.team.t3, held := false, waited := none, progress := t.team.progress }
  watch : s.team.hold = none → t.team.progress = s.team.progress

/-- A fixed-latency lane instruction answers a next state: nothing but the team differs, and the values `f p` of the executing lanes
`p` are on their way to its destinations, readable `lat` cycles after it issued (R39). A token that it names is raised until it
completes. -/
def GivesLane (i : Instr) (c : Ctl) (s : State) (a : Active) (lat : Nat) (f : Team → Nat → List LaneWrite) : Prop :=
  ∃ t, exec i s = .next t ∧ OnlyTeam s t ∧ IssuedFrame s t a ∧
    IssuedTeam s t i c a
      [{ due := a.time + lat, dsts := laneWrites i
         writes := ((s.team.landDue a).execLanes c).flatMap (fun p => f (s.team.landDue a) p) }]
      (if c.set = 0 then none else some { n := 0 })

/-! ### Scratchpad and window accesses -/

/-- The word holds the `n` bytes from `a` up, little-endian, and zeros above them (R7). -/
def Loaded (v : Word64) (m : Memory) (a n : Nat) : Prop :=
  ∀ k, k < 8 → v.extractLsb' (8 * k) 8 = if k < n then Memory.read m (a + k) else 0

/-- The scratchpad address `x` names `n` aligned bytes at offset `off` of the allocation on core index `ci`: its own core's with
Peer 0, a core of the block with Peer 1, and every byte below S (R87, R88, R89). -/
structure ScratchSpot (s : State) (x : Word64) (n ci off : Nat) : Prop where
  aligned : x.toNat % n = 0
  place : (x.toNat = off ∧ ci = s.shareIdx s.cur) ∨
    (x.toNat = 0x4000000 + ci * 0x1000000 + off ∧ ci < 3 ∧ ci < s.block.shares.length)
  field : off < 0x1000000
  inside : off + n ≤ s.kernel.scratch

/-- A completed scalar store of the `n` low bytes of `v` at offset `off` of the scratchpad of core index `ci`: those bytes of the
team's block are the bytes of `v`, every other byte of every scratchpad reads as before, and nothing else differs. -/
structure StoredScratch (s t : State) (ci off n : Nat) (v : Word64) : Prop where
  rest : t = { s with blocks := t.blocks, teams := t.teams }
  teams : ∀ j, j ≠ s.cur → Table.find? t.teams j = Table.find? s.teams j
  team : t.team = { s.team.goneOn true with spc := s.team.spc + 4, progress := s.clock }
  blocks : ∀ x, x ≠ teamBlock s.cur → Table.find? t.blocks x = Table.find? s.blocks x
  block : t.block = { s.block with shares := t.block.shares }
  shares : ∀ cj, t.block.share cj = { s.block.share cj with scratch := (t.block.share cj).scratch }
  bytes : ∀ cj a, Memory.read (t.block.share cj).scratch a =
    if cj = ci ∧ off ≤ a ∧ a < off + n then v.extractLsb' (8 * (a - off)) 8 else Memory.read (s.block.share cj).scratch a

/-! ### Copy commands, levels -/

/-- One command has been appended to channel `ch` of the current team: it is the team's next, in the supervisor state of the team,
behind the runs `after`, and it joins the unsealed set (R136, R148). Nothing else of any block or channel differs. -/
structure Enqueued (s t : State) (ch : Nat) (after : List Nat) (body : CmdBody) : Prop where
  rest : t = { s with blocks := t.blocks, teams := t.teams, uids := s.uids + 1 }
  teams : ∀ j, j ≠ s.cur → Table.find? t.teams j = Table.find? s.teams j
  blocks : ∀ x, x ≠ teamBlock s.cur → Table.find? t.blocks x = Table.find? s.blocks x
  block : t.block = { s.block with shares := t.block.shares }
  shares : ∀ cj, t.block.share cj = { s.block.share cj with chans := (t.block.share cj).chans }
  chans : ∀ cj c, (t.block.share cj).chans.getD c {} =
    if cj = s.shareIdx s.cur ∧ c = ch then
      { (s.block.share cj).chans.getD c {} with
        queue := ((s.block.share cj).chans.getD c {}).queue ++
          [{ id := s.team.nextIns, team := s.cur, sup := s.team.sup, uid := s.uids, after := after, body := body }] }
    else (s.block.share cj).chans.getD c {}
  next : t.team.nextIns = s.team.nextIns + 1
  cmds : t.team.cmds = s.team.cmds ++ [s.team.nextIns]
  unsealed : t.team.unsealed = s.team.unsealed ++ [s.team.nextIns]

/-- The channel of the current team takes one more command: the block has it, and its queue holds fewer than 64 (R136, R139). -/
structure ChannelTakes (s : State) (ch : Nat) : Prop where
  core : s.shareIdx s.cur < s.block.shares.length
  chan : ch < (s.block.share (s.shareIdx s.cur)).chans.length
  room : ((s.block.share (s.shareIdx s.cur)).chans.getD ch {}).queue.length < 64

/-- The value in sA names the launch `l`: -1 the team's own, and otherwise an identity assigned in its context (R291). -/
def NamesLaunch (s : State) (x : Word64) (l : Nat) : Prop :=
  (x.toInt = -1 ∧ l = teamLaunch s.cur) ∨
    (x.toNat < 0x100000000 ∧ x.toNat < s.ctx.nextLaunch ∧ l = launchKey (teamCtx s.cur) x.toNat)

/-- The job of a launch holds the level of it (R187). -/
def HasLevel (s : State) (l : Nat) (lv : LevelKind) : Prop :=
  let x := s.launchAt l
  let j := s.jobAt x.job
  match lv with
  | .launch => True
  | .graph => x.phase < j.phases.length ∧ x.graph < (j.phase x.phase).graphs.length
  | .phase => x.phase < j.phases.length
  | .job => True

/-- Launch `m` belongs to the level of launch `l`, in graphs and phases that are not over (R187, R189). -/
def BelowLevel (s : State) (l : Nat) (lv : LevelKind) (m : Nat) : Prop :=
  let x := s.launchAt l
  let j := s.jobAt x.job
  let inGraph (p g : Nat) : Prop := ∃ i ∈ ((j.phase p).graph g).launches, m = launchKey j.ctx i
  let inPhase (p : Nat) : Prop := ∃ g < (j.phase p).graphs.length, ((j.phase p).graph g).ctr.status < 2 ∧ inGraph p g
  match lv with
  | .launch => m = l
  | .graph => inGraph x.phase x.graph
  | .phase => inPhase x.phase
  | .job => ∃ p < j.phases.length, (j.phase p).ctr.status < 2 ∧ inPhase p

/-- Every launch that a graph of a job lists is a launch of that graph. -/
def JobsConsistent (s : State) : Prop :=
  ∀ j p g i, i ∈ (((s.jobAt j).phase p).graph g).launches →
    let x := s.launchAt (launchKey (s.jobAt j).ctx i)
    x.job = j ∧ x.phase = p ∧ x.graph = g

/-- The view of a completion counter (R291). -/
structure CounterView (v : Word64) (c : Counter) : Prop where
  status : v.extractLsb' 60 4 = BitVec.ofNat 4 c.status
  known : v.getLsbD 59 = c.known
  reserved : v.extractLsb' 56 3 = 0
  failed : v.extractLsb' 32 24 = BitVec.ofNat 24 (min c.failed 0xFFFFFF)
  ended : v.extractLsb' 0 32 = BitVec.ofNat 32 c.done

/-- A scalar instruction that reads global memory has reached its bytes: the address is aligned, the block is not provisional, the
translation reached the physical key `key` and left `s1`, and memory exists there (R89, R164). -/
structure ReadsGlobal (s s1 : State) (x : Word64) (align key pa tier : Nat) : Prop where
  aligned : x.toNat % align = 0
  confirmed : s.block.prov = false
  reached : ∃ dev mc, s.translate s.who x .read = (.ok pa tier dev mc, s1) ∧ s1.place (teamCtx s.cur) pa tier dev mc .read = .ok key ∧
    noMemory key = false

/-! ### Lane results -/

/-- Wherever the lane instruction may issue, it answers a next state, and the values `f t a p` of the executing lanes `p` are on
their way, readable `lat` cycles after it issued (R39). `t` is the team as the instruction reads it. -/
def LaneGives (i : Instr) (c : Ctl) (s : State) (lat : Nat) (f : Team → Active → Nat → List LaneWrite) : Prop :=
  ∀ a, Issuable i c s a → GivesLane i c s a lat (fun t p => f t a p)

/-- A word as an integer, two's complement or unsigned (R115). -/
def asInt (signed : Bool) {w : Nat} (x : BitVec w) : Int := if signed = true then x.toInt else x.toNat

/-- A lane operand under an integer type (R257, R303): a 32-bit register, or an even pair of them. -/
def laneInt (ty : IntTy) (t : Team) (a : Active) (p : Nat) (x : Src) : Int :=
  if ty.wide = true then asInt ty.signed (src64 t a p x) else asInt ty.signed (src32 t a p x)
/-- The b operand, which may be an immediate (R255). -/
def laneImm (ty : IntTy) (t : Team) (a : Active) (p : Nat) (x : SrcImm) : Int :=
  if ty.wide = true then asInt ty.signed (imm64 t a p x) else asInt ty.signed (imm32 t a p x)

/-- The write of an exact result under an integer type: modulo 2^n, or first clamped to the range of the type (R115, R303). -/
def laneFit (ty : IntTy) (sat : Bool) (p : Nat) (d : Dst) (z : Int) : List LaneWrite :=
  let n := if ty.wide = true then 64 else 32
  let lo : Int := if ty.signed = true then -2 ^ (n - 1) else 0
  let hi : Int := if ty.signed = true then 2 ^ (n - 1) - 1 else 2 ^ n - 1
  let v := if sat = true then max lo (min z hi) else z
  if ty.wide = true then writePair p d (BitVec.ofInt 64 v) else writeReg p d (BitVec.ofInt 32 v)

/-- The write of a result of one width or the other. -/
def laneWord (wide : Bool) (p : Nat) (d : Dst) (x32 : Word32) (x64 : Word64) : List LaneWrite :=
  if wide = true then writePair p d x64 else writeReg p d x32

/-- The bits of a word that has `len` bits of `fld` at `pos` and is `base` elsewhere (R314). -/
def inserted {w : Nat} (fld base : BitVec w) (pos len : Nat) : BitVec w :=
  BitVec.ofNat w (base.toNat / 2 ^ (pos + len) * 2 ^ (pos + len) + fld.toNat % 2 ^ len * 2 ^ pos + base.toNat % 2 ^ pos)

/-- Position and length of a bit field in a word of `w` bits (R314). -/
def fieldPos {w : Nat} (pos : BitVec w) : Nat := pos.toNat % w
def fieldLen {w : Nat} (pos len : BitVec w) : Nat := min len.toNat (w - fieldPos pos)

/-- The field of `BFE`, extended to the width (R314). -/
def extracted (signed : Bool) {w : Nat} (x pos len : BitVec w) : BitVec w :=
  if signed = true then (x.extractLsb' (fieldPos pos) (fieldLen pos len)).signExtend w
  else (x.extractLsb' (fieldPos pos) (fieldLen pos len)).setWidth w

/-- The 0 bits above the highest 1 bit (R313). -/
def zerosAbove {w : Nat} (x : BitVec w) : Nat := ((List.range w).takeWhile (fun j => !x.getLsbD (w - 1 - j))).length
/-- Bit j moved to bit w - 1 - j (R313). -/
def reversed {w : Nat} (x : BitVec w) : BitVec w := BitVec.ofFnLE (fun j => x.getLsbD (w - 1 - j))
/-- The number of 1 bits (R313). -/
def onesIn {w : Nat} (x : BitVec w) : Nat := ((List.range w).filter (fun j => x.getLsbD j)).length

/-- The comparisons of `ICMP` (R260, R316). -/
def intCompares (cd : Cond) (x y : Int) : Prop :=
  match cd with
  | .eq => x = y
  | .ne => x ≠ y
  | .lt => x < y
  | .le => x ≤ y
  | .gt => y < x
  | .ge => y ≤ x
  | _ => False

/-! ### Floating point -/

/-- A finite value as a rational number (R113). -/
def Num.toRat : Num → ℚ
  | .fin neg m e => (if neg = true then -1 else 1) * m * 2 ^ e
  | _ => 0

/-- The value of an encoding without its sign, by the table of R113. In an IEEE format the encoding of infinity stands for the next
power of two, so that rounding can be said of it as of any other (R122). -/
def Fmt.magnitude (f : Fmt) (x : Nat) : ℚ :=
  if x < 2 ^ f.fb then (x : ℚ) / 2 ^ f.fb * 2 ^ (1 - (f.bias : Int))
  else (1 + (x % 2 ^ f.fb : Nat) / 2 ^ f.fb) * 2 ^ (((x / 2 ^ f.fb : Nat) : Int) - f.bias)

/-- Which way a mode goes from a value of the sign: to nearest, toward zero, away from zero (R114). -/
inductive Toward where
  | nearest
  | zero
  | away
  deriving DecidableEq, Repr

def towardOf (md : Rm) (neg : Bool) : Toward :=
  match md with
  | .rn => .nearest
  | .rz => .zero
  | .rp => if neg = true then .zero else .away
  | .rm => if neg = true then .away else .zero

/-- `x` is the encoding, without its sign, to which the magnitude `q` rounds in an IEEE format: the nearest, ties to even; the
greatest not above it; or the least not below it (R114, R122). -/
structure Rounded (f : Fmt) (way : Toward) (q : ℚ) (x : Nat) : Prop where
  encoding : x ≤ f.infEnc
  nearest : way = .nearest →
    (x ≠ 0 → f.magnitude (x - 1) + f.magnitude x ≤ 2 * q ∧ (f.magnitude (x - 1) + f.magnitude x = 2 * q → x % 2 = 0)) ∧
    (x < f.infEnc → 2 * q ≤ f.magnitude x + f.magnitude (x + 1) ∧ (2 * q = f.magnitude x + f.magnitude (x + 1) → x % 2 = 0))
  zero : way = .zero → x < f.infEnc ∧ f.magnitude x ≤ q ∧ (x + 1 < f.infEnc → q < f.magnitude (x + 1))
  away : way = .away → (x < f.infEnc → q ≤ f.magnitude x) ∧ (x ≠ 0 → f.magnitude (x - 1) < q)

/-- The encoding `r` in an IEEE format is the number `q` rounded once; where `q` is 0, the zero of the sign `zneg` (R114). -/
def RoundsOnce (f : Fmt) (md : Rm) (q : ℚ) (zneg : Bool) (r : Nat) : Prop :=
  if q = 0 then r = f.signBit zneg
  else ∃ x, r = f.signBit (decide (q < 0)) + x ∧ Rounded f (towardOf md (decide (q < 0))) |q| x

/-- The magnitude bits of an encoding, whether it is a NaN, infinite, finite, and its value (R112, R113). -/
def magBits {w : Nat} (x : BitVec w) : Nat := x.toNat % 2 ^ (w - 1)
def IsNan (f : Fmt) {w : Nat} (x : BitVec w) : Prop := f.infEnc < magBits x
def IsInf (f : Fmt) {w : Nat} (x : BitVec w) : Prop := magBits x = f.infEnc
def IsFin (f : Fmt) {w : Nat} (x : BitVec w) : Prop := magBits x < f.infEnc
def floatVal (f : Fmt) {w : Nat} (x : BitVec w) : ℚ := (if x.msb = true then -1 else 1) * f.magnitude (magBits x)
/-- The infinity of a sign. -/
def infWord (f : Fmt) (w : Nat) (neg : Bool) : BitVec w := BitVec.ofNat w (f.signBit neg + f.infEnc)

/-- The arithmetic of an IEEE format whose canonical NaN is `nan` (R114, R317): finite operands give the exact result rounded once;
a NaN operand, infinity minus infinity and zero times infinity give the canonical NaN; infinities otherwise act as IEEE 754 says. -/
structure ArithOf {w : Nat} (f : Fmt) (md : Rm) (nan : BitVec w) (add sub mul : BitVec w → BitVec w → BitVec w)
    (fma : BitVec w → BitVec w → BitVec w → BitVec w) : Prop where
  add_fin : ∀ a b, IsFin f a → IsFin f b →
    RoundsOnce f md (floatVal f a + floatVal f b) (if a.msb = b.msb then a.msb else md == .rm) (add a b).toNat
  sub_fin : ∀ a b, IsFin f a → IsFin f b →
    RoundsOnce f md (floatVal f a - floatVal f b) (if a.msb ≠ b.msb then a.msb else md == .rm) (sub a b).toNat
  mul_fin : ∀ a b, IsFin f a → IsFin f b → RoundsOnce f md (floatVal f a * floatVal f b) (a.msb != b.msb) (mul a b).toNat
  fma_fin : ∀ a b c, IsFin f a → IsFin f b → IsFin f c →
    RoundsOnce f md (floatVal f a * floatVal f b + floatVal f c) (if (a.msb != b.msb) = c.msb then c.msb else md == .rm) (fma a b c).toNat
  nan_op : ∀ a b, IsNan f a ∨ IsNan f b → add a b = nan ∧ sub a b = nan ∧ mul a b = nan
  nan_fma : ∀ a b c, IsNan f a ∨ IsNan f b ∨ IsNan f c → fma a b c = nan
  inf_inf : ∀ a b, IsInf f a → IsInf f b →
    add a b = (if a.msb = b.msb then a else nan) ∧ sub a b = (if a.msb ≠ b.msb then a else nan) ∧
      mul a b = infWord f w (a.msb != b.msb)
  inf_fin : ∀ a b, IsInf f a → IsFin f b →
    add a b = a ∧ add b a = a ∧ sub a b = a ∧ sub b a = infWord f w (!a.msb) ∧
      mul a b = (if floatVal f b = 0 then nan else infWord f w (a.msb != b.msb)) ∧
      mul b a = (if floatVal f b = 0 then nan else infWord f w (a.msb != b.msb))
  zero_inf : ∀ a b c, (IsInf f a ∧ floatVal f b = 0) ∨ (floatVal f a = 0 ∧ IsInf f b) → fma a b c = nan
  fin_inf : ∀ a b c, IsFin f a → IsFin f b → IsInf f c → fma a b c = c
  inf_any : ∀ a b c, (IsInf f a ∧ ¬IsNan f b ∧ floatVal f b ≠ 0) ∨ (IsInf f b ∧ ¬IsNan f a ∧ floatVal f a ≠ 0) →
    (IsFin f c → fma a b c = infWord f w (a.msb != b.msb)) ∧
      (IsInf f c → fma a b c = if (a.msb != b.msb) = c.msb then c else nan)

/-- The integer to which a number rounds in a mode (R114, R321). -/
def RoundsToInt (md : Rm) (q : ℚ) (k : Int) : Prop :=
  match md with
  | .rn => |q - k| ≤ 1 / 2 ∧ (|q - k| = 1 / 2 → k % 2 = 0)
  | .rz => |(k : ℚ)| ≤ |q| ∧ |q - k| < 1 ∧ 0 ≤ q * k
  | .rp => q ≤ k ∧ k < q + 1
  | .rm => k ≤ q ∧ q < k + 1

/-! ### Conversions -/

/-- What a conversion reads (R112, R113, R116): a NaN, an infinity, or a number, a zero with its sign. -/
inductive CvtSource where
  | nan
  | inf (neg : Bool)
  | num (q : ℚ) (zneg : Bool)
  deriving DecidableEq

/-- The greatest encoding of a finite value, without its sign (R112): 2^(e + f) - 2 in E4M3, 2^(e + f) - 1 in E2M1. -/
def Fmt.top (f : Fmt) : Nat :=
  match f.family with
  | .ieee => f.infEnc - 1
  | .oneNan => 2 ^ (f.eb + f.fb) - 2
  | .allFinite => 2 ^ (f.eb + f.fb) - 1

/-- What the low bits of a source operand are under a floating-point type (R112, R113, R116). -/
def sourceOf (st : CvtTy) (x : Nat) : CvtSource :=
  match cvtFmt st with
  | none => if x = 255 then .nan else .num (2 ^ ((x : Int) - 127)) false
  | some g =>
    let neg := decide (x / 2 ^ (g.eb + g.fb) % 2 = 1)
    let mag := x % 2 ^ (g.eb + g.fb)
    if g.family = .ieee ∧ mag = g.infEnc then .inf neg
    else if g.top < mag then .nan
    else .num ((if neg = true then -1 else 1) * g.magnitude mag) neg

/-- `x` is the encoding, without its sign, to which the magnitude `q` rounds as if the exponent range were unbounded (R122); every result
beyond the largest finite value counts as the encoding above it. -/
structure RoundedTo (f : Fmt) (way : Toward) (q : ℚ) (x : Nat) : Prop where
  encoding : x ≤ f.top + 1
  nearest : way = .nearest →
    (x ≠ 0 → f.magnitude (x - 1) + f.magnitude x ≤ 2 * q ∧ (f.magnitude (x - 1) + f.magnitude x = 2 * q → x % 2 = 0)) ∧
    (x ≤ f.top → 2 * q ≤ f.magnitude x + f.magnitude (x + 1) ∧ (2 * q = f.magnitude x + f.magnitude (x + 1) → x % 2 = 0))
  zero : way = .zero → x ≤ f.top ∧ f.magnitude x ≤ q ∧ (x < f.top → q < f.magnitude (x + 1))
  away : way = .away → (x ≤ f.top → q ≤ f.magnitude x) ∧ (x ≠ 0 → f.magnitude (x - 1) < q)

/-- The result of a conversion that is infinite, or beyond the largest finite value in a mode that goes there (R122, R123). -/
def Fmt.beyond (f : Fmt) (sat neg : Bool) : Nat :=
  match f.family with
  | .ieee => f.signBit neg + (if sat = true then f.top else f.top + 1)
  | .oneNan => if sat = true then f.signBit neg + f.top else f.top + 1
  | .allFinite => f.signBit neg + f.top

/-- A number converts to the encoding `r` of a format (R122, R123). -/
def ConvertsNumber (f : Fmt) (md : Rm) (sat : Bool) (q : ℚ) (zneg : Bool) (r : Nat) : Prop :=
  let neg := decide (q < 0)
  if q = 0 then r = f.signBit zneg
  else ∃ x, RoundedTo f (towardOf md neg) |q| x ∧ r = if f.top < x then f.beyond sat neg else f.signBit neg + x

/-- A source converts to the E8M0 code `r` (R126). -/
def ConvertsE8M0 (md : Rm) (sat : Bool) (x : CvtSource) (r : Nat) : Prop :=
  match x with
  | .nan => r = 0xFF
  | .inf _ => r = if sat = true then 0xFE else 0xFF
  | .num q _ =>
    if q = 0 then r = 0
    else ∃ k : Int, 2 ^ k ≤ |q| ∧ |q| < 2 ^ (k + 1) ∧
      let j := match md with
        | .rn => if 2 * |q| < 3 * 2 ^ k ∨ (2 * |q| = 3 * 2 ^ k ∧ (k + 127) % 2 = 0) then k else k + 1
        | .rp => if |q| = 2 ^ k then k else k + 1
        | _ => k
      (r : Int) = if j < -127 then 0 else if 127 < j then (if sat = true then 0xFE else 0xFF) else j + 127

/-- The range of an integer type, and a number clamped to it (R115). -/
def intEnd (dt : CvtTy) (neg : Bool) : Int :=
  if cvtSigned dt = true then (if neg = true then -2 ^ (cvtBits dt - 1) else 2 ^ (cvtBits dt - 1) - 1)
  else if neg = true then 0 else 2 ^ cvtBits dt - 1
def clamped (dt : CvtTy) (z : Int) : Int := max (intEnd dt true) (min z (intEnd dt false))
/-- The code `r` of an integer type holds an integer modulo its width. -/
def HoldsInt (dt : CvtTy) (z : Int) (r : Nat) : Prop := (r : Int) = z % 2 ^ cvtBits dt

/-- A source converts to the integer code `r` (R124). -/
def ConvertsInt (md : Rm) (dt : CvtTy) (x : CvtSource) (r : Nat) : Prop :=
  match x with
  | .nan => r = 0
  | .inf neg => HoldsInt dt (intEnd dt neg) r
  | .num q _ => ∃ k, RoundsToInt md q k ∧ HoldsInt dt (clamped dt k) r

/-- A source converts to the code `r` of a type (R122, R123, R124, R126). -/
def ConvertsTo (md : Rm) (sat : Bool) (dt : CvtTy) (x : CvtSource) (r : Nat) : Prop :=
  match cvtFmt dt with
  | none => if dt = .e8m0 then ConvertsE8M0 md sat x r else ConvertsInt md dt x r
  | some f =>
    match x with
    | .nan => r = f.nan
    | .inf neg => r = f.beyond sat neg
    | .num q zneg => ConvertsNumber f md sat q zneg r

/-- An integer of `w` bits converts to the code `r` of a type (R125). -/
def ConvertsFromInt (md : Rm) (sat : Bool) (w : Nat) (dt : CvtTy) (z : Int) (r : Nat) : Prop :=
  if cvtInt dt = true then HoldsInt dt (if sat = true ∧ cvtBits dt ≤ w then clamped dt z else z) r
  else ConvertsTo md sat dt (.num z false) r

/-! ### Functions -/

/-- `x` is the encoding, without its sign, nearest to a positive real number, ties to even: `below q` says that `q` is at most that
number, `above q` that it is at least it (R133). -/
structure NearestTo (f : Fmt) (below above : ℚ → Prop) (x : Nat) : Prop where
  encoding : x ≤ f.infEnc
  low : x ≠ 0 → let q := (f.magnitude (x - 1) + f.magnitude x) / 2
    below q ∧ (above q → x % 2 = 0)
  high : x < f.infEnc → let q := (f.magnitude x + f.magnitude (x + 1)) / 2
    above q ∧ (below q → x % 2 = 0)

/-! ### Picks -/

/-- The order of `FMIN` and `FMAX`: -0 lies below +0 (R318). -/
def floatKey {w : Nat} (x : BitVec w) : Int := if x.msb = true then -(magBits x : Int) - 1 else magBits x
/-- The lesser or the greater of two encodings, a NaN counting as missing (R318). -/
structure PickOf {w : Nat} (f : Fmt) (nan : BitVec w) (lesser greater : BitVec w → BitVec w → BitVec w) : Prop where
  both : ∀ a b, ¬IsNan f a → ¬IsNan f b →
    lesser a b = (if floatKey b < floatKey a then b else a) ∧ greater a b = (if floatKey a < floatKey b then b else a)
  one : ∀ a b, IsNan f a → ¬IsNan f b → lesser a b = b ∧ lesser b a = b ∧ greater a b = b ∧ greater b a = b
  none : ∀ a b, IsNan f a → IsNan f b → lesser a b = nan ∧ greater a b = nan

/-- The comparisons of R320. -/
def floatCompares (f : Fmt) (cd : Cond) {w : Nat} (x y : BitVec w) : Prop :=
  let num := ¬IsNan f x ∧ ¬IsNan f y
  match cd with
  | .eq => num ∧ floatVal f x = floatVal f y
  | .ne => ¬(num ∧ floatVal f x = floatVal f y)
  | .lt => num ∧ floatVal f x < floatVal f y
  | .le => num ∧ floatVal f x ≤ floatVal f y
  | .gt => num ∧ floatVal f y < floatVal f x
  | .ge => num ∧ floatVal f y ≤ floatVal f x
  | .num => num
  | .nan => ¬num

/-- `FRINT` (R321). -/
structure FrintOf (md : Rm) (x y : Word32) : Prop where
  nan : IsNan fmtF32 x → y = 0x7FC00000
  same : ¬IsNan fmtF32 x → magBits x = 0 ∨ IsInf fmtF32 x ∨ 2 ^ 23 ≤ |floatVal fmtF32 x| → y = x
  whole : IsFin fmtF32 x → IsFin fmtF32 y ∧ y.msb = x.msb ∧ ∃ k : Int, floatVal fmtF32 y = k ∧ RoundsToInt md (floatVal fmtF32 x) k

/-! ### Bands -/

/-- The lanes of the band of position `p` that execute an instruction, ascending (R30, R327). -/
def mates (t : Team) (c : Ctl) (p : Nat) : List Nat := (t.execLanes c).filter (fun j => decide (j / 32 = p / 32))

/-- The combinations of `REDUCE` and `SCAN`, and their identities (R330). -/
def combine (op : BandOp) (x y : Word32) : Word32 :=
  match op with
  | .int .add => x + y
  | .int .min => BitVec.ofInt 32 (min x.toInt y.toInt)
  | .int .max => BitVec.ofInt 32 (max x.toInt y.toInt)
  | .int .minu => BitVec.ofNat 32 (min x.toNat y.toNat)
  | .int .maxu => BitVec.ofNat 32 (max x.toNat y.toNat)
  | .int .and => x &&& y
  | .int .or => x ||| y
  | .int .xor => x ^^^ y
  | .fadd => addF32 .rn x y
  | .fmin => minF32 x y
  | .fmax => maxF32 x y
def identity (op : BandOp) : Word32 :=
  match op with
  | .int .min => 0x7FFFFFFF
  | .int .max => 0x80000000
  | .int .minu | .int .and => 0xFFFFFFFF
  | .int _ => 0
  | .fadd => 0x80000000
  | .fmin | .fmax => 0x7FC00000
/-- The values that the 32 lanes of a band contribute: a lane that does not execute contributes the identity (R127). -/
def contributed (op : BandOp) (t : Team) (a : Active) (c : Ctl) (p : Nat) (x : Src) (i : Nat) : Word32 :=
  if 32 * (p / 32) + i ∈ mates t c p then
    (match op with
      | .int _ => src32 t a (32 * (p / 32) + i) x
      | _ => srcF32 t a (32 * (p / 32) + i) x)
  else identity op
/-- `k` steps of the butterfly over the block of 2^k lanes from `i` up (R127). -/
def butterflyOf (f : Word32 → Word32 → Word32) (x : Nat → Word32) : Nat → Nat → Word32
  | 0, i => x i
  | k + 1, i => f (butterflyOf f x k i) (butterflyOf f x k (i + 2 ^ k))
/-- Lane `i` after `k` steps of the scan (R128). -/
def scanOf (f : Word32 → Word32 → Word32) (x : Nat → Word32) : Nat → Nat → Word32
  | 0, i => x i
  | k + 1, i => if 2 ^ k ≤ i then f (scanOf f x k (i - 2 ^ k)) (scanOf f x k i) else scanOf f x k i

/-- `SAMPLE` over 32 weights with the random word `u` (R331): the lane drawn and whether it is valid. -/
structure SampleOf (w : Nat → Word32) (u : Word32) (r : Word32) (ok : Bool) : Prop where
  bad : (∃ i < 32, IsNan fmtF32 (w i) ∨ ((w i).msb = true ∧ magBits (w i) ≠ 0)) → r = 0xFFFFFFFF ∧ ok = false
  sure : (∀ i < 32, ¬IsNan fmtF32 (w i) ∧ ((w i).msb = true → magBits (w i) = 0)) →
    (∀ i < 32, IsInf fmtF32 (w i) → (∀ j < i, ¬IsInf fmtF32 (w j)) → r = BitVec.ofNat 32 i ∧ ok = true) ∧
    ((∀ i < 32, magBits (w i) = 0) → r = 0xFFFFFFFF ∧ ok = false)
  drawn : (∀ i < 32, IsFin fmtF32 (w i) ∧ ((w i).msb = true → magBits (w i) = 0)) → (∃ i < 32, magBits (w i) ≠ 0) →
    ∀ target : Word32,
      (IsInf fmtF32 (scanOf (addF32 .rn) w 5 31) → target = 0x7F800000) →
      (IsFin fmtF32 (scanOf (addF32 .rn) w 5 31) →
        RoundsOnce fmtF32 .rn (u.toNat / 2 ^ 32 * floatVal fmtF32 (scanOf (addF32 .rn) w 5 31))
          (scanOf (addF32 .rn) w 5 31).msb target.toNat) →
      ok = true ∧
      (∀ i < 32, magBits (w i) ≠ 0 → floatVal fmtF32 target < floatVal fmtF32 (scanOf (addF32 .rn) w 5 i) →
        (∀ j < i, magBits (w j) ≠ 0 → floatVal fmtF32 (scanOf (addF32 .rn) w 5 j) ≤ floatVal fmtF32 target) → r = BitVec.ofNat 32 i) ∧
      ((∀ j < 32, magBits (w j) ≠ 0 → floatVal fmtF32 (scanOf (addF32 .rn) w 5 j) ≤ floatVal fmtF32 target) →
        ∀ i < 32, magBits (w i) ≠ 0 → (∀ j < 32, i < j → magBits (w j) = 0) → r = BitVec.ofNat 32 i)

/-- A round of `RAND` (R325): the words before it are `x`, the words after it `y`. -/
structure RandRound (r : Nat) (x y : Word32 × Word32 × Word32 × Word32) : Prop where
  round : ∃ a b c d : Word32,
    a = x.1 + x.2.1 + BitVec.ofNat 32 r * BitVec.ofNat 32 0x9E3779B9 ∧ d = (x.2.2.2 ^^^ a).rotateLeft 16 ∧
    c = x.2.2.1 + d ∧ b = (x.2.1 ^^^ c).rotateLeft 12 ∧
    y.1 = a + b ∧ y.2.2.2 = (d ^^^ y.1).rotateLeft 8 ∧ y.2.2.1 = c + y.2.2.2 ∧ y.2.1 = (b ^^^ y.2.2.1).rotateLeft 7

/-! ### Variable-latency lane instructions -/

/-- `t` is `s` but for the current team and the performance counters (a pass that meets a bank twice counts its replay, R194). -/
structure IssuedOnly (s t : State) : Prop where
  rest : t = { s with teams := t.teams, perf := t.perf }
  others : ∀ j, j ≠ s.cur → Table.find? t.teams j = Table.find? s.teams j

/-- The current team has entered its handler for a trap of a lane instruction at `a`'s next instruction (R38, R84, R384): the results
still to come are written, the rest of the run is set aside before the runs behind it, and the handler's mask is `lanes`. -/
structure EnteredLane (s t : State) (a : Active) (cause detail : Nat) (addr : Word64) (lanes : MaskBits) (lane : Nat) : Prop where
  rest : t = { s with teams := t.teams, cores := t.cores, perf := t.perf }
  others : ∀ j, j ≠ s.cur → Table.find? t.teams j = Table.find? s.teams j
  team : t.team =
    { s.team with
      lanes := (s.team.land a.pend).lanes
      trapInfo := t.team.trapInfo, trapAddr := addr, sup := true, mask := lanes, spc := s.ctx.trapBase, runs := [], active := none
      trapRet := some { mask := s.team.mask, spc := s.team.spc, resume := a.lpc
                        aside := { a.run with addr := a.lpc, done := a.count } :: s.team.runs.tail, cmd := none }
      ltrap := none, heldTrap := none, gated := false, held := false, polling := false, hold := none, holdTrap := none
      progress := t.team.progress }
  watch : s.team.hold = none → t.team.progress = s.team.progress
  cause : t.team.trapInfo.extractLsb' 0 8 = BitVec.ofNat 8 cause
  detail : t.team.trapInfo.extractLsb' 32 8 = BitVec.ofNat 8 detail
  lane : t.team.trapInfo.extractLsb' 16 10 = BitVec.ofNat 10 lane
  stream : t.team.trapInfo.getLsbD 31 = false

/-- Nothing stands between a failing check of a lane instruction and the handler (R54, R387, R388, R394). -/
structure CanTrapLane (s : State) : Prop where
  user : s.team.sup = false
  handler : s.ctx.trapBase ≠ 0
  confirmed : s.block.prov = false
  first : s.block.squashDue = false ∧ s.block.ending = none ∧ s.block.saveDue = false

/-- The instruction answers the state in which its lanes' trap has been entered. -/
def LaneTraps (i : Instr) (s : State) (a : Active) (cause detail : Nat) (addr : Word64) (lanes : MaskBits) (lane : Nat) : Prop :=
  ∃ t, exec i s = .next t ∧ EnteredLane s t a cause detail addr lanes lane

/-- `n` bytes of scratchpad at the address `x` of a lane pass every check: the bytes from `off` of core index `ci`, with no range
lock against the access (R89, R173, R338). -/
structure ScratchOk (s : State) (x n : Nat) (write : Bool) (ci off : Nat) : Prop where
  spot : ScratchSpot s (BitVec.ofNat 64 x) n ci off
  free : s.scratchLock (teamBlock s.cur) ci off n write = none

/-- The binary search of R332 and R333 between `lo` and `hi`, as its pseudocode steps. -/
inductive SearchOf (test : Nat → Prop) : Nat → Nat → Nat → Prop where
  | done {lo hi : Nat} : hi ≤ lo → SearchOf test lo hi lo
  | up {lo hi r : Nat} : lo < hi → test ((lo + hi) / 2) → SearchOf test ((lo + hi) / 2 + 1) hi r → SearchOf test lo hi r
  | down {lo hi r : Nat} : lo < hi → ¬test ((lo + hi) / 2) → SearchOf test lo ((lo + hi) / 2) r → SearchOf test lo hi r

/-- What an atomic operation writes over the bits `old`, from the bits `dat` and the comparand (R343): none where it writes nothing. -/
def atomicResult {w : Nat} (fadd fmin fmax : BitVec w → BitVec w → BitVec w) (op : AtomOp) (old dat cmp : BitVec w) : Option (BitVec w) :=
  match op with
  | .add => some (old + dat)
  | .fadd => some (fadd old dat)
  | .min => some (BitVec.ofInt w (min old.toInt dat.toInt))
  | .max => some (BitVec.ofInt w (max old.toInt dat.toInt))
  | .minu => some (BitVec.ofNat w (min old.toNat dat.toNat))
  | .maxu => some (BitVec.ofNat w (max old.toNat dat.toNat))
  | .fmin => some (fmin old dat)
  | .fmax => some (fmax old dat)
  | .and => some (old &&& dat)
  | .or => some (old ||| dat)
  | .xor => some (old ^^^ dat)
  | .swap => some dat
  | .cas => if old = cmp then some dat else none

/-- A data operand of a memory instruction, as the 64 bits whose low 4 or 8 bytes it gives (R335). -/
def dataWord (t : Team) (a : Active) (p : Nat) (wide float : Bool) (x : Src) : Word64 :=
  if wide = true then (if float = true then srcF64 t a p x else src64 t a p x)
  else (if float = true then srcF32 t a p x else src32 t a p x).setWidth 64

/-- The memory after one atomic operation of 4 or 8 bytes at `k` (R343). -/
def atomicAt (op : AtomOp) (wide : Bool) (k : Nat) (dat cmp : Word64) (m : Memory) : Memory :=
  if wide = true then
    match atomicResult (addF64 .rn) minF64 maxF64 op (BitVec.ofNat 64 (m.readNat k 8)) dat cmp with
    | some z => m.writeNat k 8 z.toNat
    | none => m
  else
    match atomicResult (addF32 .rn) minF32 maxF32 op (BitVec.ofNat 32 (m.readNat k 4)) (dat.setWidth 32) (cmp.setWidth 32) with
    | some z => m.writeNat k 4 z.toNat
    | none => m

/-- The operation reads its data as floating point (R335, R343). -/
def readsFloat : AtomOp → Bool
  | .fadd | .fmin | .fmax => true
  | _ => false

/-- The lanes `ex` of a global access reach memory: each address is aligned, the block is not provisional and its context keeps no
log, the walks reached the places `spot` and left `s1`, memory exists there and no range lock refuses the access (R164, R169, R173,
R338, R350, R351). -/
structure ReachesGlobal (s s1 : State) (ex : List Nat) (va : Nat → Nat) (g : GlobalUse) (spot : Nat → Spot) : Prop where
  aligned : ∀ p ∈ ex, va p % g.bytes = 0
  confirmed : s.block.prov = false
  free : s.ctx.mode = .free
  reached : ∃ xs, translateUnits s.who (if g.use = .read then .read else .write) (unitsOf g.bytes (ex.map va)) s = (xs, s1) ∧
    ∀ p ∈ ex, placeOf s1 xs g (va p) = .spot (spot p)
  present : ∀ p ∈ ex, ∀ k ∈ spotKeys s1 g (spot p), noMemory k = false
  unlocked : ∀ p ∈ ex, s1.globalLock s.team.core (teamAsid s.cur) (va p) g.bytes (g.use != .read) = none

/-- Two accesses touch a common byte. -/
def CommonByte (o p : LaneOp) : Prop := ∃ b, (∃ j ∈ o.keys, j ≤ b ∧ b < j + o.bytes) ∧ ∃ k ∈ p.keys, k ≤ b ∧ b < k + p.bytes

/-- An access of a lane performs after its instruction has issued: the turn says so, of a relaxed one, or it waits for an access that it
comes after at common bytes (R199, R200; DESIGN CHOICE, log 50). -/
def PerformsLater (s : State) (o : LaneOp) : Prop := (o.strong = false ∧ o.pos ∈ s.laneLater) ∨ s.blockedOp o = true

/-- Access `p` comes before access `q`: its team issued it before, or a barrier has placed it before the accesses of the other teams of its
block (R200, R205, R209). -/
def ComesBefore (p q : LaneOp) : Prop :=
  (p.team = q.team ∧ p.ins < q.ins) ∨ (p.team ≠ q.team ∧ p.shared = true ∧ teamBlock p.team = teamBlock q.team)

/-- The state in which the lanes `ex` of an access begin: one with acquire, release or sequentially consistent order begins when every
access that its team issued before has performed (R205, R208; log 50). -/
def BeginsFrom (s1 s2 : State) (o : Order) (ex : List Nat) : Prop := if o ≠ .rlx ∧ ex ≠ [] then s1.drainOps s1.cur = .ok s2 else s2 = s1

/-- The state in which the lanes `ex` of a scratchpad access begin: one with release or sequentially consistent order begins when every
access that comes before it has performed (R205, R208; log 50). -/
def ReleasesFrom (s1 s2 : State) (o : Order) (ex : List Nat) : Prop :=
  if (o = .rel ∨ o = .ar ∨ o = .sc) ∧ ex ≠ [] then s1.drainOps s1.cur = .ok s2 else s2 = s1

/-- How the lanes `ex` of an access perform (R198, R199): `now` in this order as it issues, and `later` at later turns. -/
structure LanesPerform (s : State) (ex now later : List Nat) (op : Nat → LaneOp) : Prop where
  once : List.Perm (now ++ later) ex
  now_ : ∀ p ∈ now, ¬PerformsLater s (op p)
  later : ∀ p ∈ later, PerformsLater s (op p)

/-- `t` is `s` but for memory, the shape records that a write reaches (R53), the accesses `left` that perform later, and the current
team. -/
structure AccessedOnly (s t : State) (left : List LaneOp) : Prop where
  rest : t = { s with mem := t.mem, launches := t.launches, ops := s.ops ++ left, teams := t.teams }
  shapes : ∀ l, ∃ g, Table.find? t.launches l = (Table.find? s.launches l).map (fun k => { k with shape := g })
  others : ∀ j, j ≠ s.cur → Table.find? t.teams j = Table.find? s.teams j

/-! ### Tiles and matrix products -/

/-- Element `j`, of `e` bits, of little-endian bytes from `base` up; at 4 bits the low nibble comes first (R74). -/
def elemAt (e : Nat) (m : Memory) (base j : Nat) : Nat := m.readNat (base + j * e / 8) (max 1 (e / 8)) / 2 ^ (j * e % 8) % 2 ^ e
/-- Element `j` of row `i` of a tile (R74). -/
def tileElem (e : Nat) (m : Memory) (i j : Nat) : Nat := elemAt e m (512 * i) j
/-- Where a swizzle puts the byte at offset `x` (R146, R359). -/
def swizzled (sw : Swizzle) (x : Nat) : Nat := if sw.m = 0 then x else x ^^^ (x / 2 ^ sw.b % 2 ^ sw.m * 2 ^ (sw.k4 + 4))
/-- Element `j`, of `e` bits, of the scratchpad row at offset `o`, at its swizzled place: a swizzle moves 16 bytes together (R359). -/
def rowElem (e : Nat) (sw : Swizzle) (m : Memory) (o j : Nat) : Nat :=
  m.readNat (swizzled sw (o + j * e / 8)) (max 1 (e / 8)) / 2 ^ (j * e % 8) % 2 ^ e

/-- `t` is `s` but for the current team, what its block holds on its cores, and the tables that `t` is named for. -/
structure InBlock (s t : State) : Prop where
  rest : t = { s with blocks := t.blocks, teams := t.teams, cores := t.cores, perf := t.perf, fresh := t.fresh, uids := t.uids }
  teams : ∀ j, j ≠ s.cur → Table.find? t.teams j = Table.find? s.teams j
  blocks : ∀ b, b ≠ teamBlock s.cur → Table.find? t.blocks b = Table.find? s.blocks b
  block : t.block = { s.block with shares := t.block.shares }

/-- Only the tile registers `d` of the core indices `cis` of the block were written; `t` is `s` but for them and the current team. -/
structure WroteTiles (s t : State) (cis : List Nat) (d : Nat) : Prop where
  inBlock : InBlock s t
  shares : ∀ cj, t.block.share cj = { s.block.share cj with tiles := (t.block.share cj).tiles }
  tiles : ∀ cj n, ¬(cj ∈ cis ∧ n = d) → (t.block.share cj).tiles.getD n [] = (s.block.share cj).tiles.getD n []

/-- The block holds a tile register `d` on core index `ci`. -/
def HasTile (s : State) (ci d : Nat) : Prop := ci < s.block.shares.length ∧ d < (s.block.share ci).tiles.length

/-- An element as its operand's format reads it, times its block's scale where the operand is scaled (R113, R117, R370). -/
def scaledElem (f : Nat) (scale : Byte) (v : Num) : Num := if matScaled f = true then v.mul (valE8M0 scale.toNat) else v
/-- The scale of block `q` of row or column `i` of an array at offset `off` (R369). -/
def scaleAt (x : FormatBlock) (m : Memory) (off i q : Nat) : Byte := Memory.read m (swizzled (swizzleOf x.sw) (off + i * (x.k / x.blk) + q))
/-- A[i][k] (R370). -/
def aElem (x : FormatBlock) (pt : Port) (tile scratch : Memory) (i k : Nat) : Num :=
  scaledElem x.fa (scaleAt x scratch x.aScale i (k / x.blk)) (matValue x.fa (match pt with
    | .row => tileElem (matBits x.fa) tile i k
    | .col => tileElem (matBits x.fa) tile k i))
/-- B[k][j] (R118, R369, R370). -/
def bElem (x : FormatBlock) (wbuf scratch : Memory) (off table j k : Nat) : Num :=
  scaledElem x.fb (scaleAt x scratch x.bScale j (k / x.blk))
    (if x.fb = 7 then
      (vq2Weights (if x.table = true then some (wbuf.slice table 2048) else none) (elemAt 16 wbuf (off + j * (x.k / 4)) (k / 8))).getD (k % 8) .nan
    else matValue x.fb (elemAt (matBits x.fb) wbuf (off + j * (x.k * matBits x.fb / 8)) k))

/-- The number is finite, with the value `q`. -/
def HasValue (v : Num) (q : ℚ) : Prop := v ≠ .nan ∧ (∀ neg, v ≠ .inf neg) ∧ v.toRat = q

/-- The value of a floating-point code that is neither an infinity nor a NaN (R113): `e` exponent bits above `m` fraction bits, the
sign above both. -/
def fieldsValue (e m bias x : Nat) : ℚ :=
  let sign : ℚ := if x.testBit (e + m) = true then -1 else 1
  let ex := x / 2 ^ m % 2 ^ e
  let frac : ℚ := (x % 2 ^ m : Nat) / 2 ^ m
  if ex = 0 then sign * 2 ^ (1 - (bias : Int)) * frac else sign * 2 ^ ((ex : Int) - bias) * (1 + frac)

/-- One vector of magnitudes comes before another in the order of the lattice table (R119): by squared norm, then by the first element
that differs. Code c stands for the magnitude c + 1/2. -/
def LatticeBefore (u v : Nat → Nat) : Prop :=
  let norm (w : Nat → Nat) : ℚ := ((List.range 8).map (fun j => ((w j : ℚ) + 1 / 2) ^ 2)).sum
  norm u < norm v ∨ (norm u = norm v ∧ ∃ j < 8, (∀ i < j, u i = v i) ∧ u j < v j)

/-- A class 6 instruction waits at issue: the rest of its run leaves the grant and re-enters arbitration when its causes have cleared,
and nothing of it is performed (R356). -/
def WaitsOutsideGrant (i : Instr) (s : State) (a : Active) : Prop :=
  ∃ t, exec i s = .next t ∧ t = { s with teams := t.teams, cores := t.cores, perf := t.perf } ∧
    (∀ j, j ≠ s.cur → Table.find? t.teams j = Table.find? s.teams j) ∧
    (∀ k, (t.coreAt k).locks = (s.coreAt k).locks ∧ (t.coreAt k).arrayBusy = (s.coreAt k).arrayBusy) ∧
    t.team.active = none ∧ t.team.parked.isSome = true ∧ t.team.inflight = s.team.inflight ∧
    t.team.runs = { a.run with addr := a.lpc, done := a.count } :: s.team.runs.tail

/-! ### The canonical form of memories -/

/-- Every memory of the part is in its canonical form: global memory, the weight store, what each block holds on each of its cores,
and the constant window of each launch. -/
structure MemoriesWf (s : State) : Prop where
  global : s.mem.wf = true
  store : s.wstore.wf = true
  blocks : ∀ e ∈ s.blocks, ∀ h ∈ e.2.shares, h.scratch.wf = true ∧ h.wbuf.wf = true ∧ ∀ m ∈ h.tiles, Memory.wf m = true
  windows : ∀ e ∈ s.launches, e.2.window.wf = true

/-- The table of teams lists each team once, in rising order. -/
def TeamsRising (s : State) : Prop := (s.teams.map (·.1)).Pairwise (· < ·)

/-! ### Steps of the part -/

/-- What orders the ready runs that have not aged, least first: launch priority, start, virtual function, launch, block, team (R37). -/
def grantKey (s : State) (k : Nat) : List Nat :=
  let x := s.launchAt (teamLaunch k)
  [7 - x.prio, x.started.toNat, teamVf k, launchIdent (teamLaunch k), k]
/-- The clock at which the run at the head of a team's queue became ready (R37). -/
def readySince (s : State) (k : Nat) : Nat := (((s.teamAt k).runs.headD {}).readyAt.getD s.clock).toNat
/-- One list of numbers comes before another: at the first place where they differ it is the less. -/
def Before (xs ys : List Nat) : Prop := ∃ n < xs.length, (∀ i < n, xs.getD i 0 = ys.getD i 0) ∧ xs.getD n 0 < ys.getD n 0
/-- Whether a team's run is granted before another's: an aged run first, and of two the one that became ready first, which has waited
for more grants or, where as many, since an earlier cycle (R37). -/
def GrantsBefore (s : State) (k j : Nat) : Prop :=
  let w (i : Nat) : Nat := ((s.teamAt i).runs.headD {}).waited
  if 4096 ≤ w k then w j < 4096 ∨ w j < w k ∨ (w j = w k ∧ Before (readySince s k :: grantKey s k) (readySince s j :: grantKey s j))
  else w j < 4096 ∧ Before (grantKey s k) (grantKey s j)

/-- Team `k` stands at its handler's first instruction for the trap `tr` of its lane stream (R84, R384): TRET comes back to `spc` and to
the runs `aside`, of which the first resumes at `resume`. -/
structure HandlerAt (s t : State) (k : Nat) (tr : Trap) (spc resume : Word64) (aside : List RunEntry) : Prop where
  state : (t.teamAt k).sup = true ∧ (t.teamAt k).spc = (s.ctxAt (teamCtx k)).trapBase ∧ (t.teamAt k).mask = tr.lanes
  empty : (t.teamAt k).runs = [] ∧ (t.teamAt k).active = none
  return_ : (t.teamAt k).trapRet = some { mask := (s.teamAt k).mask, spc := spc, resume := resume, aside := aside, cmd := tr.cmd }
  addr : (t.teamAt k).trapAddr = tr.addr
  info : (t.teamAt k).trapInfo = trapInfoWord tr
  regs : (t.teamAt k).sregs = (s.teamAt k).sregs ∧ (t.teamAt k).qregs = (s.teamAt k).qregs ∧ (t.teamAt k).stack = (s.teamAt k).stack
  others : ∀ j, j ≠ k → t.teamAt j = s.teamAt j

/-- Nothing stands between a trap of team `k` and its handler (R54, R387, R388, R394). -/
structure CanTrapAt (s : State) (k : Nat) : Prop where
  user : (s.teamAt k).sup = false
  handler : (s.ctxAt (teamCtx k)).trapBase ≠ 0
  confirmed : (s.blockAt (teamBlock k)).prov = false
  first : (s.blockAt (teamBlock k)).squashDue = false ∧ (s.blockAt (teamBlock k)).ending = none ∧
    (s.blockAt (teamBlock k)).saveDue = false

/-- The source and the destination of byte `j` of a command (R144, R146, R153, R352): rows lie at their strides or where an index list
puts them, a swizzle moves the bytes of its scratchpad side, and `FLUSH` holds its values. -/
def bytePlaces (x : CmdBody) (index : List Nat) (j : Nat) : End × End :=
  match x with
  | .copy w0 w1 w2 w3 =>
    let y := copyOf w0 w1 w2 w3
    let row := j / y.rowBytes
    let o := j % y.rowBytes
    let side (m space a : Nat) : End :=
      if space = 1 ∧ m ≠ 0 then .at_ 1 (a / 2 ^ 24 * 2 ^ 24 + (a % 2 ^ 24 ^^^ (a % 2 ^ 24 / 2 ^ y.b % 2 ^ m * 2 ^ y.k))) else .at_ space a
    (side y.srcSwz y.ss (match y.kind with
        | 1 => y.src + row * y.stride + o
        | 2 => y.src + index.getD row 0 * y.stride + o
        | _ => y.src + j),
      side y.dstSwz y.ds (match y.kind with
        | 1 => y.dst + row * y.dstStride + o
        | 3 => y.dst + index.getD row 0 * y.stride + o
        | _ => y.dst + j))
  | .xfer out _ n rows _ _ _ _ =>
    let row := rows.getD (j / n) (0, 0)
    if out = true then (.at_ 1 (row.1 + j % n), .at_ 0 (row.2 + j % n)) else (.at_ 0 (row.2 + j % n), .at_ 1 (row.1 + j % n))
  | .flush a vals => (.held ((vals.getD (j / 4) 0).extractLsb' (8 * (j % 4)) 8), .at_ 0 (a.toNat + j))

/-- The bytes of a command that `WPTR` counts when `n` have completed: an `XFER` counts whole rows (R140, R353). -/
def countedBytes (x : CmdBody) (n : Nat) : Nat :=
  match x with
  | .xfer _ _ m _ _ _ _ _ => n / m * m
  | _ => n

/-- The command completes single bytes that it does not decode, and the row of a gather from the weight store lies in the region of its
context (R145). -/
def MovesBytes (s : State) (r : ChanRef) (x : CmdBody) (i : Issue) : Prop :=
  match x with
  | .copy w0 w1 w2 w3 =>
    let y := copyOf w0 w1 w2 w3
    y.kind ≠ 5 ∧ y.entropy = false ∧
      (y.kind = 2 → y.ss = 2 → i.done % y.rowBytes = 0 →
        storeKey (s.ctxAt (refCtx r)) (y.src + i.index.getD (i.done / y.rowBytes) 0 * y.stride) y.rowBytes ≠ none)
  | _ => True

/-- The engine finds the byte at a virtual address: in the page in which it works, or by a translation that leaves `t` (R142, R217). -/
def EngineFinds (s : State) (r : ChanRef) (c : Cmd) (page : Option UnitXl) (a : Nat) (write : Bool) (key : Nat) (t : State)
    (page' : Option UnitXl) : Prop :=
  let va := a % 2 ^ 64
  let use : Use := if write = true then .write else .read
  ∃ pa tier dev mc bits,
    ((∃ p, page = some p ∧ p.unit = va / 4096 ∧ t = s ∧ pa = p.pa + va % 4096 ∧ tier = p.tier ∧ dev = p.dev ∧ mc = p.mc ∧ bits = p.bits) ∨
      ((∀ p, page = some p → p.unit ≠ va / 4096) ∧
        s.translate (engineWho s r c) (BitVec.ofNat 64 a) (if write = true then .write else .read) = (.ok pa tier dev mc, t) ∧
        bits = t.pageBits (engineWho s r c) (BitVec.ofNat 64 a))) ∧
    t.place (refCtx r) pa tier dev mc use = .ok key ∧ noMemory key = false ∧
    page' = some { unit := va / 4096, pa := pa - va % 4096, tier := tier, dev := dev, mc := mc, bits := bits }

/-- The engine reads the byte `v` at a place of a command, and works in `page'` then. -/
def ReadsByte (s : State) (r : ChanRef) (c : Cmd) (page : Option UnitXl) (e : End) (v : Byte) (t : State) (page' : Option UnitXl) : Prop :=
  match e with
  | .held x => v = x ∧ t = s ∧ page' = page
  | .at_ 0 a => ∃ key, EngineFinds s r c page a false key t page' ∧ v = Memory.read t.mem key
  | .at_ 1 a => ∃ ci off, scratchTarget (s.blockAt r.blk).shares.length r.ci (s.refKernel r).scratch a 1 = some (ci, off) ∧
      v = Memory.read ((s.blockAt r.blk).share ci).scratch off ∧ t = s ∧ page' = page
  | .at_ 2 a => ∃ key, storeKey (s.ctxAt (refCtx r)) a 1 = some key ∧ refreshRemaining s.clock (a / 2 ^ 12 % 16) = 0 ∧
      v = Memory.read s.wstore key ∧ t = s ∧ page' = page
  | _ => False

/-- The engine writes the byte `v` at a place of a command; a multicast writes it on every core of its mask (R140, R144). -/
def WritesByte (s : State) (r : ChanRef) (c : Cmd) (page : Option UnitXl) (e : End) (v : Byte) (t : State) (page' : Option UnitXl) : Prop :=
  match e with
  | .at_ 0 a => ∃ key u, EngineFinds s r c page a true key u page' ∧ t = u.gwrite key [v]
  | .at_ 1 a =>
    page' = page ∧
      if ∃ w0 w1 w2 w3, c.body = .copy w0 w1 w2 w3 ∧ (copyOf w0 w1 w2 w3).kind = 4 then
        ∃ cores, (∀ w0 w1 w2 w3, c.body = .copy w0 w1 w2 w3 →
            cores = (List.range (s.blockAt r.blk).shares.length).filter (fun n => (copyOf w0 w1 w2 w3).mask.testBit n)) ∧
          t = cores.foldl (fun u n => u.scratchWriteBytes r.blk n (a % 2 ^ 24) [v]) s
      else ∃ ci off, scratchTarget (s.blockAt r.blk).shares.length r.ci (s.refKernel r).scratch a 1 = some (ci, off) ∧
        t = s.scratchWriteBytes r.blk ci off [v]
  | .at_ 2 a => ∃ key, storeKey (s.ctxAt (refCtx r)) a 1 = some key ∧ t = { s with wstore := s.wstore.write key v } ∧ page' = page
  | _ => False

/-- Block `index` of launch `l` has started on `core`, with every team in its start state (R46, R85). -/
structure StartedBlock (s t : State) (l index core : Nat) : Prop where
  block : (t.blockAt (blockKey l index)).st = .running ∧ (t.blockAt (blockKey l index)).taker = core ∧
    ((t.blockAt (blockKey l index)).share 0).core ∈ (s.placement (s.launchAt l) core).getD [] ∧
    (t.blockAt (blockKey l index)).prov = ((s.launchAt l).shape.map (·.watching)).getD false
  memory : ∀ h ∈ (t.blockAt (blockKey l index)).shares, (∀ a, Memory.read h.scratch a = 0) ∧ (∀ a, Memory.read h.wbuf a = 0) ∧
    ∀ m ∈ h.tiles, ∀ a, Memory.read m a = 0
  teams : ∀ i < (s.launchAt l).kernel.teams,
    let k := (s.launchAt l).kernel
    let u := t.teamAt (teamKey (blockKey l index) i)
    u.spc = BitVec.ofNat 64 k.scalarBase ∧ u.sreg 1 = BitVec.ofNat 64 (s.launchAt l).arg ∧ u.sreg 2 = BitVec.ofNat 64 index ∧
      u.sreg 3 = BitVec.ofNat 64 i ∧ u.sreg 4 = BitVec.ofNat 64 k.live ∧ (∀ r : SReg, 4 < r.toNat → u.sreg r = 0) ∧
      (∀ q : QReg, q ≠ 0 → u.qreg q = false) ∧ u.mask = maskBelow k.live ∧ u.nlive = k.live ∧ u.sup = false ∧ u.runs = [] ∧
      u.stack = [] ∧ ∀ p < k.lanes, ∀ r, (u.lane p).reg r = if r = 0 ∧ p < k.live then BitVec.ofNat 32 p else 0

/-- The context of number `c` has ended (R398): none of its teams and blocks is left, its unfinished launches are failed, and it takes
no more work. -/
structure ContextEnded (t : State) (c : Nat) : Prop where
  failed : (t.ctxAt c).failed = true
  teams : ∀ k, teamCtx k = c → Table.find? t.teams k = none
  blocks : ∀ b, launchCtx (blockLaunch b) = c → Table.find? t.blocks b = none
  launches : ∀ l, launchCtx l = c → ∀ x, Table.find? t.launches l = some x → x.st = .ended ∨ x.st = .failed

/-- Team `k` has ended, or has left the machine with its block. -/
def TeamEnded (t : State) (k : Nat) : Prop := Table.find? t.teams k = none ∨ (t.teamAt k).ended = true

/-! ### The stream that moves -/

/-- The scalar stream of team `k` is to move in the next step, and `u` is the state in which it does (log 1). -/
def StreamTurn (s u : State) (turn : Nat → Turn) (k : Nat) : Prop :=
  ∃ rest, s.agenda = turn k :: rest ∧ u = { s with agenda := rest, cur := k }

/-- The lane stream of team `k` is to move in the next step, and `u` is the state in which it does: the turn says in which order the lanes
of a global access perform, and which of them perform later (log 1, log 50). -/
def LaneTurn (s u : State) (k : Nat) (order later : List Nat) : Prop :=
  ∃ rest, s.agenda = .lane k order later :: rest ∧ u = { s with agenda := rest, cur := k, laneOrder := order, laneLater := later }

/-- Nothing comes before the next scalar instruction of the current team: the team can move, no copy command is due, and no cancel,
watchdog, squash or save is due at the boundary (R54, R139, R189, R387, R389, R393, R398). -/
structure ScalarMoves (u : State) : Prop where
  moves : u.stopped = false
  copies : u.dueChannel = none
  cancel : u.team.cancelDue = false
  ending : u.block.ending = none ∨ u.team.atBoundary = false
  squash : u.block.squashDue = false ∨ u.team.active ≠ none
  save : u.saveHolds (teamBlock u.cur) = false

/-- The instruction is a step of the part, and no word of a program. -/
def isStep (i : Instr) : Bool := (encodeScalar i).isNone && (ctl? i).isNone

/-- The canonical form of the state: every memory of the part, and the table of teams. -/
structure Canonical (s : State) : Prop where
  memories : MemoriesWf s
  teams : TeamsRising s

end Sys2Proof.Machine
end

