-- ==== Sys2Proof/Certificates/Slice0/Obligations.lean ====
section
/-! DEFINITION. The statements to prove about the model, from the numbered rules of the manual. -/

open Sys2Proof Sys2Proof.Machine

/-! ## The scalar stream -/

/-- R271 to R276: the scalar ALU. Every operation of the ALU group sets sD as its table says, over all 64 bits of its operands, and none
traps; the immediate operations compute sA op i, with i sign-extended for `ADDI`, `ANDI`, `ORI` and `XORI` and a count from 0 to 63 for
the shifts, and `LUI` sets sext(imm19, 19) times 2^13; `SCMP` writes what its condition says, `SSEL` selects, and the four operations act
on scalar predicates. Each answers the next state in which that is its only effect. The word of a shift immediate from 64 up is illegal
with detail 0x04, and condition codes 6 and 7 are with detail 0x02. -/
def Obligations.ScalarAluSetsItsDestination : Prop :=
  (∀ (d a b : SReg) (s : State),
     let x := s.team.sreg a
     let y := s.team.sreg b
     GivesSreg (.aluAdd d a b) s d (BitVec.ofNat 64 (x.toNat + y.toNat)) ∧
     GivesSreg (.aluSub d a b) s d (BitVec.ofInt 64 (x.toInt - y.toInt)) ∧
     GivesSreg (.aluAnd d a b) s d (x &&& y) ∧
     GivesSreg (.aluOr d a b) s d (x ||| y) ∧
     GivesSreg (.aluXor d a b) s d (x ^^^ y) ∧
     GivesSreg (.aluSll d a b) s d (BitVec.ofNat 64 (x.toNat * 2 ^ (y.toNat % 64))) ∧
     GivesSreg (.aluSrl d a b) s d (BitVec.ofNat 64 (x.toNat / 2 ^ (y.toNat % 64))) ∧
     GivesSreg (.aluSra d a b) s d (BitVec.ofInt 64 (x.toInt / 2 ^ (y.toNat % 64))) ∧
     GivesSreg (.aluMul d a b) s d (BitVec.ofNat 64 (x.toNat * y.toNat)) ∧
     GivesSreg (.aluMulh d a b) s d (BitVec.ofInt 64 (x.toInt * y.toInt / 2 ^ 64)) ∧
     GivesSreg (.aluMulhu d a b) s d (BitVec.ofNat 64 (x.toNat * y.toNat / 2 ^ 64)) ∧
     GivesSreg (.aluMin d a b) s d (BitVec.ofInt 64 (min x.toInt y.toInt)) ∧
     GivesSreg (.aluMax d a b) s d (BitVec.ofInt 64 (max x.toInt y.toInt)) ∧
     GivesSreg (.aluMinu d a b) s d (BitVec.ofNat 64 (min x.toNat y.toNat)) ∧
     GivesSreg (.aluMaxu d a b) s d (BitVec.ofNat 64 (max x.toNat y.toNat))) ∧
  ((∀ (d a : SReg) (i : BitVec 13) (j : BitVec 19) (k : Nat) (s : State), k < 64 →
     let x := s.team.sreg a
     GivesSreg (.addi d a i) s d (BitVec.ofInt 64 (x.toInt + i.toInt)) ∧
     GivesSreg (.andi d a i) s d (x &&& BitVec.ofInt 64 i.toInt) ∧
     GivesSreg (.ori d a i) s d (x ||| BitVec.ofInt 64 i.toInt) ∧
     GivesSreg (.xori d a i) s d (x ^^^ BitVec.ofInt 64 i.toInt) ∧
     GivesSreg (.slli d a k) s d (BitVec.ofNat 64 (x.toNat * 2 ^ k)) ∧
     GivesSreg (.srli d a k) s d (BitVec.ofNat 64 (x.toNat / 2 ^ k)) ∧
     GivesSreg (.srai d a k) s d (BitVec.ofInt 64 (x.toInt / 2 ^ k)) ∧
     GivesSreg (.lui d j) s d (BitVec.ofInt 64 (j.toInt * 2 ^ 13))) ∧
   ∀ (op : BitVec 7) (d a : BitVec 6) (i : BitVec 13), op = 0x05 ∨ op = 0x06 ∨ op = 0x07 → 64 ≤ i.toNat →
     decodeScalar (op ++ d ++ a ++ i) = .error .badModifier ∧ IllegalWord.detail .badModifier = 0x04) ∧
  ((∀ (d a b : SReg) (p q r : QReg) (neg : Bool) (s : State),
     let x := s.team.sreg a
     let y := s.team.sreg b
     GivesQreg (.scmp .eq p a b) s p (decide (x.toNat = y.toNat)) ∧
     GivesQreg (.scmp .ne p a b) s p (decide (x.toNat ≠ y.toNat)) ∧
     GivesQreg (.scmp .lt p a b) s p (decide (x.toInt < y.toInt)) ∧
     GivesQreg (.scmp .ge p a b) s p (decide (y.toInt ≤ x.toInt)) ∧
     GivesQreg (.scmp .ltu p a b) s p (decide (x.toNat < y.toNat)) ∧
     GivesQreg (.scmp .geu p a b) s p (decide (y.toNat ≤ x.toNat)) ∧
     GivesSreg (.ssel d q neg a b) s d (if xor (s.team.qreg q) neg = true then x else y) ∧
     GivesQreg (.qand p q r) s p (s.team.qreg q && s.team.qreg r) ∧
     GivesQreg (.qor p q r) s p (s.team.qreg q || s.team.qreg r) ∧
     GivesQreg (.qxor p q r) s p (xor (s.team.qreg q) (s.team.qreg r)) ∧
     GivesQreg (.qandn p q r) s p (s.team.qreg q && !s.team.qreg r) ∧
     GivesQreg (.qor p 0 0) s p true) ∧
   ∀ (d a b : BitVec 6) (fn : BitVec 7), 6 ≤ fn.toNat % 8 →
     decodeScalar ((0x0A : BitVec 7) ++ d ++ a ++ b ++ fn) = .error .unassignedFunction ∧
       IllegalWord.detail .unassignedFunction = 0x02)

/-- R277, R278: a branch or call is taken when q XOR negate is 1, and SPC is then its own address plus four times the sign-extended
offset; a taken call also writes its own address plus 4 into s63, and one that is not taken leaves s63; `JR` and `CALLR` set SPC to
sA, which `CALLR` reads before it writes s63. None of them traps, and nothing else changes. -/
def Obligations.BranchesAndCalls : Prop :=
  ∀ (q : QReg) (neg : Bool) (off : BitVec 20) (a : SReg) (s : State),
    let taken := xor (s.team.qreg q) neg
    let target := s.team.spc + BitVec.ofInt 64 (4 * off.toInt)
    (∃ t, exec (.b q neg off) s = .next t ∧ OnlyTeam s t ∧
      t.team = { s.team.goneOn true with spc := if taken = true then target else s.team.spc + 4, progress := s.clock }) ∧
    (∃ t, exec (.call q neg off) s = .next t ∧ OnlyTeam s t ∧
      t.team = { s.team.goneOn true with
        sregs := t.team.sregs, spc := if taken = true then target else s.team.spc + 4, progress := s.clock } ∧
      ∀ r, t.team.sreg r = if r = 63 ∧ taken = true then s.team.spc + 4 else s.team.sreg r) ∧
    (∃ t, exec (.jr a) s = .next t ∧ OnlyTeam s t ∧
      t.team = { s.team.goneOn true with spc := s.team.sreg a, progress := s.clock }) ∧
    (∃ t, exec (.callr a) s = .next t ∧ OnlyTeam s t ∧
      t.team = { s.team.goneOn true with sregs := t.team.sregs, spc := s.team.sreg a, progress := s.clock } ∧
      ∀ r, t.team.sreg r = if r = 63 then s.team.spc + 4 else s.team.sreg r)

/-- R35, R279: `RUN` appends a run at the lane code base plus sD plus imm19, modulo 2^64, which sees the scalar registers as they now
are; while the queue holds 8 runs it does nothing. The base in the handler is `TRAPBASE` (R385). -/
def Obligations.RunAppendsToTheQueue : Prop :=
  ∀ (d : SReg) (i : BitVec 19) (s : State),
    let x := BitVec.ofNat 64
      ((if s.team.sup = true then s.ctx.trapBase.toNat else s.kernel.laneBase) + (s.team.sreg d).toNat + i.toNat)
    (s.team.runs.length < 8 →
      GivesTeam (.run d i) s
        { s.team with
          runs := s.team.runs ++ [{ addr := x, start := x, sregs := s.team.sregs, no := s.team.nextRun }]
          nextRun := s.team.nextRun + 1 }) ∧
    (8 ≤ s.team.runs.length → exec (.run d i) s = .next s)

/-- R32, R69, R205, R280: the mask instructions act on the mask M and the mask stack once the team has drained (R36); before that they do
nothing. Every mask that they set is 0 at and above NLIVE (R32). `MPOP` goes on from the state `s1` in which every access that comes before it
has performed: that clause is the model's choice (DESIGN CHOICE, log 50: more order than R205 asks, which orders the accesses made under
the popped mask). A push on a stack of 16 entries, and `MELSE` and `MPOP` on an empty one, trap. `pred` is the set of positions
below NLIVE in which the predicate is true, `live` that of all positions below NLIVE. -/
def Obligations.MaskInstructionsMoveTheStack : Prop :=
  ∀ (p : PSrc) (s s1 : State) (pred live : MaskBits) (sv el : MaskBits) (rest : List (MaskBits × MaskBits)),
    (∀ i, pred.getLsbD i = (decide (i < s.team.nlive) && decide (i < 1024) && (s.team.lane i).pred p)) →
    (∀ i, live.getLsbD i = (decide (i < s.team.nlive) && decide (i < 1024))) →
    (s.team.drained = false → exec (.mpush p) s = .next s ∧ exec .melse s = .next s ∧ exec .mpop s = .next s) ∧
    (s.team.drained = true →
      (s.team.stack.length < 16 →
        GivesTeam (.mpush p) s { s.team with stack := (s.team.mask, s.team.mask &&& ~~~ pred) :: s.team.stack, mask := s.team.mask &&& pred }) ∧
      (s.team.stack = (sv, el) :: rest →
        GivesTeam .melse s { s.team with mask := el &&& live, stack := (sv, 0) :: rest } ∧
        (s.drainOps s.cur = .ok s1 → ∃ t, exec .mpop s = .next t ∧ Completed s1 t { s1.team with mask := sv &&& live, stack := rest }) ∧
        (s.drainOps s.cur = .wait s1 → exec .mpop s = .next s1)) ∧
      (CanTrap s → (16 ≤ s.team.stack.length → Traps (.mpush p) s 0x01 0x44 0) ∧
        (s.team.stack = [] → Traps .melse s 0x01 0x45 0 ∧ Traps .mpop s 0x01 0x45 0)))

/-- R281, R282: the predicate summaries and `SRED` over the active lanes, once the team has drained (R36); before that they do
nothing. `.ADD` is the sum of the sign-extended values modulo 2^64; the other operations combine the 32-bit values and extend the
result, with the value of the table where no lane is active. -/
def Obligations.LaneSummaries : Prop :=
  ∀ (q : QReg) (d : SReg) (p : PSrc) (v : Nat) (s : State), v < s.kernel.regs →
    let act := s.team.activeLanes
    let hit := act.filter (fun i => (s.team.lane i).pred p)
    let xs := act.map (fun i => (s.team.lane i).reg v)
    (s.team.drained = false →
      exec (.sany q p) s = .next s ∧ exec (.sall q p) s = .next s ∧ exec (.spop d p) s = .next s ∧ exec (.sfind d p) s = .next s ∧
        ∀ op, exec (.sred op d v) s = .next s) ∧
    (s.team.drained = true →
      GivesQreg (.sany q p) s q (decide (∃ i ∈ act, (s.team.lane i).pred p = true)) ∧
      GivesQreg (.sall q p) s q (decide (∀ i ∈ act, (s.team.lane i).pred p = true)) ∧
      GivesSreg (.spop d p) s d (BitVec.ofNat 64 hit.length) ∧
      (∃ x : Word64, GivesSreg (.sfind d p) s d x ∧ (hit = [] → x = BitVec.allOnes 64) ∧
        ∀ i ∈ hit, (∀ j ∈ hit, i ≤ j) → x = BitVec.ofNat 64 i) ∧
      GivesSreg (.sred .add d v) s d (BitVec.ofInt 64 ((xs.map BitVec.toInt).sum)) ∧
      GivesSreg (.sred .min d v) s d (BitVec.ofInt 64 ((xs.map BitVec.toInt).foldl min 0x7FFFFFFF)) ∧
      GivesSreg (.sred .max d v) s d (BitVec.ofInt 64 ((xs.map BitVec.toInt).foldl max (-0x80000000))) ∧
      GivesSreg (.sred .minu d v) s d (BitVec.ofNat 64 ((xs.map BitVec.toNat).foldl min 0xFFFFFFFF)) ∧
      GivesSreg (.sred .maxu d v) s d (BitVec.ofNat 64 ((xs.map BitVec.toNat).foldl max 0)) ∧
      GivesSreg (.sred .and d v) s d ((xs.foldl (· &&& ·) (BitVec.allOnes 32)).setWidth 64) ∧
      GivesSreg (.sred .or d v) s d ((xs.foldl (· ||| ·) 0).setWidth 64) ∧
      GivesSreg (.sred .xor d v) s d ((xs.foldl (· ^^^ ·) 0).setWidth 64))


/-- R87, R88, R89, R101, R283, R284: the scalar loads and stores. `LDK` reads 8 or 4 bytes of the constant window at sA plus the
sign-extended immediate, modulo 2^64: a misaligned address traps as misalignment, an aligned one whose bytes do not all lie below 0x10000
as scratchpad bounds with the window detail. `SLD` reads 1, 2, 4 or 8 bytes of the scratchpad zero-extended, and `SST` writes the low 1, 2,
4 or 8 bytes of sD to it and nothing else: misalignment traps first, and an aligned address that names no bytes below S of a core of the
block traps as scratchpad bounds. -/
def Obligations.ScalarLoadsAndStores : Prop :=
  ((∀ (d a : SReg) (i : BitVec 13) (s : State),
      let x := s.team.sreg a + BitVec.ofInt 64 i.toInt
      ∀ p ∈ [(Instr.ldk d a i, 8), (Instr.ldkN32 d a i, 4)],
        (x.toNat % p.2 = 0 → x.toNat + p.2 ≤ 0x10000 →
          ∃ v, GivesSreg p.1 s d v ∧ Loaded v s.launch.window x.toNat p.2) ∧
        (CanTrap s → x.toNat % p.2 ≠ 0 → Traps p.1 s 0x05 0x00 x) ∧
        (CanTrap s → x.toNat % p.2 = 0 → 0x10000 < x.toNat + p.2 → Traps p.1 s 0x04 0x02 x)) ∧
   ∀ (d a : SReg) (i : BitVec 13) (s : State),
     let x := s.team.sreg a + BitVec.ofInt 64 i.toInt
     ∀ p ∈ [(Instr.sldN8 d a i, 1), (Instr.sldN16 d a i, 2), (Instr.sldN32 d a i, 4), (Instr.sldB64 d a i, 8)],
       (∀ ci off, ScratchSpot s x p.2 ci off → s.scratchLock (teamBlock s.cur) ci off p.2 false = none →
         ∃ v, GivesSreg p.1 s d v ∧ Loaded v (s.block.share ci).scratch off p.2) ∧
       (CanTrap s → x.toNat % p.2 ≠ 0 → Traps p.1 s 0x05 0x00 x) ∧
       (CanTrap s → x.toNat % p.2 = 0 → (∀ ci off, ¬ScratchSpot s x p.2 ci off) → Traps p.1 s 0x04 0x00 x)) ∧
  (∀ (d a : SReg) (i : BitVec 13) (s : State),
     let x := s.team.sreg a + BitVec.ofInt 64 i.toInt
     ∀ p ∈ [(Instr.sstN8 d a i, 1), (Instr.sstN16 d a i, 2), (Instr.sstN32 d a i, 4), (Instr.sstB64 d a i, 8)],
       (∀ ci off, ScratchSpot s x p.2 ci off → ci < s.block.shares.length →
         s.scratchLock (teamBlock s.cur) ci off p.2 true = none →
         ∃ t, exec p.1 s = .next t ∧ StoredScratch s t ci off p.2 (s.team.sreg d)) ∧
       (CanTrap s → x.toNat % p.2 ≠ 0 → Traps p.1 s 0x05 0x00 x) ∧
       (CanTrap s → x.toNat % p.2 = 0 → (∀ ci off, ¬ScratchSpot s x p.2 ci off) → Traps p.1 s 0x04 0x00 x))

/-- R285: `SWAIT` at a poll whose word holds the condition, compared unsigned with sB, writes that word zero-extended and stops; a poll
that does not hold the condition has no effect but the accessed update of its walk (here: what the translation leaves, and the note
that the team polls). A further poll does the same, and checks no range lock. While an access to those bytes that the team issued before,
or that a barrier has placed before, has not performed, it waits (R200, R205, R209; that the poll takes no value of such a write is the
model's choice, log 50). Its context is in free mode, where no log is kept. A misaligned address traps as misalignment, and a translation
that fails as a page fault. -/
def Obligations.SwaitStopsWhenItsConditionHolds : Prop :=
  ∀ (d a y : SReg) (wide : Bool) (c : WaitCond) (acq : Bool) (sc : Scope) (s s1 : State) (key pa tier : Nat) (v : Word64),
    let n := if wide = true then 8 else 4
    let x := s.team.sreg a
    let w := (s.team.sreg y).toNat % 2 ^ (8 * n)
    let i := Instr.swait d a y wide c acq sc
    let holds := match c with
      | .eq => v.toNat = w
      | .ne => v.toNat ≠ w
      | .geu => w ≤ v.toNat
      | .ltu => v.toNat < w
    let pending := ∃ o ∈ s.ops, (o.team = s.cur ∨ (o.shared = true ∧ teamBlock o.team = teamBlock s.cur)) ∧
      ∃ k ∈ o.keys, max k key < min (k + o.bytes) (key + n)
    (ReadsGlobal s s1 x n key pa tier → (s.team.polling = false → s1.globalLock s.team.core (teamAsid s.cur) x.toNat n false = none) →
      s.ctx.mode = .free → Loaded v s1.mem key n →
      ∀ (j : Instr) (z : State),
        (j = i ∧ z = s) ∨ (j = .swaitPoll ∧ z.stopped = false ∧ z.team.polling = true ∧ fetchScalar z = .run i s) →
        (pending → exec j z = .next s1) ∧
        (¬pending → holds → ∃ t, exec j z = .next t ∧ OnlyTeam s1 t ∧
          t.team = { s.team.goneOn true with sregs := t.team.sregs, polling := false, spc := s.team.spc + 4, progress := s.clock } ∧
          ∀ r, t.team.sreg r = if r = d ∧ r ≠ 0 then v else s.team.sreg r) ∧
        (¬pending → ¬holds → ∃ t, exec j z = .next t ∧ OnlyTeam s1 t ∧
          t.team = { s.team.goneOn true with gated := s.team.gated, polling := true, progress := t.team.progress } ∧
          (s.team.hold = none → t.team.progress = s.team.progress))) ∧
    (CanTrap s → x.toNat % n ≠ 0 → Traps i s 0x05 0x00 x) ∧
    (x.toNat % n = 0 → ∀ k, s.translate s.who x .read = (.fault k, s1) → CanTrap s1 → s.block.prov = false →
      ∃ t, exec i s = .next t ∧ EnteredScalar s1 t 0x07 k x s.team.spc)

/-- R139, R145, R148, R286: `CPY` appends the command in its four registers to its channel and adds it to the unsealed set, once its
fields and its own ranges have passed their checks and the queue holds fewer than 64 commands; at 64 it does nothing. The first
illegal fields of word 0 trap with their details, the lowest first. That the command keeps the numbers of all the runs in the queue,
of which it waits for those that its ranges may meet, and that an illegal value of word 0 is refused whatever the kind of copy, is
the model's choice (log 17). -/
def Obligations.CopyAppendsItsCommand : Prop :=
  ∀ (a : SReg) (s : State),
    let w (k : Nat) : Word64 := s.team.sreg (Fin.ofNat 64 (a.val + k))
    let c := copyOf (w 0) (w 1) (w 2) (w 3)
    let exact_ := (w 0).getLsbD 39
    let fmt := ((w 0).extractLsb' 40 4).toNat
    (c.defects s.block.shares.length s.kernel.chans = [] → checkCopy s c = none → s.block.prov = false →
      (ChannelTakes s ((w 0).extractLsb' 4 4).toNat →
        ∃ t, exec (.cpy a) s = .next t ∧
          Enqueued s t ((w 0).extractLsb' 4 4).toNat (s.team.runs.map (·.no)) (.copy (w 0) (w 1) (w 2) (w 3)) ∧
          t.team = { s.team.goneOn true with
            nextIns := t.team.nextIns, cmds := t.team.cmds, unsealed := t.team.unsealed, spc := s.team.spc + 4, progress := s.clock }) ∧
      (64 ≤ ((s.block.share (s.shareIdx s.cur)).chans.getD ((w 0).extractLsb' 4 4).toNat {}).queue.length → exec (.cpy a) s = .next s)) ∧
    (CanTrap s →
      ((w 0).extractLsb' 60 4 ≠ 0 → Traps (.cpy a) s 0x01 0x50 0) ∧
      ((w 0).extractLsb' 60 4 = 0 → 3 < fmt → Traps (.cpy a) s 0x01 0x53 0) ∧
      ((w 0).extractLsb' 60 4 = 0 → fmt = 3 → exact_ = true → Traps (.cpy a) s 0x01 0x54 0) ∧
      ((w 0).extractLsb' 60 4 = 0 → fmt < 3 → 3 < ((w 0).extractLsb' 35 4).toNat → Traps (.cpy a) s 0x01 0x55 0))

/-- R45, R153, R294: `FLUSH` sorts the ordered-output buffer by key, then by sequence, issues one command that holds its values in
that order, as they stand when it is appended (the model's choice, log 47), to write from the address in sA, empties the buffer and writes the number of entries to sD. The channel is checked before the
alignment; it waits to drain. -/
def Obligations.FlushIssuesTheSortedBuffer : Prop :=
  ∀ (d a : SReg) (ch : Nat) (s : State),
    let x := s.team.sreg a
    (ch < s.kernel.chans → x.toNat % 4 = 0 → s.block.prov = false →
      (s.team.drained = false → exec (.flush d a ch) s = .next s) ∧
      (s.team.drained = true → ChannelTakes s ch →
        ∃ t es, exec (.flush d a ch) s = .next t ∧ List.Perm es s.team.emitBuf ∧
          es.Pairwise (fun e f => e.key.toNat < f.key.toNat ∨ (e.key = f.key ∧ e.seq.toNat ≤ f.seq.toNat)) ∧
          Enqueued s t ch [] (.flush x (es.map (·.val))) ∧
          t.team = { s.team.goneOn true with
            nextIns := t.team.nextIns, cmds := t.team.cmds, unsealed := t.team.unsealed, sregs := t.team.sregs, emitBuf := []
            spc := s.team.spc + 4, progress := s.clock } ∧
          ∀ r, t.team.sreg r = if r = d ∧ r ≠ 0 then BitVec.ofNat 64 s.team.emitBuf.length else s.team.sreg r)) ∧
    (CanTrap s → s.kernel.chans ≤ ch → Traps (.flush d a ch) s 0x01 0x5C 0) ∧
    (CanTrap s → ch < s.kernel.chans → x.toNat % 4 ≠ 0 → Traps (.flush d a ch) s 0x05 0x00 x)

/-- R148, R149, R150, R205, R269, R287, R288: `BSEAL` waits to drain and for its accesses to perform, and while 16 sealed batches are
unfinished; then it moves the unsealed set into a new batch at the end of the list under the next number and scope and empties the set.
Batches finish in number order, each once its commands have completed: the list keeps the batches from the first unfinished one on.
`BWAIT` returns once at most n sealed batches are unfinished: it writes the batch failure record to sD and clears it, from the state `s1`
in which every access that comes before it has performed: that it waits for all of them is the model's choice (DESIGN CHOICE, log 50: R205
orders events after a `BWAIT`, and does not ask that every access has been performed). Otherwise it waits, or where an engine holds a command of a batch it waits for at a
page fault, raises that fault: cause 0x07, the address the engine reached, and the command that `TRET` lets go on. -/
def Obligations.BatchesAreSealedAndAwaited : Prop :=
  (∀ (sc : Scope) (s : State),
     let x : Batch := { num := s.team.nSealed, scope := sc, cmds := s.team.unsealed }
     (s.settled = false ∨ 16 ≤ s.team.unfinished → exec (.bseal sc) s = .next s) ∧
     (s.settled = true → s.team.unfinished < 16 →
       ∃ t k, exec (.bseal sc) s = .next t ∧ OnlyTeam s t ∧
         t.team = { s.team.goneOn true with
           unsealed := [], nSealed := s.team.nSealed + 1, nFinished := s.team.nFinished + BitVec.ofNat 32 k
           sealed := (s.team.sealed ++ [x]).drop k, failRec := t.team.failRec, failed := t.team.failed
           spc := s.team.spc + 4, progress := s.clock } ∧
         (∀ y ∈ (s.team.sealed ++ [x]).take k, ∀ c ∈ y.cmds, c ∉ s.team.cmds) ∧
         (∀ y, ((s.team.sealed ++ [x]).drop k).head? = some y → ∃ c ∈ y.cmds, c ∈ s.team.cmds) ∧
         (s.team.failRec ≠ 0 → t.team.failRec = s.team.failRec))) ∧
  (∀ (d : SReg) (n : Nat) (s s1 : State),
     (s.team.unfinished ≤ n → s.drainOps s.cur = .wait s1 → exec (.bwait d n) s = .next s1) ∧
     (s.team.unfinished ≤ n → s.drainOps s.cur = .ok s1 →
       ∃ t, exec (.bwait d n) s = .next t ∧ OnlyTeam s1 t ∧
         t.team = { s1.team.goneOn true with sregs := t.team.sregs, failRec := 0, spc := s.team.spc + 4, progress := s.clock } ∧
         ∀ r, t.team.sreg r = if r = d ∧ r ≠ 0 then s.team.failRec else s.team.sreg r) ∧
     (n < s.team.unfinished →
       let waited := (s.team.sealed.take (s.team.sealed.length - n)).flatMap (·.cmds)
       (heldCommand s.block s.cur waited = none → exec (.bwait d n) s = .next s) ∧
       (∀ uid k x, heldCommand s.block s.cur waited = some (uid, k, x) → CanTrap s →
         ∃ t, exec (.bwait d n) s = .next t ∧ t.team.sup = true ∧ t.team.spc = s.ctx.trapBase ∧ t.team.trapAddr = x ∧
           t.team.trapInfo.extractLsb' 0 8 = 0x07 ∧ t.team.trapInfo.extractLsb' 32 8 = BitVec.ofNat 8 k ∧
           ∃ r, t.team.trapRet = some r ∧ r.spc = s.team.spc ∧ r.cmd = some uid)))

/-! ## Levels and allocation -/

/-- R188, R189, R291: `LSTAT` writes the view of the level's counter at once; `LWAIT` waits until the level has completed and writes it;
a level that contains the waiting team's own launch traps with detail 0x41, and an identity not assigned with 0x40. `LCANCEL`
completes and cancels its level; a team whose own launch the level contains is to take its cancel trap at the next instruction. A level
that is over stays as it is, and with it the whole device. Otherwise the status of its counter becomes cancelled (4), and so does that of every launch of it that is
not over, with every block of such a launch marked: a provisional one to be squashed, any other to end as cancelled, unless a cause is to end it
already (stated where no lane access is outstanding). A launch whose counter is full is over already, which the premise says of launches
whose status is not final yet: the completion of the same cycle wins over a cancel. -/
def Obligations.LevelStatusWaitAndCancel : Prop :=
  (∀ (lv : LevelKind) (d a : SReg) (s : State),
     let x := s.team.sreg a
     (∀ l, NamesLaunch s x l →
       let c := s.levelCounter l lv
       let isOver := c.known = true ∧ (c.done = c.expected ∨ c.status = 5) ∧ 2 ≤ c.status ∧ (lv = .launch → (s.launchAt l).st = .ended)
       (s.block.prov = false →
         (∃ v, GivesSreg (.lstat lv d a) s d v ∧ CounterView v c) ∧
         (ownLevel s lv l = false →
           (isOver → ∃ v, GivesSreg (.lwait lv d a) s d v ∧ CounterView v c) ∧ (¬isOver → exec (.lwait lv d a) s = .next s))) ∧
       (CanTrap s → ownLevel s lv l = true → Traps (.lwait lv d a) s 0x01 0x41 0)) ∧
     (CanTrap s → (∀ l, ¬NamesLaunch s x l) →
       Traps (.lstat lv d a) s 0x01 0x40 0 ∧ Traps (.lwait lv d a) s 0x01 0x40 0 ∧ Traps (.lcancel lv a) s 0x01 0x40 0)) ∧
  ∀ (lv : LevelKind) (a : SReg) (s : State) (l : Nat),
    NamesLaunch s (s.team.sreg a) l → s.block.prov = false →
    let live := (s.levelCounter l lv).status < 2
    let own := ownLevel s lv l && decide live
    ∃ t, exec (.lcancel lv a) s = .next t ∧
      t = { s with mem := t.mem, launches := t.launches, vfs := t.vfs, ctxs := t.ctxs, jobs := t.jobs, cores := t.cores
                   fresh := t.fresh, blocks := t.blocks, teams := t.teams, perf := t.perf, reductions := t.reductions, ops := t.ops
                   landing := t.landing, credits := t.credits } ∧
      t.team.spc = s.team.spc + 4 ∧ t.team.cancelDue = own ∧
      (s.ops = [] → (∀ j, j ≠ s.cur → t.teamAt j = { s.teamAt j with rewalk := (t.teamAt j).rewalk }) ∧
        t.team = { s.team.goneOn true with rewalk := t.team.rewalk, cancelDue := own, spc := s.team.spc + 4, progress := s.clock }) ∧
      (¬live → OnlyTeam s t) ∧
      (live → HasLevel s l lv → (lv = .launch → (s.launchAt l).st ≠ .ended ∧ (s.launchAt l).st ≠ .failed) →
        (∀ m, BelowLevel s l lv m → (s.launchAt m).st ≠ .ended → (s.launchAt m).st ≠ .failed → (s.launchAt m).ctr.status < 2 →
          (s.launchAt m).ctr.full = false) → (t.levelCounter l lv).status = 4) ∧
      (live → s.ops = [] → JobsConsistent s → ∀ m, BelowLevel s l lv m → (s.launchAt m).st ≠ .ended → (s.launchAt m).st ≠ .failed →
        (s.launchAt m).ctr.status < 2 →
        ((s.launchAt m).ctr.full = false → (t.launchAt m).ctr.status = 4) ∧
        (∀ x, s.blocks.has x = true → blockLaunch x = m →
          t.blockAt x =
            { s.blockAt x with
              shares := (t.blockAt x).shares
              squashDue := (s.blockAt x).squashDue || (s.blockAt x).prov
              ending := if (s.blockAt x).prov = true then (s.blockAt x).ending else some ((s.blockAt x).ending.getD 0x0E) }))

/-- R179, R289, R290: `LAUNCH` reads the record at sA, gives the next launch identity of the context to a new member of the issuing
launch's graph and writes that identity to sD, whether the record is accepted or refused. It waits to drain and for its accesses to perform,
and while the context holds 4,096 unfinished device launches. Where the kernel image or the stable-range table lies on a migrating page, it
is held there with none of this done, up to the migration limit (R166); that the launch is then refused is the model's choice (log 27). A
misaligned record address traps. -/
def Obligations.LaunchAssignsTheNextIdentity : Prop :=
  ∀ (d a : SReg) (s s1 : State) (key pa tier : Nat),
    let x := s.team.sreg a
    let l := launchKey (teamCtx s.cur) s.ctx.nextLaunch
    let rec_ := launchRec (s1.mem.readNat key 64)
    let limit := s.team.holdTrap = none ∧ ∃ z, s.team.hold = some z ∧ s1.pastLimit (teamVf s.cur) z = true
    (ReadsGlobal s s1 x 64 key pa tier → s.settled = true → s.deviceLaunches (teamCtx s.cur) < 4096 →
      s1.imageHeld (teamCtx s.cur) rec_ = true → ¬limit →
        ∃ t, exec (.launch d a) s = .next t ∧ OnlyTeam s1 t ∧
          t.team = { s.team with
            hold := some (if s.team.holdTrap = none then s.team.hold.getD s.clock else s.clock), rewalk := false, holdTrap := none }) ∧
    (ReadsGlobal s s1 x 64 key pa tier → s.settled = true → s.deviceLaunches (teamCtx s.cur) < 4096 →
      s1.imageHeld (teamCtx s.cur) rec_ = false ∨ limit →
      ∃ t, exec (.launch d a) s = .next t ∧
        t = { s with mem := t.mem, launches := t.launches, vfs := t.vfs, ctxs := t.ctxs, jobs := t.jobs, cores := t.cores
                     fresh := t.fresh, teams := t.teams } ∧
        (∀ j, j ≠ s.cur → Table.find? t.teams j = Table.find? s.teams j) ∧
        t.team = { s.team.goneOn true with sregs := t.team.sregs, spc := s.team.spc + 4, progress := s.clock } ∧
        (∀ r, t.team.sreg r = if r = d ∧ r ≠ 0 then BitVec.ofNat 64 s.ctx.nextLaunch else s.team.sreg r) ∧
        t.ctx.nextLaunch = s.ctx.nextLaunch + 1 ∧
        (t.launchAt l).device = true ∧ (t.launchAt l).deps = [] ∧ (t.launchAt l).job = s.launch.job ∧
        (t.launchAt l).phase = s.launch.phase ∧ (t.launchAt l).graph = s.launch.graph) ∧
    (x.toNat % 64 = 0 → s.block.prov = false → s.settled = false ∨ 4096 ≤ s.deviceLaunches (teamCtx s.cur) →
      exec (.launch d a) s = .next s) ∧
    (CanTrap s → x.toNat % 64 ≠ 0 → Traps (.launch d a) s 0x05 0x00 x)

/-- R166, R168, R292, R293: `GALLOC` of 0 bytes, of more than 2^32, or of more than the pool holds writes 0 to sD and allocates nothing;
otherwise it writes the 4 KiB-aligned base of a live allocation of the issuing block. `GFREE` of such a base, with no range lock and no
access outstanding over it, ends the allocation, and waits while there is one; a base that is none traps with detail 0x42. Both let the
context's held accesses walk again. (Which free address is the base, log 7.) -/
def Obligations.AllocationIsMadeAndFreed : Prop :=
  ∀ (d a : SReg) (s : State),
    let n := (s.team.sreg a).toNat
    let c := teamCtx s.cur
    let own (al : Alloc) : Prop := al.launch = teamLaunch s.cur ∧ al.block = blockIndex (teamBlock s.cur)
    let walksAgain (t : State) : Prop :=
      (∀ j, j ≠ s.cur → t.teamAt j = { s.teamAt j with rewalk := (t.teamAt j).rewalk }) ∧
      ∀ b, t.blockAt b = { s.blockAt b with shares := (t.blockAt b).shares }
    (s.block.prov = false →
      (n = 0 ∨ 0x100000000 < n → GivesSreg (.galloc d a) s d 0) ∧
      (0 < n → n ≤ 0x100000000 →
        let z : State := { s with fresh := s.fresh + 1 }
        let pages := (n + 4095) / 4096
        (z.poolTake c pages = none ∨ z.allocBase c pages (Config.gallocPage s.fresh) = none →
          ∃ t, exec (.galloc d a) s = .next t ∧ WroteSreg z t d 0) ∧
        (∀ ps s1 base, z.poolTake c pages = some (ps, s1) → z.allocBase c pages (Config.gallocPage s.fresh) = some base →
          ∃ t, exec (.galloc d a) s = .next t ∧ base % 4096 = 0 ∧
            t = { s with mem := t.mem, launches := t.launches, vfs := t.vfs, ctxs := t.ctxs, fresh := t.fresh, blocks := t.blocks
                         teams := t.teams } ∧ walksAgain t ∧
            (∀ r, t.team.sreg r = if r = d ∧ r ≠ 0 then BitVec.ofNat 64 base else s.team.sreg r) ∧
            t.team = { s.team.goneOn true with sregs := t.team.sregs, rewalk := true, spc := s.team.spc + 4, progress := s.clock } ∧
            ∃ al, al ∈ t.ctx.allocs ∧ al.base = base ∧ al.pages = ps ∧ own al))) ∧
    (∀ al, s.ctx.allocs.find? (fun y => decide (y.base = n ∧ own y)) = some al →
      let held := s.lockedOver (ctxVf c) (some (ctxAsid c)) [(n, n + 4096 * al.pages.length)]
      (held = true → exec (.gfree a) s = .next s) ∧
      (held = false → ∃ t, exec (.gfree a) s = .next t ∧
        t = { s with mem := t.mem, launches := t.launches, vfs := t.vfs, ctxs := t.ctxs, cores := t.cores, blocks := t.blocks
                     teams := t.teams } ∧ walksAgain t ∧
        t.team = { s.team.goneOn true with rewalk := true, spc := s.team.spc + 4, progress := s.clock } ∧
        t.ctx.allocs = s.ctx.allocs.filter (fun y => y.base != n))) ∧
    (CanTrap s → (∀ al ∈ s.ctx.allocs, al.base = n → ¬own al) → Traps (.gfree a) s 0x01 0x42 0)

/-! ## Special registers, traps and the end of a team -/

/-- R76 to R84, R98, R205, R295: `SRD` and `SWR` of every special register. `LANEID`, `ORD`, `KEYLO`, `KEYHI` and `NLIVE` wait to drain and
read lane position 0, or 0 with NLIVE 0. A `WPTR` is read in the state `s1` in which every access that comes before it
has performed: that it waits for all of them is the model's choice (DESIGN CHOICE, log 50: R205 orders events after the read of a `WPTR`, and
does not ask that every access has been performed). A
read of an unassigned number traps with detail 0x04, of an undeclared channel's write pointer with 0x5C. Values of `FTV` above 2 and the
registers marked Illegal, with every other number, are illegal to write; `FTV`, `TRAPINFO`, `TRAPADDR` and `TRAPBASE` in user state raise
the privilege trap; `MODE` waits to drain. Read-only and reserved fields do not change. -/
def Obligations.SpecialRegistersAreReadAndWritten : Prop :=
  (∀ (d : SReg) (s : State),
     let t := s.team
     let zero (x : Word64) : Word64 := if t.nlive = 0 then 0 else x
     let phase := ((s.clock.toNat : Int) - 3600 * t.wsSel.toNat) % 57600
     GivesSreg (.srd d 0x000) s d 32 ∧
     (t.drained = false → ∀ n ∈ [(0x001 : BitVec 13), 0x002, 0x003, 0x004, 0x005], exec (.srd d n) s = .next s) ∧
     (t.drained = true →
       GivesSreg (.srd d 0x001) s d 0 ∧
       GivesSreg (.srd d 0x002) s d (zero ((t.lane 0).ord.setWidth 64)) ∧
       GivesSreg (.srd d 0x003) s d (zero (BitVec.ofNat 64 ((t.lane 0).key.toNat % 2 ^ 32))) ∧
       GivesSreg (.srd d 0x004) s d (zero (BitVec.ofNat 64 ((t.lane 0).key.toNat / 2 ^ 32))) ∧
       GivesSreg (.srd d 0x005) s d (BitVec.ofNat 64 t.nlive)) ∧
     GivesSreg (.srd d 0x006) s d (BitVec.ofNat 64 (teamIdx s.cur)) ∧
     GivesSreg (.srd d 0x007) s d (BitVec.ofNat 64 (blockIndex (teamBlock s.cur))) ∧
     GivesSreg (.srd d 0x008) s d s.clock ∧
     (∃ v, GivesSreg (.srd d 0x009) s d v ∧ v.extractLsb' 36 28 = 0 ∧ v.extractLsb' 32 4 = t.wsSel ∧
       ((v.extractLsb' 16 16).toNat : Int) = (if phase < 460 then 460 - phase else 0) ∧
       ((v.extractLsb' 0 16).toNat : Int) = if phase < 460 then 0 else 57600 - phase) ∧
     GivesSreg (.srd d 0x00A) s d (s.ctx.ftv.setWidth 64) ∧
     (∃ v, GivesSreg (.srd d 0x00B) s d v ∧ v.extractLsb' 32 32 = 0 ∧ v.getLsbD 31 = t.sup ∧
       v.extractLsb' 29 2 = (match s.ctx.mode with
         | .free => 0
         | .record => 1
         | .replay => 2) ∧
       v.extractLsb' 2 27 = 0 ∧ v.getLsbD 1 = t.keep ∧ v.getLsbD 0 = t.stallchk) ∧
     GivesSreg (.srd d 0x00C) s d t.trapInfo ∧
     GivesSreg (.srd d 0x00D) s d t.trapAddr ∧
     GivesSreg (.srd d 0x00E) s d s.ctx.trapBase ∧
     (∀ c, c < 16 →
       (c < s.kernel.chans →
         (∀ s1, s.drainOps s.cur = .wait s1 → exec (.srd d (BitVec.ofNat 13 (0x20 + c))) s = .next s1) ∧
         ∀ s1, s.drainOps s.cur = .ok s1 → ∃ t, exec (.srd d (BitVec.ofNat 13 (0x20 + c))) s = .next t ∧
           WroteSreg s1 t d ((s.block.share (s.shareIdx s.cur)).chans.getD c {}).wptr) ∧
       (s.kernel.chans ≤ c → CanTrap s → Traps (.srd d (BitVec.ofNat 13 (0x20 + c))) s 0x01 0x5C 0)) ∧
     (∀ n : BitVec 13, CanTrap s → (0x00F ≤ n.toNat ∧ n.toNat < 0x020) ∨ 0x030 ≤ n.toNat → Traps (.srd d n) s 0x01 0x04 0)) ∧
  (∀ (a : SReg) (s : State),
     let x := s.team.sreg a
     let t0 := s.team
     let ctxOnly (t : State) (y : Ctx) : Prop :=
       t = { s with ctxs := t.ctxs, teams := t.teams } ∧ (∀ c, c ≠ teamCtx s.cur → Table.find? t.ctxs c = Table.find? s.ctxs c) ∧ t.ctx = y ∧
         (∀ j, j ≠ s.cur → Table.find? t.teams j = Table.find? s.teams j) ∧
         t.team = { t0.goneOn true with spc := t0.spc + 4, progress := s.clock }
     GivesTeam (.swr 0x009 a) s { t0 with wsSel := x.extractLsb' 0 4 } ∧
     (t0.drained = false → exec (.swr 0x00B a) s = .next s) ∧
     (t0.drained = true → GivesTeam (.swr 0x00B a) s { t0 with stallchk := x.getLsbD 0, keep := x.getLsbD 1 }) ∧
     (t0.sup = true →
       (x.toNat ≤ 2 → ∃ t, exec (.swr 0x00A a) s = .next t ∧ ctxOnly t { s.ctx with ftv := x.extractLsb' 0 32 }) ∧
       (∃ v, GivesTeam (.swr 0x00C a) s { t0 with trapInfo := v } ∧ v.extractLsb' 0 8 = x.extractLsb' 0 8 ∧
         v.extractLsb' 16 24 = x.extractLsb' 16 24 ∧ v.extractLsb' 8 8 = 0 ∧ v.extractLsb' 40 24 = 0) ∧
       GivesTeam (.swr 0x00D a) s { t0 with trapAddr := x } ∧
       (∃ t, exec (.swr 0x00E a) s = .next t ∧ ctxOnly t { s.ctx with trapBase := x })) ∧
     (CanTrap s →
       (x.toNat ≤ 2 → Traps (.swr 0x00A a) s 0x03 0x01 0) ∧ (2 < x.toNat → Traps (.swr 0x00A a) s 0x01 0x43 0) ∧
       Traps (.swr 0x00C a) s 0x03 0x01 0 ∧ Traps (.swr 0x00D a) s 0x03 0x01 0 ∧ Traps (.swr 0x00E a) s 0x03 0x01 0 ∧
       ∀ n : BitVec 13, n.toNat < 0x009 ∨ 0x00E < n.toNat → Traps (.swr n a) s 0x01 0x04 0))

/-- R296, R297, R384, R386, R394: `TRAP` enters the handler with cause 0x0D and the immediate in `TRAPADDR`, to return behind itself, once
the runs before it have retired and no settlement and no `LTRAP` of them is due. `TRET` in user state raises the privilege trap; in
supervisor state it waits to drain and for its accesses to perform, and then the mask, the runs set aside and SPC are as the trap
return state holds them and the team is in user state; a command that its engine held at a page fault goes on. -/
def Obligations.TrapAndReturn : Prop :=
  ∀ (i : BitVec 19) (s : State),
    (s.team.runsRetired = false ∨ s.team.settling ≠ none ∨ s.team.ltrap ≠ none → exec (.trap i) s = .next s) ∧
    (CanTrap s → ∃ t, exec (.trap i) s = .next t ∧ EnteredScalar s t 0x0D 0 (BitVec.ofNat 64 i.toNat) (s.team.spc + 4)) ∧
    (CanTrap s → Traps .tret s 0x03 0x03 0) ∧
    (s.team.sup = true →
      (s.settled = false → exec .tret s = .next s) ∧
      (s.settled = true → ∀ r, s.team.trapRet = some r →
        ∃ t, exec .tret s = .next t ∧ t = { s with blocks := t.blocks, teams := t.teams } ∧
          (∀ j, j ≠ s.cur → Table.find? t.teams j = Table.find? s.teams j) ∧
          t.team = { s.team with mask := r.mask, sup := false, runs := r.aside, spc := r.spc, trapRet := none, progress := s.clock
                                 gated := false } ∧
          (∀ x, x ≠ teamBlock s.cur → t.blockAt x = s.blockAt x) ∧ t.block = { s.block with shares := t.block.shares } ∧
          (∀ cj, t.block.share cj = { s.block.share cj with chans := (t.block.share cj).chans }) ∧
          ∀ cj c,
            let x := (s.block.share cj).chans.getD c {}
            (t.block.share cj).chans.getD c {} =
              if r.cmd.isSome ∧ x.issued.head?.map (·.1.uid) = r.cmd then
                { x with issued := x.issued.head?.toList.map (fun e => (e.1, { e.2 with held := none })) ++ x.issued.tail }
              else x))

/-- R44, R58, R137, R142, R298: `EXIT` waits to drain, in record and replay mode also for its ordered requests (log 50), then for every
command of its team. Then the team ends and holds nothing more: no lane,
yard record or unflushed entry. The block ends with its last team and counts as one more ended member of its launch, and as a failed one
where a cause ends it: a cancel of the same cycle that has ended no member yet does not (R189, log 27). With a
team left, or while it is provisional, it stays. -/
def Obligations.ExitEndsTheTeam : Prop :=
  ∀ (s : State),
    let k := teamBlock s.cur
    let l := blockLaunch k
    let u := s.team
    let ready := u.drained = true ∧ s.orderedPending s.cur = false
    let bad := ∃ c, s.block.ending = some c ∧ ¬(c = 0x0E ∧ (s.launchAt l).ctr.cancelAt = some s.clock)
    (¬ready → exec .exit s = .next s) ∧
    (ready → u.cmds ≠ [] → heldCommand s.block s.cur u.cmds = none → exec .exit s = .next s) ∧
    (ready → u.cmds = [] →
      (s.block.prov = true ∨ (∃ j ∈ s.blockTeams k, j ≠ s.cur ∧ (s.teamAt j).ended = false) →
        ∃ t, exec .exit s = .next t ∧
          t = { s with teams := t.teams, blocks := t.blocks, cores := t.cores, perf := t.perf } ∧
          (∀ j, j ≠ s.cur → t.teamAt j = { s.teamAt j with arrived := (t.teamAt j).arrived }) ∧
          t.team =
            { u with ended := true, runs := [], active := none, inflight := [], settling := none, nlive := 0, mask := 0, yard := []
                     emitBuf := [], arrived := none, polling := false, hold := none, gated := false, held := false, t1 := 0, t2 := 0
                     t3 := 0, waited := none } ∧
          (∀ x, t.blockAt x = { s.blockAt x with bars := (t.blockAt x).bars }) ∧
          ∀ c, t.coreAt c = { s.coreAt c with dps := (t.coreAt c).dps }) ∧
      (s.block.prov = false → (∀ j ∈ s.blockTeams k, j ≠ s.cur → (s.teamAt j).ended = true) →
        (∀ n, (s.block.bars.getD n {}).kind = none) →
        ∃ t, exec .exit s = .next t ∧ t.blocks.has k = false ∧ (∀ j, teamBlock j = k → t.teams.has j = false) ∧
          (s.ops = [] → (∀ j, teamBlock j ≠ k → t.teamAt j = { s.teamAt j with rewalk := (t.teamAt j).rewalk }) ∧
            ∀ x, x ≠ k → t.blockAt x = { s.blockAt x with shares := (t.blockAt x).shares }) ∧
          (t.launchAt l).ctr.done = (s.launchAt l).ctr.done + 1 ∧
          (bad → (t.launchAt l).ctr.failed = (s.launchAt l).ctr.failed + 1) ∧
          (¬bad → (t.launchAt l).ctr.failed = (s.launchAt l).ctr.failed)))

/-! ## Code, translation and random ranges -/

/-- R109, R222, R299: `ISYNC` gives up the code the team still holds; `ICINV` asks every other device of a domain scope, for
whose answers it waits, and drops from the instruction caches of the cores in its scope every
granule that shares a byte with sA to sA + sB - 1, so a length of 0 drops nothing; that it drops them as it completes is the model's
reading (log 16). R168, R213, R214, R300: `TLBINV` needs supervisor state; it sends one shoot-down of its form to the devices of
its scope, this one and for the domain every other that is not fenced off. `TLBSYNC` completes once every device has acknowledged.
`PTFENCE`, in any state, lets the held accesses of its context walk again. All of them wait to drain and for their accesses. -/
def Obligations.CachesAndShootDowns : Prop :=
  (∀ (a y : SReg) (sc : Scope) (s : State),
     let lo := (s.team.sreg a).toNat
     let hi := lo + (s.team.sreg y).toNat
     let far := sc = .dom ∨ sc = .sys
     let reached (c : Nat) : Prop :=
       match sc with
       | .team | .block => ∃ h ∈ s.block.shares, h.core = c
       | _ => c < s.nCores
     let discarded (t : State) : Prop :=
       t = { s with cores := t.cores, teams := t.teams } ∧
         t.team = { s.team.goneOn true with expanded := t.team.expanded, icinv := none, spc := s.team.spc + 4, progress := s.clock } ∧
         (∀ j, j ≠ s.cur → t.teamAt j = { s.teamAt j with expanded := (t.teamAt j).expanded }) ∧
         (∀ c, t.coreAt c = { s.coreAt c with icache := (t.coreAt c).icache }) ∧
         ∀ c g, g ∈ (t.coreAt c).icache ↔
           g ∈ (s.coreAt c).icache ∧ ¬(reached c ∧ ∃ x, g.va ≤ x ∧ x < g.va + 64 ∧ lo ≤ x ∧ x < hi)
     (s.settled = false → exec .isync s = .next s ∧ exec (.icinv a y sc) s = .next s) ∧
     (s.settled = true →
       GivesTeam .isync s { s.team with expanded := [] } ∧
       (∀ x, s.team.icinv = some x →
         (x.await = [] → ∃ t, exec (.icinv a y sc) s = .next t ∧ discarded t) ∧ (x.await ≠ [] → exec (.icinv a y sc) s = .next s)) ∧
       (s.team.icinv = none →
         ∃ devs : List Nat, (∀ x, x ∈ devs ↔ far ∧ x < s.routes.length ∧ x ≠ s.ownDevice ∧ x ∉ s.fenced ∧ s.isolated = false) ∧
           (devs = [] → ∃ t, exec (.icinv a y sc) s = .next t ∧ discarded t) ∧
           (devs ≠ [] → ∃ t, exec (.icinv a y sc) s = .next t ∧ t = { s with teams := t.teams, uids := s.uids + 1 } ∧
             t.team = { s.team with icinv := some { uid := s.uids, await := devs, since := s.clock } } ∧
             ∀ j, j ≠ s.cur → t.teamAt j = s.teamAt j)))) ∧
  ∀ (d a y : SReg) (glob : Bool) (sc : Scope) (s : State),
    let asid := (s.team.sreg d).toNat % 65536
    let lo := (s.team.sreg a).toNat
    let hi := lo + (s.team.sreg y).toNat
    let far := sc = .dom ∨ sc = .sys
    (∀ p ∈ [(Instr.tlbinv d a y glob sc, 0, asid, lo, hi, glob), (.tlbinvAsid d glob sc, 1, asid, 0, 0, glob),
        (.tlbinvVf sc, 2, 0, 0, 0, true)],
      (CanTrap s → Traps p.1 s 0x03 0x02 0) ∧
      (s.team.sup = true →
        (s.settled = false → exec p.1 s = .next s) ∧
        (s.settled = true →
          ∃ t devs, exec p.1 s = .next t ∧
            (∀ x, x ∈ devs ↔ x = s.ownDevice ∨ (far ∧ x < s.routes.length ∧ x ∉ s.fenced ∧ s.isolated = false)) ∧
            t = { s with
              uids := s.uids + 1
              tlbinvs := s.tlbinvs ++
                [{ uid := s.uids, team := s.cur, vf := teamVf s.cur, form := p.2.1, asid := p.2.2.1, lo := p.2.2.2.1
                   hi := p.2.2.2.2.1, glob := p.2.2.2.2.2, devs := devs, waiting := false }]
              teams := t.teams } ∧
            (∀ j, j ≠ s.cur → Table.find? t.teams j = Table.find? s.teams j) ∧
            t.team = { s.team.goneOn true with
              shoots := s.team.shoots ++ [{ uid := s.uids, await := devs, since := s.clock }]
              spc := s.team.spc + 4, progress := s.clock }))) ∧
    (CanTrap s → Traps .tlbsync s 0x03 0x02 0) ∧
    (s.team.sup = true →
      (s.settled = true → (∀ x ∈ s.team.shoots, x.await = []) → GivesTeam .tlbsync s { s.team with shoots := [] }) ∧
      (s.settled = false ∨ (∃ x ∈ s.team.shoots, x.await ≠ []) → exec .tlbsync s = .next s)) ∧
    (s.settled = false → exec .ptfence s = .next s) ∧
    (s.settled = true →
      ∃ t, exec .ptfence s = .next t ∧ t = { s with launches := t.launches, blocks := t.blocks, teams := t.teams } ∧
        t.team = { s.team.goneOn true with rewalk := true, spc := s.team.spc + 4, progress := s.clock } ∧
        (∀ j, j ≠ s.cur → t.teamAt j = { s.teamAt j with rewalk := (s.teamAt j).rewalk || (t.teamAt j).rewalk }) ∧
        (∀ l, t.launchAt l = { s.launchAt l with rewalk := (s.launchAt l).rewalk || (t.launchAt l).rewalk }) ∧
        ∀ x ci, t.blockAt x = { s.blockAt x with shares := (t.blockAt x).shares } ∧
          (t.blockAt x).share ci = { (s.blockAt x).share ci with chans := ((t.blockAt x).share ci).chans })

/-- R182, R183, R301: `RNGREG` completes in every state. In a block that is not provisional a range of no counters adds nothing; any other
joins the table unless that holds 256, and the overlap count rises, up to its maximum, by the held ranges of the same key that
share a counter with it. In a provisional block the range is recorded without comparison. -/
def Obligations.RandomRangesAreRegistered : Prop :=
  ∀ (d a y : SReg) (s : State),
    let e : RngEntry := { key := s.team.sreg d, first := s.team.sreg a, count := s.team.sreg y, launch := launchIdent (teamLaunch s.cur) }
    let last (r : RngEntry) : Nat := min (r.first.toNat + r.count.toNat) 0x10000000000000000
    let shares (r : RngEntry) : Prop := r.key = e.key ∧ ∃ n, r.first.toNat ≤ n ∧ n < last r ∧ e.first.toNat ≤ n ∧ n < last e
    ∃ t, exec (.rngreg d a y) s = .next t ∧
      t = { s with mem := t.mem, launches := t.launches, vfs := t.vfs, ctxs := t.ctxs, teams := t.teams } ∧
      (∀ j, j ≠ s.cur → Table.find? t.teams j = Table.find? s.teams j) ∧
      t.team = { s.team.goneOn true with spc := s.team.spc + 4, progress := s.clock } ∧
      t.ctx = { s.ctx with rng := t.ctx.rng, rngOver := t.ctx.rngOver } ∧
      (s.block.prov = true → t.ctx = s.ctx ∧ t.mem = s.mem ∧
        t.launch = { s.launch with rngHeld := s.launch.rngHeld ++ [(blockIndex (teamBlock s.cur), e)] }) ∧
      (s.block.prov = false →
        (e.count = 0 → t.ctx = s.ctx) ∧
        (e.count ≠ 0 →
          t.ctx.rng = (if 256 ≤ s.ctx.rng.length then s.ctx.rng else s.ctx.rng ++ [e]) ∧
          ∃ hits : List RngEntry, hits.Sublist s.ctx.rng ∧ (∀ r ∈ s.ctx.rng, r ∈ hits ↔ shares r) ∧
            t.ctx.rngOver = BitVec.ofNat 32 (min (s.ctx.rngOver.toNat + hits.length) 0xFFFFFFFF)))

/-! ## The lane stream -/

/-- R303, R305 to R310: the integer arithmetic of the lanes, over operands read as the type says, wrapped to its width or, with
`.SAT`, clamped to its range. Division truncates toward zero; a divisor of 0 gives all ones and the dividend as remainder. None of
these instructions traps on a value. -/
def Obligations.LaneIntegerArithmetic : Prop :=
  ∀ (c : Ctl) (ty : IntTy) (w sat : Bool) (d : Dst) (x z u : Src) (y : SrcImm) (s : State),
    let n : Nat := if ty.wide = true then 64 else 32
    let st : IntTy := if w = true then .i64 else .i32
    LaneGives (.iadd c ty sat d x y) c s 4 (fun t a p => laneFit ty sat p d (laneInt ty t a p x + laneImm ty t a p y)) ∧
    LaneGives (.isub c ty sat d x y) c s 4 (fun t a p => laneFit ty sat p d (laneInt ty t a p x - laneImm ty t a p y)) ∧
    LaneGives (.imul c ty sat d x y) c s 4 (fun t a p => laneFit ty sat p d (laneInt ty t a p x * laneImm ty t a p y)) ∧
    LaneGives (.imulh c ty d x y) c s 4 (fun t a p => laneFit ty false p d (laneInt ty t a p x * laneImm ty t a p y / 2 ^ n)) ∧
    LaneGives (.imad c ty sat d x z u) c s 4
      (fun t a p => laneFit ty sat p d (laneInt ty t a p x * laneInt ty t a p z + laneInt ty t a p u)) ∧
    LaneGives (.idiv c ty d x y) c s 4
      (fun t a p => laneFit ty false p d (if laneImm ty t a p y = 0 then -1 else (laneInt ty t a p x).tdiv (laneImm ty t a p y))) ∧
    LaneGives (.irem c ty d x y) c s 4
      (fun t a p => laneFit ty false p d
        (if laneImm ty t a p y = 0 then laneInt ty t a p x else (laneInt ty t a p x).tmod (laneImm ty t a p y))) ∧
    LaneGives (.imin c ty d x y) c s 4 (fun t a p => laneFit ty false p d (min (laneInt ty t a p x) (laneImm ty t a p y))) ∧
    LaneGives (.imax c ty d x y) c s 4 (fun t a p => laneFit ty false p d (max (laneInt ty t a p x) (laneImm ty t a p y))) ∧
    LaneGives (.iabs c w sat d x) c s 4 (fun t a p => laneFit st sat p d |laneInt st t a p x|) ∧
    LaneGives (.ineg c w sat d x) c s 4 (fun t a p => laneFit st sat p d (-laneInt st t a p x))

/-- R311 to R316: the bit operations, moves, selects and compares of the lanes, at 32 or 64 bits as the type's width says. A shift
or rotation counts b modulo the width, and a field is cut at the width. -/
def Obligations.LaneBitsAndMoves : Prop :=
  ∀ (c : Ctl) (ty : IntTy) (d : Dst) (pd : PDst) (x z u v : Src) (y : SrcImm) (q : PSrc) (cd : Cond) (s : State),
    let two (f : (w : Nat) → BitVec w → BitVec w → BitVec w) (t : Team) (a : Active) (p : Nat) : List LaneWrite :=
      laneWord ty.wide p d (f 32 (src32 t a p x) (imm32 t a p y)) (f 64 (src64 t a p x) (imm64 t a p y))
    let one (f : (w : Nat) → BitVec w → BitVec w) (t : Team) (a : Active) (p : Nat) : List LaneWrite :=
      laneWord ty.wide p d (f 32 (src32 t a p x)) (f 64 (src64 t a p x))
    LaneGives (.land c ty d x y) c s 4 (two (fun _ x y => x &&& y)) ∧
    LaneGives (.lor c ty d x y) c s 4 (two (fun _ x y => x ||| y)) ∧
    LaneGives (.lxor c ty d x y) c s 4 (two (fun _ x y => x ^^^ y)) ∧
    LaneGives (.lnot c ty d x) c s 4 (one (fun _ x => ~~~x)) ∧
    LaneGives (.shl c ty d x y) c s 4 (two (fun w x y => x <<< (y.toNat % w))) ∧
    LaneGives (.shr c ty d x y) c s 4 (two (fun w x y => x >>> (y.toNat % w))) ∧
    LaneGives (.sar c ty d x y) c s 4 (two (fun w x y => x.sshiftRight (y.toNat % w))) ∧
    LaneGives (.rol c ty d x y) c s 4 (two (fun w x y => x.rotateLeft (y.toNat % w))) ∧
    LaneGives (.popc c ty d x) c s 4 (one (fun w x => BitVec.ofNat w (onesIn x))) ∧
    LaneGives (.clz c ty d x) c s 4 (one (fun w x => BitVec.ofNat w (zerosAbove x))) ∧
    LaneGives (.brev c ty d x) c s 4 (one (fun _ x => reversed x)) ∧
    LaneGives (.bfe c ty d x z u) c s 4
      (fun t a p => laneWord ty.wide p d (extracted ty.signed (src32 t a p x) (src32 t a p z) (src32 t a p u))
        (extracted ty.signed (src64 t a p x) (src64 t a p z) (src64 t a p u))) ∧
    LaneGives (.bfi c ty d x z u v) c s 4
      (fun t a p => laneWord ty.wide p d
        (inserted (src32 t a p x) (src32 t a p z) (fieldPos (src32 t a p u)) (fieldLen (src32 t a p u) (src32 t a p v)))
        (inserted (src64 t a p x) (src64 t a p z) (fieldPos (src64 t a p u)) (fieldLen (src64 t a p u) (src64 t a p v)))) ∧
    LaneGives (.mov c ty d y) c s 4 (fun t a p => laneWord ty.wide p d (imm32 t a p y) (imm64 t a p y)) ∧
    LaneGives (.sel c ty d x z q) c s 4
      (fun t a p => if (t.lane p).pred q = true then laneWord ty.wide p d (src32 t a p x) (src64 t a p x)
        else laneWord ty.wide p d (src32 t a p z) (src64 t a p z)) ∧
    ∀ f : Int → Int → Bool, (∀ m n, f m n = true ↔ intCompares cd m n) → cd ≠ .num → cd ≠ .nan →
      LaneGives (.icmp c ty cd pd x z) c s 4 (fun t a p => writePred p pd (f (laneInt ty t a p x) (laneInt ty t a p z)))

/-- R317 to R321: the F32 instructions of the lanes, with their latency of 6. `FABS` and `FNEG` act on bit 31 alone. -/
def Obligations.LaneF32Instructions : Prop :=
  ∀ (c : Ctl) (md : Rm) (d : Dst) (pd : PDst) (x z u : Src) (y : SrcImm) (cd : Cond) (s : State),
    let two (f : Word32 → Word32 → Word32) (t : Team) (a : Active) (p : Nat) : List LaneWrite :=
      writeReg p d (f (srcF32 t a p x) (immF32 t a p y))
    let one (f : Word32 → Word32) (t : Team) (a : Active) (p : Nat) : List LaneWrite := writeReg p d (f (srcF32 t a p x))
    LaneGives (.fadd c md d x y) c s 6 (two (addF32 md)) ∧
    LaneGives (.fsub c md d x y) c s 6 (two (subF32 md)) ∧
    LaneGives (.fmul c md d x y) c s 6 (two (mulF32 md)) ∧
    LaneGives (.ffma c md d x z u) c s 6
      (fun t a p => writeReg p d (fmaF32 md (srcF32 t a p x) (srcF32 t a p z) (srcF32 t a p u))) ∧
    LaneGives (.fmin c d x y) c s 6 (two minF32) ∧
    LaneGives (.fmax c d x y) c s 6 (two maxF32) ∧
    LaneGives (.fabs c d x) c s 6 (one (fun x => x.setWidth 31 |>.setWidth 32)) ∧
    LaneGives (.fneg c d x) c s 6 (one (fun x => x ^^^ BitVec.twoPow 32 31)) ∧
    LaneGives (.frint c md d x) c s 6 (one (frintF32 md)) ∧
    ∃ f : Word32 → Word32 → Bool, (∀ m n, f m n = true ↔ floatCompares fmtF32 cd m n) ∧
      LaneGives (.fcmp c cd pd x z) c s 6 (fun t a p => writePred p pd (f (srcF32 t a p x) (srcF32 t a p z)))

/-- R114, R317, R318, R321, R322: what the floating-point operations compute. Sums, differences, products and fused multiply-adds
of F32 and F64 are the exact result rounded once in the mode, with the special cases of infinities, NaNs and zeros; `FMIN`, `FMAX`
and their F64 counterparts pick an operand; an infinite product or addend acts as IEEE 754 says; `FRINT` rounds to an integral value. -/
def Obligations.FloatResultsAreRoundedOnce : Prop :=
  ∀ md : Rm,
    ArithOf fmtF32 md (0x7FC00000 : Word32) (addF32 md) (subF32 md) (mulF32 md) (fmaF32 md) ∧
    ArithOf fmtF64 md (0x7FF8000000000000 : Word64) (addF64 md) (subF64 md) (mulF64 md) (fmaF64 md) ∧
    PickOf fmtF32 (0x7FC00000 : Word32) minF32 maxF32 ∧
    PickOf fmtF64 (0x7FF8000000000000 : Word64) minF64 maxF64 ∧
    ∀ x, FrintOf md x (frintF32 md x)

/-- R112, R113, R122 to R126, R322, R323: the F64 instructions of the lanes and `CVT`, with their latency of 8, and the values of `CVT`.
`DABS` and `DNEG` act on bit 63 alone. `CVT` converts an integer exactly or rounded once; a number to a floating-point format rounded once,
and beyond the largest finite value as the mode, `.SAT` and the format say, to E8M0 as a power of two, and to an integer rounded and then
clamped, with NaN 0. A register gives the code in its low bits; an inline integer, a constant and zero give their values. Between equal
types only a NaN changes (that `.SAT` leaves an infinity there too, that of a register or a constant, is the model's reading, log 22). -/
def Obligations.LaneF64AndConversions : Prop :=
  (∀ (c : Ctl) (md : Rm) (sat : Bool) (dt st : CvtTy) (d : Dst) (pd : PDst) (x y z : Src) (cd : Cond) (s : State),
     let two (f : Word64 → Word64 → Word64) (t : Team) (a : Active) (p : Nat) : List LaneWrite :=
       writePair p d (f (srcF64 t a p x) (srcF64 t a p y))
     let one (f : Word64 → Word64) (t : Team) (a : Active) (p : Nat) : List LaneWrite := writePair p d (f (srcF64 t a p x))
     LaneGives (.dadd c md d x y) c s 8 (two (addF64 md)) ∧
     LaneGives (.dsub c md d x y) c s 8 (two (subF64 md)) ∧
     LaneGives (.dmul c md d x y) c s 8 (two (mulF64 md)) ∧
     LaneGives (.dfma c md d x y z) c s 8
       (fun t a p => writePair p d (fmaF64 md (srcF64 t a p x) (srcF64 t a p y) (srcF64 t a p z))) ∧
     LaneGives (.dmin c d x y) c s 8 (two minF64) ∧
     LaneGives (.dmax c d x y) c s 8 (two maxF64) ∧
     LaneGives (.dabs c d x) c s 8 (one (fun x => x.setWidth 63 |>.setWidth 64)) ∧
     LaneGives (.dneg c d x) c s 8 (one (fun x => x ^^^ BitVec.twoPow 64 63)) ∧
     LaneGives (.cvt c md sat dt st d x) c s 8
       (fun t a p => laneWord dt.wide p d ((cvtResult dt (cvtLane md sat dt st t a p x)).setWidth 32)
         (cvtResult dt (cvtLane md sat dt st t a p x))) ∧
     ∃ f : Word64 → Word64 → Bool, (∀ m n, f m n = true ↔ floatCompares fmtF64 cd m n) ∧
       LaneGives (.dcmp c cd pd x y) c s 8 (fun t a p => writePred p pd (f (srcF64 t a p x) (srcF64 t a p y)))) ∧
  ((fmtF64.nan = 0x7FF8000000000000 ∧ fmtF32.nan = 0x7FC00000 ∧ fmtF16.nan = 0x7E00 ∧ fmtBF16.nan = 0x7FC0 ∧ fmtE5M2.nan = 0x7E ∧
     fmtE4M3.nan = 0x7F ∧ fmtE2M1.nan = 0) ∧
   (∀ r : Nat, (r < 2 ^ 8 → cvtResult .i8 r = (BitVec.ofNat 8 r).signExtend 64) ∧
     (r < 2 ^ 16 → cvtResult .i16 r = (BitVec.ofNat 16 r).signExtend 64) ∧
     ∀ dt, dt ≠ .i8 → dt ≠ .i16 → cvtResult dt r = BitVec.ofNat 64 r) ∧
   ∀ (md : Rm) (sat : Bool) (dt st : CvtTy) (t : Team) (a : Active) (p : Nat) (x : Src),
     let n := cvtBits st
     let bits := (if st.wide = true then (src64 t a p x).toNat else (src32 t a p x).toNat) % 2 ^ n
     let r := cvtLane md sat dt st t a p x
     (cvtInt st = true →
       ConvertsFromInt md sat n dt (if cvtSigned st = true ∧ 2 ^ (n - 1) ≤ bits then (bits : Int) - 2 ^ n else bits) r) ∧
     (cvtInt st = false →
       match x with
       | .int k => ConvertsTo md sat dt (.num k false) r
       | .const k =>
         let kept := dt = st ∧ IsInf fmtF32 (constF32 k) ∧ ∃ f, cvtFmt dt = some f ∧ f.family = .ieee
         (kept → ConvertsTo md false dt (sourceOf .f32 (constF32 k).toNat) r) ∧
           (¬kept → ConvertsTo md sat dt (sourceOf .f32 (constF32 k).toNat) r)
       | .zero => ConvertsTo md sat dt (.num 0 false) r
       | _ => if dt = st ∧ sourceOf st bits ≠ .nan then r = bits else ConvertsTo md sat dt (sourceOf st bits) r))

/-- R133, R134, R324: the functions of ordinary arguments. In version 0 `RCP`, `SQRT` and `RSQ` are the exact values rounded once to
nearest; `EXP2` and `LOG2` are exact at integers and at powers of two and between the neighbouring ones elsewhere; `SIN` and `COS` are
exact at quarter turns, of period 1, odd and even. Version 1 takes a subnormal argument as zero and makes a subnormal result zero; that a
negative one becomes the zero of its sign is the model's reading (DEDUCED, log 22). -/
def Obligations.OrdinaryFunctionValues : Prop :=
  (∀ x : Word32, IsFin fmtF32 x → magBits x ≠ 0 →
    let v := |floatVal fmtF32 x|
    (∃ y, (fnValue .rcp 0 x).toNat = fmtF32.signBit x.msb + y ∧ NearestTo fmtF32 (fun q => q * v ≤ 1) (fun q => 1 ≤ q * v) y) ∧
    (x.msb = false →
      NearestTo fmtF32 (fun q => q * q ≤ v) (fun q => v ≤ q * q) (fnValue .sqrt 0 x).toNat ∧
      NearestTo fmtF32 (fun q => q * q * v ≤ 1) (fun q => 1 ≤ q * q * v) (fnValue .rsq 0 x).toNat ∧
      ∀ k : Int, 2 ^ k ≤ v → v < 2 ^ (k + 1) →
        let y := fnValue .log2 0 x
        IsFin fmtF32 y ∧ k ≤ floatVal fmtF32 y ∧ floatVal fmtF32 y ≤ k + 1 ∧ (v = 2 ^ k → floatVal fmtF32 y = k ∧ (k = 0 → y = 0)))) ∧
  (∀ (x : Word32) (n : Int), IsFin fmtF32 x → n ≤ floatVal fmtF32 x → floatVal fmtF32 x < n + 1 →
    let y := fnValue .exp2 0 x
    (128 ≤ n → y = 0x7F800000) ∧ (n < -150 → y = 0) ∧
    (-149 ≤ n → n < 128 → y.msb = false ∧ 2 ^ n ≤ fmtF32.magnitude y.toNat ∧ fmtF32.magnitude y.toNat ≤ 2 ^ (n + 1) ∧
      (floatVal fmtF32 x = n → fmtF32.magnitude y.toNat = 2 ^ n))) ∧
  (∀ (x : Word32) (k : Int), IsFin fmtF32 x → 4 * floatVal fmtF32 x = k →
    fnValue .sin 0 x = (if k % 4 = 1 then 0x3F800000 else if k % 4 = 3 then 0xBF800000 else if x.msb = true then 0x80000000 else 0) ∧
    fnValue .cos 0 x = (if k % 4 = 0 then 0x3F800000 else if k % 4 = 2 then 0xBF800000 else 0)) ∧
  (∀ x y : Word32, IsFin fmtF32 x → IsFin fmtF32 y →
    (fnValue .sin 0 (x ^^^ 0x80000000) = fnValue .sin 0 x ^^^ 0x80000000 ∧ fnValue .cos 0 (x ^^^ 0x80000000) = fnValue .cos 0 x) ∧
    (x.msb = y.msb → (∃ k : Int, floatVal fmtF32 x - floatVal fmtF32 y = k) →
      fnValue .sin 0 x = fnValue .sin 0 y ∧ fnValue .cos 0 x = fnValue .cos 0 y)) ∧
  ∀ (f : Fn) (x : Word32),
    let flush (y : Word32) : Word32 := if magBits y < 2 ^ 23 then y &&& 0x80000000 else y
    fnValue f 1 x = flush (fnValue f 0 (flush x))

/-- R133, R134, R324, R325: the function instructions and `RAND`, with their latency of 12. A function is that of the table version
that the run read at its grant, with the special results of R134 in every version; `RAND` computes from its key and its counter
alone. -/
def Obligations.LaneFunctionsAndRandom : Prop :=
  (∀ (c : Ctl) (wide : Bool) (d : Dst) (x y : Src) (s : State),
    let one (f : Fn) (t : Team) (a : Active) (p : Nat) : List LaneWrite := writeReg p d (fnValue f a.ftv (srcF32 t a p x))
    LaneGives (.rcp c d x) c s 12 (one .rcp) ∧ LaneGives (.rsq c d x) c s 12 (one .rsq) ∧
    LaneGives (.sqrt c d x) c s 12 (one .sqrt) ∧ LaneGives (.exp2 c d x) c s 12 (one .exp2) ∧
    LaneGives (.log2 c d x) c s 12 (one .log2) ∧ LaneGives (.sin c d x) c s 12 (one .sin) ∧
    LaneGives (.cos c d x) c s 12 (one .cos) ∧
    ∃ f : Word64 → Word64 → Word64,
      (∀ key ctr (z : Nat → Word32 × Word32 × Word32 × Word32),
        z 0 = (ctr.extractLsb' 0 32, ctr.extractLsb' 32 32, key.extractLsb' 0 32, key.extractLsb' 32 32) →
        (∀ r < 10, RandRound (r + 1) (z r) (z (r + 1))) →
        f key ctr = ((z 10).2.1 ^^^ (z 10).2.2.1) ++ ((z 10).1 ^^^ (z 10).2.2.2)) ∧
      LaneGives (.rand c wide d x y) c s 12
        (fun t a p => laneWord wide p d ((f (src64 t a p x) (src64 t a p y)).setWidth 32) (f (src64 t a p x) (src64 t a p y)))) ∧
  ∀ v : Nat,
    (∀ f x, IsNan fmtF32 x → fnValue f v x = 0x7FC00000) ∧
    (fnValue .rcp v 0 = 0x7F800000 ∧ fnValue .rcp v 0x80000000 = 0xFF800000 ∧ fnValue .rcp v 0x7F800000 = 0 ∧
      fnValue .rcp v 0xFF800000 = 0x80000000) ∧
    (fnValue .rsq v 0 = 0x7F800000 ∧ fnValue .rsq v 0x80000000 = 0xFF800000 ∧ fnValue .rsq v 0x7F800000 = 0 ∧
      fnValue .rsq v 0xFF800000 = 0x7FC00000) ∧
    (fnValue .sqrt v 0 = 0 ∧ fnValue .sqrt v 0x80000000 = 0x80000000 ∧ fnValue .sqrt v 0x7F800000 = 0x7F800000 ∧
      fnValue .sqrt v 0xFF800000 = 0x7FC00000) ∧
    (fnValue .exp2 v 0 = 0x3F800000 ∧ fnValue .exp2 v 0x80000000 = 0x3F800000 ∧ fnValue .exp2 v 0x7F800000 = 0x7F800000 ∧
      fnValue .exp2 v 0xFF800000 = 0) ∧
    (fnValue .log2 v 0 = 0xFF800000 ∧ fnValue .log2 v 0x80000000 = 0xFF800000 ∧ fnValue .log2 v 0x7F800000 = 0x7F800000 ∧
      fnValue .log2 v 0xFF800000 = 0x7FC00000) ∧
    (fnValue .sin v 0 = 0 ∧ fnValue .sin v 0x80000000 = 0x80000000 ∧ fnValue .sin v 0x7F800000 = 0x7FC00000 ∧
      fnValue .sin v 0xFF800000 = 0x7FC00000) ∧
    (fnValue .cos v 0 = 0x3F800000 ∧ fnValue .cos v 0x80000000 = 0x3F800000 ∧ fnValue .cos v 0x7F800000 = 0x7FC00000 ∧
      fnValue .cos v 0xFF800000 = 0x7FC00000) ∧
    ∀ x : Word32, x.msb = true → IsFin fmtF32 x → 2 ^ 23 ≤ magBits x →
      fnValue .rsq v x = 0x7FC00000 ∧ fnValue .sqrt v x = 0x7FC00000 ∧ fnValue .log2 v x = 0x7FC00000

/-- R326 to R329: predicate logic with a latency of 4, and the votes and shuffles with a latency of 8. A vote is over the lanes of
the band that execute, and a shuffle reads a lane of the band that executes or else the lane itself. -/
def Obligations.LanePredicatesVotesAndShuffles : Prop :=
  ∀ (c : Ctl) (wide : Bool) (m : ShflMode) (d : Dst) (pd : PDst) (p q : PSrc) (x y : Src) (s : State),
    let logic (f : Bool → Bool → Bool) (t : Team) (_ : Active) (l : Nat) : List LaneWrite :=
      writePred l pd (f ((t.lane l).pred p) ((t.lane l).pred q))
    LaneGives (.pand c pd p q) c s 4 (logic (fun a b => a && b)) ∧
    LaneGives (.por c pd p q) c s 4 (logic (fun a b => a || b)) ∧
    LaneGives (.pxor c pd p q) c s 4 (logic (fun a b => xor a b)) ∧
    LaneGives (.pandn c pd p q) c s 4 (logic (fun a b => a && !b)) ∧
    LaneGives (.vote c (.any pd) p) c s 8
      (fun t _ l => writePred l pd (decide (∃ j ∈ mates t c l, (t.lane j).pred p = true))) ∧
    LaneGives (.vote c (.all pd) p) c s 8
      (fun t _ l => writePred l pd (decide (∀ j ∈ mates t c l, (t.lane j).pred p = true))) ∧
    LaneGives (.vote c (.ballot d) p) c s 8
      (fun t _ l => writeReg l d
        (BitVec.ofFnLE (fun j : Fin 32 => decide (32 * (l / 32) + j ∈ mates t c l) && (t.lane (32 * (l / 32) + j)).pred p))) ∧
    LaneGives (.shfl c m wide d x y) c s 8
      (fun t a l =>
        let v : Int := (src32 t a l y).toNat
        let j : Int := match m with
          | .idx => v
          | .up => (l % 32 : Nat) - v
          | .down => (l % 32 : Nat) + v
          | .xor => (l % 32 ^^^ (src32 t a l y).toNat : Nat)
        let k := if 0 ≤ j ∧ j < 32 ∧ 32 * (l / 32) + j.toNat ∈ mates t c l then 32 * (l / 32) + j.toNat else l
        laneWord wide l d (src32 t a k x) (src64 t a k x))

/-- R127, R128, R330: `REDUCE` gives every executing lane of a band the butterfly of the values of its 32 lanes, and `SCAN` each
lane its prefix; a lane that does not execute contributes the identity. A band of `SCAN.FMIN` or `SCAN.FMAX` whose lanes all hold NaN yields
the canonical NaN in each (the model's reading where the steps of R128 leave the lowest lane its own bits, log 22). For the integer operations these are the combination of
the executing lanes of the band, all of them or those up to the lane. -/
def Obligations.ReductionsAndPrefixes : Prop :=
  (∀ (c : Ctl) (op : BandOp) (d : Dst) (x : Src) (s : State),
    LaneGives (.reduce c op d x) c s 8
      (fun t a l => writeReg l d (butterflyOf (combine op) (contributed op t a c l x) 5 0)) ∧
    ∃ y : Team → Active → Nat → Word32,
      (∀ t a l,
        let missing := (op = .fmin ∨ op = .fmax) ∧ ∀ i < 32, IsNan fmtF32 (contributed op t a c l x i)
        (missing → y t a l = 0x7FC00000) ∧ (¬missing → y t a l = scanOf (combine op) (contributed op t a c l x) 5 (l % 32))) ∧
      LaneGives (.scan c op d x) c s 8 (fun t a l => writeReg l d (y t a l))) ∧
  ∀ (c : Ctl) (op : RedOp) (x : Src) (t : Team) (a : Active) (l : Nat),
    butterflyOf (combine (.int op)) (contributed (.int op) t a c l x) 5 0 =
      ((mates t c l).map (fun j => src32 t a j x)).foldl (combine (.int op)) (identity (.int op)) ∧
    scanOf (combine (.int op)) (contributed (.int op) t a c l x) 5 (l % 32) =
      (((mates t c l).filter (fun j => decide (j ≤ l))).map (fun j => src32 t a j x)).foldl (combine (.int op)) (identity (.int op))

/-- R331: `SAMPLE` draws a lane of the band from the F32 weights of its executing lanes with the random word of the lowest of them,
and gives every executing lane the index and whether it is valid. -/
def Obligations.SampleDrawsALane : Prop :=
  ∀ (c : Ctl) (d : Dst) (v : PDst) (x u : Src) (s : State),
    ∃ f : (Nat → Word32) → Word32 → Word32 × Bool, (∀ w r, SampleOf w r (f w r).1 (f w r).2) ∧
      LaneGives (.sample c d v x u) c s 8
        (fun t a l =>
          let w (i : Nat) : Word32 := if 32 * (l / 32) + i ∈ mates t c l then srcF32 t a (32 * (l / 32) + i) x else 0
          let r := f w (src32 t a ((mates t c l).headD 0) u)
          writeReg l d r.1 ++ writePred l v r.2)

/-- R38, R40, R41, R62, R73, R266, R384: the checks that every lane instruction makes before its own. A register at or above the
declared count traps with detail 0x06; a wait on a token that the run has raised with 0x09; with the stall check on, an instruction
that reads a register too early with cause 0x0B, for its executing lanes. An instruction that touches a pending destination is held, on its
own core or, of a pair operation, on its follower's; so is one that waits for a token that is not 0, which its run may be granted with where
its code could not be read then (the model's reading, log 15). -/
def Obligations.LaneChecksComeFirst : Prop :=
  ∀ (c : Ctl) (i : Instr) (s : State) (a : Active),
    ctl? i = some c → s.team.active = some a → a.finished = false →
    let u := s.team.landDue a
    (CanTrapLane s → laneOutside i s.kernel.regs s.kernel.tiles = true →
      LaneTraps i s a 0x01 0x06 0 s.team.mask (s.team.activeLanes.headD 0)) ∧
    (laneOutside i s.kernel.regs s.kernel.tiles = false →
      (CanTrapLane s → BitVec.ofNat 3 c.wait &&& a.run.raised ≠ 0 →
        LaneTraps i s a 0x01 0x09 0 s.team.mask (s.team.activeLanes.headD 0)) ∧
      (BitVec.ofNat 3 c.wait &&& a.run.raised = 0 →
        ((s.team.waitsToken (BitVec.ofNat 3 c.wait) = true ∨ s.pendingHit s.cur i = true) →
          ∃ t, exec i s = .next t ∧ OnlyTeam s t ∧ t.team = { s.team with held := true }) ∧
        (s.issueHeld s.cur i c = false → CanTrapLane s → s.team.stallchk = true → tooEarly a i = true → u.execLanes c ≠ [] →
          LaneTraps i s a 0x0B 0 0 (maskOf (u.execLanes c)) ((u.execLanes c).headD 0))))

/-- R91, R337, R338, R341, R342: `LDS` loads 1, 2, 4 or 8 bytes at (a + b) mod 2^32 of the scratchpad that each executing lane's address
names, zero- or sign-extended; the values are pending until it completes. `STS` stores the low 1, 2, 4 or 8 bytes of c of every executing
lane there; where lanes write the same byte the highest-positioned lane's remains, and every other byte of every scratchpad reads as
before. The lowest lane with a misaligned address traps. An `STS` with release or sequentially consistent order begins in the state `s2` in
which every access that comes before it has performed, and is held until then: for relaxed order `s2` is the state itself. That the bytes
are read and written at issue, and that a release waits so, is the model's choice (logs 2, 50). -/
def Obligations.LaneScratchLoadsAndStores : Prop :=
  (∀ (c : Ctl) (w : Width) (sx : Bool) (o : Order) (sc : Scope) (d : Dst) (x y : Src) (s : State) (a : Active) (ci off : Nat → Nat),
     let i := Instr.lds c w sx o sc d x y
     let u := s.team.landDue a
     let ex := u.execLanes c
     let va (p : Nat) : Nat := (src32 u a p x + src32 u a p y).toNat
     Issuable i c s a →
     ((∀ p ∈ ex, ScratchOk s (va p) w.bytes false (ci p) (off p)) →
       ∃ t, ∃ val : Nat → Word64, exec i s = .next t ∧ IssuedOnly s t ∧ IssuedFrame s t a ∧
         IssuedTeam s t i c a []
           (some { n := 0, dsts := laneWrites i
                   writes := ex.flatMap (fun p => laneWord w.wide p d ((val p).setWidth 32) (val p)) }) ∧
         ∀ p ∈ ex, ∃ v, Loaded v (s.block.share (ci p)).scratch (off p) w.bytes ∧
           val p = if sx = true then (v.setWidth (8 * w.bytes)).signExtend 64 else v) ∧
     (CanTrapLane s → ∀ p rest, ex = p :: rest → va p % w.bytes ≠ 0 →
       (∀ q ∈ rest, va q % w.bytes ≠ 0 ∨ ∃ ci off, ScratchOk s (va q) w.bytes false ci off) →
       LaneTraps i s a 0x05 0x00 (BitVec.ofNat 64 (va p)) (maskOf (ex.filter (fun q => decide (va q % w.bytes ≠ 0)))) p)) ∧
  (∀ (c : Ctl) (w : Width) (o : Order) (sc : Scope) (x y z : Src) (s s2 : State) (a : Active) (ci off : Nat → Nat),
     let i := Instr.sts c w o sc x y z
     let u := s.team.landDue a
     let ex := u.execLanes c
     let va (p : Nat) : Nat := (src32 u a p x + src32 u a p y).toNat
     let hits (p cj b : Nat) : Prop := ci p = cj ∧ off p ≤ b ∧ b < off p + w.bytes
     Issuable i c s a →
     (∀ p ∈ ex, ScratchOk s (va p) w.bytes true (ci p) (off p) ∧ ci p < s.block.shares.length) →
     ((o = .rel ∨ o = .ar ∨ o = .sc) → ex ≠ [] → (s.setTeam u).drainOps s.cur = .wait s2 →
       exec i s = .next (s2.setTeam { s2.team with held := true })) ∧
     (ReleasesFrom (s.setTeam u) s2 o ex → ∃ t, exec i s = .next t ∧ t = { s2 with blocks := t.blocks, teams := t.teams, perf := t.perf } ∧
       (∀ j, j ≠ s.cur → Table.find? t.teams j = Table.find? s2.teams j) ∧
       (∀ j, j ≠ teamBlock s.cur → Table.find? t.blocks j = Table.find? s2.blocks j) ∧
       t.block = { s2.block with shares := t.block.shares } ∧
       (∀ cj, t.block.share cj = { s2.block.share cj with scratch := (t.block.share cj).scratch }) ∧
       IssuedFrame s t a ∧ IssuedTeam s2 t i c a [] (some { n := 0 }) ∧
       (∀ cj b, (∀ p ∈ ex, ¬hits p cj b) → Memory.read (t.block.share cj).scratch b = Memory.read (s2.block.share cj).scratch b) ∧
       ∀ p ∈ ex, ∀ b, hits p (ci p) b → (∀ q ∈ ex, p < q → ¬hits q (ci p) b) →
         Memory.read (t.block.share (ci p)).scratch b = (dataWord u a p w.wide false z).extractLsb' (8 * (b - off p)) 8))

/-- R91, R343, R345: `ATOS` performs its operation in each executing lane in ascending position, each on what the lanes before it left,
and returns the bits that it found. `m k` is the scratchpad of each core after `k` lanes. Its context keeps no log, and no lane of an
earlier instruction is left that holds back what follows. With release or sequentially consistent order it begins in the state `s2` in which
every access that comes before it has performed, and is held until then. That the lanes perform at issue, and that a release waits so, is the
model's choice (logs 2, 50). -/
def Obligations.LaneScratchAtomics : Prop :=
  ∀ (c : Ctl) (wide : Bool) (op : AtomOp) (o : Order) (sc : Scope) (d : Dst) (x y z : Src) (s s2 : State) (a : Active)
    (ci off : Nat → Nat),
    let i := Instr.atos c wide op o sc d x y z
    let n := if wide = true then 8 else 4
    let u := s.team.landDue a
    let ex := u.execLanes c
    Issuable i c s a → s.ctx.mode = .free → s.strongPending s.cur = false →
    (∀ p ∈ ex, ScratchOk s (src32 u a p x).toNat n true (ci p) (off p) ∧ ci p < s.block.shares.length) →
    ((o = .rel ∨ o = .ar ∨ o = .sc) → ex ≠ [] → (s.setTeam u).drainOps s.cur = .wait s2 →
      exec i s = .next (s2.setTeam { s2.team with held := true })) ∧
    (ReleasesFrom (s.setTeam u) s2 o ex →
     ∃ t, ∃ m : Nat → Nat → Memory, exec i s = .next t ∧ t = { s2 with blocks := t.blocks, teams := t.teams, perf := t.perf } ∧
      (∀ j, j ≠ s.cur → Table.find? t.teams j = Table.find? s2.teams j) ∧
      (∀ j, j ≠ teamBlock s.cur → Table.find? t.blocks j = Table.find? s2.blocks j) ∧
      t.block = { s2.block with shares := t.block.shares } ∧
      (∀ cj, t.block.share cj = { s2.block.share cj with scratch := m ex.length cj }) ∧
      (∀ cj, m 0 cj = (s2.block.share cj).scratch) ∧
      (∀ k p, ex[k]? = some p → ∀ cj, m (k + 1) cj =
        if cj = ci p then atomicAt op wide (off p) (dataWord u a p wide (readsFloat op) y) (dataWord u a p wide false z) (m k cj) else m k cj) ∧
      IssuedFrame s t a ∧
      IssuedTeam s2 t i c a []
        (some { n := 0, dsts := laneWrites i
                writes := ex.zipIdx.flatMap (fun e =>
                  laneWord wide e.1 d (BitVec.ofNat 32 ((m e.2 (ci e.1)).readNat (off e.1) 4)) (BitVec.ofNat 64 ((m e.2 (ci e.1)).readNat (off e.1) 8))) }))

/-- R199, R200, R204, R205, R338, R346, R347, R350: `GLD` reads 4 or 8 bytes at (a + sext(b, 32)) mod 2^64 in each executing lane, and
`GST` writes the low 4 or 8 bytes of c there, at every member of a multicast group in its form `.MC`. The lanes `now` perform in some
order as it issues, and the lanes `later` at turns of their own; an access with an order performs after what its team issued before.
Which lanes perform later is the model's choice (logs 2, 50). A read returns the bytes in memory where no access that comes before it at
common bytes is outstanding, and may return what the last of those writes, as `valueOf` says (the model's reading, log 50). A byte that
several lanes write holds one of their values. -/
def Obligations.LaneGlobalAccesses : Prop :=
  ∀ (c : Ctl) (h : Hint) (wide mc : Bool) (o : Order) (sc : Scope) (d : Dst) (x y z : Src) (s s1 s2 : State) (a : Active) (spot : Nat → Spot),
    let n := if wide = true then 8 else 4
    let u := s.team.landDue a
    let ex := u.execLanes c
    let va (p : Nat) : Nat := (src64 u a p x + (src32 u a p y).signExtend 64).toNat
    let rd : GlobalUse := { bytes := n, use := .read, mc := false, awaited := true, strong := o != .rlx }
    let wr : GlobalUse := { bytes := n, use := .write, mc := mc, awaited := false, strong := o != .rlx }
    let hits (p b : Nat) : Prop := ∃ k ∈ spotKeys s1 wr (spot p), k ≤ b ∧ b < k + n
    (Issuable (.gld c h wide o sc d x y) c s a → ReachesGlobal (s.setTeam u) s1 ex va rd spot → BeginsFrom s1 s2 o ex →
      let op (p : Nat) : LaneOp := laneOp s1 rd (va p) p (spot p) (.read d)
      ∃ t now later, ∃ val : Nat → Word64, exec (.gld c h wide o sc d x y) s = .next t ∧ LanesPerform s2 ex now later op ∧
        AccessedOnly s2 t (later.map op) ∧ t.mem = s2.mem ∧ IssuedFrame s t a ∧
        IssuedTeam s2 t (.gld c h wide o sc d x y) c a []
          (some { n := 0, dsts := laneWrites (.gld c h wide o sc d x y)
                  writes := now.flatMap (fun p => laneWord wide p d ((val p).setWidth 32) (val p)) }) ∧
        ∀ p ∈ now, val p = BitVec.ofNat 64 (s2.valueOf (op p)) ∧
          ((∀ q ∈ s2.ops, ComesBefore q (op p) → ¬CommonByte q (op p)) → Loaded (val p) s2.mem (spot p).key n)) ∧
    (Issuable (.gst c h wide mc o sc x y z) c s a → ReachesGlobal (s.setTeam u) s1 ex va wr spot → BeginsFrom s1 s2 o ex →
      let op (p : Nat) : LaneOp := laneOp s1 wr (va p) p (spot p) (.write (dataWord u a p wide false z).toNat)
      ∃ t now later, exec (.gst c h wide mc o sc x y z) s = .next t ∧ LanesPerform s2 ex now later op ∧
        AccessedOnly s2 t (later.map op) ∧ IssuedFrame s t a ∧ IssuedTeam s2 t (.gst c h wide mc o sc x y z) c a [] (some { n := 0 }) ∧
        (∀ b, (∀ p ∈ now, ¬hits p b) → Memory.read t.mem b = Memory.read s2.mem b) ∧
        ∀ b, (∃ p ∈ now, hits p b) → ∃ p ∈ now, ∃ k ∈ spotKeys s1 wr (spot p), k ≤ b ∧ b < k + n ∧
          Memory.read t.mem b = (dataWord u a p wide false z).extractLsb' (8 * (b - k)) 8)

/-- R199, R204, R343, R348, R349, R350: `GATOM` performs its operation once in each executing lane, in some order, and returns what each
found; `GRED` performs it and returns nothing, at every member of a multicast group in its form `.MC`. `m k` is the memory after `k` of
the lanes `now`; the lanes `later` perform at turns of their own, as the model chooses (logs 2, 50). -/
def Obligations.LaneGlobalAtomics : Prop :=
  ∀ (c : Ctl) (h : Hint) (wide mc : Bool) (op : AtomOp) (o : Order) (sc : Scope) (d : Dst) (x y z : Src) (s s1 s2 : State) (a : Active)
    (spot : Nat → Spot) (host : Bool),
    let n := if wide = true then 8 else 4
    let u := s.team.landDue a
    let ex := u.execLanes c
    let va (p : Nat) : Nat := (src64 u a p x).toNat
    let dat (p : Nat) : Word64 := dataWord u a p wide (readsFloat op) y
    let ga : GlobalUse := { bytes := n, use := .atomic host, mc := false, awaited := true, strong := o != .rlx }
    let gr : GlobalUse := { bytes := n, use := .atomic host, mc := mc, awaited := false, strong := o != .rlx }
    (Issuable (.gatom c h wide op o sc d x y z) c s a → host = (op == .add || op == .swap || op == .cas) →
      ReachesGlobal (s.setTeam u) s1 ex va ga spot → BeginsFrom s1 s2 o ex →
      let acc (p : Nat) : LaneOp := laneOp s1 ga (va p) p (spot p) (.atom op (dat p).toNat (dataWord u a p wide false z).toNat d)
      ∃ t now later, ∃ m : Nat → Memory, exec (.gatom c h wide op o sc d x y z) s = .next t ∧ LanesPerform s2 ex now later acc ∧
        AccessedOnly s2 t (later.map acc) ∧ m 0 = s2.mem ∧ t.mem = m now.length ∧
        (∀ k p, now[k]? = some p → m (k + 1) = atomicAt op wide (spot p).key (dat p) (dataWord u a p wide false z) (m k)) ∧
        IssuedFrame s t a ∧
        IssuedTeam s2 t (.gatom c h wide op o sc d x y z) c a []
          (some { n := 0, dsts := laneWrites (.gatom c h wide op o sc d x y z)
                  writes := now.zipIdx.flatMap (fun e =>
                    laneWord wide e.1 d (BitVec.ofNat 32 ((m e.2).readNat (spot e.1).key 4)) (BitVec.ofNat 64 ((m e.2).readNat (spot e.1).key 8))) })) ∧
    (Issuable (.gred c h wide mc op o sc x y) c s a → op ≠ .cas → host = (op == .add) →
      ReachesGlobal (s.setTeam u) s1 ex va gr spot → BeginsFrom s1 s2 o ex →
      let acc (p : Nat) : LaneOp := laneOp s1 gr (va p) p (spot p) (.atom op (dat p).toNat 0 .discard)
      ∃ t now later, ∃ m : Nat → Memory, exec (.gred c h wide mc op o sc x y) s = .next t ∧ LanesPerform s2 ex now later acc ∧
        AccessedOnly s2 t (later.map acc) ∧ m 0 = s2.mem ∧ t.mem = m now.length ∧
        (∀ k p, now[k]? = some p → m (k + 1) = (spotKeys s1 gr (spot p)).foldl (fun m key => atomicAt op wide key (dat p) 0 m) (m k)) ∧
        IssuedFrame s t a ∧ IssuedTeam s2 t (.gred c h wide mc op o sc x y) c a [] (some { n := 0 }))

/-- R91, R198, R200, R205, R209, R220, R354: an access of a lane that has issued and not performed performs at a turn of its own: it does
nothing while it waits for an access that comes before it, and never where its target rejects it; else it reads or
writes its bytes, and what it returns joins its instruction's results. It waits for the last of those that come before it at common bytes,
unless it reads and that one is a write in local memory that holds all its bytes and has not been rejected, whose value it then returns; an
atomic in a scratchpad waits for the strong accesses of its team before it. `FENCE` waits until every access that comes before it has
performed. Which accesses wait, and that a read may be given a value so, is the model's choice and reading (log 50); here the context keeps
no log. -/
def Obligations.OutstandingAccessesPerform : Prop :=
  (∀ (s : State) (q : LaneOp) (rest : List Turn), s.agenda = .perform q.team q.ins q.pos :: rest →
    s.ops.filter (fun p => p.team == q.team && p.ins == q.ins && p.pos == q.pos) = [q] → (s.ctxAt (teamCtx q.team)).mode = .free →
    ((q.doomed = true ∨ s.blockedOp q = true) → step s = .next { s with agenda := rest }) ∧
    (q.doomed = false → s.blockedOp q = false →
      ∃ t ws, step s = .next t ∧
        t = { s with agenda := rest, mem := t.mem, launches := t.launches, teams := t.teams, blocks := t.blocks
                     ops := s.ops.filter (fun p => decide (¬(p.team = q.team ∧ p.ins = q.ins ∧ p.pos = q.pos))) } ∧
        (∀ l, ∃ g, Table.find? t.launches l = (Table.find? s.launches l).map (fun k => { k with shape := g })) ∧
        (∀ k, Table.find? t.teams k = (Table.find? s.teams k).map (fun v =>
          if k = q.team then
            { v with inflight := v.inflight.map (fun f => if f.n = q.ins then { f with writes := f.writes ++ ws } else f) }
          else v)) ∧
        let gives (d : Dst) (v : Nat) : Prop := ws = laneWord (q.bytes == 8) q.pos d (BitVec.ofNat 32 v) (BitVec.ofNat 64 v)
        match q.act, q.spad with
        | .read d, _ => t.mem = s.mem ∧ t.blocks = s.blocks ∧ gives d (s.valueOf q)
        | .write x, _ => t.mem = q.keys.foldl (fun m k => m.writeNat k q.bytes x) s.mem ∧ t.blocks = s.blocks ∧ ws = []
        | .atom f x cmp d, none =>
          t.mem = q.keys.foldl (fun m k => atomicAt f (q.bytes == 8) k (BitVec.ofNat 64 x) (BitVec.ofNat 64 cmp) m) s.mem ∧
            t.blocks = s.blocks ∧ gives d (s.mem.readNat (q.keys.headD 0) q.bytes)
        | .atom f x cmp d, some (ci, off) =>
          let z := s.blockAt (teamBlock q.team)
          t.mem = s.mem ∧ (∀ b, b ≠ teamBlock q.team → Table.find? t.blocks b = Table.find? s.blocks b) ∧
            t.blockAt (teamBlock q.team) = { z with shares := (t.blockAt (teamBlock q.team)).shares } ∧
            (∀ cj, (t.blockAt (teamBlock q.team)).share cj =
              if cj = ci ∧ ci < z.shares.length then
                { z.share cj with scratch := atomicAt f (q.bytes == 8) off (BitVec.ofNat 64 x) (BitVec.ofNat 64 cmp) (z.share cj).scratch }
              else z.share cj) ∧
            gives d ((z.share ci).scratch.readNat off (if q.bytes = 8 then 8 else 4)))) ∧
  (∀ (s : State) (q : LaneOp) (before after : List LaneOp), s.ops = before ++ after →
    (∀ p ∈ before, ¬(p.team = q.team ∧ p.ins = q.ins ∧ p.pos = q.pos)) →
    (∀ p, after.head? = some p → p.team = q.team ∧ p.ins = q.ins ∧ p.pos = q.pos) →
    let early (p : LaneOp) : Prop := ComesBefore p q ∧ CommonByte p q
    let held := q.spad.isSome = true ∧ ∃ p ∈ before, p.team = q.team ∧ p.strong = true
    ((∀ p ∈ before, ¬early p) → (s.blockedOp q = true ↔ held) ∧ s.valueOf q = s.mem.readNat (q.keys.headD 0) q.bytes) ∧
    ∀ (xs ys : List LaneOp) (p : LaneOp), before = xs ++ p :: ys → early p → (∀ r ∈ ys, ¬early r) → (s.ctxAt (teamCtx p.team)).mode = .free →
      let gives (v k j : Nat) (d : Dst) : Prop :=
        p.act = .write v ∧ q.act = .read d ∧ p.keys = [k] ∧ q.keys = [j] ∧ p.doomed = false ∧ k < localSize ∧ k ≤ j ∧
          j + q.bytes ≤ k + p.bytes
      (∀ v k j d, gives v k j d → (s.blockedOp q = true ↔ held) ∧ s.valueOf q = v / 2 ^ (8 * (j - k)) % 2 ^ (8 * q.bytes)) ∧
        ((∀ v k j d, ¬gives v k j d) → s.blockedOp q = true)) ∧
  (∀ (s t : State) (k : Nat), s.drainOps k = .ok t →
    (∀ p ∈ t.ops, p ∈ s.ops ∧ (p.priorTo k = true → p.doomed = true)) ∧
      ∀ p ∈ s.ops, (∀ q ∈ s.ops, q.team = p.team → q.ins = p.ins → q.pos = p.pos → q.priorTo k = false) → p ∈ t.ops) ∧
  ∀ (c : Ctl) (o : Order) (sc : Scope) (s s1 : State) (a : Active), Issuable (.fence c o sc) c s a →
    (s.priorOps s.cur = [] → ∃ t, exec (.fence c o sc) s = .next t ∧ OnlyTeam s t ∧ IssuedFrame s t a ∧
      IssuedTeam s t (.fence c o sc) c a [] (some { n := 0 })) ∧
    ((s.setTeam (s.team.landDue a)).drainOps s.cur = .wait s1 →
      exec (.fence c o sc) s = .next (s1.setTeam { s1.team with held := true })) ∧
    ((s.setTeam (s.team.landDue a)).drainOps s.cur = .ok s1 → ∃ t, exec (.fence c o sc) s = .next t ∧ OnlyTeam s1 t ∧
      IssuedFrame s t a ∧ IssuedTeam s1 t (.fence c o sc) c a [] (some { n := 0 }))

/-- R332, R333: `MSPLIT` and `ISECT` search arrays of N32 entries in scratchpad by the steps of their pseudocode, whatever the order of
the entries; with no entries they read nothing. That the scratchpad is read at issue is the model's choice (log 2). -/
def Obligations.ScratchpadSearches : Prop :=
  ∀ (c : Ctl) (d : Dst) (f : PDst) (x y z v : Src) (s : State) (a : Active) (ci off : Nat → Nat),
    let u := s.team.landDue a
    let ex := u.execLanes c
    let g (p : Nat) (r : Src) : Nat := (src32 u a p r).toNat
    let entry (p k : Nat) : Nat := (s.block.share (ci p)).scratch.readNat (off p + 4 * k) 4
    let dg (p : Nat) : Nat := min (g p x) (g p z + g p v)
    (Issuable (.msplit c d x y z v) c s a → (∀ p ∈ ex, g p z ≠ 0 → g p y % 4 = 0 ∧
        s.scratchAt (g p y) (4 * g p z) = some (ci p, off p) ∧ s.scratchLock (teamBlock s.cur) (ci p) (off p) (4 * g p z) false = none) →
      ∃ t, ∃ r : Nat → Nat, exec (.msplit c d x y z v) s = .next t ∧ IssuedOnly s t ∧ IssuedFrame s t a ∧
        IssuedTeam s t (.msplit c d x y z v) c a []
          (some { n := 0, dsts := laneWrites (.msplit c d x y z v)
                  writes := ex.flatMap (fun p => writePair p d (BitVec.ofNat 32 (dg p - r p) ++ BitVec.ofNat 32 (r p))) }) ∧
        ∀ p ∈ ex, SearchOf (fun mid => entry p mid + 1 + mid ≤ dg p) (dg p - g p v) (min (dg p) (g p z)) (r p)) ∧
    (Issuable (.isect c d f x y z) c s a → (∀ p ∈ ex, g p z ≠ 0 → g p y % 4 = 0 ∧
        s.scratchAt (g p y) (4 * g p z) = some (ci p, off p) ∧ s.scratchLock (teamBlock s.cur) (ci p) (off p) (4 * g p z) false = none) →
      ∃ t, ∃ r : Nat → Nat, exec (.isect c d f x y z) s = .next t ∧ IssuedOnly s t ∧ IssuedFrame s t a ∧
        IssuedTeam s t (.isect c d f x y z) c a []
          (some { n := 0, dsts := laneWrites (.isect c d f x y z)
                  writes := ex.flatMap (fun p =>
                    writeReg p d (BitVec.ofNat 32 (r p)) ++ writePred p f (decide (r p < g p z ∧ entry p (r p) = g p x))) }) ∧
        ∀ p ∈ ex, SearchOf (fun mid => entry p mid < g p x) 0 (g p z) (r p))

/-- R171, R172, R352, R353: `XFER` with no executing lane appends nothing; otherwise it registers one entry for its scratchpad interval
and one for its virtual interval, appends one command of the executing lanes' rows to its channel, each row by its scratchpad offset
and its global address, and joins it to the unsealed set. It waits at issue while an entry cannot be registered or an earlier access
to the range has not performed. A channel at or above the declared count and a stride below the row trap with their details. That it also
waits for the commands before it that conflict (log 14), that the virtual interval is not taken modulo 2^64 (log 48), and that the
scratchpad entry holds the team's ASID too (log 49), are the model's choice and reading. -/
def Obligations.Transfers : Prop :=
  ∀ (c : Ctl) (h : Hint) (out : Bool) (ch rb : Nat) (x y z : Src) (s : State) (a : Active),
    let i := Instr.xfer c h out ch rb x y z
    let u := s.team.landDue a
    let ex := u.execLanes c
    let n := 32 * (rb + 1)
    let ci := s.shareIdx s.cur
    let g (p : Nat) : Nat := (src64 u a p x).toNat
    let sp (p : Nat) : Nat := (src32 u a p y).toNat + p * (src32 u a p z).toNat
    let lo := sp (ex.headD 0) % 2 ^ 24
    let hi := sp (ex.getLastD 0) % 2 ^ 24 + n
    let glo := (ex.map g).foldl min (g (ex.headD 0))
    let ghi := (ex.map g).foldl max 0 + n
    let core := (s.block.share ci).core
    let l0 : Lock := { start := lo, lo := lo, hi := hi, space := spaceScratch, dest := !out, ptr := !out, engine := 0, chan := ch
                       team := teamIdx s.cur, asid := teamAsid s.cur, slot := (s.block.share ci).slot, uid := s.uids }
    let l1 : Lock := { start := glo, lo := glo, hi := ghi, space := spaceVirtual, dest := out, ptr := false, engine := 0, chan := ch
                       team := teamIdx s.cur, asid := teamAsid s.cur, slot := (s.block.share ci).slot, uid := s.uids }
    let free : Prop := (∀ l ∈ (s.coreAt core).locks, l.2.conflicts l0 = false ∧ l.2.conflicts l1 = false) ∧
      (s.coreAt core).locks.length + 2 ≤ 64 ∧ s.opsMeet s.cur core l0 = false ∧ s.opsMeet s.cur core l1 = false ∧
      s.aheadConflicts { blk := teamBlock s.cur, ci := ci, ch := ch } [(core, l0), (core, l1)] = false
    Issuable i c s a →
      (ex = [] → ∃ t, exec i s = .next t ∧ OnlyTeam s t ∧ IssuedFrame s t a ∧ IssuedTeam s t i c a [] (some { n := 0 })) ∧
      (ex ≠ [] →
        (CanTrapLane s → s.kernel.chans ≤ ch → LaneTraps i s a 0x01 0x5C 0 s.team.mask (s.team.activeLanes.headD 0)) ∧
        (CanTrapLane s → ch < s.kernel.chans → (src32 u a 0 z).toNat < n →
          LaneTraps i s a 0x01 0x60 0 s.team.mask (s.team.activeLanes.headD 0)) ∧
        (ch < s.kernel.chans → n ≤ (src32 u a 0 z).toNat → s.block.prov = false →
          (∀ p ∈ ex, g p % 4 = 0 ∧ sp p % 4 = 0 ∧ ∃ off, s.scratchAt (sp p) n = some (ci, off)) →
          ChannelTakes s ch →
          (¬free → let w := (s.setTeam u).waitBegins; exec i s = .next (w.setTeam { w.team with held := true })) ∧
          (free → ∃ t w i0 i1, exec i s = .next t ∧
            t = { s with blocks := t.blocks, teams := t.teams, cores := t.cores, perf := t.perf, uids := s.uids + 1 } ∧
            (∀ j, j ≠ s.cur → Table.find? t.teams j = Table.find? s.teams j) ∧
            (∀ j, j ≠ teamBlock s.cur → Table.find? t.blocks j = Table.find? s.blocks j) ∧
            (∀ k, k ≠ core → t.coreAt k = s.coreAt k) ∧
            t.coreAt core = { s.coreAt core with locks := (t.coreAt core).locks } ∧
            i0 ≠ i1 ∧ Table.find? (s.coreAt core).locks i0 = none ∧ Table.find? (s.coreAt core).locks i1 = none ∧
            (∀ k, Table.find? (t.coreAt core).locks k =
              if k = i0 then some l0 else if k = i1 then some l1 else Table.find? (s.coreAt core).locks k) ∧
            t.block = { s.block with shares := t.block.shares } ∧
            (∀ cj, t.block.share cj = { s.block.share cj with chans := (t.block.share cj).chans }) ∧
            (∀ cj k, (t.block.share cj).chans.getD k {} =
              if cj = ci ∧ k = ch then
                { (s.block.share cj).chans.getD k {} with
                  queue := ((s.block.share cj).chans.getD k {}).queue ++
                    [{ id := s.team.nextIns, team := s.cur, sup := s.team.sup, uid := s.uids, after := [], body := w }] }
              else (s.block.share cj).chans.getD k {}) ∧
            w = .xfer out (Sys2Proof.Machine.hintCode h) n (ex.map (fun p => (sp p % 2 ^ 24, g p))) lo hi glo ghi ∧
            IssuedTeam (s.setTeam { s.team with nextIns := s.team.nextIns + 1 }) t i c a [] (some { n := 0 }) ∧
            t.team =
              { s.team.goneOn false with
                lanes := u.lanes, active := t.team.active, inflight := t.team.inflight, nextIns := s.team.nextIns + 2, t1 := t.team.t1
                t2 := t.team.t2, t3 := t.team.t3, held := false, waited := none, progress := t.team.progress
                cmds := s.team.cmds ++ [s.team.nextIns], unsealed := s.team.unsealed ++ [s.team.nextIns] })))

/-- R355, R358 to R361, R363, R374: the instructions that write a tile, performed once for the team. `TLD` reads 128 rows or as many
columns as the element width gives from the scratchpad, each at its swizzled place, and checks its address before its stride; `TMOV`
copies or transposes; `TZERO` clears; `PRUNE` keeps the elements of greatest magnitude in every group. Without an executing lane
nothing is performed. That the scratchpad is read and the tile written at issue is the model's choice (logs 2, 19). -/
def Obligations.TileRegistersAreWritten : Prop :=
  ∀ (c : Ctl) (pt : Port) (w : ElemW) (sw : Swizzle) (d n k lg : Nat) (x y : Src) (s : State) (a : Active),
    let u := s.team.landDue a
    let ex := u.execLanes c
    let ci := s.shareIdx s.cur
    let e := w.bits
    let per := 4096 / e
    let old (j : Nat) : Memory := (s.block.share ci).tiles.getD j []
    let done (i : Instr) (val : Nat → Nat → Nat → Prop) : Prop :=
      Issuable i c s a → HasTile s ci d →
        (ex = [] → ∃ t, exec i s = .next t ∧ OnlyTeam s t ∧ IssuedFrame s t a ∧ IssuedTeam s t i c a [] (some { n := 0 })) ∧
        (ex ≠ [] → ∃ t, exec i s = .next t ∧ WroteTiles s t [ci] d ∧ IssuedFrame s t a ∧
          IssuedTeam s t i c a [] (some { n := 0, tiles := [d] }) ∧
          ∀ i < 128, ∀ j < per, val i j (tileElem e ((t.block.share ci).tiles.getD d []) i j))
    let base := (src32 u a (ex.headD 0) x).toNat
    let stride := (src32 u a (ex.headD 0) y).toNat
    let tld := Instr.tld c pt w sw d x y
    MemoriesWf s → sw.wf = true →
    (∀ cj, rowsTarget s sw base stride (portRows pt w) (portBytes pt w) false = .ok cj →
      done tld (fun i j v => v = match pt with
        | .row => rowElem e sw (s.block.share cj).scratch (base % 2 ^ 24 + i * stride) j
        | .col => rowElem e sw (s.block.share cj).scratch (base % 2 ^ 24 + j * stride) i)) ∧
    (Issuable tld c s a → CanTrapLane s → ex ≠ [] →
      (base % 16 ≠ 0 → LaneTraps tld s a 0x05 0x00 (BitVec.ofNat 64 base) (maskOf ex) (ex.headD 0)) ∧
      (base % 16 = 0 → stride % 16 ≠ 0 → LaneTraps tld s a 0x05 0x01 (BitVec.ofNat 64 stride) (maskOf ex) (ex.headD 0))) ∧
    done (.tmov c pt w d n) (fun i j v => v = match pt with
      | .row => tileElem e (old n) i j
      | .col => if j < 128 then tileElem e (old n) j i else 0) ∧
    done (.tzero c d) (fun _ _ v => v = 0) ∧
    (lg ≤ 10 → done (.prune c w k lg d n) (fun i j v =>
      let mag (h : Nat) : Nat := tileElem e (old n) i h % 2 ^ (e - 1)
      let above := (List.range per).countP (fun h => decide (h / 2 ^ lg = j / 2 ^ lg ∧ (mag j < mag h ∨ (mag h = mag j ∧ h < j))))
      v = if above < k then tileElem e (old n) i j else 0))

/-- R358, R359, R360, R362: `TST` writes every scratchpad row with its tile row or its column, at its swizzled place, and no other
byte. Its checks come in the order: a stride below the row, the address, the stride. That the bytes are written at issue is the
model's choice (logs 2, 19). -/
def Obligations.TilesAreStored : Prop :=
  ∀ (c : Ctl) (pt : Port) (w : ElemW) (sw : Swizzle) (n ci : Nat) (x y : Src) (s : State) (a : Active),
    let i := Instr.tst c pt w sw x y n
    let u := s.team.landDue a
    let ex := u.execLanes c
    let base := (src32 u a (ex.headD 0) x).toNat
    let stride := (src32 u a (ex.headD 0) y).toNat
    let tile := (s.block.share (s.shareIdx s.cur)).tiles.getD n []
    let e := w.bits
    Issuable i c s a → ex ≠ [] →
    (CanTrapLane s →
      (stride < portBytes pt w → LaneTraps i s a 0x01 0x61 0 (maskOf ex) (ex.headD 0)) ∧
      (portBytes pt w ≤ stride → base % 16 ≠ 0 → LaneTraps i s a 0x05 0x00 (BitVec.ofNat 64 base) (maskOf ex) (ex.headD 0)) ∧
      (portBytes pt w ≤ stride → base % 16 = 0 → stride % 16 ≠ 0 →
        LaneTraps i s a 0x05 0x01 (BitVec.ofNat 64 stride) (maskOf ex) (ex.headD 0))) ∧
    (MemoriesWf s → sw.wf = true → portBytes pt w ≤ stride → ci < s.block.shares.length →
      rowsTarget s sw base stride (portRows pt w) (portBytes pt w) true = .ok ci →
      ∃ t, exec i s = .next t ∧ InBlock s t ∧ IssuedFrame s t a ∧ IssuedTeam s t i c a [] (some { n := 0 }) ∧
        (∀ cj, t.block.share cj = { s.block.share cj with scratch := (t.block.share cj).scratch }) ∧
        (∀ cj b, (cj = ci → ∀ j < portRows pt w, ∀ k < portBytes pt w, b ≠ swizzled sw (base % 2 ^ 24 + j * stride + k)) →
          Memory.read (t.block.share cj).scratch b = Memory.read (s.block.share cj).scratch b) ∧
        ∀ j < portRows pt w, ∀ k < (match pt with
            | .row => 4096 / e
            | .col => 128),
          rowElem e sw (t.block.share ci).scratch (base % 2 ^ 24 + j * stride) k = match pt with
            | .row => tileElem e tile j k
            | .col => tileElem e tile k j)

/-- R172, R356, R364, R365: `WLD` makes its checks at issue, in their order. A length of 0 moves nothing and registers no lock; else
it registers a source entry on the weight store and a destination entry on the buffer, both of its block's slot, and its bytes arrive
when it completes; that the entries hold the team's ASID is the model's choice (DESIGN CHOICE, log 49). While an entry cannot be registered, or a matrix operation reads its destination, the run waits outside the grant. -/
def Obligations.WeightLoadsAreIssued : Prop :=
  ∀ (c : Ctl) (x y z : Src) (s : State) (a : Active),
    let i := Instr.wld c x y z
    let u := s.team.landDue a
    let ex := u.execLanes c
    let from_ := (src64 u a (ex.headD 0) x).toNat
    let off := (src32 u a (ex.headD 0) y).toNat
    let n := (src32 u a (ex.headD 0) z).toNat
    let at_ := BitVec.ofNat 64 (from_ % 2 ^ 63 + 2 ^ 63)
    let aligned := from_ % 64 = 0 ∧ off % 64 = 0 ∧ n % 64 = 0
    let held := s.launch.wsAccess = true ∧ from_ < 2 ^ 31
    let traps (cause detail : Nat) (addr : Word64) : Prop := LaneTraps i s a cause detail addr (maskOf ex) (ex.headD 0)
    Issuable i c s a → ex ≠ [] →
    (CanTrapLane s →
      (from_ % 64 ≠ 0 → traps 0x05 0x00 at_) ∧
      (from_ % 64 = 0 → off % 64 ≠ 0 → traps 0x05 0x02 (BitVec.ofNat 64 off)) ∧
      (from_ % 64 = 0 → off % 64 = 0 → n % 64 ≠ 0 → traps 0x05 0x03 (BitVec.ofNat 64 n)) ∧
      (aligned → (2 ^ 31 ≤ from_ ∨ (held ∧ n ≠ 0 ∧ storeKey s.ctx from_ n = none)) → traps 0x07 0x81 at_) ∧
      (aligned → held → n ≠ 0 → storeKey s.ctx from_ n ≠ none → s.kernel.wbuf < off + n → traps 0x04 0x01 (BitVec.ofNat 64 off))) ∧
    (aligned → held → n = 0 →
      ∃ t, exec i s = .next t ∧ OnlyTeam s t ∧ IssuedFrame s t a ∧ IssuedTeam s t i c a [] (some { n := 0 })) ∧
    (aligned → held → n ≠ 0 → storeKey s.ctx from_ n ≠ none → off + n ≤ s.kernel.wbuf →
      let slot := (s.block.share (s.shareIdx s.cur)).slot
      let entry (space lo : Nat) (dest : Bool) : Lock :=
        { start := lo, lo := lo, hi := lo + n, space := space, dest := dest, ptr := false, engine := 1, chan := 0
          team := teamIdx s.cur, asid := teamAsid s.cur, slot := slot, uid := s.uids }
      let free : Prop := (∀ l ∈ (s.coreAt s.team.core).locks,
          l.2.conflicts (entry spaceStore from_ false) = false ∧ l.2.conflicts (entry spaceWbuf off true) = false) ∧
        (s.coreAt s.team.core).locks.length + 2 ≤ 64 ∧
        ∀ r ∈ s.bufferReads (teamBlock s.cur) s.team.core, overlaps off (off + n) r.1 r.2 = false
      (¬free → WaitsOutsideGrant i s a) ∧
      (free → ∃ t i0 i1, exec i s = .next t ∧ t = { s with teams := t.teams, cores := t.cores, perf := t.perf, uids := s.uids + 1 } ∧
        (∀ j, j ≠ s.cur → Table.find? t.teams j = Table.find? s.teams j) ∧ IssuedFrame s t a ∧
        IssuedTeam s t i c a [] (some { n := 0, until_ := .wld s.uids from_ off n none }) ∧
        (∀ k, k ≠ s.team.core → t.coreAt k = s.coreAt k) ∧
        t.coreAt s.team.core = { s.coreAt s.team.core with locks := (t.coreAt s.team.core).locks } ∧
        i0 ≠ i1 ∧ (∀ k, Table.find? (t.coreAt s.team.core).locks k =
          if k = i0 then some (entry spaceStore from_ false)
          else if k = i1 then some (entry spaceWbuf off true)
          else Table.find? (s.coreAt s.team.core).locks k) ∧
        Table.find? (s.coreAt s.team.core).locks i0 = none ∧ Table.find? (s.coreAt s.team.core).locks i1 = none))

/-- R366 to R373: `MMA` forms D = A × B + C on its core's array, and `MMA.PAIR` the same product on both cores of a pair, each from its
own B, B scales and C with the leader's A and A scales. A defect of the format block traps with its detail, the lowest first. While an
array is busy, another team is at the head of its order, or a held entry conflicts, the run waits outside the grant. That operands are
read and D written at issue is the model's choice (log 19). -/
def Obligations.MatrixProductsAreFormed : Prop :=
  ∀ (c : Ctl) (pt : Port) (d na nc : Nat) (y : Src) (f : SReg) (s : State) (a : Active),
    let u := s.team.landDue a
    let ex := u.execLanes c
    let x := formatBlock (a.sreg f)
    let off := (src32 u a (ex.headD 0) y).toNat
    let ci := s.shareIdx s.cur
    let own := s.block.share ci
    let fits (cj : Nat) : Prop :=
      (∀ e ∈ mmaLocks s x off [ci, cj], ∀ l ∈ (s.coreAt e.1).locks, l.2.conflicts e.2 = false) ∧
        (s.coreAt (s.block.share cj).core).arrayBusy = none
    let gives (i : Instr) (cis : List Nat) : Prop :=
      ∃ t, exec i s = .next t ∧ WroteTiles s t cis d ∧ IssuedFrame s t a ∧
        IssuedTeam s t i c a []
          (some { n := 0, tiles := [d], until_ := .array (cis.map (fun cj => (s.block.share cj).core)) (mmaReads s x off) }) ∧
        (∀ k, t.coreAt k = { s.coreAt k with arrayBusy := (t.coreAt k).arrayBusy, arrayQ := (t.coreAt k).arrayQ }) ∧
        (∀ cj ∈ cis, (t.coreAt (s.block.share cj).core).arrayBusy = some s.cur) ∧
        (∀ k, (∀ cj ∈ cis, k ≠ (s.block.share cj).core) → (t.coreAt k).arrayBusy = (s.coreAt k).arrayBusy) ∧
        ∀ cj ∈ cis, ∀ i < 128, ∀ j < 128,
          tileElem 32 ((t.block.share cj).tiles.getD d []) i j =
            (dotProduct x (BitVec.ofNat 32 (tileElem 32 ((s.block.share cj).tiles.getD nc []) i j))
              ((List.range x.k).map (fun k => aElem x pt (own.tiles.getD na []) own.scratch i k))
              ((List.range x.k).map (fun k =>
                bElem x (s.block.share cj).wbuf (s.block.share cj).scratch off (s.kernel.wbuf - 2048) j k))).toNat
    let legal : Prop := x.defects pt = [] ∧ off % 64 = 0 ∧ off + x.bBytes + (if x.table = true then 2048 else 0) ≤ s.kernel.wbuf ∧
      ∀ e ∈ scaleArrays x, (scaleSpan x e.1).2 ≤ s.kernel.scratch
    let turn : Prop := (s.coreAt s.team.core).arrayQ = [] ∨ (s.coreAt s.team.core).arrayQ.head? = some s.cur
    ex ≠ [] → MemoriesWf s → own.core = s.team.core →
    (Issuable (.mma c pt d na y nc f) c s a →
      (CanTrapLane s → ∀ k rest, x.defects pt = k :: rest →
        LaneTraps (.mma c pt d na y nc f) s a 0x01 k 0 (maskOf ex) (ex.headD 0)) ∧
      (CanTrapLane s → x.defects pt = [] → off % 64 ≠ 0 →
        LaneTraps (.mma c pt d na y nc f) s a 0x05 0x02 (BitVec.ofNat 64 off) (maskOf ex) (ex.headD 0)) ∧
      (legal → HasTile s ci d → turn → fits ci → gives (.mma c pt d na y nc f) [ci]) ∧
      (legal → ¬(turn ∧ fits ci) → WaitsOutsideGrant (.mma c pt d na y nc f) s a)) ∧
    (Issuable (.mmaPair c pt d na y nc f) c s a →
      (CanTrapLane s → x.defects pt = [] → (s.isLeader s.team.core = false ∨ s.kernel.paired = false) →
        LaneTraps (.mmaPair c pt d na y nc f) s a 0x01 0x67 0 (maskOf ex) (ex.headD 0)) ∧
      (legal → s.isLeader s.team.core = true → s.kernel.paired = true → (s.block.share (ci + 1)).core ≠ own.core →
        (HasTile s ci d → HasTile s (ci + 1) d → turn → fits ci → fits (ci + 1) → gives (.mmaPair c pt d na y nc f) [ci, ci + 1]) ∧
        (¬(turn ∧ fits ci ∧ fits (ci + 1)) → WaitsOutsideGrant (.mmaPair c pt d na y nc f) s a)))

/-- R113, R114, R115, R118, R119, R120, R129: what the matrix arrays read and add. A floating-point code has the value of its fields, but for
the infinities and NaNs of its format; I8 is two's complement and N8 unsigned. A VQ2 index names a row of a codebook and eight signs; the
rows of the lattice table are the first 256 vectors of {0.5, 1.5, 2.5, 3.5}^8 by squared norm and then lexicographically, those of the
user table the E4M3 entries of its bytes. The chunks of an element of D are taken in ascending k. A chunk of finite products adds their
exact sum to the F32 accumulator with one rounding to nearest; a NaN product, or infinite products of both signs, make it the canonical
NaN, and infinite products of one sign that infinity. The integer accumulator adds the exact sum modulo 2^32. -/
def Obligations.MatrixElementsAndTheirSums : Prop :=
  ((∀ f x, (f = 0 ∨ f = 8) → x < 2 ^ 8 → if x % 2 ^ 7 = 127 then matValue f x = .nan else HasValue (matValue f x) (fieldsValue 4 3 7 x)) ∧
   (∀ f x, (f = 1 ∨ f = 9) → x < 2 ^ 8 →
     if 124 < x % 2 ^ 7 then matValue f x = .nan
     else if x % 2 ^ 7 = 124 then matValue f x = .inf (x.testBit 7)
     else HasValue (matValue f x) (fieldsValue 5 2 15 x)) ∧
   (∀ x < 2 ^ 4, HasValue (matValue 2 x) (fieldsValue 2 1 1 x)) ∧
   (∀ x : BitVec 8, HasValue (matValue 3 x.toNat) x.toInt ∧ HasValue (matValue 4 x.toNat) x.toNat) ∧
   (∀ x < 2 ^ 16,
     if 0x7F80 < x % 2 ^ 15 then matValue 5 x = .nan
     else if x % 2 ^ 15 = 0x7F80 then matValue 5 x = .inf (x.testBit 15)
     else HasValue (matValue 5 x) (fieldsValue 8 7 127 x)) ∧
   (∀ x < 2 ^ 16,
     if 0x7C00 < x % 2 ^ 15 then matValue 6 x = .nan
     else if x % 2 ^ 15 = 0x7C00 then matValue 6 x = .inf (x.testBit 15)
     else HasValue (matValue 6 x) (fieldsValue 5 10 15 x)) ∧
   (∃ code : Nat → Nat → Nat, (∀ k < 256, ∀ j < 8, code k j < 4) ∧ (∀ k < 255, LatticeBefore (code k) (code (k + 1))) ∧
     (∀ v : Nat → Nat, (∀ j < 8, v j < 4) → (∃ k < 256, ∀ j < 8, v j = code k j) ∨ LatticeBefore (code 255) v) ∧
     ∀ index < 2 ^ 16, ∀ j < 8, HasValue ((vq2Weights none index).getD j .nan)
       ((if index.testBit j = true then -1 else 1) * (code (index / 256) j + 1 / 2))) ∧
   ∀ (bs : List Byte), bs.length = 2048 → ∀ index < 2 ^ 16, ∀ j < 8,
     let x := (bs.getD (8 * (index / 256) + j) 0).toNat
     let w := (vq2Weights (some bs) index).getD j .nan
     if x % 2 ^ 7 = 127 then w = .nan else HasValue w ((if index.testBit j = true then -1 else 1) * fieldsValue 4 3 7 x)) ∧
  (∀ (x : FormatBlock) (acc : Word32) (row col : List Sys2Proof.Machine.Num),
     let prods := (List.zip row col).map (fun p => p.1.mul p.2)
     (∀ ps qs row' col', row = ps ++ row' → col = qs ++ col' → ps.length = x.chunk → qs.length = x.chunk → row'.length = col'.length →
       row.length ≤ x.k → dotProduct x acc row col = dotProduct x (dotProduct x acc ps qs) row' col') ∧
     (row.length = x.chunk → col.length = x.chunk → x.chunk ≤ x.k → x.i32 = false →
       ((∀ p ∈ prods, p ≠ .nan ∧ ∀ neg, p ≠ .inf neg) → IsFin fmtF32 acc →
         RoundsOnce fmtF32 .rn (floatVal fmtF32 acc + (prods.map Num.toRat).sum)
           false (dotProduct x acc row col).toNat) ∧
       ((∃ p ∈ prods, p = .nan) → dotProduct x acc row col = 0x7FC00000) ∧
       ((∃ p ∈ prods, p = .inf false) → (∃ p ∈ prods, p = .inf true) → dotProduct x acc row col = 0x7FC00000) ∧
       ∀ neg, (∃ p ∈ prods, p = .inf neg) → (∀ p ∈ prods, p ≠ .nan ∧ p ≠ .inf (!neg)) → IsFin fmtF32 acc →
         dotProduct x acc row col = infWord fmtF32 32 neg) ∧
     ∀ (fa fb : Nat) (as bs : List (BitVec 8)), fa = 3 ∨ fa = 4 → fb = 3 ∨ fb = 4 → row = as.map (fun v => matValue fa v.toNat) →
       col = bs.map (fun v => matValue fb v.toNat) → as.length = x.chunk → bs.length = x.chunk → x.chunk ≤ x.k → x.i32 = true →
       dotProduct x acc row col =
         acc + BitVec.ofInt 32 ((List.zip as bs).map (fun p => asInt (fa == 3) p.1 * asInt (fb == 3) p.2)).sum)

/-- R45, R355, R356, R375, R377, R378, R381: `BECOME` reads its register in every executing lane and leaves the settlement to the boundary
that it ends; `EMIT` appends an entry of each executing lane and raises its emit sequence, or traps with none appended where they
outnumber the free entries; `LTRAP` raises its token if a lane executes it, and leaves its trap to its boundary, with which it
completes; with no executing lane it completes at once (log 36). `NOP` does nothing else. -/
def Obligations.MultiplicityInstructionsIssue : Prop :=
  ∀ (c : Ctl) (v w code : Nat) (x : Src) (s : State) (a : Active),
    let u := s.team.landDue a
    let ex := u.execLanes c
    (Issuable (.become c v w) c s a →
      let z : Settle := { width := w, run := { a.run with addr := a.lpc, done := a.count }
                          counts := ex.map (fun p => (p, ((u.lane p).reg v).toNat)) }
      ∃ t, exec (.become c v w) s = .next t ∧ OnlyTeam s t ∧ IssuedFrame (s.setTeam { s.team with settling := some z }) t a ∧
        IssuedTeam s t (.become c v w) c a [] (some { n := 0, until_ := .settlement })) ∧
    (Issuable (.emit c x) c s a →
      (s.kernel.emit < s.team.emitBuf.length + ex.length → CanTrapLane s →
        LaneTraps (.emit c x) s a 0x04 0x03 0 (maskOf ex) (ex.headD 0)) ∧
      (s.team.emitBuf.length + ex.length ≤ s.kernel.emit →
        ∃ t, exec (.emit c x) s = .next t ∧ OnlyTeam s t ∧ IssuedTeam s t (.emit c x) c a [] none ∧
          t.team = { s.team.goneOn false with
            lanes := t.team.lanes, active := t.team.active, held := false, waited := none, progress := t.team.progress
            emitBuf := s.team.emitBuf ++ ex.map (fun p => { key := (u.lane p).key, seq := (u.lane p).seq, val := src32 u a p x }) } ∧
          ∀ p < u.lanes.length, t.team.lane p = if p ∈ ex then { u.lane p with seq := (u.lane p).seq + 1 } else u.lane p)) ∧
    (Issuable (.ltrap c code) c s a →
      let tr : Trap := { cause := 0x0C, addr := BitVec.ofNat 64 code, lanes := maskOf ex, lane := ex.headD 0 }
      ∃ t, exec (.ltrap c code) s = .next t ∧ OnlyTeam s t ∧
        IssuedTeam s t (.ltrap c code) c a [] (if ex = [] then none else some { n := 0, until_ := .ltrap }) ∧
        IssuedFrame (if ex = [] then s else s.setTeam { s.team with ltrap := some tr }) t a) ∧
    (Issuable (.nop c) c s a →
      ∃ t, exec (.nop c) s = .next t ∧ OnlyTeam s t ∧ IssuedFrame s t a ∧ IssuedTeam s t (.nop c) c a [] none)

/-- R355, R379: a team arrives at a barrier slot whatever its mask. The first arrival sets the instance's kind and another kind does not
arrive: detail 0x69, as a count of 0 or above the block's teams. When the last expected team arrives every arrived team departs and
the slot opens a new instance. The accesses that the team has issued come before what any team of its block does from then on (the model's
choice, log 50). That a team which then waits with a token raised lets the saved teams of its block go on is the model's reading (DEDUCED,
log 28): R191 and R393 say only that a save waits until every token is 0. -/
def Obligations.TeamsArriveAtBarriers : Prop :=
  ∀ (c : Ctl) (x : Src) (slot : Nat) (s : State) (a : Active),
    let u := s.team.landDue a
    let n := (src32 u a ((u.execLanes c).headD 0) x).toNat
    let ex := u.execLanes c
    let old := s.block.bars.getD slot {}
    let here := teamIdx s.cur
    let alive := (s.blockTeams (teamBlock s.cur)).filter (fun k => !(s.teamAt k).ended)
    let arrives (i : Instr) (kind : Option Nat) : Prop :=
      (CanTrapLane s → old.kind ≠ none → old.kind ≠ some kind → LaneTraps i s a 0x01 0x69 0 (maskOf ex) (ex.headD 0)) ∧
      (slot < s.block.bars.length → TeamsRising s → (∀ j ∈ old.arrivals, j < 16 ∧ teamKey (teamBlock s.cur) j ≠ s.cur) →
        (old.kind = none ∧ old.arrivals = [] ∨ old.kind = some kind) → s.team.saved = false →
        let full : Prop := old.arrivals.length + 1 = (kind.getD alive.length)
        let wakes : Prop := c.set ≠ 0 ∧ ¬full
        ∃ t, exec i s = .next t ∧
          t = { s with
            teams := t.teams, blocks := t.blocks, ops := s.ops.map (fun o => if o.team = s.cur then { o with shared := true } else o) } ∧
          IssuedTeam s t i c a [] (some { n := 0, until_ := .barrier slot }) ∧
          (∀ b, b ≠ teamBlock s.cur → Table.find? t.blocks b = Table.find? s.blocks b) ∧
          t.block = { s.block with bars := t.block.bars } ∧
          (∀ j, t.block.bars.getD j {} = if j = slot then (if full then {} else { kind := some kind, arrivals := old.arrivals ++ [here] })
            else s.block.bars.getD j {}) ∧
          IssuedFrame (s.setTeam { s.team with arrived := if full then none else some slot }) t a ∧
          ∀ k, k ≠ s.cur → t.teamAt k =
            if full ∧ ∃ j ∈ old.arrivals, k = teamKey (teamBlock s.cur) j then { s.teamAt k with arrived := none }
            else if wakes ∧ k ∈ s.blockTeams (teamBlock s.cur) then (s.teamAt k).unsave s.clock
            else s.teamAt k)
    (Issuable (.bar c slot) c s a → arrives (.bar c slot) none) ∧
    (Issuable (.barn c x slot) c s a →
      (CanTrapLane s → n = 0 ∨ s.kernel.teams < n → LaneTraps (.barn c x slot) s a 0x01 0x69 0 (maskOf ex) (ex.headD 0)) ∧
      (1 ≤ n → n ≤ s.kernel.teams → arrives (.barn c x slot) (some n)))

/-- R43, R44, R151, R152: the settlement of a `BECOME`. The live lanes come out in ascending key order at the lowest positions, as many
as there are copies or as the bound allows; the mask is exactly those positions. Copies beyond the bound go to the yard, and the yard
is drained only where room is left: lanes and deferred siblings are never lost. -/
def Obligations.SettlementsKeepKeyOrder : Prop :=
  ∀ (t : Team) (z : Settle) (room : Nat),
    let pop := population t z
    let u := (settleTeam t z room).1
    let births := (settleTeam t z room).2.2
    let waiting (y : List YardRec) : Nat := (y.map (·.count)).sum
    pop.Pairwise (fun x y => x.lane.key.toNat ≤ y.lane.key.toNat) ∧
    pop.length = ((List.range t.nlive).map (fun p => z.count p)).sum ∧
    (∀ x ∈ pop, ∃ p < t.nlive, ∃ o < z.count p,
      x.lane = { t.lane p with key := (t.lane p).key + BitVec.ofNat 64 (o * 2 ^ (64 - (t.lane p).depth - z.width))
                               depth := (t.lane p).depth + z.width, ord := BitVec.ofNat 16 o }) ∧
    u.nlive ≤ room ∧ u.mask = maskBelow u.nlive ∧
    (∀ p q, p < q → q < u.nlive → (u.lane p).key.toNat ≤ (u.lane q).key.toNat) ∧
    (∀ p, u.nlive ≤ p → u.lane p = t.lane p) ∧
    (room < pop.length → u.nlive = room ∧ births = 0 ∧ waiting u.yard = waiting t.yard + (pop.length - room)) ∧
    (pop.length ≤ room → (∀ r ∈ t.yard, 1 ≤ r.count) → u.nlive = pop.length + births ∧ waiting u.yard + births = waiting t.yard ∧
      (u.nlive = room ∨ u.yard = [])) ∧
    u = { t with lanes := u.lanes, nlive := u.nlive, mask := u.mask, yard := u.yard }

/-! ## The steps of the part -/

/-- R34, R37, R41, R98, R166, R337, R356, R375, R378, R384: the steps of the streams. A grant goes to the ready run that comes first, and
every other ready run counts it; a run retires with its results written; an unfinished instruction completes once what it awaits has
happened, with its destinations written, its token lowered and its unit freed, but a fill whose reads meet a refresh window is held; a
settlement takes effect or traps; an `LTRAP` is entered behind its run and completes with it; an access held on a migrating page may
walk again after 65,536 cycles, and traps past the migration limit; the read of an image by a `LAUNCH` walks once more then, which refuses
the launch (the model's choice, log 27). -/
def Obligations.StreamsAdvanceByTheirSteps : Prop :=
  ∀ (s : State) (k core dp n : Nat),
    let t0 := s.teamAt k
    let live := (s.ctxAt (teamCtx k)).failed = false
    let ki := (s.launchAt (teamLaunch k)).kernel
    let blk := s.blockAt (teamBlock k)
    let inWindow (off len u : Nat) : Prop := off / 4096 ≤ u ∧ u * 4096 < off + len ∧ refreshRemaining s.clock (u % 16) ≠ 0
    (dp < 8 → Table.find? (s.coreAt core).dps dp = none → TeamsRising s → k ∈ readyTeams s core →
      (∀ j ∈ readyTeams s core, j ≠ k → GrantsBefore s k j) →
      let r := t0.runs.headD {}
      ∃ t, exec (.runGrant core dp) s = .next t ∧ t = { s with teams := t.teams, cores := t.cores, perf := t.perf } ∧
        t.teamAt k = { t0 with
          parked := none
          active := some { run := { r with waited := 0, readyAt := none }, dp := dp, lpc := r.addr, count := r.done, ftv := (s.ctxAt (teamCtx k)).ftv.toNat } } ∧
        (∀ j, j ≠ k → t.teamAt j =
          if j ∈ readyTeams s core then
            { s.teamAt j with
              runs := listUpd (s.teamAt j).runs 0 (fun x => { x with waited := x.waited + 1, readyAt := some (x.readyAt.getD s.clock) }) }
          else s.teamAt j) ∧
        (∀ c, c ≠ core → t.coreAt c = s.coreAt c) ∧ t.coreAt core = { s.coreAt core with dps := (t.coreAt core).dps } ∧
        ∀ d, Table.find? (t.coreAt core).dps d = if d = dp then some k else Table.find? (s.coreAt core).dps d) ∧
    (∀ a, t0.active = some a → a.finished = true → live →
      ∃ t, exec (.runRetire k) s = .next t ∧ t = { s with teams := t.teams, cores := t.cores } ∧ (∀ j, j ≠ k → t.teamAt j = s.teamAt j) ∧
        t.teamAt k = { t0 with lanes := (t0.land a.pend).lanes, active := none, runs := t0.runs.tail, progress := s.clock } ∧
        (∀ c, t.coreAt c = { s.coreAt c with dps := (t.coreAt c).dps, arrayQ := (t.coreAt c).arrayQ }) ∧
        ∀ e ∈ (t.coreAt t0.core).dps, e.2 ≠ k) ∧
    (∀ f uid off dst len, t0.inflight.find? (fun x => x.n == n) = some f → f.until_ = .wld uid off dst len none → live →
      (∃ u, inWindow off len u) →
      ∃ t held, exec (.instructionCompletion k n) s = .next t ∧ t = { s with teams := t.teams, perf := t.perf } ∧
        (∀ j, j ≠ k → t.teamAt j = s.teamAt j) ∧ (∀ u, u ∈ held ↔ inWindow off len u) ∧
        t.teamAt k = { t0 with
          inflight := t0.inflight.map (fun x => if x.n = n then { x with until_ := (match x.until_ with
            | .wld uid off dst len _ => .wld uid off dst len (some held)
            | y => y) } else x) }) ∧
    (∀ f, t0.inflight.find? (fun x => x.n == n) = some f → live →
      (match f.until_ with
        | .settlement | .ltrap => False
        | .any => ∀ o ∈ s.ops, o.team = k → o.ins = n → o.awaited = false
        | .barrier _ => t0.arrived = none
        | .wld _ off _ len none => ∀ u, ¬inWindow off len u
        | .wld _ _ _ _ (some held) => held = []
        | .array .. => True) →
      ∃ t, exec (.instructionCompletion k n) s = .next t ∧ t = { s with teams := t.teams, blocks := t.blocks, cores := t.cores } ∧
        (∀ j, j ≠ k → t.teamAt j = s.teamAt j) ∧
        t.teamAt k = { t0 with
          lanes := (t0.putLanes f.writes).lanes, t1 := (t.teamAt k).t1, t2 := (t.teamAt k).t2, t3 := (t.teamAt k).t3
          active := (t.teamAt k).active, inflight := t0.inflight.filter (fun x => x.n != n) } ∧
        (∀ j, (t.teamAt k).token j = t0.token j - (if j = f.tok ∧ 1 ≤ j ∧ j ≤ 3 then 1 else 0)) ∧
        (∀ uid off dst len h key, f.until_ = .wld uid off dst len h → storeKey (s.ctxAt (teamCtx k)) off len = some key →
          (∀ c, ∀ e ∈ (t.coreAt c).locks, e.2.uid ≠ uid) ∧
          (s.shareIdx k < blk.shares.length → MemoriesWf s → ∀ b,
            Memory.read ((t.blockAt (teamBlock k)).share (s.shareIdx k)).wbuf b =
              if dst ≤ b ∧ b < dst + len then Memory.read s.wstore (key + (b - dst)) else Memory.read (blk.share (s.shareIdx k)).wbuf b)) ∧
        ∀ cs rs, f.until_ = .array cs rs → ∀ c ∈ cs, (t.coreAt c).arrayBusy = none) ∧
    (∀ z, t0.settling = some z → t0.active = none → t0.heldTrap = none → t0.escalated = none →
      (∀ f ∈ t0.inflight, f.until_ = .settlement) → blk.squashDue = false → blk.st = .running → live → s.orderedPending k = false →
      (settleTrap t0 z ki.lanes ki.yard = none →
        let u := (settleTeam t0 z ki.lanes).1
        ∃ t, exec (.settlement k) s = .next t ∧
          (u.nlive = 0 → u.yard = [] → t0.keep = false → TeamEnded t k) ∧
          ((u.nlive ≠ 0 ∨ u.yard ≠ [] ∨ t0.keep = true) →
            t = { s with teams := t.teams, perf := t.perf } ∧ (∀ j, j ≠ k → t.teamAt j = s.teamAt j) ∧
            t.teamAt k = { u with settling := none, inflight := [], t1 := (t.teamAt k).t1, t2 := (t.teamAt k).t2, t3 := (t.teamAt k).t3 })) ∧
      (∀ tr, settleTrap t0 z ki.lanes ki.yard = some tr → CanTrapAt s k →
        ∃ t, exec (.settlement k) s = .next t ∧ HandlerAt s t k tr t0.spc z.run.addr (z.run :: t0.runs) ∧
          (t.teamAt k).lanes = t0.lanes ∧ (t.teamAt k).yard = t0.yard)) ∧
    (∀ tr, t0.ltrap = some tr → tr.scalar = false → tr.cause = 0x0C → t0.active = none → t0.escalated = none → t0.ended = false →
      blk.st = .running → live → CanTrapAt s k →
      ∃ t, exec (.trapEntry k) s = .next t ∧ HandlerAt s t k tr t0.spc (t0.runs.headD {}).addr t0.runs ∧ (t.teamAt k).ltrap = none ∧
        (t.teamAt k).inflight = t0.inflight.filter (fun f => f.until_ != .ltrap) ∧
        ∀ f, t0.inflight.filter (fun f => f.until_ == .ltrap) = [f] →
          ∀ j, (t.teamAt k).token j = t0.token j - (if j = f.tok ∧ 1 ≤ j ∧ j ≤ 3 then 1 else 0)) ∧
    (∀ z, t0.hold = some z → 65536 ≤ (s.clock - z).toNat →
      ∃ t, exec (.heldAccessRewalk k) s = .next t ∧ t = { s with teams := t.teams, blocks := t.blocks } ∧
        t.teamAt k = { t0 with rewalk := true } ∧ ∀ j, j ≠ k → t.teamAt j = s.teamAt j) ∧
    (∀ z, t0.hold = some z → t0.holdTrap = none → migrateLimit s (teamVf k) z < (s.clock - z).toNat →
      exec (.migrationLimit k) s = .next (s.setTeamAt k { t0 with rewalk := true })) ∧
    ∀ z tr, t0.hold = some z → t0.holdTrap = some tr → migrateLimit s (teamVf k) z < (s.clock - z).toNat → CanTrapAt s k → tr.cause ≠ 0x10 →
      (∀ a, tr.scalar = false → t0.active = some a → ∃ t, exec (.migrationLimit k) s = .next t ∧
        HandlerAt s t k tr t0.spc a.lpc ({ a.run with addr := a.lpc, done := a.count } :: t0.runs.tail)) ∧
      (tr.scalar = true → t0.runs = [] → t0.active = none → t0.settling = none → t0.ltrap = none →
        ∃ t, exec (.migrationLimit k) s = .next t ∧ HandlerAt s t k { tr with lanes := t0.mask } t0.spc t0.spc [])

/-- R98, R136, R139, R141, R154 to R156, R171, R172: the steps of the copy engines. A head command issues when its range locks can be
registered and no earlier access to their bytes is left, and waits until then; it leaves the queue as it issues. A collective that leads
its channel with no piece accepted for the stall time fails, and with it the reduction that it is part of; a piece of another device takes credits of its landing queue as it arrives and returns them when the home slice accepts it; the
end of a refresh window frees the reads that it held. Which earlier accesses a command waits for is the model's reading (log 17). -/
def Obligations.CopyEnginesAdvance : Prop :=
  ∀ (s : State) (core ch die group : Nat) (r : ChanRef) (c : Cmd) (rest : List Cmd) (p : Piece),
    let h := s.chan r
    let team := s.teamAt c.team
    let at_ (t : State) (h' : Chan) : Prop := t.chan r = h' ∧ ∀ q, q ≠ r → t.chan q = s.chan q
    let k := p.vf * 16 + p.queue
    let credits := (p.bytes.length + 255) / 256
    (chanRef s core ch = some r → h.queue = c :: rest → engineLive s r = true →
      (∀ new, new = (match c.body with
          | .xfer .. => []
          | _ => cmdLocks s r c (cmdIndex s r c)) → s.cmdEarly c new = false → s.cmdGated r c (cmdIndex s r c) = false →
        (s.locksFit new = true →
          ∃ t i, exec (.channelIssue core ch) s = .next t ∧ t = { s with blocks := t.blocks, cores := t.cores, perf := t.perf } ∧
            at_ t { h with queue := rest, issued := h.issued ++ [(c, i)], waiting := none } ∧ i.done = 0 ∧ i.held = none ∧
            ∀ e ∈ new, ∃ n, Table.find? (t.coreAt e.1).locks n = some e.2) ∧
        (s.locksFit new = false → h.waiting = none →
          ∃ t, exec (.channelIssue core ch) s = .next t ∧ t = { s with blocks := t.blocks, perf := t.perf } ∧
            at_ t { h with waiting := some s.clock }))) ∧
    (∀ i more w0 w1 w2 w3, chanRef s core ch = some r → engineLive s r = true → h.issued = (c, i) :: more → c.body = .copy w0 w1 w2 w3 →
      (copyOf w0 w1 w2 w3).kind = 5 → 1800 * (s.setSince (ctxVf (refCtx r)) i.since).stall ≤ (s.clock - i.since).toNat →
      let x := copyOf w0 w1 w2 w3
      let hit (y : Reduction) : Prop := x.op ≠ 0 ∧ x.dev = s.ownDevice ∧
        y.isAt (ctxVf (refCtx r)) (ctxAsid (refCtx r)) (BitVec.ofNat 64 x.dst) x.len = true
      ∃ t, exec (.collectiveStall core ch) s = .next t ∧ (∀ k, ∀ e ∈ (t.coreAt k).locks, e.2.uid ≠ c.uid) ∧
        (∀ y, y ∈ t.reductions ↔ y ∈ s.reductions ∧ ¬hit y) ∧
        ((∀ y ∈ s.reductions, ¬hit y) → (t.chan r).queue = h.queue ∧ (t.chan r).issued.map (·.1) = more.map (·.1) ∧
          (t.teamAt c.team).cmds = team.cmds.filter (fun j => j != c.id))) ∧
    (∀ turns, s.agenda = .pieceArrival p :: turns → s.pieceOk p = true → s.reachable p.fromDev = true → p.fromDev ≠ s.ownDevice →
      s.credits.get k + credits ≤ 256 →
      step s = .next { s with agenda := turns, landing := s.landing ++ [(p, none)], credits := s.credits.set k (s.credits.get k + credits) }) ∧
    (∀ before after, s.landing = before ++ (p, none) :: after → (∀ e ∈ before, sameSend e.1 p = false) → (∀ e ∈ after, e ≠ (p, none)) →
      s.pieceOk p = true →
      let u : State := { s with landing := before ++ after, credits := s.credits.set k (s.credits.get k - credits) }
      (p.op = 0 → s.pieceHeld p none = false → exec (.collectivePieceAccept p) s =
        let w := u.ctxWrite (ctxKey p.vf p.asid) ((p.base.toNat + p.off) % 2 ^ 64) p.bytes
        .next { w with outbox := w.outbox ++ [.accepted p] }) ∧
      (p.op ≠ 0 → 2 ≤ p.parts → s.stageRoom p = true → p.bytes.length < p.len → (∀ y ∈ s.reductions, y.takes p = false) →
        ∃ t y, exec (.collectivePieceAccept p) s = .next t ∧
          t = { u with reductions := y :: s.reductions, outbox := s.outbox ++ [.accepted p] } ∧ y.takes p = true ∧
          y.pieces = [p] ∧ y.op = p.op ∧ y.exact = p.exact ∧ y.format = p.format ∧ y.parts = p.parts)) ∧
    (refreshRemaining s.clock group = 0 →
      ∃ t, exec (.refreshWindowEnd die group) s = .next t ∧ t = { s with teams := t.teams, blocks := t.blocks } ∧
        (∀ q, t.chan q = { s.chan q with issued := (s.chan q).issued.map (fun e =>
          (e.1, if e.2.piece = some (die * 16 + group) then { e.2 with piece := none } else e.2)) }) ∧
        ∀ j, t.teamAt j = { s.teamAt j with inflight := (s.teamAt j).inflight.map (fun f => { f with until_ := (match f.until_ with
          | .wld uid off dst len (some held) =>
            .wld uid off dst len (some (held.filter (fun u => decide (¬(u / 2 ^ 17 % 4 = die ∧ u % 16 = group)))))
          | y => y) }) })

/-- R139, R140, R144, R147, R153, R352: the next byte of a command in flight completes: the byte at its source place is stored at its
destination place, whatever the kind of the command, `WPTR` rises by the bytes that it counts, and the last byte ends the command and
releases its entries. A command whose source meets a page fault is held there with nothing stored. -/
def Obligations.CopiesMoveTheirBytes : Prop :=
  ∀ (s : State) (core ch : Nat) (r : ChanRef) (c : Cmd) (more : List (Cmd × Issue)) (i : Issue) (v : Byte) (s1 : State) (rd : Option UnitXl),
    let h := s.chan r
    let team := s.teamAt c.team
    let places := bytePlaces c.body i.index i.done
    chanRef s core ch = some r → h.issued = (c, i) :: more → engineLive s r = true → i.held = none → i.migr = none →
    i.piece = none → i.done < c.body.total → MovesBytes s r c.body i →
    (ReadsByte s r c i.rd places.1 v s1 rd →
      ∀ s2 wr, WritesByte s1 r c i.wr places.2 v s2 wr →
        ∃ t, exec (.copyBytesComplete core ch 1) s = .next t ∧
          t = { s2 with blocks := t.blocks, teams := t.teams, cores := t.cores } ∧
          (∀ b cj, ((t.blockAt b).share cj) = { (s2.blockAt b).share cj with chans := ((t.blockAt b).share cj).chans }) ∧
          (t.chan r).wptr = h.wptr + BitVec.ofNat 64 (countedBytes c.body (i.done + 1) - countedBytes c.body i.done) ∧
          (t.chan r).queue = h.queue ∧
          (i.done + 1 < c.body.total → t.teams = s.teams ∧
            (t.chan r).issued = (c, { i with done := i.done + 1, rd := rd, wr := wr }) :: more) ∧
          (i.done + 1 = c.body.total → (t.chan r).issued.map (·.1) = more.map (·.1) ∧
            (t.teamAt c.team).cmds = team.cmds.filter (fun j => j != c.id) ∧ ∀ k, ∀ e ∈ (t.coreAt k).locks, e.2.uid ≠ c.uid)) ∧
    (∀ a d s3, places.1 = .at_ 0 a → s.translate (engineWho s r c) (BitVec.ofNat 64 a) .read = (.fault d, s3) → i.rd = none →
      ∃ t, exec (.copyBytesComplete core ch 1) s = .next t ∧ t = { s3 with blocks := t.blocks } ∧
        t.chan r = { h with issued := (c, { i with held := some (d + 4, BitVec.ofNat 64 a), migr := none, rd := none, wr := none }) :: more })

/-- R46, R48 to R51, R53, R55, R56, R85, R166, R393, R395: the steps of the dispatcher. A launch starts with its blocks divided among the
four dies, and is held while its shape word lies on a migrating page; of launches that could start a block on a core the priority, the
start, the virtual function and the identity decide; a core takes the lowest block of its own die, or steals the highest
of the richest; a published extent becomes Expected, in the order in which publishing writes performed, confirms the blocks below it and
squashes the others; a core mask taken away calls for a save, unless
it would evict the lowest started block in place of another (log 28), and a saved block resumes as it was saved. -/
def Obligations.DispatcherStartsAndStopsBlocks : Prop :=
  ∀ (s : State) (l core : Nat) (mask : BitVec 96),
    let x := s.launchAt l
    let c := launchCtx l
    let live := (s.ctxAt c).failed = false
    let split (n : Nat) : List Ticket := (List.range 4).map (fun d => { next := d * n / 4, stop := (d + 1) * n / 4 })
    (Table.find? s.launches l ≠ none → x.st = .pending → live → s.launchTurn l = true → s.storeTurn l = true → s.startAgain l = true →
      x.image = 0 →
      (x.shape = none → x.ctr.full = false →
        ∃ t, exec (.launchStart l) s = .next t ∧ t = { s with launches := t.launches, jobs := t.jobs } ∧
          t.launchAt l = { x with st := .started, started := s.clock, hold := none, window := [], tickets := split x.ctr.expected }) ∧
      (∀ h s1, x.shape = some h → s.shapeWord l h = (.migrating, s1) → x.hold = none →
        ∃ t, exec (.launchStart l) s = .next t ∧ t = { s1 with launches := t.launches } ∧ (t.launchAt l).st = .pending ∧
          (t.launchAt l).hold = some s.clock) ∧
      (∀ h key tier s1, x.shape = some h → s.shapeWord l h = (.ok key tier, s1) → s1.mem.readNat key 4 = 0xFFFFFFFF → (s.ctxAt c).mode ≠ .replay → 1 ≤ h.xmax →
        x.ctr.known = false → h.hint ≠ 0 → s.traceHeld c = false →
        ∃ t, exec (.launchStart l) s = .next t ∧
          t.launchAt l = { x with
            st := .started, started := s.clock, hold := none, window := [], tickets := split (min h.xmax h.hint)
            shape := some { h with phys := key, pred := min h.xmax h.hint, watching := true } } ∧
          t.oryx = s.oryx)) ∧
    (s.canTake l core = true → (∀ m, Table.find? s.launches m ≠ none → m ≠ l → s.canTake m core = true → listLt (launchOrder s l) (launchOrder s m) = true) →
      Table.find? s.launches l ≠ none → x.kernel.teams ≤ 16 → 1 ≤ x.kernel.regs → x.tail = [] →
      let tk := x.tickets.getD (s.dieOf core) {}
      ∃ t, exec (.ticketTake core) s = .next t ∧ StartedBlock s t l tk.next core ∧
        (t.launchAt l).tickets = listUpd x.tickets (s.dieOf core) (fun y => { y with next := y.next + 1 })) ∧
    (s.canSteal l core = true → (∀ m, Table.find? s.launches m ≠ none → m ≠ l → s.canSteal m core = true → listLt (launchOrder s l) (launchOrder s m) = true) →
      Table.find? s.launches l ≠ none → x.kernel.teams ≤ 16 → 1 ≤ x.kernel.regs → x.tail = [] → (s.ctxAt c).mode ≠ .replay →
      ∀ d < 4, (∀ e < 4, 0 < x.dieLeft e → s.dieBare x e = false) → (∀ e < 4, x.dieLeft e ≤ x.dieLeft d) → (∀ e < d, x.dieLeft e < x.dieLeft d) →
      ∃ t, exec (.blockSteal core) s = .next t ∧ StartedBlock s t l ((x.tickets.getD d {}).stop - 1) core ∧
        (t.launchAt l).tickets = listUpd x.tickets d (fun y => { y with stop := y.stop - 1 })) ∧
    (∀ h e, x.shape = some h → h.ext = some e → h.watching = true → live → (s.ctxAt c).mode ≠ .replay → x.ctr.status ≠ 4 →
      s.publishesFirst (ctxVf c) h.site h.extNo = false → s.traceHeld c = false →
      ∃ t, exec (.shapePublication l) s = .next t ∧
        (∀ b, blockLaunch b = l → Table.find? s.blocks b ≠ none → (s.blockAt b).prov = true →
          if e ≤ h.xmax ∧ blockIndex b < e then Table.find? t.blocks b = none ∨ (t.blockAt b).prov = false
          else (t.blockAt b).prov = true ∧ (t.blockAt b).squashDue = true) ∧
        (e ≤ h.xmax → (t.launchAt l).ctr.known = true ∧ (t.launchAt l).ctr.expected = e ∧
          ∃ o, Table.find? t.oryx (h.site % 256 ^^^ ctxVf c * 16) = some o ∧ o.last = e ∧ o.site = h.site ∧ o.vf = ctxVf c) ∧
        (h.xmax < e → (t.launchAt l).ctr.known = true ∧ (t.launchAt l).ctr.expected = e ∧ (t.launchAt l).ctr.status = 5 ∧ t.oryx = s.oryx)) ∧
    (∀ b, Table.find? s.blocks b ≠ none → (s.blockAt b).squashDue = true → (s.ctxAt (launchCtx (blockLaunch b))).failed = false →
      (∀ k ∈ s.blockTeams b, (s.teamAt k).ended = true ∨ (s.teamAt k).gated = true ∨ (s.teamAt k).active = none) →
      ∃ t, exec (.blockSquash b) s = .next t ∧ Table.find? t.blocks b = none ∧ (∀ k, teamBlock k = b → Table.find? t.teams k = none) ∧
        ((s.launchAt (blockLaunch b)).ctr.full = false → ∀ k, teamBlock k ≠ b → Table.find? t.teams k = Table.find? s.teams k) ∧
        (t.launchAt (blockLaunch b)).ctr.done = (s.launchAt (blockLaunch b)).ctr.done) ∧
    (Table.find? s.launches l ≠ none → x.st ≠ .ended → x.st ≠ .failed → live → (∀ h, x.shape = some h → h.watching = true → h.ext = none) →
      let now := mask &&& BitVec.ofNat 96 (2 ^ s.nCores - 1)
      (s.evictsLowest l now = true → exec (.preemption l mask) s = .next s) ∧
      (s.evictsLowest l now = false → ∃ t, exec (.preemption l mask) s = .next t ∧ t = { s with launches := t.launches, blocks := t.blocks } ∧
        t.launchAt l = { x with mask := now } ∧ (∀ m, m ≠ l → t.launchAt m = s.launchAt m) ∧
        ∀ b, Table.find? s.blocks b ≠ none → t.blockAt b =
          if blockLaunch b = l ∧ (s.blockAt b).st = .running then
            { s.blockAt b with saveDue := (s.blockAt b).shares.any (fun h => !now.getLsbD h.core) || (s.blockTeams b).any (fun k => (s.teamAt k).saved) }
          else s.blockAt b)) ∧
    (∀ b cores, Table.find? s.blocks b ≠ none → blockLaunch b = l → (s.savedBlocks l).head? = some b → (s.blockAt b).st = .saved → (s.blockAt b).squashDue = false → live →
      (s.ctxAt c).mode ≠ .replay → s.placement x core = some cores → cores.length = (s.blockAt b).shares.length → cores.Nodup →
      (∀ h ∈ (s.blockAt b).shares, ∀ n ∈ h.chans, n.locks = []) →
      ∃ t, exec (.blockResume b core) s = .next t ∧ (t.blockAt b).st = .running ∧ (t.blockAt b).bars = (s.blockAt b).bars ∧
        (∀ ci < cores.length, ((t.blockAt b).share ci) =
          { (s.blockAt b).share ci with
            core := cores.getD ci 0, slot := ((t.blockAt b).share ci).slot, chans := ((t.blockAt b).share ci).chans }) ∧
        (∀ ci ch, ((t.blockAt b).share ci).chans.getD ch {} = ((s.blockAt b).share ci).chans.getD ch {}) ∧
        ∀ k ∈ s.blockTeams b, (t.teamAt k).saved = false ∧ (t.teamAt k).sregs = (s.teamAt k).sregs ∧ (t.teamAt k).lanes = (s.teamAt k).lanes ∧
          (t.teamAt k).runs = (s.teamAt k).runs ∧ (t.teamAt k).core = cores.getD ((s.blockAt b).indexOf (teamIdx k)) 0)

/-- R189, R191, R220, R387, R389, R390, R392, R393, R398: teams are ended, saved and stopped at their boundaries. A cancel and the watchdog
end a team; a save keeps what it holds, and waits while a token is raised, or while the block is spared as the lowest of its launch (the
model's reading, log 28); an escalation that nobody resolves, a write that its target
has rejected and an uncorrectable soft error end the context; the empty pool is refilled from the reserve. -/
def Obligations.TeamsAreStoppedAndSaved : Prop :=
  ∀ (s : State) (k addr lane : Nat) (scalar : Bool),
    let t0 := s.teamAt k
    let b := s.blockAt (teamBlock k)
    let c := teamCtx k
    let live := (s.ctxAt c).failed = false
    let here := Table.find? s.teams k ≠ none ∧ t0.ended = false
    let rejected : Prop := ∃ o ∈ s.ops, o.team = k ∧ o.va = addr ∧ o.act.reads = false ∧ o.doomed = true
    (here → b.ending = some 0x0E → s.clearBoundary k = true → live → ∃ t, exec (.cancel k) s = .next t ∧ TeamEnded t k) ∧
    (here → live → b.st = .running → b.prov = false → t0.escalated = none →
      (b.ending = some 0x0F → s.clearBoundary k = true → ∃ t, exec (.watchdog k) s = .next t ∧ TeamEnded t k) ∧
      (b.ending = none → t0.gated = false → t0.saved = false → t0.hold = none →
        1800 * (s.setSince (teamVf k) t0.progress).watchdog ≤ (s.clock - t0.progress).toNat → s.clearBoundary k = false →
        ∃ t, exec (.watchdog k) s = .next t ∧ t.teams = s.teams ∧ t.blockAt (teamBlock k) = { b with ending := some 0x0F })) ∧
    (here → live → t0.saved = false → b.st = .running → b.saveDue = true → b.ending = none → b.drained = true → s.clearBoundary k = true →
      (s.tokenHeld (teamBlock k) = true → exec (.contextSave k) s = .next s) ∧
      (s.spared (teamBlock k) = true → exec (.contextSave k) s = .next s) ∧
      (s.tokenHeld (teamBlock k) = false → s.spared (teamBlock k) = false → t0.settledDown = true →
      ∃ t, exec (.contextSave k) s = .next t ∧ (t.teamAt k).saved = true ∧ (t.teamAt k).active = none ∧
        (t.teamAt k).sregs = t0.sregs ∧ (t.teamAt k).qregs = t0.qregs ∧ (t.teamAt k).lanes = t0.landAll.lanes ∧ (t.teamAt k).mask = t0.mask ∧
        (t.teamAt k).spc = t0.spc ∧ (t.teamAt k).yard = t0.yard ∧ (t.teamAt k).settling = none ∧
        (t0.settling = none → (t.teamAt k).runs = (match t0.active with
          | some a => { a.run with addr := a.lpc, done := a.count } :: t0.runs.tail
          | none => t0.runs)) ∧
        (∀ z, t0.settling = some z → t0.active = none → (t.teamAt k).runs = z.run :: t0.runs) ∧
        ((∀ j ∈ s.blockTeams (teamBlock k), j ≠ k → (s.teamAt j).ended = true ∨ (s.teamAt j).saved = true) →
          (t.blockAt (teamBlock k)).st = .saved ∧ ∀ core, ∀ e ∈ (t.coreAt core).slots, e.2 ≠ teamBlock k) ∧
        ∀ x, ¬((s.ctxAt c).saveBase.toNat ≤ x ∧ x < (s.ctxAt c).saveBase.toNat + (s.ctxAt c).saveSize.toNat) →
          Memory.read t.mem x = Memory.read s.mem x)) ∧
    (here → live →
      (∀ tr, t0.escalated = some tr → ¬((s.ctxAt c).trapBase ≠ 0 ∧ t0.sup = true ∧ tr.cause = 0x0D ∧ tr.addr = 1) →
        ∃ t, exec (.fatalFault k ⟨addr, lane, scalar⟩) s = .next t ∧ ContextEnded t c) ∧
      (t0.escalated = none → t0.heldTrap = none → b.st = .running → b.prov = false →
        ∃ t, exec (.fatalFault k ⟨addr, lane, scalar⟩) s = .next t ∧ ContextEnded t c ∧
          ∃ z ∈ (t.ctxAt c).faults, z.info.extractLsb' 0 8 = 0x10 ∧ z.info.getLsbD 31 = scalar ∧
            z.info.extractLsb' 16 10 = (if scalar = true then 0 else BitVec.ofNat 10 lane) ∧ z.addr = BitVec.ofNat 64 addr)) ∧
    ((¬rejected → exec (.lateWriteFailure k addr) s = .next s) ∧
      (rejected → live → ∃ t, exec (.lateWriteFailure k addr) s = .next t ∧ ContextEnded t c ∧
        ∃ z ∈ (t.ctxAt c).faults, z.info.extractLsb' 0 8 = 0x11 ∧ z.addr = BitVec.ofNat 64 addr)) ∧
    (∀ tr, t0.escalated = some tr → (s.ctxAt c).trapBase ≠ 0 → t0.sup = true → tr.cause = 0x0D → tr.addr = 1 → t0.ended = false → live →
      ((s.ctxAt c).reserve ≠ [] → ∃ t, exec (.poolRefill k) s = .next t ∧
        t.teamAt k = { t0 with
          escalated := none, spc := t0.spc + 4, progress := if t0.saved = true ∨ t0.gated = true then t0.paused else s.clock } ∧ (∀ j, j ≠ k → t.teamAt j = s.teamAt j) ∧
        ∃ moved, (s.ctxAt c).reserve = moved ++ (t.ctxAt c).reserve) ∧
      ((s.ctxAt c).reserve = [] → ∃ t, exec (.poolRefill k) s = .next t ∧ ContextEnded t c))

/-- R166, R168, R180, R212, R214, R220, R351, R405, R419, R420: the device among the others. A shoot-down removes what it names and is
acknowledged once no access and no range lock in the pages it removes holds it; devices that do not answer in time are fenced off; a port that misses sixteen heartbeats is
down, and a device with no other port is declared failed; an access of another device or of a host is performed at this device's
memory, and its value goes back. That a port has trained once the device has its number and a routing table, and that a device no
permitted port of which is named in the table is not declared failed, are the model's choices (log 34); so are the operations that a
host's atomic may have (log 31), and what the own device's silence does to the shoot-downs, and that a read translated before the fencing
is still performed (log 16). -/
def Obligations.DeviceAnswersItsDomain : Prop :=
  ∀ (s : State) (k port dev vf a n : Nat) (bs : List Byte),
    let up := port < 16 ∧ s.devNumber.getLsbD 63 = true ∧ s.routes ≠ [] ∧ s.linkDown.getLsbD port = false ∧ s.isolated = false
    let lost (d : Nat) : Prop := d < s.routes.length ∧ d ≠ s.ownDevice ∧ s.routes.getD d 0 ≠ 0 ∧
      ∀ j < 16, (s.routes.getD d 0).getLsbD j = true → j = port ∨ s.linkDown.getLsbD j = true
    let downed (t : State) : Prop := (∀ j < 16, t.linkDown.getLsbD j = true ↔ (s.linkDown.getLsbD j = true ∨ j = port)) ∧
      (∀ d, d ∈ t.fenced ↔ (d ∈ s.fenced ∨ lost d))
    let written (t : State) (base : Nat) (ys : List Byte) : Prop := ∀ x, Memory.read t.mem x =
      if base ≤ x ∧ x < base + ys.length then ys.getD (x - base) 0 else Memory.read s.mem x
    let told (out : List Byte) : State := { s with outbox := s.outbox ++ [.value out] }
    let plain (act : OutsideAccess → Instr) (base room : Nat) : Prop :=
      (a + bs.length ≤ room → ∃ t, exec (act (.write a bs)) s = .next t ∧ t = { s with mem := t.mem, launches := t.launches } ∧
        written t (base + a) bs) ∧
      (a + n ≤ room → ∃ out, exec (act (.read a n)) s = .next (told out) ∧ out.length = n ∧
        (s.mem.wf = true → ∀ j < n, out.getD j 0 = Memory.read s.mem (base + a + j))) ∧
      (room < a + bs.length → exec (act (.write a bs)) s = .next s) ∧ (room < a + n → exec (act (.read a n)) s = .next s)
    let atomic (act : OutsideAccess → Instr) (base room : Nat) (op : AtomOp) : Prop := ∀ (wide : Bool) (y cmp : Word64),
      let m := if wide = true then 8 else 4
      let old := s.mem.readNat (base + a) m
      a % m = 0 → a + m ≤ room → ∃ t, exec (act (.atom op wide a y cmp)) s = .next t ∧
        t = { told (leBytes m old) with mem := t.mem, launches := t.launches } ∧
        match atomNew op wide old (y.toNat % 2 ^ (8 * m)) (cmp.toNat % 2 ^ (8 * m)) with
        | some z => written t (base + a) (leBytes m z)
        | none => t.mem = s.mem
    -- the copies of writes at the keys `bad` fail, the other copies and every read stay
    let fails (t : State) (bad : Nat → Bool) : Prop := t.ops = s.ops.flatMap (fun o =>
      if o.act.reads = true ∨ o.keys.any bad = false then [o]
      else { o with keys := o.keys.filter bad, doomed := true } ::
        (if o.keys.all bad = true then [] else [{ o with keys := o.keys.filter (fun k => !bad k) }]))
    (∀ x rest, s.tlbinvs = x :: rest → s.ownDevice ∈ x.devs → ∃ t, exec .tlbinvArrival s = .next t ∧
      (∀ c, (t.coreAt c).tlb = (s.coreAt c).tlb.filter (fun e => !x.hits e) ∧ (t.coreAt c).walk = (s.coreAt c).walk.filter (fun e => !x.hitsWalk e)) ∧
      (∀ j, Table.find? s.teams j ≠ none → (t.teamAt j).rewalk = true) ∧
      let y : TlbInv := { x with spans := s.hitPages x, devs := x.devs.filter (fun d => decide (d ≠ s.ownDevice)) }
      ((s.removeEntries y).shootLocked y = true → t.outbox = s.outbox ∧ t.tlbinvs = { y with waiting := true } :: rest) ∧
      ((s.removeEntries y).shootLocked y = false → match x.origin with
        | none => ∀ y ∈ (t.teamAt x.team).shoots, y.uid = x.uid → s.ownDevice ∉ y.await
        | some d => t.outbox = s.outbox ++ [.shot d x.uid]) ∧
      ∀ y ∈ t.tlbinvs, y.uid = x.uid → y ∉ rest → s.ownDevice ∉ y.devs) ∧
    (∃ t, exec (.shootdownTimeout k) s = .next t ∧
      ∀ y ∈ (s.teamAt k).shoots, 1800 * (s.setSince (teamVf k) y.since).shoot < (s.clock - y.since).toNat →
        (∀ d ∈ y.await, d ≠ s.ownDevice → d ∈ t.fenced) ∧
        (s.ownDevice ∈ y.await → s.ownDevice ∉ s.fenced → t.isolated = true ∧ ∀ j, ∀ z ∈ (t.teamAt j).shoots, s.ownDevice ∉ z.await)) ∧
    (up → exec (.heartbeat port) s =
      .next { s with heartbeats := listUpd s.heartbeats port (· + 1), misses := listUpd s.misses port (fun _ => 0) }) ∧
    (up → s.misses.getD port 0 < 15 → exec (.heartbeatMiss port) s = .next { s with misses := listUpd s.misses port (fun n => n + 1) }) ∧
    (up → 15 ≤ s.misses.getD port 0 → ∃ t, exec (.heartbeatMiss port) s = .next t ∧ downed t) ∧
    (up → ∃ t, exec (.linkDown port) s = .next t ∧ downed t) ∧
    (dev ≠ s.ownDevice → ∃ t, exec (.fenceNotice dev) s = .next t ∧ (∀ d, d ∈ t.fenced ↔ (d ∈ s.fenced ∨ d = dev)) ∧
      t.isolated = s.isolated ∧ t.noticesOut = s.noticesOut ∧ (dev ∈ s.fenced → t = s) ∧
      (dev ∉ s.fenced → (∀ j, ∀ y ∈ (t.teamAt j).shoots, dev ∉ y.await) ∧
        fails t (fun x => decide (x / 2 ^ 50 = 1 + dev)))) ∧
    (dev = s.ownDevice → ∃ t, exec (.fenceNotice dev) s = .next t ∧ t.isolated = true ∧
      (s.isolated = false → t.linkDown = 0xFFFF ∧ fails t (fun x => decide (2 ^ 50 ≤ x ∧ x < 2 ^ 64)))) ∧
    (∀ r : Option Requester, dev ≠ s.ownDevice → s.reachable dev = true → (∀ x, r = some x → (s.ctxAt (ctxKey x.vf x.asid)).mode = .free) →
      plain (fun x => .peerDeviceAccess dev ⟨x, r⟩) 0 (2 ^ 39) ∧ ∀ op, atomic (fun x => .peerDeviceAccess dev ⟨x, r⟩) 0 (2 ^ 39) op) ∧
    (vf < 16 → 3 ≤ s.bootStep → s.sriov.getLsbD (s.vfAt vf).port = true →
      let base := ((List.range vf).map (fun v => (s.vfAt v).set.allot)).sum * 2 ^ 30
      let room := (s.vfAt vf).set.allot * 2 ^ 30
      plain (.hostBar2Access vf) base room ∧ ∀ op ∈ [AtomOp.add, .swap, .cas], atomic (.hostBar2Access vf) base room op)

/-- R27, R37, R193, R194, R423, R424, R425, R426: reset, start-up and time. Reset and the first step of start-up leave the device with
its measurements locked; the next steps start the markhor core and the tenant cores, unless an image was refused; a cycle of the
timebase advances `CLOCK`, counts the current limiter and the core cycles, and notes the runs that are ready; the requests of SPDM are
answered. How many core cycles a cycle of the timebase adds to counters 0 and 5 is a free value (log 7); the cycles themselves are turns
(log 38), and the order of the start-up steps among the turns is the model's (log 52). That the digest follows the old value in the bytes
that are hashed, most significant byte first, and that the register of a refused image stays 0, are the model's choices (log 33: R424 names
neither). -/
def Obligations.StartUpTimeAndAttestation : Prop :=
  ∀ (s : State) (pf : Nat) (nonce : BitVec 256) (rest : List Turn),
    let u : State := { s with agenda := rest }
    let turns (x : Turn) (t : State) : Prop := s.agenda = x :: rest → step s = .next t
    let replies (i : Instr) (y : SpdmReply) : Prop := exec i s = .next { s with spdmOut := s.spdmOut ++ [y] }
    exec .currentLimiter s = .next { s with limiting := true } ∧ exec .currentBackWithinRating s = .next { s with limiting := false } ∧
    (∃ t, exec .timebaseCycle s = .next t ∧
      t = { s with clock := if 2 ≤ s.bootStep then s.clock + 1 else s.clock
                   limiterCount := if s.limiting = true then s.limiterCount + 1 else s.limiterCount
                   perf := t.perf, fresh := t.fresh, teams := t.teams } ∧
      (∀ k, t.teamAt k = { s.teamAt k with runs := (t.teamAt k).runs } ∧
        if k ∈ readyTeams s (s.teamAt k).core then
          ∃ r rs, (s.teamAt k).runs = r :: rs ∧ (t.teamAt k).runs = { r with readyAt := some (r.readyAt.getD s.clock) } :: rs
        else (t.teamAt k).runs = (s.teamAt k).runs) ∧
      (∀ j, (∀ c v, c ∈ s.cores.map (·.1) → v < 16 → (s.activeOn c v = true → j ≠ perfKey c v 0) ∧ (s.slavedOn c v = true → j ≠ perfKey c v 5)) →
        Table.get t.perf j = Table.get s.perf j) ∧
      ((s.cores.map (·.1)).Nodup → ∀ c ∈ s.cores.map (·.1), ∃ m, ∀ v < 16,
        (s.activeOn c v = true → Table.get t.perf (perfKey c v 0) = Table.get s.perf (perfKey c v 0) + BitVec.ofNat 64 m) ∧
        (s.slavedOn c v = true → Table.get t.perf (perfKey c v 5) = Table.get s.perf (perfKey c v 5) + BitVec.ofNat 64 m))) ∧
    (∃ t, exec .deviceReset s = .next t ∧ t.clock = 0 ∧ t.devNumber = 0 ∧ t.limiterCount = 0 ∧ t.routes = [] ∧ t.fenced = [] ∧
      t.isolated = false ∧ t.teams = [] ∧ t.blocks = [] ∧ t.launches = [] ∧ t.jobs = [] ∧ t.ctxs = [] ∧ t.ops = [] ∧ t.sriov = 0 ∧
      t.measureLocked = true ∧ t.bootStep = 1 ∧ t.bootStatus.getLsbD 0 = decide (refusedImage = 0) ∧
      (∀ q, q < 64 → ∀ v, ((t.vfAt v).queues.getD q {}).size = 0) ∧ t.pool = List.replicate 64 {} ∧
      (∀ i < 8, t.measure.getD i 0 =
        if i = 0 ∨ i = 4 ∨ ((i = 1 ∨ i = 2 ∨ i = 3) ∧ (refusedImage = 0 ∨ i < refusedImage)) then
          sha384 (digestBytes 0 ++ digestBytes (Config.imageDigest (i + 1))) else 0)) ∧
    turns .startUp
      (if s.bootStep = 1 ∧ refusedImage = 0 then
        { u with bootStep := 2, clock := 0, ifaces := [startIface 0, startIface 1], vfs := (List.range 16).map startVf }
      else if s.bootStep = 2 then { u with bootStep := 3 } else u) ∧
    turns (.enableVfs pf) (if 3 ≤ s.bootStep ∧ pf < 2 then { u with sriov := s.sriov ||| BitVec.twoPow 2 pf } else u) ∧
    (pf < 2 → 3 ≤ s.bootStep ∨ (s.bootStep = 1 ∧ refusedImage ≠ 0 ∧ pf = 0) →
      replies (.getVersion pf) .version ∧ replies (.getCapabilities pf) .capabilities ∧ replies (.negotiateAlgorithms pf) .algorithms ∧
      replies (.getDigests pf) (.digests (sha384 Config.certificate)) ∧ replies (.getCertificate pf) (.certificate Config.certificate) ∧
      (∃ sig, replies (.challenge pf nonce) (.challenge nonce sig)) ∧ ∃ sig, replies (.getMeasurements pf nonce) (.measurements nonce s.measure sig))

/-- R111, R136, R168, R184, R197, R214, R220, R299, R404, R420: what other agents do at their turns (log 1). A host writes its memory; a
corrected soft error is counted and the host clears the count; another device sends a shoot-down or an `ICINV`, answers one, writes its
own memory, rejects one copy of a write, or has been reset. -/
def Obligations.OtherAgentsTakeTurns : Prop :=
  ∀ (s : State) (rest : List Turn) (k port addr dev uid len n pos copy : Nat) (bs : List Byte) (x : TlbInv),
    let u : State := { s with agenda := rest }
    let turns (y : Turn) (t : State) : Prop := s.agenda = y :: rest → step s = .next t
    (s.agenda = .hostMem port addr bs :: rest → ∃ t, step s = .next t ∧ t = { u with mem := t.mem } ∧
      let base := 2 ^ 64 * (1 + port) + addr % 2 ^ 64
      ∀ y, Memory.read t.mem y = if base ≤ y ∧ y < base + bs.length then bs.getD (y - base) 0 else Memory.read s.mem y) ∧
    turns (.softError k) { u with corrected := listUpd s.corrected k (fun y => if y = 0xFFFFFFFF then y else y + 1) } ∧
    turns (.clearErrors k) { u with corrected := listUpd s.corrected k (fun _ => 0) } ∧
    turns (.peerShoot x)
      (match x.origin with
      | some d => if s.reachable d = true ∧ d ≠ s.ownDevice then
          { u with tlbinvs := s.tlbinvs ++ [{ x with devs := [s.ownDevice], waiting := false, spans := [] }] } else u
      | none => u) ∧
    (s.agenda = .peerIcinv dev uid addr len :: rest → s.reachable dev = true → dev ≠ s.ownDevice → ∃ t, step s = .next t ∧
      t = { u with teams := t.teams, cores := t.cores, outbox := s.outbox ++ [.discarded dev uid] } ∧
      ∀ c < s.nCores, (t.coreAt c).icache = (s.coreAt c).icache.filter (fun g => !g.hit addr len)) ∧
    (s.agenda = .icinvAnswer dev uid :: rest → s.reachable dev = true → ∃ t, step s = .next t ∧ t = { u with teams := t.teams } ∧
      ∀ j, t.teamAt j = { s.teamAt j with icinv := (s.teamAt j).icinv.map (fun y =>
        if y.uid = uid then { y with await := y.await.filter (fun d => decide (d ≠ dev)) } else y) }) ∧
    turns (.reject k n pos copy) { u with ops := s.ops.flatMap (fun o =>
      let bad (y : Nat) : Bool := decide (o.keys[copy]? = some y ∧ 2 ^ 39 ≤ y)
      if (o.team = k ∧ o.ins = n ∧ o.pos = pos) ∧ o.act.reads = false ∧ o.keys.any bad = true then
        { o with keys := o.keys.filter bad, doomed := true } ::
          (if o.keys.all bad = true then [] else [{ o with keys := o.keys.filter (fun y => !bad y) }])
      else [o]) } ∧
    (s.agenda = .peerMem dev addr bs :: rest → ∃ t, step s = .next t ∧ t = { u with mem := t.mem, launches := t.launches } ∧
      (dev = s.ownDevice ∨ 2 ^ 39 < addr + bs.length → t = u) ∧
      (dev ≠ s.ownDevice → addr + bs.length ≤ 2 ^ 39 →
        let base := 2 ^ 50 * (1 + dev) + addr
        ∀ y, Memory.read t.mem y = if base ≤ y ∧ y < base + bs.length then bs.getD (y - base) 0 else Memory.read s.mem y)) ∧
    (s.agenda = .peerReset dev :: rest → ∃ t, step s = .next t ∧
      t = { u with returned := t.returned, farCredits := t.farCredits, farOthers := t.farOthers } ∧
      (∀ d, d ∈ t.returned ↔ (d ∈ s.returned ∨ (d = dev ∧ dev ∈ s.fenced))) ∧
      ∀ q < 256, Table.find? t.farCredits (dev * 256 + q) = none ∧ Table.find? t.farOthers (dev * 256 + q) = none)

/-- R157, R158, R194, R406, R408, R411, R414, R415: the writes of the host to the windows of its functions. A value out of its range
leaves its field, a first device number stays, and a region's fields change only while it is free. Which bytes of a register a write
changes, that enabling a ring begins its count, and that enabling a queue keeps the bits of Head and Tail which its size uses, are read by
the model (log 31). -/
def Obligations.HostWritesAreTaken : Prop :=
  ∀ (s : State) (vf pf q r core n : Nat) (x : Word64) (y : Word32) (w : BitVec 128) (z : BitVec 16),
    let v := s.vfAt vf
    let up := vf < 16 ∧ 3 ≤ s.bootStep ∧ s.sriov.getLsbD v.port = true
    let region := s.pool.getD r {}
    let only (t : State) : Prop := t = { s with vfs := t.vfs } ∧ ∀ j, j ≠ vf → t.vfAt j = s.vfAt j
    (up → vf < s.vfs.length →
      (∃ t, exec (.registerWrite false vf 0x0008 x) s = .next t ∧ only t ∧ t.vfAt vf = { v with ringBase := x }) ∧
      (∃ t, exec (.registerWrite false vf 0x0010 x) s = .next t ∧ only t ∧ t.vfAt vf = { v with ringHeader := x }) ∧
      (∃ t, exec (.registerWrite false vf 0x0018 x) s = .next t ∧ only t ∧
        t.vfAt vf = { v with ringSize := x &&& 31, ringTail := (t.vfAt vf).ringTail }) ∧
      (∃ t, exec (.eventHeadDoorbell vf y) s = .next t ∧ only t ∧ t.vfAt vf = { v with ringHead := y.setWidth 64 }) ∧
      (let old := v.queues.getD q {}
       let size : BitVec 5 := w.extractLsb' 59 5
       q < v.queues.length → ∃ t, exec (.jobQueueWrite vf q w) s = .next t ∧ only t ∧
        t.vfAt vf = { v with queues := (t.vfAt vf).queues } ∧
        (∀ j, j ≠ q → (t.vfAt vf).queues.getD j {} = v.queues.getD j {}) ∧
        let new := (t.vfAt vf).queues.getD q {}
        (new.sticky = if w.extractLsb' 96 32 = 0 then 0 else old.sticky) ∧
        (4 ≤ old.size.toNat ∧ old.size.toNat ≤ 16 → new.base = old.base ∧ new.head = old.head ∧ new.tail = old.tail ∧
          new.size = if size = 0 then 0 else old.size) ∧
        (¬(4 ≤ old.size.toNat ∧ old.size.toNat ≤ 16) → new.base = w.extractLsb' 0 58 ∧
          new.size = (if 4 ≤ size.toNat ∧ size.toNat ≤ 16 ∧ v.ringOn = true then size else 0) ∧
          (new.size ≠ 0 → new.head.toNat = old.head.toNat % 2 ^ size.toNat ∧ new.tail.toNat = old.tail.toNat % 2 ^ size.toNat))) ∧
      (let old := v.queues.getD q {}
       4 ≤ old.size.toNat → old.size.toNat ≤ 16 → q < v.queues.length →
        (z.toNat < 2 ^ old.size.toNat → ∃ t, exec (.tailDoorbell vf q z) s = .next t ∧ only t ∧
          (t.vfAt vf).queues.getD q {} = { old with tail := z } ∧ ∀ j, j ≠ q → (t.vfAt vf).queues.getD j {} = v.queues.getD j {}) ∧
        (2 ^ old.size.toNat ≤ z.toNat → exec (.tailDoorbell vf q z) s = .next (s.post vf { code := 0x000E, queue := q, detail := 6 })))) ∧
    (up → core < s.nCores → n < 32 → ∃ t, exec (.perfCounterClear vf core n) s = .next t ∧ t = { s with perf := t.perf } ∧
      Table.get t.perf (perfKey core vf n) = 0 ∧ ∀ j, j ≠ perfKey core vf n → Table.get t.perf j = Table.get s.perf j) ∧
    (vf < 16 → s.pfUp pf = true → v.port = pf → vf < s.vfs.length → let u := x.toNat % 2 ^ 32
      ∀ f ∈ [(0, 1000, 10000000), (4, 100, 100000), (8, 100, 1000000), (12, 1000, 60000000)],
        ∃ t, exec (.settingsWrite pf vf f.1 4 x) s = .next t ∧ only t ∧
          (t.vfAt vf).past = v.past ++ [(s.clock, v.set)] ∧
          (t.vfAt vf).set = if f.2.1 ≤ u ∧ u ≤ f.2.2 then
              (match f.1 with
              | 0 => { v.set with stall := u }
              | 4 => { v.set with shoot := u }
              | 8 => { v.set with migrate := u }
              | _ => { v.set with watchdog := u })
            else v.set) ∧
    (vf < 16 → s.pfUp pf = true → v.port = pf → vf < s.vfs.length →
      let lo := x.toNat % 256
      let hi := x.toNat / 2 ^ 8 % 256
      let weight := x.toNat / 2 ^ 16 % 256
      let others := ((List.range 16).map (fun j => if j = vf then 0 else (s.vfAt j).set.cmin)).sum
      ∃ t, exec (.settingsWrite pf vf 16 4 x) s = .next t ∧ only t ∧ let z := (t.vfAt vf).set
        z = { v.set with cmin := z.cmin, cmax := z.cmax, weight := z.weight } ∧
        z.cmin = (if lo ≤ 64 ∧ lo + others ≤ 64 then lo else v.set.cmin) ∧ z.cmax = (if z.cmin ≤ hi ∧ hi ≤ 64 then hi else v.set.cmax) ∧
        z.weight = (if 1 ≤ weight ∧ weight ≤ 15 then weight else v.set.weight)) ∧
    (s.pfUp 0 = true → s.devNumber.getLsbD 63 = false → ∃ t, exec (.deviceNumberWrite x) s = .next t ∧ t = { s with devNumber := t.devNumber } ∧
      t.devNumber.getLsbD 63 = true ∧ t.devNumber.extractLsb' 0 12 = x.extractLsb' 0 12 ∧ t.devNumber.extractLsb' 12 51 = 0 ∧
      ∀ x', exec (.deviceNumberWrite x') t = .next t) ∧
    (s.pfUp pf = true →
      exec (.registerWrite true pf 0x0020 x) s = .next { s with routeAddr := x } ∧
      (s.routeLoading = false → exec (.loadRoutingTable pf) s = .next { s with routeLoading := true, routePort := pf }) ∧
      (r < 64 → r < s.pool.length →
        (∃ t, exec (.registerWrite true pf (0x0800 + 16 * r) x) s = .next t ∧ t = { s with pool := t.pool } ∧
          (∀ j, j ≠ r → t.pool.getD j {} = s.pool.getD j {}) ∧
          t.pool.getD r {} = if region.st = 0 then
            { region with size := (x.extractLsb' 14 16).toNat, base := (x.extractLsb' 30 34).toNat } else region) ∧
        ∃ t, exec (.registerWrite true pf (0x0808 + 16 * r) x) s = .next t ∧ t = { s with pool := t.pool } ∧
          (∀ j, j ≠ r → t.pool.getD j {} = s.pool.getD j {}) ∧
          t.pool.getD r {} = { region with
            port := if region.st = 0 then x.getLsbD 6 else region.port
            cmd := if x.extractLsb' 0 2 = 1 then 1 else if x.extractLsb' 0 2 = 2 then 2 else region.cmd }))

/-- R19, R408, R417, R418, R420, R422: the requests that the markhor core acts on. A valid routing image is loaded, with the devices that
have been reset rejoining and those that every permitted port leaves cut off declared failed, and any other is refused with the table
left; a region that can be assigned and for which the window has room is assigned, and any other request is turned away; a release
waits until nothing maps the region and no access translated before may still reach it. Where in the window a region stands is the model's choice (log 7), and so is that a device no port
of which is permitted is not declared failed (log 34). -/
def Obligations.MarkhorRequestsAreServed : Prop :=
  ∀ (s : State) (r : Nat),
    let region := s.pool.getD r {}
    let image (off n : Nat) : Nat := s.mem.readNat (2 ^ 64 * (1 + s.routePort) + (s.routeAddr.toNat + off) % 2 ^ 64) n
    let count := image 0 4
    let valid := 1 ≤ count ∧ count ≤ 4096 ∧ s.ownDevice < count ∧ image 4 12 = 0 ∧ image (16 + 2 * s.ownDevice) 2 = 0
    let others (t : State) : Prop := ∀ j, j ≠ r → t.pool.getD j {} = s.pool.getD j {}
    let apart (lo n lo' n' : Nat) : Prop := lo + n ≤ lo' ∨ lo' + n' ≤ lo
    let assignable := region.st = 0 ∧ region.size ≠ 0 ∧ s.ifaces.getD (if region.port = true then 1 else 0) .pcie5 = .cxl3 ∧
      ∀ y ∈ s.pool, y.st ≠ 0 → y.port = region.port → apart region.base region.size y.base y.size
    let free (w : Nat) : Prop := w + region.size ≤ 65536 ∧ ∀ y ∈ s.pool, y.st ≠ 0 → apart w region.size y.window y.size
    2 ≤ s.bootStep →
    (s.routeLoading = true → valid → ∃ t, exec .routingLoadComplete s = .next t ∧ t.routes.length = count ∧
      (∀ d < count, (t.routes.getD d 0).toNat = image (16 + 2 * d) 2) ∧ t.routeLoading = false ∧ t.routeRefused = false ∧ t.returned = [] ∧
      ∀ d, d ∈ t.fenced ↔ (d ∈ s.fenced ∧ d ∉ s.returned) ∨
        (s.isolated = false ∧ d < count ∧ d ≠ s.ownDevice ∧ image (16 + 2 * d) 2 ≠ 0 ∧
          ∀ j < 16, (t.routes.getD d 0).getLsbD j = true → s.linkDown.getLsbD j = true)) ∧
    (s.routeLoading = true → ¬valid → exec .routingLoadComplete s = .next { s with routeLoading := false, routeRefused := true }) ∧
    (r < s.pool.length → region.cmd = 1 → ∃ t, exec (.poolAssign r) s = .next t ∧ t = { s with pool := t.pool, fresh := t.fresh } ∧ others t ∧
      (assignable → (∃ w, free w) → ∃ w, free w ∧ t.pool.getD r {} = { region with cmd := 0, st := 1, window := w }) ∧
      (¬assignable ∨ (∀ w, ¬free w) → t.pool.getD r {} = { region with cmd := 0 })) ∧
    (r < s.pool.length → region.cmd = 2 → ∃ t, exec (.poolRelease r) s = .next t ∧ t = { s with pool := t.pool } ∧ others t ∧
      t.pool.getD r {} = { region with cmd := 0, st := if region.st = 1 then 2 else region.st }) ∧
    (r < s.pool.length → region.st = 2 → s.poolUnused region = true → ∃ t, exec (.poolReleaseComplete r) s = .next t ∧ others t ∧
      t.pool.getD r {} = { region with st := 0 })

/-- R157, R410 to R412: the entries of a job queue. A job that the tenant core accepts has its levels, its tag and its completion word, a
context is created as its descriptor says, and a context is destroyed once its jobs have ended; an entry that is refused posts its
error; in each case the queue moves on to its next entry. An entry whose structures stand on a migrating page waits (R166; log 27). The
order of the checks and what destroys a context are read by the model (log 32); the pages of the pool are built from the reserve at creation (log 53). -/
def Obligations.JobEntriesAreServed : Prop :=
  ∀ (s : State) (vf q : Nat) (e : JobEntry),
    let v := s.vfAt vf
    let old := v.queues.getD q {}
    let c := ctxKey vf e.asid
    let popped (t : State) : Prop := ((t.vfAt vf).queues.getD q {}).head = BitVec.ofNat 16 ((old.head.toNat + 1) % 2 ^ old.size.toNat)
    let refuses (i : Instr) (code : Nat) : Prop := exec i s =
      .next ((s.popEntry vf q).post vf { code := 0x000E, queue := q, ctx := e.asid, detail := BitVec.ofNat 64 code })
    s.headEntry vf q = some e → vf < s.vfs.length → q < v.queues.length →
    (e.command ≠ 1 → e.command ≠ 2 → e.command ≠ 3 → refuses (.submitJob vf q) 0x0001) ∧
    (e.command = 1 → (Table.find? s.ctxs c = none ∨ (s.ctxAt c).failed = true) → refuses (.submitJob vf q) 0x0002) ∧
    (e.command = 1 → Table.find? s.ctxs c ≠ none → (s.ctxAt c).failed = false → ∀ h s1 gs s2, s.ctxPages c 3 e.desc 8 = (.ok h, s1) →
      1 ≤ leNat h → leNat h ≤ 65535 → readGraphs s1 c (leNat h) (e.desc + 8) 0 = .ok (gs, s2) →
      (∀ g ∈ gs, ∀ r ∈ g.launches, s2.imageHeld c r.1 = false) →
      ∃ t, exec (.submitJob vf q) s = .next t ∧ popped t ∧ Table.find? s.jobs s.nextJob = none ∧
        let j := t.jobAt s.nextJob
        j.ctx = c ∧ j.queue = q ∧ j.tag = BitVec.ofNat 64 e.tag ∧ j.compl = BitVec.ofNat 64 e.compl ∧
          j.phases.length = (groupPhases gs).length ∧
          (t.ctxAt c).nextLaunch = (s.ctxAt c).nextLaunch + (gs.map (fun g => g.launches.length)).sum) ∧
    (e.command = 1 → Table.find? s.ctxs c ≠ none → (s.ctxAt c).failed = false → ∀ s1, s.ctxPages c 3 e.desc 8 = (.migrating, s1) →
      let since := old.hold.getD s.clock
      (s.pastLimit vf since = true → refuses (.submitJob vf q) 0x0003) ∧
      (s.pastLimit vf since = false → ∃ t, exec (.submitJob vf q) s = .next t ∧ t = { s with vfs := t.vfs } ∧
        t.vfAt vf = { v with queues := (t.vfAt vf).queues } ∧ (t.vfAt vf).queues.getD q {} = { old with hold := some since } ∧
        ∀ j, j ≠ q → (t.vfAt vf).queues.getD j {} = v.queues.getD j {})) ∧
    (e.command = 2 →
      let d := s.mem.readNat (2 ^ 64 * (1 + v.port) + e.desc % 2 ^ 64) 128
      let f (byte n : Nat) : Nat := bitsOf d (8 * byte) (8 * n)
      let c' := ctxKey vf (f 8 2)
      (Table.find? s.ctxs c' ≠ none → refuses (.createContext vf q) 0x0002) ∧
      (Table.find? s.ctxs c' = none → 64 ≤ v.live → refuses (.createContext vf q) 0x0005) ∧
      (Table.find? s.ctxs c' = none → v.live < 64 → s.descOk vf d = false → refuses (.createContext vf q) 0x0004) ∧
      (Table.find? s.ctxs c' = none → v.live < 64 → s.descOk vf d = true → f 10 1 = 0 → f 80 2 = 0 → f 82 2 = 0 → f 96 8 = 0 →
        ∃ t, exec (.createContext vf q) s = .next t ∧ popped t ∧ Table.find? t.ctxs c' ≠ none ∧
          let x := t.ctxAt c'
          x.root = BitVec.ofNat 64 (f 0 8) ∧ x.trapBase = BitVec.ofNat 64 (f 16 8) ∧ x.ftv = BitVec.ofNat 32 (f 11 1) ∧ x.mode = .free ∧
            x.saveBase = BitVec.ofNat 64 (f 24 8) ∧ x.dumpBase = BitVec.ofNat 64 (f 40 8) ∧ x.reserve.length ≤ f 88 8 ∧ (f 16 8 = 0 → x.reserve.length = f 88 8) ∧ x.failed = false ∧
            x.nextLaunch = 0 ∧ x.ws = List.replicate 4 (0, 0) ∧ (t.vfAt vf).live = v.live + 1)) ∧
    (e.command = 3 →
      (Table.find? s.ctxs c = none → refuses (.destroyContext vf q) 0x0002) ∧
      (Table.find? s.ctxs c ≠ none → (∀ j, ∀ x, (j, x) ∈ s.jobs → x.ctx = c → s.jobOver j = true) →
        ∃ t, exec (.destroyContext vf q) s = .next t ∧ popped t ∧ Table.find? t.ctxs c = none ∧ (t.vfAt vf).live = v.live - 1 ∧
          (∀ l, launchCtx l = c → Table.find? t.launches l = none) ∧ (∀ k, teamCtx k = c → Table.find? t.teams k = none) ∧
          ∀ x ∈ t.jobs, x.2.ctx ≠ c))

/-! ## The whole machine -/

/-- R33, R35, R84, R107, R108, R110, R264 to R266: a step runs the instruction that the bytes at SPC or LPC decode to. `u` is the state in
which the stream moves; the fetch that reached the bytes left `u1`, which differs from it in no team and no block. A scalar instruction
that writes a register which a run enqueued before reads waits, and so does one while the code of such a run cannot be read to its end (log
15: the model's choice). No lane instruction issues while a lane of an instruction that is not relaxed has to perform (R205). A word that decodes to none
traps as illegal with the detail of its defect, a misaligned SPC as misalignment, an invalid header or packed form as an invalid run. A
copy command that is due issues before the stream goes on, a stream that cannot move leaves the state, an event of the agenda is one
instruction, and with nothing to do the timebase counts a cycle (log 1, log 8: the model's choices of order). -/
def Obligations.StepRunsTheDecodedInstruction : Prop :=
  ∀ (s u u1 u2 : State) (k : Nat) (i : Instr) (bs hs : List Byte) (w : BitVec 96) (a : Active),
    let traps (z : State) (cause detail : Nat) : Prop :=
      ∃ t, step s = .next t ∧ EnteredLane z t a cause detail 0 z.team.mask (z.team.activeLanes.headD 0)
    let waits (i : Instr) (z : State) : Prop :=
      (∀ q neg off, i = .call q neg off → condHolds z.team q neg = true) ∧
        ∃ d, scalarDest i = some d ∧ d ≠ 0 ∧ ∃ r ∈ z.team.runs, let code := z.runInstrs z.cur 24 r.start
          (∃ j ∈ code, d ∈ laneSregs j) ∨ wholeRun 24 code = false
    (StreamTurn s u .scalar k ∨ (s.agenda = [] ∧ Table.find? s.teams s.cur ≠ none ∧ k = s.cur ∧ u = s) →
      (u.stopped = true → step s = .next u) ∧
      (∀ c, u.stopped = false → u.dueChannel = some c → step s = exec (.channelIssue c.1 c.2) u) ∧
      (ScalarMoves u → u.team.spc.toNat % 4 ≠ 0 → CanTrap u → ∃ t, step s = .next t ∧ EnteredScalar u t 0x05 0x00 u.team.spc u.team.spc) ∧
      (ScalarMoves u → u.team.spc.toNat % 4 = 0 → u.fetchBytes u.who false (teamCtx k) u.fresh 4 u.team.spc.toNat 4 0 [] = (.bytes bs, u1) →
        (decodeScalar (BitVec.ofNat 32 (leNat bs)) = .ok i →
          (¬waits i u1 → step s = exec i u1) ∧ (waits i u1 → step s = .next u1) ∧
            u1.teams = u.teams ∧ u1.blocks = u.blocks ∧ u1.clock = u.clock) ∧
        ∀ d, decodeScalar (BitVec.ofNat 32 (leNat bs)) = .error d → CanTrap u1 →
          ∃ t, step s = .next t ∧ EnteredScalar u1 t 0x01 d.detail 0 u.team.spc)) ∧
    (∀ order later, LaneTurn s u k order later → u.stopped = false → u.dueChannel = none → u.team.active = some a →
      a.finished = true ∨ u.strongPending k = true → step s = .next u) ∧
    (∀ order later, LaneTurn s u k order later → u.stopped = false → u.dueChannel = none → u.team.active = some a → a.finished = false →
      u.strongPending k = false →
      (24 ≤ a.count → CanTrapLane u → traps u 0x02 0x03) ∧
      (a.count < 24 → u.fetchBytes u.who true (teamCtx k) u.fresh 2 a.lpc.toNat 2 0 [] = (.bytes hs, u1) →
        (headerOk (leNat hs) = false → CanTrapLane u1 → traps u1 0x02 0x01) ∧
        (headerOk (leNat hs) = true →
          u1.fetchBytes u1.who true (teamCtx k) u.fresh 16 ((a.lpc.toNat + 2) % 2 ^ 64) (leNat hs / 4096) 2 [] = (.bytes bs, u2) →
          (∀ e, unpackBytes (leNat hs) bs = .error e → CanTrapLane u2 → traps u2 0x02 0x02) ∧
          (unpackBytes (leNat hs) bs = .ok w →
            (∀ d, decodeLane w = .error d → CanTrapLane u2 → traps u2 0x01 (laneWordDetail u2 w d)) ∧
            (decodeLane w = .ok i → step s = exec i u2 ∧ u2.teams = u.teams ∧ u2.blocks = u.blocks ∧ u2.clock = u.clock))))) ∧
    (∀ rest, s.agenda = .event i :: rest → step s = exec i { s with agenda := rest }) ∧
    (s.agenda = [] → Table.find? s.teams s.cur = none → step s = exec .timebaseCycle s)

/-- R267, R271 to R301, R316, R318, R330, R347, R349, R354, R370, R376: words that the manual writes out, scalar words and lane words as the
twelve bytes that it lists, decode to the instructions that it writes beside them. -/
def Obligations.WordsOfTheManualDecode : Prop :=
  let c : Ctl := { g0 := { idx := 127, neg := false }, g1 := { idx := 127, neg := false }, stall := 0, set := 0, wait := 0, boundary := false }
  let last : Ctl := { c with boundary := true }
  let word (bs : List Nat) : Option Instr := decodeTableWord 96 (leNat (bs.map (BitVec.ofNat 8)))
  decodeTableWord 32 0x102891A3 = some (.lui 5 0x091A3) ∧ decodeTableWord 32 0x0228B678 = some (.addi 5 5 (BitVec.ofInt 13 (-2440))) ∧
  decodeTableWord 32 0x207FFFFB = some (.b 3 true (BitVec.ofInt 20 (-5))) ∧ decodeTableWord 32 0x30000001 = some (.mpush { idx := 1, neg := false }) ∧
  decodeTableWord 32 0x404A0003 = some (.sred .max 9 3) ∧ decodeTableWord 32 0x48282000 = some (.ldk 5 1 0) ∧
  decodeTableWord 32 0x80300005 = some (.srd 6 5) ∧ decodeTableWord 32 0x68010000 = some (.cpy 8) ∧ decodeTableWord 32 0x8C000000 = some .exit ∧
  decodeTableWord 32 0x6038A32A = some (.swait 7 5 6 false .geu true .dev) ∧ decodeTableWord 32 0x9461A702 = some (.tlbinv 12 13 14 false .dev) ∧
  word [0x1A, 0x62, 0x00, 0x02, 0x20, 0x3A, 0x00, 0x04, 0xF0, 0xF7, 0x07, 0x80] = some (.icmp last .n32 .lt (.p 3) (.v 2) (.int 100)) ∧
  word [0x43, 0x80, 0x00, 0x05, 0x30, 0xC0, 0x01, 0x00, 0xF0, 0xF7, 0x47, 0x01] = some (.ffma { c with stall := 5 } .rn (.v 4) (.v 5) (.v 6) (.v 7)) ∧
  word [0x06, 0x31, 0x01, 0x08, 0x00, 0x00, 0x00, 0x00, 0xF0, 0xF7, 0x07, 0x80] = some (.reduce last .fadd (.v 9) (.v 8)) ∧
  word [0x43, 0xC5, 0x00, 0x04, 0x40, 0x37, 0x00, 0x22, 0xF0, 0xF7, 0x07, 0x04] =
    some (.gld { c with set := 1 } .normal false .acq .dev (.v 6) (.v 4) (.int 8)) ∧
  word [0x85, 0x61, 0x00, 0x00, 0x48, 0xB0, 0x00, 0x28, 0xFC, 0xF7, 0x07, 0x04] =
    some (.mma { c with set := 1 } .row 3 0 (.s 9) 2 20) ∧
  word [0xC0, 0x01, 0x00, 0x05, 0x00, 0x00, 0x00, 0x04, 0xF0, 0xF7, 0x07, 0x80] = some (.become last 5 2)

/-- R108, R249 to R267: decoding undoes encoding. Every well-formed instruction that is a word of a program has one word, scalar or lane;
the word decodes to it, with every operand at every value that the encoding admits; and a lane word comes back from the bytes that the
packed stream stores: the header counts them and none of them is zero. -/
def Obligations.EncodingsRoundTrip : Prop :=
  ∀ i : Instr, wellFormed i = true → isStep i = false →
    (∃ w, encodeScalar i = some w ∧ encodeLane i = none ∧ decodeScalar w = .ok i ∧ BitVec.ofNat 32 (leNat (encode i)) = w) ∨
    (∃ w, encodeScalar i = none ∧ encodeLane i = some w ∧ decodeLane w = .ok i ∧
      ∃ hs bs, encode i = hs ++ bs ∧ hs.length = 2 ∧ headerOk (leNat hs) = true ∧ bs.length = leNat hs / 4096 ∧
        unpackBytes (leNat hs) bs = .ok w)

/-- R7, R86, R96, R101: every step keeps the canonical form of the state (the model's own form, log 3): in every memory of the part the
addresses rise and no listed byte equals what an unlisted address reads as, and the table of teams lists each team once. -/
def Obligations.StepsKeepTheCanonicalForm : Prop :=
  ∀ s t : State, Canonical s → step s = .next t → Canonical t

/-- R157, R158, R193, R194, R197, R406, R408, R424, R425: the state after reset. CLOCK, the counters, the device number and the measurement
registers are 0; the queues and rings are disabled; no team, block, launch or context is there; and the state is in its canonical form. -/
def Obligations.ResetLeavesTheInitialState : Prop :=
  let s := State.reset
  Canonical s ∧ s.clock = 0 ∧ s.limiterCount = 0 ∧ s.devNumber = 0 ∧ s.measure = List.replicate 8 0 ∧ s.measureLocked = false ∧ s.bootStep = 0 ∧ s.sriov = 0 ∧
    (∀ core vf n, Table.get s.perf (perfKey core vf n) = 0) ∧ s.corrected = List.replicate 8 0 ∧
    (∀ vf < 16, (s.vfAt vf).ringOn = false ∧ ∀ q < 64, ((s.vfAt vf).queues.getD q {}).size = 0) ∧
    (∀ k, Table.get s.credits k = 0) ∧ s.landing = [] ∧ s.ops = [] ∧ s.fenced = [] ∧ s.isolated = false ∧ s.oryx = [] ∧ s.cores = [] ∧ s.teams = [] ∧ s.blocks = [] ∧ s.launches = [] ∧ s.ctxs = [] ∧ s.jobs = []
end

