-- ==== Sys2Proof/Laws/Memory.lean ====
section
/-! SUPPORT. Laws of sparse tables and byte memories: read after write, writes elsewhere, and the canonical form. -/

namespace Sys2Proof.Machine

/-! ### Tables -/

variable {α : Type}

@[simp] theorem Table.find?_set_same (t : Table α) (k : Nat) (v : α) : Table.find? (Table.set t k v) k = some v := by
  induction t with
  | nil => simp [Table.set, Table.find?]
  | cons e rest ih =>
    obtain ⟨j, x⟩ := e
    simp only [Table.set]
    split
    · simp [Table.find?]
    · split
      · simp [Table.find?]
      · simp only [Table.find?, ih]; split <;> first | rfl | omega

theorem Table.find?_set_other (t : Table α) {k j : Nat} (v : α) (h : j ≠ k) :
    Table.find? (Table.set t k v) j = Table.find? t j := by
  induction t with
  | nil => simp [Table.set, Table.find?]; omega
  | cons e rest ih =>
    obtain ⟨i, x⟩ := e
    simp only [Table.set]
    split
    · simp only [Table.find?]; split <;> first | rfl | omega
    · split
      · simp only [Table.find?]; split <;> split <;> first | rfl | omega
      · simp only [Table.find?, ih]

@[simp] theorem Table.get_set_same [Inhabited α] (t : Table α) (k : Nat) (v : α) : Table.get (Table.set t k v) k = v := by
  simp [Table.get]

theorem Table.get_set_other [Inhabited α] (t : Table α) {k j : Nat} (v : α) (h : j ≠ k) :
    Table.get (Table.set t k v) j = Table.get t j := by
  simp [Table.get, Table.find?_set_other t v h]

theorem Table.get_set [Inhabited α] (t : Table α) (k j : Nat) (v : α) :
    Table.get (Table.set t k v) j = if j = k then v else Table.get t j := by
  split
  · subst_vars; simp
  · exact Table.get_set_other t v ‹_›

@[simp] theorem Table.set_set (t : Table α) (k : Nat) (v w : α) : Table.set (Table.set t k v) k w = Table.set t k w := by
  induction t with
  | nil => simp [Table.set]
  | cons e rest ih =>
    obtain ⟨j, x⟩ := e
    simp only [Table.set]
    by_cases h1 : k < j
    · simp [h1, Table.set]
    · by_cases h2 : k = j
      · simp [h2, Table.set]
      · simp [h1, h2, Table.set, ih]

@[simp] theorem Table.has_set_same (t : Table α) (k : Nat) (v : α) : Table.has (Table.set t k v) k = true := by
  simp [Table.has]

theorem Table.has_set_other (t : Table α) {k j : Nat} (v : α) (h : j ≠ k) : Table.has (Table.set t k v) j = Table.has t j := by
  simp [Table.has, Table.find?_set_other t v h]

theorem Table.find?_mapVals (t : Table α) (f : Nat → α → α) (k : Nat) :
    Table.find? (Table.mapVals t f) k = (Table.find? t k).map (f k) := by
  induction t with
  | nil => rfl
  | cons e rest ih =>
    obtain ⟨j, x⟩ := e
    simp only [Table.mapVals, List.map_cons, Table.find?] at *
    split
    · subst_vars; rfl
    · exact ih

/-! ### Byte memories -/

theorem Memory.wfFrom_mono {lo lo' : Nat} (h : lo' ≤ lo) {m : Memory} (hm : Memory.wfFrom lo m = true) : Memory.wfFrom lo' m = true := by
  cases m with
  | nil => rfl
  | cons e rest =>
    obtain ⟨k, x⟩ := e
    simp only [Memory.wfFrom, Bool.and_eq_true, decide_eq_true_eq] at *
    exact ⟨⟨by omega, hm.1.2⟩, hm.2⟩

theorem Memory.wfFrom_filter (lo : Nat) (m : Memory) (p : Host.Cell → Bool) (h : Memory.wfFrom lo m = true) :
    Memory.wfFrom lo (m.filter p) = true := by
  induction m generalizing lo with
  | nil => rfl
  | cons e rest ih =>
    obtain ⟨k, x⟩ := e
    simp only [Memory.wfFrom, Bool.and_eq_true, decide_eq_true_eq] at h
    simp only [List.filter_cons]
    split
    · simp only [Memory.wfFrom, Bool.and_eq_true, decide_eq_true_eq]
      exact ⟨h.1, ih _ h.2⟩
    · exact wfFrom_mono (by omega) (ih _ h.2)

theorem Memory.wfFrom_put (m : Memory) (a : Nat) (v : Byte) (hv : v ≠ unlistedByte) (lo : Nat) (ha : lo ≤ a)
    (h : Memory.wfFrom lo m = true) : Memory.wfFrom lo (Memory.put m a v) = true := by
  induction m generalizing lo with
  | nil => simp [Memory.put, Memory.wfFrom, ha, hv]
  | cons e rest ih =>
    obtain ⟨k, x⟩ := e
    simp only [Memory.wfFrom, Bool.and_eq_true, decide_eq_true_eq] at h
    simp only [Memory.put]
    split
    · simp only [Memory.wfFrom, Bool.and_eq_true, decide_eq_true_eq, bne_iff_ne, ne_eq]
      exact ⟨⟨ha, hv⟩, ⟨by omega, by simpa using h.1.2⟩, h.2⟩
    · split
      · subst_vars
        simp only [Memory.wfFrom, Bool.and_eq_true, decide_eq_true_eq, bne_iff_ne, ne_eq]
        exact ⟨⟨ha, hv⟩, h.2⟩
      · simp only [Memory.wfFrom, Bool.and_eq_true, decide_eq_true_eq]
        exact ⟨h.1, ih _ (by omega) h.2⟩

/-- A write keeps the canonical form. -/
theorem Memory.wf_write {m : Memory} (h : m.wf = true) (a : Nat) (v : Byte) : (m.write a v).wf = true := by
  unfold Memory.write
  split
  · exact wfFrom_filter 0 m _ h
  · exact wfFrom_put m a v ‹_› 0 (Nat.zero_le _) h

theorem Memory.wf_writeBytes {m : Memory} (h : m.wf = true) (a : Nat) (xs : List Byte) : (m.writeBytes a xs).wf = true := by
  induction xs generalizing m a with
  | nil => exact h
  | cons x rest ih => exact ih (wf_write h a x) (a + 1)

theorem Memory.wf_writeNat {m : Memory} (h : m.wf = true) (a n x : Nat) : (m.writeNat a n x).wf = true := wf_writeBytes h a _

theorem Memory.wf_filter {m : Memory} (h : m.wf = true) (p : Host.Cell → Bool) : Memory.wf (m.filter p) = true := wfFrom_filter 0 m p h

theorem Memory.wfFrom_ofBytes (a : Nat) (xs : List Byte) : Memory.wfFrom a (Memory.ofBytes a xs) = true := by
  induction xs generalizing a with
  | nil => rfl
  | cons x rest ih =>
    simp only [Memory.ofBytes]
    split
    · exact wfFrom_mono (by omega) (ih (a + 1))
    · simp [Memory.wfFrom, *]

theorem Memory.wf_ofBytes (a : Nat) (xs : List Byte) : (Memory.ofBytes a xs).wf = true := wfFrom_mono (Nat.zero_le a) (wfFrom_ofBytes a xs)

@[simp] theorem Memory.read_put_same (m : Memory) (a : Nat) (v : Byte) : Memory.read (Memory.put m a v) a = v := by
  induction m with
  | nil => simp [Memory.put, Memory.read]
  | cons e rest ih =>
    obtain ⟨k, x⟩ := e
    simp only [Memory.put]
    split
    · simp [Memory.read]
    · split
      · simp [Memory.read]
      · simp only [Memory.read, ih]; split <;> first | rfl | omega

theorem Memory.read_put_other (m : Memory) {a c : Nat} (v : Byte) (h : c ≠ a) : Memory.read (Memory.put m a v) c = Memory.read m c := by
  induction m with
  | nil => simp [Memory.put, Memory.read]; omega
  | cons e rest ih =>
    obtain ⟨k, x⟩ := e
    simp only [Memory.put]
    split
    · simp only [Memory.read]; split <;> first | rfl | omega
    · split
      · simp only [Memory.read]; split <;> split <;> first | rfl | omega
      · simp only [Memory.read, ih]

theorem Memory.read_filter_same (m : Memory) (a : Nat) : Memory.read (m.filter (fun c => c.1 != a)) a = unlistedByte := by
  induction m with
  | nil => rfl
  | cons e rest ih =>
    obtain ⟨k, x⟩ := e
    simp only [List.filter_cons]
    split
    · rename_i h
      have hk : k ≠ a := by simpa using h
      simp only [Memory.read, hk, if_false, ih]
    · exact ih

theorem Memory.read_filter_other (m : Memory) {a c : Nat} (h : c ≠ a) :
    Memory.read (m.filter (fun e => e.1 != a)) c = Memory.read m c := by
  induction m with
  | nil => rfl
  | cons e rest ih =>
    obtain ⟨k, x⟩ := e
    simp only [List.filter_cons]
    split
    · simp only [Memory.read, ih]
    · rename_i hk
      have hk : k = a := by simpa using hk
      simp only [Memory.read, ih]; split <;> first | rfl | omega

/-- A read after a write to the same address gives the byte written. -/
@[simp] theorem Memory.read_write_same (m : Memory) (a : Nat) (v : Byte) : Memory.read (m.write a v) a = v := by
  unfold Memory.write
  split
  · simp [read_filter_same, *]
  · simp

/-- A write leaves every other address alone. -/
theorem Memory.read_write_other (m : Memory) {a c : Nat} (v : Byte) (h : c ≠ a) : Memory.read (m.write a v) c = Memory.read m c := by
  unfold Memory.write
  split
  · exact read_filter_other m h
  · exact read_put_other m v h

/-- What `writeBytes` leaves at every address. -/
theorem Memory.read_writeBytes (m : Memory) (a : Nat) (xs : List Byte) (c : Nat) :
    Memory.read (m.writeBytes a xs) c = if a ≤ c ∧ c < a + xs.length then xs.getD (c - a) 0 else Memory.read m c := by
  induction xs generalizing m a with
  | nil => simp [Memory.writeBytes]
  | cons x rest ih =>
    simp only [Memory.writeBytes, ih, List.length_cons]
    by_cases h : c = a
    · subst h; simp
    · by_cases h1 : a + 1 ≤ c ∧ c < a + 1 + rest.length
      · have : c - a = (c - (a + 1)) + 1 := by omega
        rw [if_pos h1, if_pos (by omega), this]; rfl
      · rw [if_neg h1, if_neg (by omega), read_write_other m x h]

theorem Memory.read_writeBytes_outside (m : Memory) (a : Nat) (xs : List Byte) {c : Nat} (h : ¬(a ≤ c ∧ c < a + xs.length)) :
    Memory.read (m.writeBytes a xs) c = Memory.read m c := by
  rw [read_writeBytes, if_neg h]

/-! ### Little-endian numbers -/

@[simp] theorem leBytes_length (n x : Nat) : (leBytes n x).length = n := by
  induction n generalizing x with
  | zero => rfl
  | succ n ih => simp [leBytes, ih]

theorem leNat_leBytes (n x : Nat) : leNat (leBytes n x) = x % 256 ^ n := by
  induction n generalizing x with
  | zero => simp [leBytes, leNat, Nat.mod_one]
  | succ n ih =>
    simp only [leBytes, leNat, ih]
    rw [Nat.pow_succ, Nat.mul_comm (256 ^ n) 256, Nat.mod_mul]
    simp

@[simp] theorem Memory.readBytes_length (m : Memory) (a n : Nat) : (m.readBytes a n).length = n := by
  induction n generalizing a with
  | zero => rfl
  | succ n ih => simp [Memory.readBytes, ih]

theorem Memory.readBytes_congr {m m' : Memory} {a n : Nat} (h : ∀ c, a ≤ c → c < a + n → Memory.read m c = Memory.read m' c) :
    m.readBytes a n = m'.readBytes a n := by
  induction n generalizing a with
  | zero => rfl
  | succ n ih =>
    simp only [Memory.readBytes]
    rw [h a (by omega) (by omega), ih (fun c h1 h2 => h c (by omega) (by omega))]

/-- A read after a write of the same bytes gives them back. -/
theorem Memory.readBytes_writeBytes (m : Memory) (a : Nat) (xs : List Byte) : (m.writeBytes a xs).readBytes a xs.length = xs := by
  induction xs generalizing m a with
  | nil => rfl
  | cons x rest ih =>
    simp only [Memory.writeBytes, List.length_cons, Memory.readBytes, ih]
    rw [read_writeBytes_outside _ _ _ (by omega), read_write_same]

/-- A little-endian read after a write gives the low bytes of the number. -/
theorem Memory.readNat_writeNat (m : Memory) (a n x : Nat) : (m.writeNat a n x).readNat a n = x % 256 ^ n := by
  have h := readBytes_writeBytes m a (leBytes n x)
  rw [leBytes_length] at h
  simp only [Memory.readNat, Memory.writeNat, h, leNat_leBytes]

/-- Byte `k` of a little-endian number is byte `k` of the list. -/
theorem leNat_byte (bs : List Byte) (k : Nat) : leNat bs / 256 ^ k % 256 = (bs.getD k 0).toNat := by
  induction bs generalizing k with
  | nil => simp [leNat]
  | cons x r ih =>
    have hx := x.isLt
    cases k with
    | zero => simp [leNat]; omega
    | succ k =>
      rw [leNat, Nat.pow_succ, Nat.mul_comm (256 ^ k) 256, ← Nat.div_div_eq_div_mul,
        show (x.toNat + 256 * leNat r) / 256 = leNat r by omega, ih]
      rfl

theorem leBytes_getD (n x k : Nat) : (leBytes n x).getD k 0 = if k < n then BitVec.ofNat 8 (x / 256 ^ k) else 0 := by
  induction n generalizing x k with
  | zero => simp [leBytes]
  | succ n ih =>
    cases k with
    | zero => simp [leBytes]
    | succ k =>
      rw [leBytes, List.getD_cons_succ, ih, Nat.pow_succ, Nat.mul_comm (256 ^ k) 256, Nat.div_div_eq_div_mul]
      simp

theorem Memory.readBytes_getD (m : Memory) (a n k : Nat) : (m.readBytes a n).getD k 0 = if k < n then Memory.read m (a + k) else 0 := by
  induction n generalizing a k with
  | zero => simp [Memory.readBytes]
  | succ n ih =>
    cases k with
    | zero => simp [Memory.readBytes]
    | succ k =>
      rw [Memory.readBytes, List.getD_cons_succ, ih, Nat.add_assoc, Nat.add_comm 1 k]
      simp

/-- Every byte of a word read from memory. -/
theorem Memory.readNat_byte {w : Nat} (m : Memory) (a n k : Nat) (hk : 8 * k + 8 ≤ w) :
    (BitVec.ofNat w (m.readNat a n)).extractLsb' (8 * k) 8 = if k < n then Memory.read m (a + k) else 0 := by
  apply BitVec.eq_of_toNat_eq
  rw [BitVec.extractLsb'_toNat, BitVec.toNat_ofNat, Nat.shiftRight_eq_div_pow, Memory.readNat]
  have e : leNat (m.readBytes a n) % 2 ^ w / 2 ^ (8 * k) % 2 ^ 8 = leNat (m.readBytes a n) / 2 ^ (8 * k) % 2 ^ 8 := by
    rw [show w = 8 * k + (w - 8 * k) by omega, Nat.pow_add, Nat.mod_mul_right_div_self, Nat.mod_mod_of_dvd]
    exact Nat.pow_dvd_pow 2 (by omega)
  rw [e, Nat.pow_mul, show (2 : Nat) ^ 8 = 256 from rfl, leNat_byte, Memory.readBytes_getD]

/-- Every byte after a write of a number. -/
theorem Memory.read_writeNat (m : Memory) (a n x c : Nat) :
    Memory.read (m.writeNat a n x) c = if a ≤ c ∧ c < a + n then BitVec.ofNat 8 (x / 256 ^ (c - a)) else Memory.read m c := by
  rw [Memory.writeNat, Memory.read_writeBytes, leBytes_length, leBytes_getD]
  by_cases h : a ≤ c ∧ c < a + n
  · rw [if_pos h, if_pos h, if_pos (by omega)]
  · rw [if_neg h, if_neg h]

/-! ### Lists of fixed things -/

theorem listUpd_getD {α : Type} (xs : List α) (k j : Nat) (f : α → α) (d : α) :
    (listUpd xs k f).getD j d = if j = k ∧ k < xs.length then f (xs.getD j d) else xs.getD j d := by
  induction xs generalizing k j with
  | nil => simp [listUpd]
  | cons x r ih =>
    cases k with
    | zero => cases j <;> simp [listUpd]
    | succ k =>
      cases j with
      | zero => simp [listUpd]
      | succ j => simpa [listUpd] using ih k j

@[simp] theorem listUpd_length {α : Type} (xs : List α) (k : Nat) (f : α → α) : (listUpd xs k f).length = xs.length := by
  induction xs generalizing k with
  | nil => rfl
  | cons x r ih => cases k <;> simp [listUpd, ih]

end Sys2Proof.Machine
end

