-- ==== Sys2Proof/Laws/State.lean ====
section
/-! SUPPORT. What each update of the state leaves: one lemma per field and update, true by definition, and what the parts read
after an update. -/

namespace Sys2Proof.Machine

/-! ### `setTeamAt` -/

section
variable (s : State) (k : Nat) (x : Team)

@[simp] theorem State.setTeamAt_clock : (s.setTeamAt k x).clock = s.clock := rfl
@[simp] theorem State.setTeamAt_perDie : (s.setTeamAt k x).perDie = s.perDie := rfl
@[simp] theorem State.setTeamAt_module : (s.setTeamAt k x).module = s.module := rfl
@[simp] theorem State.setTeamAt_devNumber : (s.setTeamAt k x).devNumber = s.devNumber := rfl
@[simp] theorem State.setTeamAt_bootStatus : (s.setTeamAt k x).bootStatus = s.bootStatus := rfl
@[simp] theorem State.setTeamAt_bootStep : (s.setTeamAt k x).bootStep = s.bootStep := rfl
@[simp] theorem State.setTeamAt_sriov : (s.setTeamAt k x).sriov = s.sriov := rfl
@[simp] theorem State.setTeamAt_measure : (s.setTeamAt k x).measure = s.measure := rfl
@[simp] theorem State.setTeamAt_measureLocked : (s.setTeamAt k x).measureLocked = s.measureLocked := rfl
@[simp] theorem State.setTeamAt_spdmOut : (s.setTeamAt k x).spdmOut = s.spdmOut := rfl
@[simp] theorem State.setTeamAt_ifaces : (s.setTeamAt k x).ifaces = s.ifaces := rfl
@[simp] theorem State.setTeamAt_limiting : (s.setTeamAt k x).limiting = s.limiting := rfl
@[simp] theorem State.setTeamAt_limiterCount : (s.setTeamAt k x).limiterCount = s.limiterCount := rfl
@[simp] theorem State.setTeamAt_routeAddr : (s.setTeamAt k x).routeAddr = s.routeAddr := rfl
@[simp] theorem State.setTeamAt_routePort : (s.setTeamAt k x).routePort = s.routePort := rfl
@[simp] theorem State.setTeamAt_routeLoading : (s.setTeamAt k x).routeLoading = s.routeLoading := rfl
@[simp] theorem State.setTeamAt_routeRefused : (s.setTeamAt k x).routeRefused = s.routeRefused := rfl
@[simp] theorem State.setTeamAt_routes : (s.setTeamAt k x).routes = s.routes := rfl
@[simp] theorem State.setTeamAt_linkDown : (s.setTeamAt k x).linkDown = s.linkDown := rfl
@[simp] theorem State.setTeamAt_misses : (s.setTeamAt k x).misses = s.misses := rfl
@[simp] theorem State.setTeamAt_heartbeats : (s.setTeamAt k x).heartbeats = s.heartbeats := rfl
@[simp] theorem State.setTeamAt_fenced : (s.setTeamAt k x).fenced = s.fenced := rfl
@[simp] theorem State.setTeamAt_returned : (s.setTeamAt k x).returned = s.returned := rfl
@[simp] theorem State.setTeamAt_isolated : (s.setTeamAt k x).isolated = s.isolated := rfl
@[simp] theorem State.setTeamAt_noticesOut : (s.setTeamAt k x).noticesOut = s.noticesOut := rfl
@[simp] theorem State.setTeamAt_pool : (s.setTeamAt k x).pool = s.pool := rfl
@[simp] theorem State.setTeamAt_oryx : (s.setTeamAt k x).oryx = s.oryx := rfl
@[simp] theorem State.setTeamAt_corrected : (s.setTeamAt k x).corrected = s.corrected := rfl
@[simp] theorem State.setTeamAt_perf : (s.setTeamAt k x).perf = s.perf := rfl
@[simp] theorem State.setTeamAt_mem : (s.setTeamAt k x).mem = s.mem := rfl
@[simp] theorem State.setTeamAt_wstore : (s.setTeamAt k x).wstore = s.wstore := rfl
@[simp] theorem State.setTeamAt_credits : (s.setTeamAt k x).credits = s.credits := rfl
@[simp] theorem State.setTeamAt_landing : (s.setTeamAt k x).landing = s.landing := rfl
@[simp] theorem State.setTeamAt_farCredits : (s.setTeamAt k x).farCredits = s.farCredits := rfl
@[simp] theorem State.setTeamAt_farOthers : (s.setTeamAt k x).farOthers = s.farOthers := rfl
@[simp] theorem State.setTeamAt_reductions : (s.setTeamAt k x).reductions = s.reductions := rfl
@[simp] theorem State.setTeamAt_sendsOut : (s.setTeamAt k x).sendsOut = s.sendsOut := rfl
@[simp] theorem State.setTeamAt_vfs : (s.setTeamAt k x).vfs = s.vfs := rfl
@[simp] theorem State.setTeamAt_ctxs : (s.setTeamAt k x).ctxs = s.ctxs := rfl
@[simp] theorem State.setTeamAt_launches : (s.setTeamAt k x).launches = s.launches := rfl
@[simp] theorem State.setTeamAt_blocks : (s.setTeamAt k x).blocks = s.blocks := rfl
@[simp] theorem State.setTeamAt_jobs : (s.setTeamAt k x).jobs = s.jobs := rfl
@[simp] theorem State.setTeamAt_cores : (s.setTeamAt k x).cores = s.cores := rfl
@[simp] theorem State.setTeamAt_ops : (s.setTeamAt k x).ops = s.ops := rfl
@[simp] theorem State.setTeamAt_tlbinvs : (s.setTeamAt k x).tlbinvs = s.tlbinvs := rfl
@[simp] theorem State.setTeamAt_outbox : (s.setTeamAt k x).outbox = s.outbox := rfl
@[simp] theorem State.setTeamAt_uids : (s.setTeamAt k x).uids = s.uids := rfl
@[simp] theorem State.setTeamAt_fresh : (s.setTeamAt k x).fresh = s.fresh := rfl
@[simp] theorem State.setTeamAt_laneOrder : (s.setTeamAt k x).laneOrder = s.laneOrder := rfl
@[simp] theorem State.setTeamAt_laneLater : (s.setTeamAt k x).laneLater = s.laneLater := rfl
@[simp] theorem State.setTeamAt_cur : (s.setTeamAt k x).cur = s.cur := rfl
@[simp] theorem State.setTeamAt_agenda : (s.setTeamAt k x).agenda = s.agenda := rfl
end

/-! ### `setTeam` -/

section
variable (s : State) (x : Team)

@[simp] theorem State.setTeam_clock : (s.setTeam x).clock = s.clock := rfl
@[simp] theorem State.setTeam_perDie : (s.setTeam x).perDie = s.perDie := rfl
@[simp] theorem State.setTeam_module : (s.setTeam x).module = s.module := rfl
@[simp] theorem State.setTeam_devNumber : (s.setTeam x).devNumber = s.devNumber := rfl
@[simp] theorem State.setTeam_bootStatus : (s.setTeam x).bootStatus = s.bootStatus := rfl
@[simp] theorem State.setTeam_bootStep : (s.setTeam x).bootStep = s.bootStep := rfl
@[simp] theorem State.setTeam_sriov : (s.setTeam x).sriov = s.sriov := rfl
@[simp] theorem State.setTeam_measure : (s.setTeam x).measure = s.measure := rfl
@[simp] theorem State.setTeam_measureLocked : (s.setTeam x).measureLocked = s.measureLocked := rfl
@[simp] theorem State.setTeam_spdmOut : (s.setTeam x).spdmOut = s.spdmOut := rfl
@[simp] theorem State.setTeam_ifaces : (s.setTeam x).ifaces = s.ifaces := rfl
@[simp] theorem State.setTeam_limiting : (s.setTeam x).limiting = s.limiting := rfl
@[simp] theorem State.setTeam_limiterCount : (s.setTeam x).limiterCount = s.limiterCount := rfl
@[simp] theorem State.setTeam_routeAddr : (s.setTeam x).routeAddr = s.routeAddr := rfl
@[simp] theorem State.setTeam_routePort : (s.setTeam x).routePort = s.routePort := rfl
@[simp] theorem State.setTeam_routeLoading : (s.setTeam x).routeLoading = s.routeLoading := rfl
@[simp] theorem State.setTeam_routeRefused : (s.setTeam x).routeRefused = s.routeRefused := rfl
@[simp] theorem State.setTeam_routes : (s.setTeam x).routes = s.routes := rfl
@[simp] theorem State.setTeam_linkDown : (s.setTeam x).linkDown = s.linkDown := rfl
@[simp] theorem State.setTeam_misses : (s.setTeam x).misses = s.misses := rfl
@[simp] theorem State.setTeam_heartbeats : (s.setTeam x).heartbeats = s.heartbeats := rfl
@[simp] theorem State.setTeam_fenced : (s.setTeam x).fenced = s.fenced := rfl
@[simp] theorem State.setTeam_returned : (s.setTeam x).returned = s.returned := rfl
@[simp] theorem State.setTeam_isolated : (s.setTeam x).isolated = s.isolated := rfl
@[simp] theorem State.setTeam_noticesOut : (s.setTeam x).noticesOut = s.noticesOut := rfl
@[simp] theorem State.setTeam_pool : (s.setTeam x).pool = s.pool := rfl
@[simp] theorem State.setTeam_oryx : (s.setTeam x).oryx = s.oryx := rfl
@[simp] theorem State.setTeam_corrected : (s.setTeam x).corrected = s.corrected := rfl
@[simp] theorem State.setTeam_perf : (s.setTeam x).perf = s.perf := rfl
@[simp] theorem State.setTeam_mem : (s.setTeam x).mem = s.mem := rfl
@[simp] theorem State.setTeam_wstore : (s.setTeam x).wstore = s.wstore := rfl
@[simp] theorem State.setTeam_credits : (s.setTeam x).credits = s.credits := rfl
@[simp] theorem State.setTeam_landing : (s.setTeam x).landing = s.landing := rfl
@[simp] theorem State.setTeam_farCredits : (s.setTeam x).farCredits = s.farCredits := rfl
@[simp] theorem State.setTeam_farOthers : (s.setTeam x).farOthers = s.farOthers := rfl
@[simp] theorem State.setTeam_reductions : (s.setTeam x).reductions = s.reductions := rfl
@[simp] theorem State.setTeam_sendsOut : (s.setTeam x).sendsOut = s.sendsOut := rfl
@[simp] theorem State.setTeam_vfs : (s.setTeam x).vfs = s.vfs := rfl
@[simp] theorem State.setTeam_ctxs : (s.setTeam x).ctxs = s.ctxs := rfl
@[simp] theorem State.setTeam_launches : (s.setTeam x).launches = s.launches := rfl
@[simp] theorem State.setTeam_blocks : (s.setTeam x).blocks = s.blocks := rfl
@[simp] theorem State.setTeam_jobs : (s.setTeam x).jobs = s.jobs := rfl
@[simp] theorem State.setTeam_cores : (s.setTeam x).cores = s.cores := rfl
@[simp] theorem State.setTeam_ops : (s.setTeam x).ops = s.ops := rfl
@[simp] theorem State.setTeam_tlbinvs : (s.setTeam x).tlbinvs = s.tlbinvs := rfl
@[simp] theorem State.setTeam_outbox : (s.setTeam x).outbox = s.outbox := rfl
@[simp] theorem State.setTeam_uids : (s.setTeam x).uids = s.uids := rfl
@[simp] theorem State.setTeam_fresh : (s.setTeam x).fresh = s.fresh := rfl
@[simp] theorem State.setTeam_laneOrder : (s.setTeam x).laneOrder = s.laneOrder := rfl
@[simp] theorem State.setTeam_laneLater : (s.setTeam x).laneLater = s.laneLater := rfl
@[simp] theorem State.setTeam_cur : (s.setTeam x).cur = s.cur := rfl
@[simp] theorem State.setTeam_agenda : (s.setTeam x).agenda = s.agenda := rfl
end

/-! ### `setBlockAt` -/

section
variable (s : State) (k : Nat) (x : Block)

@[simp] theorem State.setBlockAt_clock : (s.setBlockAt k x).clock = s.clock := rfl
@[simp] theorem State.setBlockAt_perDie : (s.setBlockAt k x).perDie = s.perDie := rfl
@[simp] theorem State.setBlockAt_module : (s.setBlockAt k x).module = s.module := rfl
@[simp] theorem State.setBlockAt_devNumber : (s.setBlockAt k x).devNumber = s.devNumber := rfl
@[simp] theorem State.setBlockAt_bootStatus : (s.setBlockAt k x).bootStatus = s.bootStatus := rfl
@[simp] theorem State.setBlockAt_bootStep : (s.setBlockAt k x).bootStep = s.bootStep := rfl
@[simp] theorem State.setBlockAt_sriov : (s.setBlockAt k x).sriov = s.sriov := rfl
@[simp] theorem State.setBlockAt_measure : (s.setBlockAt k x).measure = s.measure := rfl
@[simp] theorem State.setBlockAt_measureLocked : (s.setBlockAt k x).measureLocked = s.measureLocked := rfl
@[simp] theorem State.setBlockAt_spdmOut : (s.setBlockAt k x).spdmOut = s.spdmOut := rfl
@[simp] theorem State.setBlockAt_ifaces : (s.setBlockAt k x).ifaces = s.ifaces := rfl
@[simp] theorem State.setBlockAt_limiting : (s.setBlockAt k x).limiting = s.limiting := rfl
@[simp] theorem State.setBlockAt_limiterCount : (s.setBlockAt k x).limiterCount = s.limiterCount := rfl
@[simp] theorem State.setBlockAt_routeAddr : (s.setBlockAt k x).routeAddr = s.routeAddr := rfl
@[simp] theorem State.setBlockAt_routePort : (s.setBlockAt k x).routePort = s.routePort := rfl
@[simp] theorem State.setBlockAt_routeLoading : (s.setBlockAt k x).routeLoading = s.routeLoading := rfl
@[simp] theorem State.setBlockAt_routeRefused : (s.setBlockAt k x).routeRefused = s.routeRefused := rfl
@[simp] theorem State.setBlockAt_routes : (s.setBlockAt k x).routes = s.routes := rfl
@[simp] theorem State.setBlockAt_linkDown : (s.setBlockAt k x).linkDown = s.linkDown := rfl
@[simp] theorem State.setBlockAt_misses : (s.setBlockAt k x).misses = s.misses := rfl
@[simp] theorem State.setBlockAt_heartbeats : (s.setBlockAt k x).heartbeats = s.heartbeats := rfl
@[simp] theorem State.setBlockAt_fenced : (s.setBlockAt k x).fenced = s.fenced := rfl
@[simp] theorem State.setBlockAt_returned : (s.setBlockAt k x).returned = s.returned := rfl
@[simp] theorem State.setBlockAt_isolated : (s.setBlockAt k x).isolated = s.isolated := rfl
@[simp] theorem State.setBlockAt_noticesOut : (s.setBlockAt k x).noticesOut = s.noticesOut := rfl
@[simp] theorem State.setBlockAt_pool : (s.setBlockAt k x).pool = s.pool := rfl
@[simp] theorem State.setBlockAt_oryx : (s.setBlockAt k x).oryx = s.oryx := rfl
@[simp] theorem State.setBlockAt_corrected : (s.setBlockAt k x).corrected = s.corrected := rfl
@[simp] theorem State.setBlockAt_perf : (s.setBlockAt k x).perf = s.perf := rfl
@[simp] theorem State.setBlockAt_mem : (s.setBlockAt k x).mem = s.mem := rfl
@[simp] theorem State.setBlockAt_wstore : (s.setBlockAt k x).wstore = s.wstore := rfl
@[simp] theorem State.setBlockAt_credits : (s.setBlockAt k x).credits = s.credits := rfl
@[simp] theorem State.setBlockAt_landing : (s.setBlockAt k x).landing = s.landing := rfl
@[simp] theorem State.setBlockAt_farCredits : (s.setBlockAt k x).farCredits = s.farCredits := rfl
@[simp] theorem State.setBlockAt_farOthers : (s.setBlockAt k x).farOthers = s.farOthers := rfl
@[simp] theorem State.setBlockAt_reductions : (s.setBlockAt k x).reductions = s.reductions := rfl
@[simp] theorem State.setBlockAt_sendsOut : (s.setBlockAt k x).sendsOut = s.sendsOut := rfl
@[simp] theorem State.setBlockAt_vfs : (s.setBlockAt k x).vfs = s.vfs := rfl
@[simp] theorem State.setBlockAt_ctxs : (s.setBlockAt k x).ctxs = s.ctxs := rfl
@[simp] theorem State.setBlockAt_launches : (s.setBlockAt k x).launches = s.launches := rfl
@[simp] theorem State.setBlockAt_teams : (s.setBlockAt k x).teams = s.teams := rfl
@[simp] theorem State.setBlockAt_jobs : (s.setBlockAt k x).jobs = s.jobs := rfl
@[simp] theorem State.setBlockAt_cores : (s.setBlockAt k x).cores = s.cores := rfl
@[simp] theorem State.setBlockAt_ops : (s.setBlockAt k x).ops = s.ops := rfl
@[simp] theorem State.setBlockAt_tlbinvs : (s.setBlockAt k x).tlbinvs = s.tlbinvs := rfl
@[simp] theorem State.setBlockAt_outbox : (s.setBlockAt k x).outbox = s.outbox := rfl
@[simp] theorem State.setBlockAt_uids : (s.setBlockAt k x).uids = s.uids := rfl
@[simp] theorem State.setBlockAt_fresh : (s.setBlockAt k x).fresh = s.fresh := rfl
@[simp] theorem State.setBlockAt_laneOrder : (s.setBlockAt k x).laneOrder = s.laneOrder := rfl
@[simp] theorem State.setBlockAt_laneLater : (s.setBlockAt k x).laneLater = s.laneLater := rfl
@[simp] theorem State.setBlockAt_cur : (s.setBlockAt k x).cur = s.cur := rfl
@[simp] theorem State.setBlockAt_agenda : (s.setBlockAt k x).agenda = s.agenda := rfl
end

/-! ### `setLaunchAt` -/

section
variable (s : State) (k : Nat) (x : Launch)

@[simp] theorem State.setLaunchAt_clock : (s.setLaunchAt k x).clock = s.clock := rfl
@[simp] theorem State.setLaunchAt_perDie : (s.setLaunchAt k x).perDie = s.perDie := rfl
@[simp] theorem State.setLaunchAt_module : (s.setLaunchAt k x).module = s.module := rfl
@[simp] theorem State.setLaunchAt_devNumber : (s.setLaunchAt k x).devNumber = s.devNumber := rfl
@[simp] theorem State.setLaunchAt_bootStatus : (s.setLaunchAt k x).bootStatus = s.bootStatus := rfl
@[simp] theorem State.setLaunchAt_bootStep : (s.setLaunchAt k x).bootStep = s.bootStep := rfl
@[simp] theorem State.setLaunchAt_sriov : (s.setLaunchAt k x).sriov = s.sriov := rfl
@[simp] theorem State.setLaunchAt_measure : (s.setLaunchAt k x).measure = s.measure := rfl
@[simp] theorem State.setLaunchAt_measureLocked : (s.setLaunchAt k x).measureLocked = s.measureLocked := rfl
@[simp] theorem State.setLaunchAt_spdmOut : (s.setLaunchAt k x).spdmOut = s.spdmOut := rfl
@[simp] theorem State.setLaunchAt_ifaces : (s.setLaunchAt k x).ifaces = s.ifaces := rfl
@[simp] theorem State.setLaunchAt_limiting : (s.setLaunchAt k x).limiting = s.limiting := rfl
@[simp] theorem State.setLaunchAt_limiterCount : (s.setLaunchAt k x).limiterCount = s.limiterCount := rfl
@[simp] theorem State.setLaunchAt_routeAddr : (s.setLaunchAt k x).routeAddr = s.routeAddr := rfl
@[simp] theorem State.setLaunchAt_routePort : (s.setLaunchAt k x).routePort = s.routePort := rfl
@[simp] theorem State.setLaunchAt_routeLoading : (s.setLaunchAt k x).routeLoading = s.routeLoading := rfl
@[simp] theorem State.setLaunchAt_routeRefused : (s.setLaunchAt k x).routeRefused = s.routeRefused := rfl
@[simp] theorem State.setLaunchAt_routes : (s.setLaunchAt k x).routes = s.routes := rfl
@[simp] theorem State.setLaunchAt_linkDown : (s.setLaunchAt k x).linkDown = s.linkDown := rfl
@[simp] theorem State.setLaunchAt_misses : (s.setLaunchAt k x).misses = s.misses := rfl
@[simp] theorem State.setLaunchAt_heartbeats : (s.setLaunchAt k x).heartbeats = s.heartbeats := rfl
@[simp] theorem State.setLaunchAt_fenced : (s.setLaunchAt k x).fenced = s.fenced := rfl
@[simp] theorem State.setLaunchAt_returned : (s.setLaunchAt k x).returned = s.returned := rfl
@[simp] theorem State.setLaunchAt_isolated : (s.setLaunchAt k x).isolated = s.isolated := rfl
@[simp] theorem State.setLaunchAt_noticesOut : (s.setLaunchAt k x).noticesOut = s.noticesOut := rfl
@[simp] theorem State.setLaunchAt_pool : (s.setLaunchAt k x).pool = s.pool := rfl
@[simp] theorem State.setLaunchAt_oryx : (s.setLaunchAt k x).oryx = s.oryx := rfl
@[simp] theorem State.setLaunchAt_corrected : (s.setLaunchAt k x).corrected = s.corrected := rfl
@[simp] theorem State.setLaunchAt_perf : (s.setLaunchAt k x).perf = s.perf := rfl
@[simp] theorem State.setLaunchAt_mem : (s.setLaunchAt k x).mem = s.mem := rfl
@[simp] theorem State.setLaunchAt_wstore : (s.setLaunchAt k x).wstore = s.wstore := rfl
@[simp] theorem State.setLaunchAt_credits : (s.setLaunchAt k x).credits = s.credits := rfl
@[simp] theorem State.setLaunchAt_landing : (s.setLaunchAt k x).landing = s.landing := rfl
@[simp] theorem State.setLaunchAt_farCredits : (s.setLaunchAt k x).farCredits = s.farCredits := rfl
@[simp] theorem State.setLaunchAt_farOthers : (s.setLaunchAt k x).farOthers = s.farOthers := rfl
@[simp] theorem State.setLaunchAt_reductions : (s.setLaunchAt k x).reductions = s.reductions := rfl
@[simp] theorem State.setLaunchAt_sendsOut : (s.setLaunchAt k x).sendsOut = s.sendsOut := rfl
@[simp] theorem State.setLaunchAt_vfs : (s.setLaunchAt k x).vfs = s.vfs := rfl
@[simp] theorem State.setLaunchAt_ctxs : (s.setLaunchAt k x).ctxs = s.ctxs := rfl
@[simp] theorem State.setLaunchAt_blocks : (s.setLaunchAt k x).blocks = s.blocks := rfl
@[simp] theorem State.setLaunchAt_teams : (s.setLaunchAt k x).teams = s.teams := rfl
@[simp] theorem State.setLaunchAt_jobs : (s.setLaunchAt k x).jobs = s.jobs := rfl
@[simp] theorem State.setLaunchAt_cores : (s.setLaunchAt k x).cores = s.cores := rfl
@[simp] theorem State.setLaunchAt_ops : (s.setLaunchAt k x).ops = s.ops := rfl
@[simp] theorem State.setLaunchAt_tlbinvs : (s.setLaunchAt k x).tlbinvs = s.tlbinvs := rfl
@[simp] theorem State.setLaunchAt_outbox : (s.setLaunchAt k x).outbox = s.outbox := rfl
@[simp] theorem State.setLaunchAt_uids : (s.setLaunchAt k x).uids = s.uids := rfl
@[simp] theorem State.setLaunchAt_fresh : (s.setLaunchAt k x).fresh = s.fresh := rfl
@[simp] theorem State.setLaunchAt_laneOrder : (s.setLaunchAt k x).laneOrder = s.laneOrder := rfl
@[simp] theorem State.setLaunchAt_laneLater : (s.setLaunchAt k x).laneLater = s.laneLater := rfl
@[simp] theorem State.setLaunchAt_cur : (s.setLaunchAt k x).cur = s.cur := rfl
@[simp] theorem State.setLaunchAt_agenda : (s.setLaunchAt k x).agenda = s.agenda := rfl
end

/-! ### `setCtxAt` -/

section
variable (s : State) (k : Nat) (x : Ctx)

@[simp] theorem State.setCtxAt_clock : (s.setCtxAt k x).clock = s.clock := rfl
@[simp] theorem State.setCtxAt_perDie : (s.setCtxAt k x).perDie = s.perDie := rfl
@[simp] theorem State.setCtxAt_module : (s.setCtxAt k x).module = s.module := rfl
@[simp] theorem State.setCtxAt_devNumber : (s.setCtxAt k x).devNumber = s.devNumber := rfl
@[simp] theorem State.setCtxAt_bootStatus : (s.setCtxAt k x).bootStatus = s.bootStatus := rfl
@[simp] theorem State.setCtxAt_bootStep : (s.setCtxAt k x).bootStep = s.bootStep := rfl
@[simp] theorem State.setCtxAt_sriov : (s.setCtxAt k x).sriov = s.sriov := rfl
@[simp] theorem State.setCtxAt_measure : (s.setCtxAt k x).measure = s.measure := rfl
@[simp] theorem State.setCtxAt_measureLocked : (s.setCtxAt k x).measureLocked = s.measureLocked := rfl
@[simp] theorem State.setCtxAt_spdmOut : (s.setCtxAt k x).spdmOut = s.spdmOut := rfl
@[simp] theorem State.setCtxAt_ifaces : (s.setCtxAt k x).ifaces = s.ifaces := rfl
@[simp] theorem State.setCtxAt_limiting : (s.setCtxAt k x).limiting = s.limiting := rfl
@[simp] theorem State.setCtxAt_limiterCount : (s.setCtxAt k x).limiterCount = s.limiterCount := rfl
@[simp] theorem State.setCtxAt_routeAddr : (s.setCtxAt k x).routeAddr = s.routeAddr := rfl
@[simp] theorem State.setCtxAt_routePort : (s.setCtxAt k x).routePort = s.routePort := rfl
@[simp] theorem State.setCtxAt_routeLoading : (s.setCtxAt k x).routeLoading = s.routeLoading := rfl
@[simp] theorem State.setCtxAt_routeRefused : (s.setCtxAt k x).routeRefused = s.routeRefused := rfl
@[simp] theorem State.setCtxAt_routes : (s.setCtxAt k x).routes = s.routes := rfl
@[simp] theorem State.setCtxAt_linkDown : (s.setCtxAt k x).linkDown = s.linkDown := rfl
@[simp] theorem State.setCtxAt_misses : (s.setCtxAt k x).misses = s.misses := rfl
@[simp] theorem State.setCtxAt_heartbeats : (s.setCtxAt k x).heartbeats = s.heartbeats := rfl
@[simp] theorem State.setCtxAt_fenced : (s.setCtxAt k x).fenced = s.fenced := rfl
@[simp] theorem State.setCtxAt_returned : (s.setCtxAt k x).returned = s.returned := rfl
@[simp] theorem State.setCtxAt_isolated : (s.setCtxAt k x).isolated = s.isolated := rfl
@[simp] theorem State.setCtxAt_noticesOut : (s.setCtxAt k x).noticesOut = s.noticesOut := rfl
@[simp] theorem State.setCtxAt_pool : (s.setCtxAt k x).pool = s.pool := rfl
@[simp] theorem State.setCtxAt_oryx : (s.setCtxAt k x).oryx = s.oryx := rfl
@[simp] theorem State.setCtxAt_corrected : (s.setCtxAt k x).corrected = s.corrected := rfl
@[simp] theorem State.setCtxAt_perf : (s.setCtxAt k x).perf = s.perf := rfl
@[simp] theorem State.setCtxAt_mem : (s.setCtxAt k x).mem = s.mem := rfl
@[simp] theorem State.setCtxAt_wstore : (s.setCtxAt k x).wstore = s.wstore := rfl
@[simp] theorem State.setCtxAt_credits : (s.setCtxAt k x).credits = s.credits := rfl
@[simp] theorem State.setCtxAt_landing : (s.setCtxAt k x).landing = s.landing := rfl
@[simp] theorem State.setCtxAt_farCredits : (s.setCtxAt k x).farCredits = s.farCredits := rfl
@[simp] theorem State.setCtxAt_farOthers : (s.setCtxAt k x).farOthers = s.farOthers := rfl
@[simp] theorem State.setCtxAt_reductions : (s.setCtxAt k x).reductions = s.reductions := rfl
@[simp] theorem State.setCtxAt_sendsOut : (s.setCtxAt k x).sendsOut = s.sendsOut := rfl
@[simp] theorem State.setCtxAt_vfs : (s.setCtxAt k x).vfs = s.vfs := rfl
@[simp] theorem State.setCtxAt_launches : (s.setCtxAt k x).launches = s.launches := rfl
@[simp] theorem State.setCtxAt_blocks : (s.setCtxAt k x).blocks = s.blocks := rfl
@[simp] theorem State.setCtxAt_teams : (s.setCtxAt k x).teams = s.teams := rfl
@[simp] theorem State.setCtxAt_jobs : (s.setCtxAt k x).jobs = s.jobs := rfl
@[simp] theorem State.setCtxAt_cores : (s.setCtxAt k x).cores = s.cores := rfl
@[simp] theorem State.setCtxAt_ops : (s.setCtxAt k x).ops = s.ops := rfl
@[simp] theorem State.setCtxAt_tlbinvs : (s.setCtxAt k x).tlbinvs = s.tlbinvs := rfl
@[simp] theorem State.setCtxAt_outbox : (s.setCtxAt k x).outbox = s.outbox := rfl
@[simp] theorem State.setCtxAt_uids : (s.setCtxAt k x).uids = s.uids := rfl
@[simp] theorem State.setCtxAt_fresh : (s.setCtxAt k x).fresh = s.fresh := rfl
@[simp] theorem State.setCtxAt_laneOrder : (s.setCtxAt k x).laneOrder = s.laneOrder := rfl
@[simp] theorem State.setCtxAt_laneLater : (s.setCtxAt k x).laneLater = s.laneLater := rfl
@[simp] theorem State.setCtxAt_cur : (s.setCtxAt k x).cur = s.cur := rfl
@[simp] theorem State.setCtxAt_agenda : (s.setCtxAt k x).agenda = s.agenda := rfl
end

/-! ### `setCtx` -/

section
variable (s : State) (x : Ctx)

@[simp] theorem State.setCtx_clock : (s.setCtx x).clock = s.clock := rfl
@[simp] theorem State.setCtx_perDie : (s.setCtx x).perDie = s.perDie := rfl
@[simp] theorem State.setCtx_module : (s.setCtx x).module = s.module := rfl
@[simp] theorem State.setCtx_devNumber : (s.setCtx x).devNumber = s.devNumber := rfl
@[simp] theorem State.setCtx_bootStatus : (s.setCtx x).bootStatus = s.bootStatus := rfl
@[simp] theorem State.setCtx_bootStep : (s.setCtx x).bootStep = s.bootStep := rfl
@[simp] theorem State.setCtx_sriov : (s.setCtx x).sriov = s.sriov := rfl
@[simp] theorem State.setCtx_measure : (s.setCtx x).measure = s.measure := rfl
@[simp] theorem State.setCtx_measureLocked : (s.setCtx x).measureLocked = s.measureLocked := rfl
@[simp] theorem State.setCtx_spdmOut : (s.setCtx x).spdmOut = s.spdmOut := rfl
@[simp] theorem State.setCtx_ifaces : (s.setCtx x).ifaces = s.ifaces := rfl
@[simp] theorem State.setCtx_limiting : (s.setCtx x).limiting = s.limiting := rfl
@[simp] theorem State.setCtx_limiterCount : (s.setCtx x).limiterCount = s.limiterCount := rfl
@[simp] theorem State.setCtx_routeAddr : (s.setCtx x).routeAddr = s.routeAddr := rfl
@[simp] theorem State.setCtx_routePort : (s.setCtx x).routePort = s.routePort := rfl
@[simp] theorem State.setCtx_routeLoading : (s.setCtx x).routeLoading = s.routeLoading := rfl
@[simp] theorem State.setCtx_routeRefused : (s.setCtx x).routeRefused = s.routeRefused := rfl
@[simp] theorem State.setCtx_routes : (s.setCtx x).routes = s.routes := rfl
@[simp] theorem State.setCtx_linkDown : (s.setCtx x).linkDown = s.linkDown := rfl
@[simp] theorem State.setCtx_misses : (s.setCtx x).misses = s.misses := rfl
@[simp] theorem State.setCtx_heartbeats : (s.setCtx x).heartbeats = s.heartbeats := rfl
@[simp] theorem State.setCtx_fenced : (s.setCtx x).fenced = s.fenced := rfl
@[simp] theorem State.setCtx_returned : (s.setCtx x).returned = s.returned := rfl
@[simp] theorem State.setCtx_isolated : (s.setCtx x).isolated = s.isolated := rfl
@[simp] theorem State.setCtx_noticesOut : (s.setCtx x).noticesOut = s.noticesOut := rfl
@[simp] theorem State.setCtx_pool : (s.setCtx x).pool = s.pool := rfl
@[simp] theorem State.setCtx_oryx : (s.setCtx x).oryx = s.oryx := rfl
@[simp] theorem State.setCtx_corrected : (s.setCtx x).corrected = s.corrected := rfl
@[simp] theorem State.setCtx_perf : (s.setCtx x).perf = s.perf := rfl
@[simp] theorem State.setCtx_mem : (s.setCtx x).mem = s.mem := rfl
@[simp] theorem State.setCtx_wstore : (s.setCtx x).wstore = s.wstore := rfl
@[simp] theorem State.setCtx_credits : (s.setCtx x).credits = s.credits := rfl
@[simp] theorem State.setCtx_landing : (s.setCtx x).landing = s.landing := rfl
@[simp] theorem State.setCtx_farCredits : (s.setCtx x).farCredits = s.farCredits := rfl
@[simp] theorem State.setCtx_farOthers : (s.setCtx x).farOthers = s.farOthers := rfl
@[simp] theorem State.setCtx_reductions : (s.setCtx x).reductions = s.reductions := rfl
@[simp] theorem State.setCtx_sendsOut : (s.setCtx x).sendsOut = s.sendsOut := rfl
@[simp] theorem State.setCtx_vfs : (s.setCtx x).vfs = s.vfs := rfl
@[simp] theorem State.setCtx_launches : (s.setCtx x).launches = s.launches := rfl
@[simp] theorem State.setCtx_blocks : (s.setCtx x).blocks = s.blocks := rfl
@[simp] theorem State.setCtx_teams : (s.setCtx x).teams = s.teams := rfl
@[simp] theorem State.setCtx_jobs : (s.setCtx x).jobs = s.jobs := rfl
@[simp] theorem State.setCtx_cores : (s.setCtx x).cores = s.cores := rfl
@[simp] theorem State.setCtx_ops : (s.setCtx x).ops = s.ops := rfl
@[simp] theorem State.setCtx_tlbinvs : (s.setCtx x).tlbinvs = s.tlbinvs := rfl
@[simp] theorem State.setCtx_outbox : (s.setCtx x).outbox = s.outbox := rfl
@[simp] theorem State.setCtx_uids : (s.setCtx x).uids = s.uids := rfl
@[simp] theorem State.setCtx_fresh : (s.setCtx x).fresh = s.fresh := rfl
@[simp] theorem State.setCtx_laneOrder : (s.setCtx x).laneOrder = s.laneOrder := rfl
@[simp] theorem State.setCtx_laneLater : (s.setCtx x).laneLater = s.laneLater := rfl
@[simp] theorem State.setCtx_cur : (s.setCtx x).cur = s.cur := rfl
@[simp] theorem State.setCtx_agenda : (s.setCtx x).agenda = s.agenda := rfl
end

/-! ### `setCoreAt` -/

section
variable (s : State) (k : Nat) (x : Core)

@[simp] theorem State.setCoreAt_clock : (s.setCoreAt k x).clock = s.clock := rfl
@[simp] theorem State.setCoreAt_perDie : (s.setCoreAt k x).perDie = s.perDie := rfl
@[simp] theorem State.setCoreAt_module : (s.setCoreAt k x).module = s.module := rfl
@[simp] theorem State.setCoreAt_devNumber : (s.setCoreAt k x).devNumber = s.devNumber := rfl
@[simp] theorem State.setCoreAt_bootStatus : (s.setCoreAt k x).bootStatus = s.bootStatus := rfl
@[simp] theorem State.setCoreAt_bootStep : (s.setCoreAt k x).bootStep = s.bootStep := rfl
@[simp] theorem State.setCoreAt_sriov : (s.setCoreAt k x).sriov = s.sriov := rfl
@[simp] theorem State.setCoreAt_measure : (s.setCoreAt k x).measure = s.measure := rfl
@[simp] theorem State.setCoreAt_measureLocked : (s.setCoreAt k x).measureLocked = s.measureLocked := rfl
@[simp] theorem State.setCoreAt_spdmOut : (s.setCoreAt k x).spdmOut = s.spdmOut := rfl
@[simp] theorem State.setCoreAt_ifaces : (s.setCoreAt k x).ifaces = s.ifaces := rfl
@[simp] theorem State.setCoreAt_limiting : (s.setCoreAt k x).limiting = s.limiting := rfl
@[simp] theorem State.setCoreAt_limiterCount : (s.setCoreAt k x).limiterCount = s.limiterCount := rfl
@[simp] theorem State.setCoreAt_routeAddr : (s.setCoreAt k x).routeAddr = s.routeAddr := rfl
@[simp] theorem State.setCoreAt_routePort : (s.setCoreAt k x).routePort = s.routePort := rfl
@[simp] theorem State.setCoreAt_routeLoading : (s.setCoreAt k x).routeLoading = s.routeLoading := rfl
@[simp] theorem State.setCoreAt_routeRefused : (s.setCoreAt k x).routeRefused = s.routeRefused := rfl
@[simp] theorem State.setCoreAt_routes : (s.setCoreAt k x).routes = s.routes := rfl
@[simp] theorem State.setCoreAt_linkDown : (s.setCoreAt k x).linkDown = s.linkDown := rfl
@[simp] theorem State.setCoreAt_misses : (s.setCoreAt k x).misses = s.misses := rfl
@[simp] theorem State.setCoreAt_heartbeats : (s.setCoreAt k x).heartbeats = s.heartbeats := rfl
@[simp] theorem State.setCoreAt_fenced : (s.setCoreAt k x).fenced = s.fenced := rfl
@[simp] theorem State.setCoreAt_returned : (s.setCoreAt k x).returned = s.returned := rfl
@[simp] theorem State.setCoreAt_isolated : (s.setCoreAt k x).isolated = s.isolated := rfl
@[simp] theorem State.setCoreAt_noticesOut : (s.setCoreAt k x).noticesOut = s.noticesOut := rfl
@[simp] theorem State.setCoreAt_pool : (s.setCoreAt k x).pool = s.pool := rfl
@[simp] theorem State.setCoreAt_oryx : (s.setCoreAt k x).oryx = s.oryx := rfl
@[simp] theorem State.setCoreAt_corrected : (s.setCoreAt k x).corrected = s.corrected := rfl
@[simp] theorem State.setCoreAt_perf : (s.setCoreAt k x).perf = s.perf := rfl
@[simp] theorem State.setCoreAt_mem : (s.setCoreAt k x).mem = s.mem := rfl
@[simp] theorem State.setCoreAt_wstore : (s.setCoreAt k x).wstore = s.wstore := rfl
@[simp] theorem State.setCoreAt_credits : (s.setCoreAt k x).credits = s.credits := rfl
@[simp] theorem State.setCoreAt_landing : (s.setCoreAt k x).landing = s.landing := rfl
@[simp] theorem State.setCoreAt_farCredits : (s.setCoreAt k x).farCredits = s.farCredits := rfl
@[simp] theorem State.setCoreAt_farOthers : (s.setCoreAt k x).farOthers = s.farOthers := rfl
@[simp] theorem State.setCoreAt_reductions : (s.setCoreAt k x).reductions = s.reductions := rfl
@[simp] theorem State.setCoreAt_sendsOut : (s.setCoreAt k x).sendsOut = s.sendsOut := rfl
@[simp] theorem State.setCoreAt_vfs : (s.setCoreAt k x).vfs = s.vfs := rfl
@[simp] theorem State.setCoreAt_ctxs : (s.setCoreAt k x).ctxs = s.ctxs := rfl
@[simp] theorem State.setCoreAt_launches : (s.setCoreAt k x).launches = s.launches := rfl
@[simp] theorem State.setCoreAt_blocks : (s.setCoreAt k x).blocks = s.blocks := rfl
@[simp] theorem State.setCoreAt_teams : (s.setCoreAt k x).teams = s.teams := rfl
@[simp] theorem State.setCoreAt_jobs : (s.setCoreAt k x).jobs = s.jobs := rfl
@[simp] theorem State.setCoreAt_ops : (s.setCoreAt k x).ops = s.ops := rfl
@[simp] theorem State.setCoreAt_tlbinvs : (s.setCoreAt k x).tlbinvs = s.tlbinvs := rfl
@[simp] theorem State.setCoreAt_outbox : (s.setCoreAt k x).outbox = s.outbox := rfl
@[simp] theorem State.setCoreAt_uids : (s.setCoreAt k x).uids = s.uids := rfl
@[simp] theorem State.setCoreAt_fresh : (s.setCoreAt k x).fresh = s.fresh := rfl
@[simp] theorem State.setCoreAt_laneOrder : (s.setCoreAt k x).laneOrder = s.laneOrder := rfl
@[simp] theorem State.setCoreAt_laneLater : (s.setCoreAt k x).laneLater = s.laneLater := rfl
@[simp] theorem State.setCoreAt_cur : (s.setCoreAt k x).cur = s.cur := rfl
@[simp] theorem State.setCoreAt_agenda : (s.setCoreAt k x).agenda = s.agenda := rfl
end

/-! ### `setJobAt` -/

section
variable (s : State) (k : Nat) (x : Job)

@[simp] theorem State.setJobAt_clock : (s.setJobAt k x).clock = s.clock := rfl
@[simp] theorem State.setJobAt_perDie : (s.setJobAt k x).perDie = s.perDie := rfl
@[simp] theorem State.setJobAt_module : (s.setJobAt k x).module = s.module := rfl
@[simp] theorem State.setJobAt_devNumber : (s.setJobAt k x).devNumber = s.devNumber := rfl
@[simp] theorem State.setJobAt_bootStatus : (s.setJobAt k x).bootStatus = s.bootStatus := rfl
@[simp] theorem State.setJobAt_bootStep : (s.setJobAt k x).bootStep = s.bootStep := rfl
@[simp] theorem State.setJobAt_sriov : (s.setJobAt k x).sriov = s.sriov := rfl
@[simp] theorem State.setJobAt_measure : (s.setJobAt k x).measure = s.measure := rfl
@[simp] theorem State.setJobAt_measureLocked : (s.setJobAt k x).measureLocked = s.measureLocked := rfl
@[simp] theorem State.setJobAt_spdmOut : (s.setJobAt k x).spdmOut = s.spdmOut := rfl
@[simp] theorem State.setJobAt_ifaces : (s.setJobAt k x).ifaces = s.ifaces := rfl
@[simp] theorem State.setJobAt_limiting : (s.setJobAt k x).limiting = s.limiting := rfl
@[simp] theorem State.setJobAt_limiterCount : (s.setJobAt k x).limiterCount = s.limiterCount := rfl
@[simp] theorem State.setJobAt_routeAddr : (s.setJobAt k x).routeAddr = s.routeAddr := rfl
@[simp] theorem State.setJobAt_routePort : (s.setJobAt k x).routePort = s.routePort := rfl
@[simp] theorem State.setJobAt_routeLoading : (s.setJobAt k x).routeLoading = s.routeLoading := rfl
@[simp] theorem State.setJobAt_routeRefused : (s.setJobAt k x).routeRefused = s.routeRefused := rfl
@[simp] theorem State.setJobAt_routes : (s.setJobAt k x).routes = s.routes := rfl
@[simp] theorem State.setJobAt_linkDown : (s.setJobAt k x).linkDown = s.linkDown := rfl
@[simp] theorem State.setJobAt_misses : (s.setJobAt k x).misses = s.misses := rfl
@[simp] theorem State.setJobAt_heartbeats : (s.setJobAt k x).heartbeats = s.heartbeats := rfl
@[simp] theorem State.setJobAt_fenced : (s.setJobAt k x).fenced = s.fenced := rfl
@[simp] theorem State.setJobAt_returned : (s.setJobAt k x).returned = s.returned := rfl
@[simp] theorem State.setJobAt_isolated : (s.setJobAt k x).isolated = s.isolated := rfl
@[simp] theorem State.setJobAt_noticesOut : (s.setJobAt k x).noticesOut = s.noticesOut := rfl
@[simp] theorem State.setJobAt_pool : (s.setJobAt k x).pool = s.pool := rfl
@[simp] theorem State.setJobAt_oryx : (s.setJobAt k x).oryx = s.oryx := rfl
@[simp] theorem State.setJobAt_corrected : (s.setJobAt k x).corrected = s.corrected := rfl
@[simp] theorem State.setJobAt_perf : (s.setJobAt k x).perf = s.perf := rfl
@[simp] theorem State.setJobAt_mem : (s.setJobAt k x).mem = s.mem := rfl
@[simp] theorem State.setJobAt_wstore : (s.setJobAt k x).wstore = s.wstore := rfl
@[simp] theorem State.setJobAt_credits : (s.setJobAt k x).credits = s.credits := rfl
@[simp] theorem State.setJobAt_landing : (s.setJobAt k x).landing = s.landing := rfl
@[simp] theorem State.setJobAt_farCredits : (s.setJobAt k x).farCredits = s.farCredits := rfl
@[simp] theorem State.setJobAt_farOthers : (s.setJobAt k x).farOthers = s.farOthers := rfl
@[simp] theorem State.setJobAt_reductions : (s.setJobAt k x).reductions = s.reductions := rfl
@[simp] theorem State.setJobAt_sendsOut : (s.setJobAt k x).sendsOut = s.sendsOut := rfl
@[simp] theorem State.setJobAt_vfs : (s.setJobAt k x).vfs = s.vfs := rfl
@[simp] theorem State.setJobAt_ctxs : (s.setJobAt k x).ctxs = s.ctxs := rfl
@[simp] theorem State.setJobAt_launches : (s.setJobAt k x).launches = s.launches := rfl
@[simp] theorem State.setJobAt_blocks : (s.setJobAt k x).blocks = s.blocks := rfl
@[simp] theorem State.setJobAt_teams : (s.setJobAt k x).teams = s.teams := rfl
@[simp] theorem State.setJobAt_cores : (s.setJobAt k x).cores = s.cores := rfl
@[simp] theorem State.setJobAt_ops : (s.setJobAt k x).ops = s.ops := rfl
@[simp] theorem State.setJobAt_tlbinvs : (s.setJobAt k x).tlbinvs = s.tlbinvs := rfl
@[simp] theorem State.setJobAt_outbox : (s.setJobAt k x).outbox = s.outbox := rfl
@[simp] theorem State.setJobAt_uids : (s.setJobAt k x).uids = s.uids := rfl
@[simp] theorem State.setJobAt_fresh : (s.setJobAt k x).fresh = s.fresh := rfl
@[simp] theorem State.setJobAt_laneOrder : (s.setJobAt k x).laneOrder = s.laneOrder := rfl
@[simp] theorem State.setJobAt_laneLater : (s.setJobAt k x).laneLater = s.laneLater := rfl
@[simp] theorem State.setJobAt_cur : (s.setJobAt k x).cur = s.cur := rfl
@[simp] theorem State.setJobAt_agenda : (s.setJobAt k x).agenda = s.agenda := rfl
end

/-! ### `setVfAt` -/

section
variable (s : State) (k : Nat) (x : VFun)

@[simp] theorem State.setVfAt_clock : (s.setVfAt k x).clock = s.clock := rfl
@[simp] theorem State.setVfAt_perDie : (s.setVfAt k x).perDie = s.perDie := rfl
@[simp] theorem State.setVfAt_module : (s.setVfAt k x).module = s.module := rfl
@[simp] theorem State.setVfAt_devNumber : (s.setVfAt k x).devNumber = s.devNumber := rfl
@[simp] theorem State.setVfAt_bootStatus : (s.setVfAt k x).bootStatus = s.bootStatus := rfl
@[simp] theorem State.setVfAt_bootStep : (s.setVfAt k x).bootStep = s.bootStep := rfl
@[simp] theorem State.setVfAt_sriov : (s.setVfAt k x).sriov = s.sriov := rfl
@[simp] theorem State.setVfAt_measure : (s.setVfAt k x).measure = s.measure := rfl
@[simp] theorem State.setVfAt_measureLocked : (s.setVfAt k x).measureLocked = s.measureLocked := rfl
@[simp] theorem State.setVfAt_spdmOut : (s.setVfAt k x).spdmOut = s.spdmOut := rfl
@[simp] theorem State.setVfAt_ifaces : (s.setVfAt k x).ifaces = s.ifaces := rfl
@[simp] theorem State.setVfAt_limiting : (s.setVfAt k x).limiting = s.limiting := rfl
@[simp] theorem State.setVfAt_limiterCount : (s.setVfAt k x).limiterCount = s.limiterCount := rfl
@[simp] theorem State.setVfAt_routeAddr : (s.setVfAt k x).routeAddr = s.routeAddr := rfl
@[simp] theorem State.setVfAt_routePort : (s.setVfAt k x).routePort = s.routePort := rfl
@[simp] theorem State.setVfAt_routeLoading : (s.setVfAt k x).routeLoading = s.routeLoading := rfl
@[simp] theorem State.setVfAt_routeRefused : (s.setVfAt k x).routeRefused = s.routeRefused := rfl
@[simp] theorem State.setVfAt_routes : (s.setVfAt k x).routes = s.routes := rfl
@[simp] theorem State.setVfAt_linkDown : (s.setVfAt k x).linkDown = s.linkDown := rfl
@[simp] theorem State.setVfAt_misses : (s.setVfAt k x).misses = s.misses := rfl
@[simp] theorem State.setVfAt_heartbeats : (s.setVfAt k x).heartbeats = s.heartbeats := rfl
@[simp] theorem State.setVfAt_fenced : (s.setVfAt k x).fenced = s.fenced := rfl
@[simp] theorem State.setVfAt_returned : (s.setVfAt k x).returned = s.returned := rfl
@[simp] theorem State.setVfAt_isolated : (s.setVfAt k x).isolated = s.isolated := rfl
@[simp] theorem State.setVfAt_noticesOut : (s.setVfAt k x).noticesOut = s.noticesOut := rfl
@[simp] theorem State.setVfAt_pool : (s.setVfAt k x).pool = s.pool := rfl
@[simp] theorem State.setVfAt_oryx : (s.setVfAt k x).oryx = s.oryx := rfl
@[simp] theorem State.setVfAt_corrected : (s.setVfAt k x).corrected = s.corrected := rfl
@[simp] theorem State.setVfAt_perf : (s.setVfAt k x).perf = s.perf := rfl
@[simp] theorem State.setVfAt_mem : (s.setVfAt k x).mem = s.mem := rfl
@[simp] theorem State.setVfAt_wstore : (s.setVfAt k x).wstore = s.wstore := rfl
@[simp] theorem State.setVfAt_credits : (s.setVfAt k x).credits = s.credits := rfl
@[simp] theorem State.setVfAt_landing : (s.setVfAt k x).landing = s.landing := rfl
@[simp] theorem State.setVfAt_farCredits : (s.setVfAt k x).farCredits = s.farCredits := rfl
@[simp] theorem State.setVfAt_farOthers : (s.setVfAt k x).farOthers = s.farOthers := rfl
@[simp] theorem State.setVfAt_reductions : (s.setVfAt k x).reductions = s.reductions := rfl
@[simp] theorem State.setVfAt_sendsOut : (s.setVfAt k x).sendsOut = s.sendsOut := rfl
@[simp] theorem State.setVfAt_ctxs : (s.setVfAt k x).ctxs = s.ctxs := rfl
@[simp] theorem State.setVfAt_launches : (s.setVfAt k x).launches = s.launches := rfl
@[simp] theorem State.setVfAt_blocks : (s.setVfAt k x).blocks = s.blocks := rfl
@[simp] theorem State.setVfAt_teams : (s.setVfAt k x).teams = s.teams := rfl
@[simp] theorem State.setVfAt_jobs : (s.setVfAt k x).jobs = s.jobs := rfl
@[simp] theorem State.setVfAt_cores : (s.setVfAt k x).cores = s.cores := rfl
@[simp] theorem State.setVfAt_ops : (s.setVfAt k x).ops = s.ops := rfl
@[simp] theorem State.setVfAt_tlbinvs : (s.setVfAt k x).tlbinvs = s.tlbinvs := rfl
@[simp] theorem State.setVfAt_outbox : (s.setVfAt k x).outbox = s.outbox := rfl
@[simp] theorem State.setVfAt_uids : (s.setVfAt k x).uids = s.uids := rfl
@[simp] theorem State.setVfAt_fresh : (s.setVfAt k x).fresh = s.fresh := rfl
@[simp] theorem State.setVfAt_laneOrder : (s.setVfAt k x).laneOrder = s.laneOrder := rfl
@[simp] theorem State.setVfAt_laneLater : (s.setVfAt k x).laneLater = s.laneLater := rfl
@[simp] theorem State.setVfAt_cur : (s.setVfAt k x).cur = s.cur := rfl
@[simp] theorem State.setVfAt_agenda : (s.setVfAt k x).agenda = s.agenda := rfl
end

/-! ### Parts after an update -/

@[simp] theorem State.team_setTeam (s : State) (x : Team) : (s.setTeam x).team = x := Table.get_set_same _ _ _
@[simp] theorem State.teamAt_setTeamAt_same (s : State) (k : Nat) (x : Team) : (s.setTeamAt k x).teamAt k = x := Table.get_set_same _ _ _
theorem State.teamAt_setTeamAt_other (s : State) {k j : Nat} (x : Team) (h : j ≠ k) : (s.setTeamAt k x).teamAt j = s.teamAt j :=
  Table.get_set_other _ x h
theorem State.teamAt_setTeam_other (s : State) {j : Nat} (x : Team) (h : j ≠ s.cur) : (s.setTeam x).teamAt j = s.teamAt j :=
  Table.get_set_other _ x h
@[simp] theorem State.setTeam_setTeam (s : State) (x y : Team) : (s.setTeam x).setTeam y = s.setTeam y := by
  simp only [State.setTeam, State.setTeamAt, Table.set_set]
@[simp] theorem State.blockAt_setBlockAt_same (s : State) (k : Nat) (x : Block) : (s.setBlockAt k x).blockAt k = x := Table.get_set_same _ _ _
theorem State.blockAt_setBlockAt_other (s : State) {k j : Nat} (x : Block) (h : j ≠ k) : (s.setBlockAt k x).blockAt j = s.blockAt j :=
  Table.get_set_other _ x h
@[simp] theorem State.launchAt_setLaunchAt_same (s : State) (k : Nat) (x : Launch) : (s.setLaunchAt k x).launchAt k = x := Table.get_set_same _ _ _
theorem State.launchAt_setLaunchAt_other (s : State) {k j : Nat} (x : Launch) (h : j ≠ k) : (s.setLaunchAt k x).launchAt j = s.launchAt j :=
  Table.get_set_other _ x h
@[simp] theorem State.ctxAt_setCtxAt_same (s : State) (k : Nat) (x : Ctx) : (s.setCtxAt k x).ctxAt k = x := Table.get_set_same _ _ _
theorem State.ctxAt_setCtxAt_other (s : State) {k j : Nat} (x : Ctx) (h : j ≠ k) : (s.setCtxAt k x).ctxAt j = s.ctxAt j :=
  Table.get_set_other _ x h
@[simp] theorem State.coreAt_setCoreAt_same (s : State) (k : Nat) (x : Core) : (s.setCoreAt k x).coreAt k = x := Table.get_set_same _ _ _
theorem State.coreAt_setCoreAt_other (s : State) {k j : Nat} (x : Core) (h : j ≠ k) : (s.setCoreAt k x).coreAt j = s.coreAt j :=
  Table.get_set_other _ x h
@[simp] theorem State.setTeam_block (s : State) (x : Team) : (s.setTeam x).block = s.block := rfl
@[simp] theorem State.setTeam_launch (s : State) (x : Team) : (s.setTeam x).launch = s.launch := rfl
@[simp] theorem State.setTeam_kernel (s : State) (x : Team) : (s.setTeam x).kernel = s.kernel := rfl
@[simp] theorem State.setTeam_ctx (s : State) (x : Team) : (s.setTeam x).ctx = s.ctx := rfl
@[simp] theorem State.setTeam_blockAt (s : State) (x : Team) (j : Nat) : (s.setTeam x).blockAt j = s.blockAt j := rfl
@[simp] theorem State.setTeam_launchAt (s : State) (x : Team) (j : Nat) : (s.setTeam x).launchAt j = s.launchAt j := rfl
@[simp] theorem State.setTeam_ctxAt (s : State) (x : Team) (j : Nat) : (s.setTeam x).ctxAt j = s.ctxAt j := rfl
@[simp] theorem State.setTeam_coreAt (s : State) (x : Team) (j : Nat) : (s.setTeam x).coreAt j = s.coreAt j := rfl
@[simp] theorem State.setTeam_vfAt (s : State) (x : Team) (j : Nat) : (s.setTeam x).vfAt j = s.vfAt j := rfl
@[simp] theorem State.setTeamAt_block (s : State) (k : Nat) (x : Team) : (s.setTeamAt k x).block = s.block := rfl
@[simp] theorem State.setTeamAt_launch (s : State) (k : Nat) (x : Team) : (s.setTeamAt k x).launch = s.launch := rfl
@[simp] theorem State.setTeamAt_kernel (s : State) (k : Nat) (x : Team) : (s.setTeamAt k x).kernel = s.kernel := rfl
@[simp] theorem State.setTeamAt_ctx (s : State) (k : Nat) (x : Team) : (s.setTeamAt k x).ctx = s.ctx := rfl
@[simp] theorem State.setTeamAt_blockAt (s : State) (k : Nat) (x : Team) (j : Nat) : (s.setTeamAt k x).blockAt j = s.blockAt j := rfl
@[simp] theorem State.setTeamAt_launchAt (s : State) (k : Nat) (x : Team) (j : Nat) : (s.setTeamAt k x).launchAt j = s.launchAt j := rfl
@[simp] theorem State.setTeamAt_ctxAt (s : State) (k : Nat) (x : Team) (j : Nat) : (s.setTeamAt k x).ctxAt j = s.ctxAt j := rfl
@[simp] theorem State.setTeamAt_coreAt (s : State) (k : Nat) (x : Team) (j : Nat) : (s.setTeamAt k x).coreAt j = s.coreAt j := rfl
@[simp] theorem State.setTeamAt_vfAt (s : State) (k : Nat) (x : Team) (j : Nat) : (s.setTeamAt k x).vfAt j = s.vfAt j := rfl

/-! ### Registers of a team -/

theorem Team.sreg_zero (t : Team) : t.sreg 0 = 0 := rfl

/-- What every scalar register reads after a write: s0 reads 0 whatever is written (R66). -/
theorem Team.sreg_setSreg (t : Team) (d r : SReg) (x : Word64) :
    (t.setSreg d x).sreg r = if r = d ∧ r ≠ 0 then x else t.sreg r := by
  unfold Team.setSreg
  by_cases hd : d = 0
  · subst hd
    by_cases hr : r = 0 <;> simp [hr]
  · by_cases hr : r = d
    · subst hr; simp [Team.sreg, hd]
    · have hv : d.val ≠ r.val := fun h => hr (Fin.ext h.symm)
      simp only [hd, if_false, Team.sreg, hr, false_and]
      split
      · rfl
      · exact Vector.getElem_set_ne _ _ hv

/-- What every scalar predicate reads after a write: q0 reads 1 whatever is written (R66). -/
theorem Team.qreg_setQreg (t : Team) (d r : QReg) (x : Bool) :
    (t.setQreg d x).qreg r = if r = d ∧ r ≠ 0 then x else t.qreg r := by
  by_cases hd : d = 0
  · simp only [Team.setQreg, hd, if_true]
    by_cases hr : r = 0 <;> simp [hr]
  · by_cases h0 : r = 0
    · simp [h0, Team.qreg]
    · have hb : (r == 0) = false := by simpa using h0
      simp only [Team.setQreg, hd, if_false, Team.qreg, hb, Bool.false_or]
      cases x <;> by_cases hr : r = d <;> simp [hr, hd, h0, ← Fin.ext_iff]

@[simp] theorem Team.setSreg_spc (t : Team) (d : SReg) (x : Word64) : (t.setSreg d x).spc = t.spc := by
  unfold Team.setSreg; split <;> rfl
@[simp] theorem Team.setQreg_spc (t : Team) (d : QReg) (x : Bool) : (t.setQreg d x).spc = t.spc := by
  unfold Team.setQreg; split <;> rfl
/-- A write of a scalar register changes the register file alone. -/
theorem Team.setSreg_eq (t : Team) (d : SReg) (x : Word64) : t.setSreg d x = { t with sregs := (t.setSreg d x).sregs } := by
  unfold Team.setSreg; split <;> rfl
/-- A write of a scalar predicate changes the predicates alone. -/
theorem Team.setQreg_eq (t : Team) (d : QReg) (x : Bool) : t.setQreg d x = { t with qregs := (t.setQreg d x).qregs } := by
  unfold Team.setQreg; split <;> rfl

end Sys2Proof.Machine
end

