-- ==== Sys2Proof/Laws/Firmware.lean ====
section
/-! SUPPORT. What the operations that act for a context can do to the machine: each shared operation's reach, said once. -/

namespace Sys2Proof.Machine

/-! ### Launches that differ in their predicted shape alone -/

/-- The launches of `t` are those of `s`, each with its shape as it may be. -/
def SameButShape (s t : Table Launch) : Prop :=
  ∀ l, ∃ g : Option Shape, Table.find? t l = (Table.find? s l).map (fun x => { x with shape := g })

theorem SameButShape.refl (s : Table Launch) : SameButShape s s := by
  intro l
  cases h : Table.find? s l with
  | none => exact ⟨none, rfl⟩
  | some x => exact ⟨x.shape, rfl⟩

theorem SameButShape.trans {s t u : Table Launch} (h : SameButShape s t) (k : SameButShape t u) : SameButShape s u := by
  intro l
  obtain ⟨g, hg⟩ := h l
  obtain ⟨g', hg'⟩ := k l
  refine ⟨g', ?_⟩
  rw [hg', hg]
  cases Table.find? s l <;> rfl

theorem Launch.noteShape_eq (m : Memory) (n : Nat) (l : Launch) : l.noteShape m n = { l with shape := (l.noteShape m n).shape } := by
  unfold Launch.noteShape
  split
  · rfl
  · split
    · simp only; split <;> rfl
    · rfl

theorem SameButShape.noteShape (s : Table Launch) (m : Memory) (n : Nat) : SameButShape s (s.mapVals (fun _ l => l.noteShape m n)) := by
  intro l
  rw [Table.find?_mapVals]
  cases h : Table.find? s l with
  | none => exact ⟨none, rfl⟩
  | some x => exact ⟨(x.noteShape m n).shape, by simp only [Option.map_some]; rw [← Launch.noteShape_eq]⟩

/-! ### Writes to global memory -/

/-- `t` is `s` after writes to global memory and to the rings of virtual functions, and nothing else: a canonical memory stays
so, and a launch may have had its shape published. -/
structure Wrote (s t : State) : Prop where
  rest : t = { s with mem := t.mem, launches := t.launches, vfs := t.vfs }
  shapes : SameButShape s.launches t.launches
  wf : s.mem.wf = true → t.mem.wf = true

theorem Wrote.refl (s : State) : Wrote s s := ⟨rfl, SameButShape.refl _, id⟩

theorem Wrote.trans {s t u : State} (h : Wrote s t) (k : Wrote t u) : Wrote s u :=
  ⟨by rw [k.rest, h.rest], h.shapes.trans k.shapes, fun e => k.wf (h.wf e)⟩

theorem Wrote.ite {s t u : State} {p : Prop} [Decidable p] (h : Wrote s t) (k : Wrote s u) : Wrote s (if p then t else u) := by
  split <;> assumption

theorem Wrote.foldl {β : Type} {f : State → β → State} (h : ∀ s x, Wrote s (f s x)) (xs : List β) (s : State) : Wrote s (xs.foldl f s) := by
  induction xs generalizing s with
  | nil => exact Wrote.refl s
  | cons x r ih => exact (h s x).trans (ih _)

theorem State.wrote_gwrite (s : State) (k : Nat) (bs : List Byte) : Wrote s (s.gwrite k bs) :=
  ⟨rfl, SameButShape.noteShape _ _ _, fun h => Memory.wf_writeBytes h _ _⟩

theorem State.wrote_gwriteNat (s : State) (k n x : Nat) : Wrote s (s.gwriteNat k n x) := State.wrote_gwrite s k _

theorem State.wrote_pteOr (s : State) (a : Nat) (e b : Word64) : Wrote s (s.pteOr a e b) :=
  ⟨rfl, SameButShape.refl _, fun h => Memory.wf_writeNat h _ _ _⟩

theorem State.wrote_setVfAt (s : State) (v : Nat) (x : VFun) : Wrote s (s.setVfAt v x) := ⟨rfl, SameButShape.refl _, id⟩

theorem State.wrote_ctxPhys (s : State) (c : Nat) (va : Word64) (k : Access) : Wrote s (s.ctxPhys c va k).2 := by
  simp only [State.ctxPhys]
  split
  · exact Wrote.refl s
  · split
    · exact Wrote.refl s
    · split
      · exact Wrote.refl s
      · split
        · exact Wrote.refl s
        · split <;> exact Wrote.ite (Wrote.refl s) (State.wrote_pteOr _ _ _ _)

theorem State.wrote_ctxRead (c n : Nat) : ∀ (s : State) (va : Nat), Wrote s (s.ctxRead c va n).2 := by
  induction n with
  | zero => intro s va; exact Wrote.refl s
  | succ n ih =>
    intro s va
    have h := State.wrote_ctxPhys s c (BitVec.ofNat 64 va) .read
    simp only [State.ctxRead]
    split
    · rename_i hu; rw [hu] at h; exact h.trans (ih _ _)
    · rename_i hu; rw [hu] at h; exact h

theorem State.wrote_ctxReadNat (s : State) (c va n : Nat) : Wrote s (s.ctxReadNat c va n).2 := State.wrote_ctxRead c n s va

theorem State.wrote_ctxWrite (c : Nat) (bs : List Byte) : ∀ (s : State) (va : Nat), Wrote s (s.ctxWrite c va bs) := by
  induction bs with
  | nil => intro s va; exact Wrote.refl s
  | cons x r ih =>
    intro s va
    have h := State.wrote_ctxPhys s c (BitVec.ofNat 64 va) .write
    simp only [State.ctxWrite]
    split
    · rename_i hu; rw [hu] at h; exact (h.trans (State.wrote_gwrite _ _ _)).trans (ih _ _)
    · rename_i hu; rw [hu] at h; exact h.trans (ih _ _)

theorem State.wrote_post (s : State) (vf : Nat) (e : Event) : Wrote s (s.post vf e) := by
  simp only [State.post]
  split
  · exact State.wrote_setVfAt _ _ _
  · split
    · split
      · exact (State.wrote_gwriteNat s _ _ _).trans (State.wrote_setVfAt _ _ _)
      · exact ((State.wrote_gwriteNat s _ _ _).trans (State.wrote_gwriteNat _ _ _ _)).trans (State.wrote_setVfAt _ _ _)
    · exact ((State.wrote_gwriteNat s _ _ _).trans (State.wrote_gwriteNat _ _ _ _)).trans (State.wrote_setVfAt _ _ _)

/-! ### Acting for a context -/

/-- `t` is `s` after acts of the part's agents for contexts: memory, rings, contexts, jobs, caches and free values may differ, and
the shapes of launches; no team, block, register of the device or scratchpad does. -/
structure Served (s t : State) : Prop where
  rest : t = { s with mem := t.mem, launches := t.launches, vfs := t.vfs, ctxs := t.ctxs, jobs := t.jobs, cores := t.cores, fresh := t.fresh }
  shapes : SameButShape s.launches t.launches
  wf : s.mem.wf = true → t.mem.wf = true

theorem Wrote.served {s t : State} (h : Wrote s t) : Served s t := ⟨by rw [h.rest], h.shapes, h.wf⟩
theorem Served.refl (s : State) : Served s s := (Wrote.refl s).served
theorem Served.trans {s t u : State} (h : Served s t) (k : Served t u) : Served s u :=
  ⟨by rw [k.rest, h.rest], h.shapes.trans k.shapes, fun e => k.wf (h.wf e)⟩
theorem Served.foldl {β : Type} {f : State → β → State} (h : ∀ s x, Served s (f s x)) (xs : List β) (s : State) : Served s (xs.foldl f s) := by
  induction xs generalizing s with
  | nil => exact Served.refl s
  | cons x r ih => exact (h s x).trans (ih _)

theorem State.served_setCtxAt (s : State) (c : Nat) (x : Ctx) : Served s (s.setCtxAt c x) := ⟨rfl, SameButShape.refl _, id⟩
theorem State.served_setJobAt (s : State) (j : Nat) (x : Job) : Served s (s.setJobAt j x) := ⟨rfl, SameButShape.refl _, id⟩
theorem State.served_setCoreAt (s : State) (c : Nat) (x : Core) : Served s (s.setCoreAt c x) := ⟨rfl, SameButShape.refl _, id⟩
theorem State.served_takeFresh (s : State) : Served s s.takeFresh.2 := ⟨rfl, SameButShape.refl _, id⟩
theorem State.served_updGraph (s : State) (j p g : Nat) (f : Graph → Graph) : Served s (s.updGraph j p g f) := State.served_setJobAt s _ _
theorem State.served_shootRange (s : State) (vf a lo hi : Nat) : Served s (s.shootRange vf a lo hi) := ⟨rfl, SameButShape.refl _, id⟩

theorem State.served_translateWalk (s : State) (w : Who) (va : Word64) (k : Access) : Served s (s.translateWalk w va k).2 := by
  simp only [State.translateWalk]
  split
  · exact Served.refl s
  · split
    · exact Served.refl s
    · split
      · exact Served.refl s
      · split
        · exact Served.refl s
        · refine Served.trans ?_ ((State.served_setCoreAt _ _ _).trans (State.served_setCoreAt _ _ _))
          exact (Wrote.ite (Wrote.refl s) (State.wrote_pteOr _ _ _ _)).served

theorem State.served_translate (s : State) (w : Who) (va : Word64) (k : Access) : Served s (s.translate w va k).2 := by
  simp only [State.translate]
  split
  · exact Served.refl s
  · split
    · exact State.served_translateWalk s w va k
    · split
      · exact Served.refl s
      · split
        · split
          · exact (State.wrote_pteOr _ _ _ _).served.trans (State.served_setCoreAt _ _ _)
          · exact State.served_translateWalk s w va k
        · exact State.served_setCoreAt _ _ _

theorem State.served_stopRecording (s : State) (c : Nat) : Served s (s.stopRecording c) := by
  simp only [State.stopRecording]
  refine Served.trans ?_ (State.wrote_post _ _ _).served
  refine Served.trans ?_ (State.served_setCtxAt _ _ _)
  exact (State.wrote_ctxWrite _ _ _ _).served.trans (State.wrote_ctxWrite _ _ _ _).served

theorem State.wrote_readLog (s : State) (c va n : Nat) : Wrote s (s.readLog c va n) :=
  (State.wrote_ctxRead _ _ _ _).trans (State.wrote_ctxRead _ _ _ _)

theorem State.served_log (s : State) (c : Nat) (spoor : Bool) (e : Nat) : Served s (s.log c spoor e) := by
  simp only [State.log]
  split
  · exact Served.refl s
  · generalize (if spoor = true then _ else _ : Nat) = va
    refine (State.wrote_readLog s c va 0).served.trans ?_
    split
    · exact State.served_stopRecording _ c
    · exact ((State.wrote_ctxWrite _ _ _ _).trans (State.wrote_ctxWrite _ _ _ _)).served

theorem State.served_serveEntry {s t : State} {c unit entry : Nat} (h : s.serveEntry c unit entry = .serve t) : Served s t := by
  simp only [State.serveEntry] at h
  split at h
  · cases h; exact Served.refl s
  · split at h
    · cases h
    · cases h; exact State.served_log _ _ _ _
  · split at h
    · cases h
    · split at h
      · cases h
      · split at h
        · cases h; exact (State.wrote_readLog _ _ _ _).served.trans (State.served_setCtxAt _ _ _)
        · split at h <;> cases h

theorem State.served_ordered {s t : State} {team kind region unit : Nat} (h : s.ordered team kind region unit = .serve t) : Served s t := by
  simp only [State.ordered] at h
  split at h
  · cases h; exact Served.refl s
  · split at h
    · rename_i hu
      cases h
      exact (State.served_serveEntry hu).trans (State.served_setCtxAt _ _ _)
    · rename_i hn
      exact absurd h (hn t)

theorem State.wrote_rawWrite8 (s : State) (c va x : Nat) : Wrote s (s.rawWrite8 c va x) := by
  simp only [State.rawWrite8]
  split
  · exact Wrote.refl s
  · exact State.wrote_gwriteNat _ _ _ _

theorem State.served_poolTake {s t : State} {c n : Nat} {ps : List Nat} (h : s.poolTake c n = some (ps, t)) : Served s t := by
  simp only [State.poolTake] at h
  split at h
  · split at h
    · cases h
    · simp only [Option.some.injEq, Prod.mk.injEq] at h
      rw [← h.2]; exact (State.wrote_rawWrite8 _ _ _ _).served
  · split at h
    · cases h
    · simp only [Option.some.injEq, Prod.mk.injEq] at h
      rw [← h.2]; exact State.served_setCtxAt _ _ _

theorem State.wrote_ringFill (s : State) (c : Nat) (ps : List Nat) : Wrote s (s.ringFill c ps).2 := by
  simp only [State.ringFill]
  split
  · exact Wrote.refl s
  · exact (Wrote.foldl (fun s i => State.wrote_rawWrite8 s _ _ _) _ _).trans (State.wrote_rawWrite8 _ _ _ _)

theorem State.wrote_zeroPage (s : State) (p : Nat) : Wrote s (s.zeroPage p) := State.wrote_gwrite _ _ _

theorem State.served_poolReturn (s : State) (c : Nat) (ps : List Nat) : Served s (s.poolReturn c ps) := by
  simp only [State.poolReturn]
  refine Served.trans ?_ (State.served_setCtxAt _ _ _)
  exact ((Wrote.foldl (fun s p => State.wrote_zeroPage s p) _ _).trans (State.wrote_ringFill _ _ _)).served

/-- As `Wrote`, and pages may have been handed out to contexts. -/
structure Mapped (s t : State) : Prop where
  rest : t = { s with mem := t.mem, launches := t.launches, vfs := t.vfs, ctxs := t.ctxs, fresh := t.fresh }
  shapes : SameButShape s.launches t.launches
  wf : s.mem.wf = true → t.mem.wf = true

theorem Wrote.mapped {s t : State} (h : Wrote s t) : Mapped s t := ⟨by rw [h.rest], h.shapes, h.wf⟩
theorem Mapped.refl (s : State) : Mapped s s := (Wrote.refl s).mapped
theorem Mapped.trans {s t u : State} (h : Mapped s t) (k : Mapped t u) : Mapped s u :=
  ⟨by rw [k.rest, h.rest], h.shapes.trans k.shapes, fun e => k.wf (h.wf e)⟩
theorem Mapped.served {s t : State} (h : Mapped s t) : Served s t := ⟨by rw [h.rest], h.shapes, h.wf⟩
theorem State.mapped_takePage (s : State) (c : Nat) : Mapped s (s.takePage c).2 := ⟨rfl, SameButShape.refl _, id⟩

theorem mapped_mapFrom (c va leaf : Nat) : ∀ (level table : Nat) (s : State), Mapped s (mapFrom c va leaf level table s) := by
  intro level
  induction level with
  | zero => intro table s; exact (State.wrote_gwriteNat _ _ _ _).mapped
  | succ n ih =>
    intro table s
    simp only [mapFrom]
    split
    · exact ih _ _
    · refine Mapped.trans ?_ (ih _ _)
      exact (State.mapped_takePage s c).trans ((State.wrote_zeroPage _ _).trans (State.wrote_gwriteNat _ _ _ _)).mapped

theorem State.mapped_mapPage (s : State) (c va p : Nat) : Mapped s (s.mapPage c va p) := mapped_mapFrom _ _ _ _ _ _

theorem Mapped.foldl {β : Type} {f : State → β → State} (h : ∀ s x, Mapped s (f s x)) (xs : List β) (s : State) : Mapped s (xs.foldl f s) := by
  induction xs generalizing s with
  | nil => exact Mapped.refl s
  | cons x r ih => exact (h s x).trans (ih _)

theorem State.wrote_unmapPage (s : State) (c va : Nat) : Wrote s (s.unmapPage c va) := by
  simp only [State.unmapPage]
  split
  · exact State.wrote_gwriteNat _ _ _ _
  · exact Wrote.refl s

/-- As `Wrote`, and members have been counted in jobs. -/
structure Counted (s t : State) : Prop where
  rest : t = { s with mem := t.mem, launches := t.launches, vfs := t.vfs, jobs := t.jobs }
  shapes : SameButShape s.launches t.launches
  wf : s.mem.wf = true → t.mem.wf = true

theorem Wrote.counted {s t : State} (h : Wrote s t) : Counted s t := ⟨by rw [h.rest], h.shapes, h.wf⟩
theorem Counted.refl (s : State) : Counted s s := (Wrote.refl s).counted
theorem Counted.trans {s t u : State} (h : Counted s t) (k : Counted t u) : Counted s u :=
  ⟨by rw [k.rest, h.rest], h.shapes.trans k.shapes, fun e => k.wf (h.wf e)⟩
theorem Counted.served {s t : State} (h : Counted s t) : Served s t := ⟨by rw [h.rest], h.shapes, h.wf⟩
theorem State.counted_setJobAt (s : State) (j : Nat) (x : Job) : Counted s (s.setJobAt j x) := ⟨rfl, SameButShape.refl _, id⟩
theorem State.counted_updGraph (s : State) (j p g : Nat) (f : Graph → Graph) : Counted s (s.updGraph j p g f) := State.counted_setJobAt s _ _

theorem State.counted_jobReport (s : State) (j : Nat) : Counted s (s.jobReport j) := by
  simp only [State.jobReport]
  refine Counted.trans ?_ (State.wrote_post _ _ _).counted
  refine Counted.trans ?_ (State.counted_setJobAt _ _ _)
  split
  · exact Counted.refl s
  · exact (State.wrote_ctxWrite _ _ _ _).counted

theorem State.counted_jobDone (s : State) (j : Nat) : Counted s (s.jobDone j) := by
  simp only [State.jobDone]
  split
  · exact State.counted_setJobAt _ _ _
  · exact State.counted_jobReport _ _

theorem State.counted_jobMember (s : State) (j : Nat) (bad : Bool) : Counted s (s.jobMember j bad) := by
  simp only [State.jobMember]
  split
  · exact (State.counted_setJobAt _ _ _).trans (State.counted_jobDone _ _)
  · exact State.counted_setJobAt _ _ _

theorem State.counted_phaseMember (s : State) (j p : Nat) (bad : Bool) : Counted s (s.phaseMember j p bad) := by
  simp only [State.phaseMember]
  split
  · exact (State.counted_setJobAt _ _ _).trans (State.counted_jobMember _ _ _)
  · exact State.counted_setJobAt _ _ _

theorem State.counted_graphMember (s : State) (j p g : Nat) (bad : Bool) : Counted s (s.graphMember j p g bad) := by
  simp only [State.graphMember]
  split
  · exact (State.counted_updGraph _ _ _ _ _).trans (State.counted_phaseMember _ _ _ _)
  · exact State.counted_updGraph _ _ _ _ _

theorem wrote_readStable (c n : Nat) : ∀ (s : State) (va : Nat), Wrote s (readStable s c va n).2 := by
  induction n with
  | zero => intro s va; exact Wrote.refl s
  | succ n ih =>
    intro s va
    have h := State.wrote_ctxReadNat s c va 16
    simp only [readStable]
    split
    · rename_i hu; rw [hu] at h; exact h
    · rename_i hu; rw [hu] at h; exact h.trans (ih _ _)

theorem wrote_buildLaunch (s : State) (c : Nat) (r : LaunchRec) : Wrote s (buildLaunch s c r).2 := by
  have h := State.wrote_ctxReadNat s c r.kernel 64
  simp only [buildLaunch]
  split
  · exact Wrote.refl s
  · split
    · rename_i hu; rw [hu] at h; exact h
    · rename_i hu
      rw [hu] at h
      split
      · exact h
      · split
        · exact h
        · exact h.trans (wrote_readStable _ _ _ _)

/-! ### Acting on launches -/

/-- As `Served`, and launches may differ in any way. -/
structure Acted (s t : State) : Prop where
  rest : t = { s with mem := t.mem, launches := t.launches, vfs := t.vfs, ctxs := t.ctxs, jobs := t.jobs, cores := t.cores, fresh := t.fresh }
  wf : s.mem.wf = true → t.mem.wf = true

theorem Served.acted {s t : State} (h : Served s t) : Acted s t := ⟨h.rest, h.wf⟩
theorem Wrote.acted {s t : State} (h : Wrote s t) : Acted s t := h.served.acted
theorem Acted.refl (s : State) : Acted s s := (Served.refl s).acted
theorem Acted.trans {s t u : State} (h : Acted s t) (k : Acted t u) : Acted s u :=
  ⟨by rw [k.rest, h.rest], fun e => k.wf (h.wf e)⟩
theorem Acted.foldl {β : Type} {f : State → β → State} (h : ∀ s x, Acted s (f s x)) (xs : List β) (s : State) : Acted s (xs.foldl f s) := by
  induction xs generalizing s with
  | nil => exact Acted.refl s
  | cons x r ih => exact (h s x).trans (ih _)

theorem State.acted_setLaunchAt (s : State) (l : Nat) (x : Launch) : Acted s (s.setLaunchAt l x) := ⟨rfl, id⟩

theorem State.acted_refuseLaunch (s : State) (l : Nat) : Acted s (s.refuseLaunch l) := by
  simp only [State.refuseLaunch]
  refine Acted.trans ?_ (State.counted_graphMember _ _ _ _ _).served.acted
  exact (State.acted_setLaunchAt _ _ _).trans (State.wrote_post _ _ _).acted

theorem State.acted_submitLaunch (s : State) (c j p g : Nat) (r : LaunchRec) (deps : List Nat) (dev : Bool) :
    Acted s (s.submitLaunch c j p g r deps dev) := by
  simp only [State.submitLaunch]
  generalize hv : State.updGraph (s.setCtxAt c _) j p g _ = v
  have h1 : Acted s v := by rw [← hv]; exact ((State.served_setCtxAt _ _ _).trans (State.served_updGraph _ _ _ _ _)).acted
  have h2 := (wrote_buildLaunch v c r).acted
  split
  · rename_i hu; rw [hu] at h2; exact (h1.trans h2).trans (State.acted_setLaunchAt _ _ _)
  · rename_i hu; rw [hu] at h2; exact ((h1.trans h2).trans (State.acted_setLaunchAt _ _ _)).trans (State.acted_refuseLaunch _ _)

theorem Acted.teams {s t : State} (h : Acted s t) : t.teams = s.teams := by rw [h.rest]
theorem Acted.blocks {s t : State} (h : Acted s t) : t.blocks = s.blocks := by rw [h.rest]
theorem Acted.cur {s t : State} (h : Acted s t) : t.cur = s.cur := by rw [h.rest]
theorem Acted.clock {s t : State} (h : Acted s t) : t.clock = s.clock := by rw [h.rest]
theorem Acted.team {s t : State} (h : Acted s t) : t.team = s.team := by simp only [State.team, State.teamAt, h.teams, h.cur]
theorem Acted.block {s t : State} (h : Acted s t) : t.block = s.block := by simp only [State.block, State.blockAt, h.blocks, h.cur]

/-- A launch of which only the shape may differ. -/
theorem SameButShape.launchAt {s t : State} (h : SameButShape s.launches t.launches) (l : Nat) :
    t.launchAt l = { s.launchAt l with shape := (t.launchAt l).shape } := by
  obtain ⟨g, hg⟩ := h l
  simp only [State.launchAt, Table.get, hg]
  cases Table.find? s.launches l <;> rfl

/-! ### What ends -/

/-- `t` is `s` after acts that may also end contexts, launches, blocks and teams, perform their accesses and free what they hold. -/
structure Ended (s t : State) : Prop where
  rest : t = { s with mem := t.mem, launches := t.launches, vfs := t.vfs, ctxs := t.ctxs, jobs := t.jobs, cores := t.cores,
                      fresh := t.fresh, blocks := t.blocks, teams := t.teams, perf := t.perf, reductions := t.reductions,
                      ops := t.ops, landing := t.landing, credits := t.credits }
  wf : s.mem.wf = true → t.mem.wf = true

theorem Acted.ended {s t : State} (h : Acted s t) : Ended s t := ⟨by rw [h.rest], h.wf⟩
theorem Served.ended {s t : State} (h : Served s t) : Ended s t := h.acted.ended
theorem Wrote.ended {s t : State} (h : Wrote s t) : Ended s t := h.acted.ended
theorem Ended.refl (s : State) : Ended s s := (Acted.refl s).ended
theorem Ended.trans {s t u : State} (h : Ended s t) (k : Ended t u) : Ended s u :=
  ⟨by rw [k.rest, h.rest], fun e => k.wf (h.wf e)⟩
theorem Ended.foldl {β : Type} {f : State → β → State} (h : ∀ s x, Ended s (f s x)) (xs : List β) (s : State) : Ended s (xs.foldl f s) := by
  induction xs generalizing s with
  | nil => exact Ended.refl s
  | cons x r ih => exact (h s x).trans (ih _)
theorem Ended.ite {s t u : State} {p : Prop} [Decidable p] (h : Ended s t) (k : Ended s u) : Ended s (if p then t else u) := by
  split <;> assumption
theorem Ended.cur {s t : State} (h : Ended s t) : t.cur = s.cur := by rw [h.rest]
theorem Ended.clock {s t : State} (h : Ended s t) : t.clock = s.clock := by rw [h.rest]

theorem State.ended_setTeamAt (s : State) (k : Nat) (x : Team) : Ended s (s.setTeamAt k x) := ⟨rfl, id⟩
theorem State.ended_setBlockAt (s : State) (k : Nat) (x : Block) : Ended s (s.setBlockAt k x) := ⟨rfl, id⟩
theorem State.ended_setLaunchAt (s : State) (l : Nat) (x : Launch) : Ended s (s.setLaunchAt l x) := ⟨rfl, id⟩
theorem State.ended_setCtxAt (s : State) (c : Nat) (x : Ctx) : Ended s (s.setCtxAt c x) := ⟨rfl, id⟩
theorem State.ended_freeDatapath (s : State) (k : Nat) : Ended s (s.freeDatapath k) := ⟨rfl, id⟩
theorem State.ended_count (s : State) (c v n x : Nat) : Ended s (s.count c v n x) := ⟨rfl, id⟩
theorem State.ended_dropLanded (s : State) (p : Piece × Option Nat → Bool) : Ended s (s.dropLanded p) := ⟨rfl, id⟩
theorem State.ended_rewalkCtx (s : State) (c : Nat) : Ended s (s.rewalkCtx c) := ⟨rfl, id⟩

theorem State.ended_waitDone (s : State) (k : Nat) : Ended s (s.waitDone k) := by
  simp only [State.waitDone]
  split
  · exact Ended.refl s
  · exact (State.ended_count _ _ _ _ _).trans (State.ended_setTeamAt _ _ _)

theorem State.ended_blockWaits (s : State) (k : Nat) : Ended s (s.blockWaits k) := by
  simp only [State.blockWaits]
  exact (Ended.foldl (fun s w => State.ended_count s _ _ _ _) _ _).trans (Ended.foldl (fun s k => State.ended_waitDone s k) _ _)

theorem State.ended_reserveArrays (s : State) (k : Nat) (cs : List Nat) : Ended s (s.reserveArrays k cs) :=
  Ended.foldl (fun s _ => (State.served_setCoreAt s _ _).ended) _ _

theorem State.ended_promotePairs (s : State) : Ended s s.promotePairs := by
  refine Ended.foldl (fun s e => ?_) _ _
  split
  · exact Ended.refl s
  · split
    · exact Ended.ite (State.ended_reserveArrays _ _ _) (Ended.refl s)
    · exact Ended.refl s

theorem State.ended_endContext (s : State) (c : Nat) : Ended s (s.endContext c) := by
  simp only [State.endContext]
  refine Ended.trans ?_ (State.ended_setCtxAt _ _ _)
  refine Ended.trans ?_ (State.ended_promotePairs _)
  exact ((Ended.foldl (fun s k => State.ended_blockWaits s k) _ _).trans (State.ended_dropLanded _ _)).trans ⟨rfl, id⟩

theorem State.ended_diverge (s : State) (c : Nat) : Ended s (s.diverge c) :=
  (State.ended_endContext s c).trans (State.wrote_post _ _ _).ended

/-! ### Accesses that perform -/

theorem State.served_request {s t : State} {team va key n : Nat} (h : s.request team va key n = .serve t) : Served s t := by
  simp only [State.request] at h
  split at h
  · cases h; exact Served.refl s
  · exact State.served_ordered h

theorem State.wrote_atomAt (s : State) (op : AtomOp) (wide : Bool) (key dat cmp : Nat) : Wrote s (atomAt s op wide key dat cmp).1 := by
  simp only [atomAt]
  split
  · exact State.wrote_gwriteNat _ _ _ _
  · exact Wrote.refl s

theorem State.ended_scratchAtom (s : State) (op : AtomOp) (wide : Bool) (b ci off dat cmp : Nat) :
    Ended s (scratchAtom s op wide b ci off dat cmp).1 := by
  simp only [scratchAtom]
  split
  · exact State.ended_setBlockAt _ _ _
  · exact Ended.refl s

theorem LaneOp.ended_run (o : LaneOp) (s : State) : Ended s (o.run s).1 := by
  simp only [LaneOp.run]
  split
  · exact Ended.refl s
  · exact (Wrote.foldl (fun s k => State.wrote_gwriteNat s _ _ _) _ _).ended
  · split
    · exact State.ended_scratchAtom _ _ _ _ _ _ _ _
    · exact (Wrote.foldl (fun s k => State.wrote_atomAt s _ _ _ _ _) _ _).ended

/-- An access of global memory touches no block. -/
theorem LaneOp.wrote_run (o : LaneOp) (s : State) (h : o.spad = none) : Wrote s (o.run s).1 := by
  simp only [LaneOp.run, h]
  split
  · exact Wrote.refl s
  · exact Wrote.foldl (fun s k => State.wrote_gwriteNat s _ _ _) _ _
  · exact Wrote.foldl (fun s k => State.wrote_atomAt s _ _ _ _ _) _ _

theorem State.served_requestOp {s t : State} {o : LaneOp} (h : s.requestOp o = .serve t) : Served s t := by
  simp only [State.requestOp] at h
  split at h
  · exact State.served_ordered h
  · exact State.served_request h

theorem State.ended_performOp {s t : State} {o : LaneOp} {ws : List LaneWrite} (h : s.performOp o = .ok t ws) : Ended s t := by
  simp only [State.performOp] at h
  split at h
  · cases h
  · cases h
  · rename_i hr
    cases h
    exact (State.served_requestOp hr).ended.trans (LaneOp.ended_run _ _)

theorem State.performOp_diverged {s t : State} {o : LaneOp} (h : s.performOp o = .diverged t) : t = s.diverge (teamCtx o.team) := by
  simp only [State.performOp] at h
  split at h
  · cases h
  · cases h; rfl
  · cases h

theorem State.ended_landOp (s : State) (o : LaneOp) (ws : List LaneWrite) : Ended s (s.landOp o ws) := ⟨rfl, id⟩

theorem State.ended_performEach (s : State) (os : List LaneOp) : Ended s (s.performEach os) := by
  refine Ended.foldl (fun s o => ?_) _ _
  refine Ended.ite (Ended.refl s) ?_
  split
  · rename_i h; exact (State.ended_performOp h).trans (State.ended_landOp _ _ _)
  · exact Ended.refl s
  · rename_i h; rw [State.performOp_diverged h]; exact State.ended_diverge _ _

theorem State.ended_performLaunch (s : State) (l : Nat) : Ended s (s.performLaunch l) := State.ended_performEach _ _

/-- The state that a drain leaves. -/
def Drain.state : Drain → State
  | .ok s => s
  | .wait s => s
  | .diverged s => s

theorem ended_performOps (os : List LaneOp) : ∀ s : State, Ended s (performOps os s).state := by
  induction os with
  | nil => intro s; exact Ended.refl s
  | cons o r ih =>
    intro s
    simp only [performOps]
    split
    · exact ih s
    · split
      · exact Ended.refl s
      · split
        · rename_i h; exact ((State.ended_performOp h).trans (State.ended_landOp _ _ _)).trans (ih _)
        · exact Ended.refl s
        · rename_i h; rw [State.performOp_diverged h]; exact State.ended_diverge _ _

/-- A team before which no access is outstanding has nothing to drain. -/
theorem State.drainOps_none {s : State} {k : Nat} (h : s.priorOps k = []) : s.drainOps k = .ok s := by
  simp only [State.drainOps, h, performOps]

theorem withDrained_none {s : State} {f : State → Out} (h : s.priorOps s.cur = []) : withDrained s f = f s := by
  simp only [withDrained, State.drainOps_none h]

theorem laneDrained_none {s : State} {f : State → LaneRes} (h : s.priorOps s.cur = []) : laneDrained s f = f s := by
  simp only [laneDrained, State.drainOps_none h]

/-! ### The end of levels -/

theorem State.ended_retract (s : State) (c : Nat) (al : Alloc) : Ended s (s.retract c al) := by
  simp only [State.retract]
  refine Ended.trans ?_ (State.served_poolReturn _ _ _).ended
  refine Ended.trans ?_ (State.ended_setCtxAt _ _ _)
  refine Ended.trans ?_ (State.ended_rewalkCtx _ _)
  exact ((Wrote.foldl (fun s i => State.wrote_unmapPage s _ _) _ _).served.trans (State.served_shootRange _ _ _ _ _)).ended

theorem State.ended_retractSoon (s : State) (c : Nat) (al : Alloc) : Ended s (s.retractSoon c al) := by
  simp only [State.retractSoon]
  exact Ended.ite (State.ended_setCtxAt _ _ _) (State.ended_retract _ _ _)

theorem State.ended_launchLeaves (s : State) (l : Nat) : Ended s (s.launchLeaves l) := by
  simp only [State.launchLeaves]
  exact (Ended.foldl (fun s al => State.ended_retractSoon s _ al) _ _).trans (State.ended_setCtxAt _ _ _)

theorem State.ended_launchDone (s : State) (l : Nat) : Ended s (s.launchDone l) := by
  simp only [State.launchDone]
  refine Ended.trans ?_ (State.counted_graphMember _ _ _ _ _).served.ended
  refine Ended.trans ?_ (State.ended_launchLeaves _ _)
  exact (State.ended_performLaunch _ _).trans (State.ended_setLaunchAt _ _ _)

theorem State.ended_launchCheck (s : State) (l : Nat) : Ended s (s.launchCheck l) := by
  simp only [State.launchCheck]
  exact Ended.ite (State.ended_launchDone s l) (Ended.refl s)

/-! ### The end of teams and blocks -/

theorem State.ended_removeBlock (s : State) (k : Nat) : Ended s (s.removeBlock k) := by
  simp only [State.removeBlock]
  refine Ended.trans ?_ (State.ended_promotePairs _)
  exact (State.ended_blockWaits s k).trans ⟨rfl, id⟩

theorem State.ended_endBlock (s : State) (k : Nat) (bad : Bool) : Ended s (s.endBlock k bad) := by
  simp only [State.endBlock]
  exact (State.ended_removeBlock s k).trans ((State.ended_setLaunchAt _ _ _).trans (State.ended_launchCheck _ _))

theorem State.ended_barrierCheck (s : State) (k slot : Nat) : Ended s (s.barrierCheck k slot) := by
  simp only [State.barrierCheck]
  split
  · exact (State.ended_setBlockAt _ _ _).trans (Ended.foldl (fun s i => State.ended_setTeamAt s _ _) _ _)
  · exact Ended.refl s

theorem State.ended_endTeam (s : State) (k : Nat) : Ended s (s.endTeam k) := by
  have h : Ended s ((List.range 8).foldl (fun s i => s.barrierCheck (teamBlock k) i)
      (((s.waitDone k).freeDatapath k).setTeamAt k (((s.waitDone k).freeDatapath k).teamAt k).finish)) :=
    (((State.ended_waitDone s k).trans (State.ended_freeDatapath _ k)).trans (State.ended_setTeamAt _ _ _)).trans
      (Ended.foldl (fun s i => State.ended_barrierCheck s _ _) _ _)
  simp only [State.endTeam]
  split
  · exact h
  · split
    · exact h.trans (State.ended_endBlock _ _ _)
    · exact h

theorem State.ended_squashBlock (s : State) (k : Nat) : Ended s (s.squashBlock k) := by
  simp only [State.squashBlock]
  have h : ∀ x : Launch, Ended s (((s.count ((s.blockAt k).share 0).core (ctxVf (launchCtx (blockLaunch k))) 13 1).removeBlock k).setLaunchAt (blockLaunch k) x) :=
    fun x => ((State.ended_count _ _ _ _ _).trans (State.ended_removeBlock _ _)).trans (State.ended_setLaunchAt _ _ _)
  split
  · exact h _
  · exact (h _).trans (State.ended_launchCheck _ _)

/-! ### Cancels -/

theorem State.ended_cancelApplies (s : State) (l : Nat) : Ended s (s.cancelApplies l) :=
  (State.ended_setLaunchAt _ _ _).trans (State.served_setJobAt _ _ _).ended

theorem State.ended_cancelLaunch (s : State) (l : Nat) : Ended s (s.cancelLaunch l) := by
  simp only [State.cancelLaunch]
  split
  · exact Ended.refl s
  · have h : ∀ (v : State) (b : Bool), Ended s v → Ended s (if b = true then v.cancelApplies l else v) := fun v b hv =>
      Ended.ite (hv.trans (State.ended_cancelApplies v l)) hv
    refine Ended.ite ?_ (Ended.trans ?_ (State.ended_launchCheck _ _)) <;>
      exact h _ _ (((State.ended_setLaunchAt _ _ _).trans (State.ended_launchLeaves _ _)).trans
        (Ended.foldl (fun s k => Ended.ite (State.ended_setBlockAt _ _ _) (State.ended_setBlockAt _ _ _)) _ _))

theorem State.ended_cancelGraph (s : State) (j p g : Nat) : Ended s (s.cancelGraph j p g) := by
  simp only [State.cancelGraph]
  exact Ended.ite (Ended.refl s) ((State.served_updGraph _ _ _ _ _).ended.trans (Ended.foldl (fun s i => State.ended_cancelLaunch s _) _ _))

theorem State.ended_cancelPhase (s : State) (j p : Nat) : Ended s (s.cancelPhase j p) := by
  simp only [State.cancelPhase]
  exact Ended.ite (Ended.refl s) ((State.served_setJobAt _ _ _).ended.trans (Ended.foldl (fun s i => State.ended_cancelGraph s _ _ _) _ _))

theorem State.ended_cancelJob (s : State) (j : Nat) : Ended s (s.cancelJob j) := by
  simp only [State.cancelJob]
  exact Ended.ite (Ended.refl s) ((State.served_setJobAt _ _ _).ended.trans (Ended.foldl (fun s i => State.ended_cancelPhase s _ _) _ _))

theorem State.ended_cancelLevel (s : State) (l : Nat) (lv : LevelKind) : Ended s (s.cancelLevel l lv) := by
  cases lv
  · exact State.ended_cancelLaunch s l
  · exact State.ended_cancelGraph s _ _ _
  · exact State.ended_cancelPhase s _ _
  · exact State.ended_cancelJob s _

end Sys2Proof.Machine
end

