-- ==== Sys2Proof/Laws/Outcome.lean ====
section
/-! SUPPORT. What the shared ends of the meanings can do: completing a scalar instruction, raising a trap, issuing a lane
instruction. -/

namespace Sys2Proof.Machine

/-! ### Frames -/

theorem SameMemory.of_eq {s t : State} (hm : t.mem = s.mem) (hw : t.wstore = s.wstore) (hb : t.blocks = s.blocks)
    (hl : t.launches = s.launches) : SameMemory s t := by
  constructor <;> intros <;> simp only [State.blockAt, State.launchAt, hm, hw, hb, hl]

theorem OnlyTeamAt.setTeamAt (s : State) (k : Nat) (x : Team) : OnlyTeamAt k s (s.setTeamAt k x) where
  rest := rfl
  others _ h := Table.find?_set_other _ x h
  memory := SameMemory.of_eq rfl rfl rfl rfl

theorem OnlyTeam.setTeam (s : State) (x : Team) : OnlyTeam s (s.setTeam x) := OnlyTeamAt.setTeamAt s s.cur x

/-! ### Holds on migrating pages -/

/-- A hold ends: what it held, and the progress that the watchdog counts. -/
theorem Team.unhold_eq (t : Team) (now : Word64) (limit : Nat) :
    t.unhold now limit = { t with hold := none, holdTrap := (t.unhold now limit).holdTrap, progress := (t.unhold now limit).progress } := by
  cases h : t.hold
  · simp only [Team.unhold, h]; rw [← h]
  · simp only [Team.unhold, h]

theorem Team.unhold_progress {t : Team} (h : t.hold = none) (now : Word64) (limit : Nat) : (t.unhold now limit).progress = t.progress := by
  simp only [Team.unhold, h]

/-- The held access of a stream proceeds. -/
theorem Team.proceed_eq (u : Team) (scalar : Bool) (now : Word64) :
    u.proceed scalar now = { u.goneOn scalar with gated := u.gated, progress := (u.proceed scalar now).progress } := by
  cases h : u.holds scalar
  · simp only [Team.proceed, Team.goneOn, h, if_false, Bool.false_eq_true]
  · have : u.hold ≠ none := by rintro hn; simp [Team.holds, hn] at h
    obtain ⟨z, hz⟩ := Option.ne_none_iff_exists'.mp this
    simp only [Team.proceed, Team.goneOn, Team.unhold, h, hz, if_true]

theorem Team.proceed_progress {u : Team} (h : u.hold = none) (scalar : Bool) (now : Word64) :
    (u.proceed scalar now).progress = u.progress := by
  unfold Team.proceed; split
  · exact Team.unhold_progress h _ _
  · rfl

/-! ### Scalar instructions -/

/-- The team that a completed scalar instruction leaves. -/
theorem Team.proceed_done (u : Team) (now : Word64) (spc : Word64) :
    { u.proceed true now with spc := spc, progress := now, gated := false } = { u.goneOn true with spc := spc, progress := now } := by
  rw [Team.proceed_eq]; rfl

/-- What completing a scalar instruction does. -/
theorem scalarDone_completed (s : State) (u : Team) (h : u.spc = s.team.spc) :
    ∃ t, scalarDone s u = .next t ∧ Completed s t u :=
  ⟨_, rfl, OnlyTeam.setTeam s _, by rw [State.team_setTeam, Team.proceed_done, h]⟩

/-- Completing with a scalar register written. -/
theorem scalarDone_sreg (s : State) (d : SReg) (v : Word64) :
    ∃ t, scalarDone s (s.team.setSreg d v) = .next t ∧ WroteSreg s t d v := by
  refine ⟨_, rfl, ⟨OnlyTeam.setTeam s _, ?_⟩, ?_⟩
  · rw [State.team_setTeam, Team.proceed_done, Team.setSreg_spc]
    conv_lhs => rw [Team.setSreg_eq]
    rfl
  · intro r
    rw [State.team_setTeam, Team.proceed_done, ← Team.sreg_setSreg]; rfl

/-- Completing with a scalar predicate written. -/
theorem scalarDone_qreg (s : State) (d : QReg) (v : Bool) :
    ∃ t, scalarDone s (s.team.setQreg d v) = .next t ∧ WroteQreg s t d v := by
  refine ⟨_, rfl, ⟨OnlyTeam.setTeam s _, ?_⟩, ?_⟩
  · rw [State.team_setTeam, Team.proceed_done, Team.setQreg_spc]
    conv_lhs => rw [Team.setQreg_eq]
    rfl
  · intro r
    rw [State.team_setTeam, Team.proceed_done, ← Team.qreg_setQreg]; rfl

/-! ### Traps -/

@[simp] theorem State.freeDatapath_teams (s : State) (k : Nat) : (s.freeDatapath k).teams = s.teams := rfl

/-- `TRAPINFO` is built of its fields (R84). -/
theorem trapInfoWord_toNat (tr : Trap) : (trapInfoWord tr).toNat =
    tr.cause % 256 + tr.lane % 1024 * 65536 + tr.fbyte % 16 * 67108864 + (if tr.straddle then 1073741824 else 0) +
      (if tr.scalar then 2147483648 else 0) + tr.detail % 256 * 4294967296 := by
  have e : trapInfoWord tr = BitVec.ofNat 64 (tr.cause % 256 + tr.lane % 1024 * 65536 + tr.fbyte % 16 * 67108864 +
      (if tr.straddle then 1073741824 else 0) + (if tr.scalar then 2147483648 else 0) + tr.detail % 256 * 4294967296) := rfl
  rw [e, BitVec.toNat_ofNat, Nat.mod_eq_of_lt]
  have h1 : tr.cause % 256 < 256 := Nat.mod_lt _ (by omega)
  have h2 : tr.lane % 1024 < 1024 := Nat.mod_lt _ (by omega)
  have h3 : tr.fbyte % 16 < 16 := Nat.mod_lt _ (by omega)
  have h4 : tr.detail % 256 < 256 := Nat.mod_lt _ (by omega)
  generalize tr.cause % 256 = x1 at *
  generalize tr.lane % 1024 = x2 at *
  generalize tr.fbyte % 16 = x3 at *
  generalize tr.detail % 256 = x4 at *
  have h5 : (if tr.straddle then 1073741824 else 0 : Nat) ≤ 1073741824 := by split <;> omega
  have h6 : (if tr.scalar then 2147483648 else 0 : Nat) ≤ 2147483648 := by split <;> omega
  omega

theorem trapInfoWord_cause (tr : Trap) : (trapInfoWord tr).extractLsb' 0 8 = BitVec.ofNat 8 tr.cause := by
  apply BitVec.eq_of_toNat_eq
  rw [BitVec.extractLsb'_toNat, trapInfoWord_toNat, BitVec.toNat_ofNat, Nat.shiftRight_zero, show (2 : Nat) ^ 8 = 256 from rfl]
  split <;> split <;> omega

theorem trapInfoWord_detail (tr : Trap) : (trapInfoWord tr).extractLsb' 32 8 = BitVec.ofNat 8 tr.detail := by
  apply BitVec.eq_of_toNat_eq
  rw [BitVec.extractLsb'_toNat, trapInfoWord_toNat, BitVec.toNat_ofNat, Nat.shiftRight_eq_div_pow,
    show (2 : Nat) ^ 8 = 256 from rfl, show (2 : Nat) ^ 32 = 4294967296 from rfl]
  split <;> split <;> omega

theorem trapInfoWord_lane (tr : Trap) : (trapInfoWord tr).extractLsb' 16 10 = BitVec.ofNat 10 tr.lane := by
  apply BitVec.eq_of_toNat_eq
  rw [BitVec.extractLsb'_toNat, trapInfoWord_toNat, BitVec.toNat_ofNat, Nat.shiftRight_eq_div_pow,
    show (2 : Nat) ^ 10 = 1024 from rfl, show (2 : Nat) ^ 16 = 65536 from rfl]
  split <;> split <;> omega

theorem trapInfoWord_stream (tr : Trap) : (trapInfoWord tr).getLsbD 31 = tr.scalar := by
  rw [BitVec.getLsbD, trapInfoWord_toNat, Nat.testBit_eq_decide_div_mod_eq, show (2 : Nat) ^ 31 = 2147483648 from rfl]
  cases tr.scalar <;> simp <;> split <;> omega

/-- Nothing that comes before the entry of a trap is due at a block's boundary (R394). -/
theorem State.trapVoid_false {s : State} {b : Nat} (h : (s.blockAt b).squashDue = false ∧ (s.blockAt b).ending = none ∧ (s.blockAt b).saveDue = false)
    (cause : Nat) : s.trapVoid b cause = false := by
  simp [State.trapVoid, State.saveHolds, h]

/-- What entering a trap of the scalar stream does, where nothing stands in its way. -/
theorem takeTrap_scalar (s : State) (h : CanTrap s) (cause detail : Nat) (hc : cause ≠ 0x06) (hc' : cause ≠ 0x10) (addr back : Word64) :
    EnteredScalar s (takeTrap s s.cur { cause := cause, detail := detail, addr := addr, lanes := s.team.mask, scalar := true } back back [])
      cause detail addr back := by
  have h1 : s.team.sup = false := h.user
  have h2 : (s.ctx.trapBase == 0) = false := by simpa using h.handler
  have h3 : s.block.prov = false := h.confirmed
  have h4 : s.trapVoid (teamBlock s.cur) cause = false := State.trapVoid_false h.first cause
  have hk : (cause == 0x10) = false := by simpa using hc'
  have e : takeTrap s s.cur { cause := cause, detail := detail, addr := addr, lanes := s.team.mask, scalar := true } back back [] =
      (s.freeDatapath s.cur).setTeamAt s.cur
        { s.team with
          trapInfo := trapInfoWord { cause := cause, detail := detail, addr := addr, lanes := s.team.mask, scalar := true }
          trapAddr := addr
          trapRet := some { mask := s.team.mask, spc := back, resume := back, aside := [], cmd := none }
          sup := true, runs := [], active := none, spc := s.ctx.trapBase, ltrap := none, heldTrap := none, gated := false
          held := false, polling := false, hold := none, holdTrap := none
          progress := (s.team.unhold s.clock s.clock.toNat).progress } := by
    simp only [State.team, State.ctx, State.block] at h1 h2 h3 h4
    simp only [takeTrap, deliverTrap, h3, h4, h1, h2, hk, hc, if_false, Bool.false_or, Bool.false_eq_true, if_true, State.team,
      State.ctx]
    rw [Team.unhold_eq]
  rw [e]
  have ht : ∀ (z : State) (x : Team), ((z.setTeamAt s.cur x).teamAt s.cur) = x := fun z x => by simp
  refine ⟨rfl, fun j hj => ?_, SameMemory.of_eq rfl rfl rfl rfl, fun c => ?_, ?_, fun hw => ?_, ?_, ?_, ?_, ?_⟩
  · exact Table.find?_set_other _ _ hj
  · by_cases hc : c = (s.teamAt s.cur).core
    · subst hc; simp [State.freeDatapath]
    · have : (s.freeDatapath s.cur).coreAt c = s.coreAt c := State.coreAt_setCoreAt_other _ _ hc
      simp [this]
  all_goals simp only [State.team, State.setTeamAt_cur] at *
  · simp [State.freeDatapath]
  · simp [State.freeDatapath, Team.unhold_progress hw]
  · simp [State.freeDatapath, trapInfoWord_cause]
  · simp [State.freeDatapath, trapInfoWord_detail]
  · simp [State.freeDatapath, trapInfoWord_lane]
  · simp [State.freeDatapath, trapInfoWord_stream]

/-- A scalar instruction whose check fails enters its trap, where nothing stands in its way. -/
theorem scalarTrap_enters (s : State) (h : CanTrap s) (cause detail : Nat) (hc : cause ≠ 0x06) (hc' : cause ≠ 0x10) (addr : Word64) :
    ∃ t, scalarTrap s cause detail addr = .next t ∧ EnteredScalar s t cause detail addr s.team.spc := by
  refine ⟨_, ?_, takeTrap_scalar s h cause detail hc hc' addr s.team.spc⟩
  simp only [scalarTrap, h.retired, if_true]

/-! ### Lane instructions -/

theorem Team.putLanes_eq (t : Team) (ws : List LaneWrite) : t.putLanes ws = { t with lanes := (t.putLanes ws).lanes } := by
  induction ws generalizing t with
  | nil => rfl
  | cons w rest ih => simp only [Team.putLanes]; rw [ih]

/-- Writing results into the lanes changes the lanes alone. -/
theorem Team.land_eq (t : Team) (ps : List Pend) : t.land ps = { t with lanes := (t.land ps).lanes } := by
  have key : ∀ (qs : List Pend) (u : Team), qs.foldl (fun t p => t.putLanes p.writes) u =
      { u with lanes := (qs.foldl (fun t p => t.putLanes p.writes) u).lanes } := by
    intro qs
    induction qs with
    | nil => intro u; rfl
    | cons q rest ih => intro u; simp only [List.foldl_cons]; rw [ih, Team.putLanes_eq]
  exact key _ t

theorem Team.landDue_eq (t : Team) (a : Active) : t.landDue a = { t with lanes := (t.landDue a).lanes } := Team.land_eq t _

theorem Team.token_raise (t : Team) (j k : Nat) :
    (t.raise j).token k = t.token k + (if k = j ∧ 1 ≤ k ∧ k ≤ 3 then 1 else 0) := by
  unfold Team.raise Team.token
  split <;> split <;> simp_all <;> omega

theorem Team.raise_eq (t : Team) (k : Nat) :
    t.raise k = { t with t1 := (t.raise k).t1, t2 := (t.raise k).t2, t3 := (t.raise k).t3 } := by
  unfold Team.raise; split <;> rfl

/-- The common checks of a lane instruction all pass: what follows is the instruction's own rule (R30 to R41, R302). -/
theorem laneIssue_body {i : Instr} {c : Ctl} {s : State} {a : Active} (h : Issuable i c s a)
    (body : State → Team → Active → List Nat → LaneRes) :
    laneIssue i c body s =
      match body (s.setTeam (s.team.landDue a)) (s.team.landDue a) a ((s.team.landDue a).execLanes c) with
      | .results lat ws =>
        issueDone s (if c.set = 0 then s.team.landDue a else (s.team.landDue a).launchIns { n := 0, tok := c.set }) a i c
          [{ due := a.time + lat, dsts := laneWrites i, writes := ws }]
      | .issued s' ins => issueDone s' (s'.team.launchIns { ins with tok := c.set }) a i c []
      | .effect s' => issueDone s' s'.team a i c []
      | .trap tr => laneTrap s a tr
      | .trapIn s' tr => laneTrap { s' with teams := s.teams } a tr
      | .hold s' => .next (s'.setTeam { s'.team with held := true })
      | .requeue s' => .next (s'.endGrant s.cur)
      | .gate =>
        .next (s.setTeam { (s.team.landDue a).atGate s.clock with active := some { a with pend := a.pend.filter (fun p => a.time < p.due) } })
      | .stop f => .fault f := by
  have h1 : (s.team.landDue a).stallchk = s.team.stallchk := by rw [Team.landDue_eq]
  have h2 : (s.team.stallchk && passes (s.team.landDue a).mask != 0 && tooEarly a i) = false := by
    cases hs : s.team.stallchk
    · rfl
    · simp [h.early hs]
  have h3 : ((BitVec.ofNat 3 c.wait &&& a.run.raised) != 0) = false := by simp [h.tokens]
  simp only [laneIssue, h.granted, h.more, h.inside, h3, h.free, h1, h2, Bool.false_eq_true, if_false]
  all_goals
    generalize body (s.setTeam (s.team.landDue a)) (s.team.landDue a) a ((s.team.landDue a).execLanes c) = r
    cases r <;> rfl

/-- What issuing leaves, from the team `u` that the instruction's rule leaves in `s'`. -/
theorem issueDone_issued {s s' : State} {u : Team} {a : Active} {i : Instr} {c : Ctl} {new : List Pend} {ins : Option Inflight}
    (hm : u.mask = s.team.mask) (hu : u = { s.team.landDue a with inflight := u.inflight, nextIns := u.nextIns, t1 := u.t1, t2 := u.t2, t3 := u.t3 })
    (hi : u.inflight = s.team.inflight ++ (ins.map (fun f => { f with n := s.team.nextIns, tok := c.set })).toList)
    (ht : ∀ k, u.token k = s.team.token k + (if ins.isSome ∧ k = c.set ∧ 1 ≤ k ∧ k ≤ 3 then 1 else 0)) :
    ∃ t, issueDone s' u a i c new = .next t ∧ t = s'.setTeam t.team ∧ IssuedFrame s t a ∧ IssuedTeam s t i c a new ins := by
  have hp := Team.proceed_eq u false s'.clock
  have hh : s.team.hold = none → u.hold = none := fun h => by rw [hu, Team.landDue_eq]; exact h
  refine ⟨_, rfl, by simp, ⟨?_, ?_, fun h => ?_⟩, ?_, ?_, ?_⟩
  · rw [State.team_setTeam, hp, hu]; rfl
  · rw [State.team_setTeam, hp, hu, Team.landDue_eq]; rfl
  · rw [State.team_setTeam]
    show (u.proceed false s'.clock).progress = _
    rw [Team.proceed_progress (hh h), hu, Team.landDue_eq]
  · rw [State.team_setTeam, ← hm]; rfl
  · rw [State.team_setTeam, hp]; exact hi
  · intro k; rw [State.team_setTeam, hp, ← ht k]; rfl

theorem launchIns_inflight (t : Team) (f : Inflight) : (t.launchIns f).inflight = t.inflight ++ [{ f with n := t.nextIns }] := by
  unfold Team.launchIns Team.raise; rfl

theorem launchIns_token (t : Team) (f : Inflight) (k : Nat) : (t.launchIns f).token k = (t.raise f.tok).token k := rfl

theorem launchIns_eq (t : Team) (f : Inflight) : t.launchIns f =
    { t with inflight := (t.launchIns f).inflight, nextIns := (t.launchIns f).nextIns, t1 := (t.launchIns f).t1,
             t2 := (t.launchIns f).t2, t3 := (t.launchIns f).t3 } := by
  unfold Team.launchIns; rw [Team.raise_eq]

/-- What a fixed-latency instruction does when the common checks pass. -/
theorem laneIssue_results {i : Instr} {c : Ctl} {s : State} {a : Active} (h : Issuable i c s a) {lat : Nat} {ws : List LaneWrite}
    (body : State → Team → Active → List Nat → LaneRes)
    (hb : body (s.setTeam (s.team.landDue a)) (s.team.landDue a) a ((s.team.landDue a).execLanes c) = .results lat ws) :
    ∃ t, laneIssue i c body s = .next t ∧ OnlyTeam s t ∧ IssuedFrame s t a ∧
      IssuedTeam s t i c a [{ due := a.time + lat, dsts := laneWrites i, writes := ws }] (if c.set = 0 then none else some { n := 0 }) := by
  have hl := Team.landDue_eq s.team a
  rw [laneIssue_body h body, hb]
  by_cases hc : c.set = 0
  · simp only [hc, if_true]
    have e := issueDone_issued (s := s) (s' := s) (u := s.team.landDue a) (a := a) (i := i) (c := c) (ins := none)
      (new := [{ due := a.time + lat, dsts := laneWrites i, writes := ws }])
      (by rw [hl]) rfl (by rw [hl]; simp) (by intro k; rw [hl]; simp [Team.token])
    obtain ⟨t, h1, h2, h3, h4⟩ := e
    exact ⟨t, h1, by rw [h2]; exact OnlyTeam.setTeam s _, h3, h4⟩
  · simp only [hc, if_false]
    have e := issueDone_issued (s := s) (s' := s) (u := (s.team.landDue a).launchIns { n := 0, tok := c.set }) (a := a) (i := i) (c := c)
      (ins := some { n := 0 }) (new := [{ due := a.time + lat, dsts := laneWrites i, writes := ws }])
      (by rw [launchIns_eq, hl]) (launchIns_eq _ _) (by rw [launchIns_inflight, hl]; simp)
      (by intro k; rw [launchIns_token, Team.token_raise, hl]; simp [Team.token])
    obtain ⟨t, h1, h2, h3, h4⟩ := e
    exact ⟨t, h1, by rw [h2]; exact OnlyTeam.setTeam s _, h3, h4⟩

/-- What a variable-latency instruction does when the common checks pass and its own rule performs it in `s'`. -/
theorem laneIssue_issued {i : Instr} {c : Ctl} {s s' : State} {a : Active} (h : Issuable i c s a) {ins : Inflight}
    (body : State → Team → Active → List Nat → LaneRes)
    (hb : body (s.setTeam (s.team.landDue a)) (s.team.landDue a) a ((s.team.landDue a).execLanes c) = .issued s' ins)
    (ht : s'.team = s.team.landDue a) :
    ∃ t, laneIssue i c body s = .next t ∧ t = s'.setTeam t.team ∧ IssuedFrame s t a ∧ IssuedTeam s t i c a [] (some ins) := by
  have hl := Team.landDue_eq s.team a
  rw [laneIssue_body h body, hb]
  exact issueDone_issued (s := s) (u := s'.team.launchIns { ins with tok := c.set }) (ins := some ins)
    (by rw [launchIns_eq, ht, hl]) (by rw [launchIns_eq, ht]) (by rw [launchIns_inflight, ht, hl]; simp)
    (by intro k; rw [launchIns_token, Team.token_raise, ht, hl]; simp [Team.token])

/-- What an instruction that is complete at its issue does. -/
theorem laneIssue_effect {i : Instr} {c : Ctl} {s s' : State} {a : Active} (h : Issuable i c s a)
    (body : State → Team → Active → List Nat → LaneRes)
    (hb : body (s.setTeam (s.team.landDue a)) (s.team.landDue a) a ((s.team.landDue a).execLanes c) = .effect s')
    (ht : s'.team = s.team.landDue a) :
    ∃ t, laneIssue i c body s = .next t ∧ t = s'.setTeam t.team ∧ IssuedFrame s t a ∧ IssuedTeam s t i c a [] none := by
  have hl := Team.landDue_eq s.team a
  rw [laneIssue_body h body, hb]
  exact issueDone_issued (s := s) (u := s'.team) (ins := none)
    (by rw [ht, hl]) (by rw [ht]) (by rw [ht, hl]; simp)
    (by intro k; rw [ht, hl]; simp [Team.token])

end Sys2Proof.Machine
end

