-- ==== Sys2Proof/Laws/Issue.lean ====
section
/-! SUPPORT. What the operations that the lane instructions share do: traps, checks, scratchpad, global accesses, locks and tiles. -/

namespace Sys2Proof.Machine

/-! ### Lists and tables -/

/-- A key has no entry where the search finds none. -/
theorem Table.has_eq_false_iff {α : Type} (t : Table α) (i : Nat) : Table.has t i = false ↔ Table.find? t i = none := by
  simp [Table.has]

/-- What the search of a table finds stands in it. -/
theorem Table.mem_of_find? {α : Type} {t : Table α} {k : Nat} {x : α} (h : Table.find? t k = some x) : (k, x) ∈ t := by
  induction t with
  | nil => cases h
  | cons e r ih =>
    obtain ⟨j, y⟩ := e
    simp only [Table.find?] at h
    by_cases hj : j = k
    · rw [if_pos hj] at h; cases h; subst hj; exact List.mem_cons_self
    · rw [if_neg hj] at h; exact List.mem_cons_of_mem _ (ih h)

/-- A key that the search finds is one of the keys. -/
theorem Table.mem_keys_of_find? {α : Type} (t : Table α) (i : Nat) (h : Table.find? t i ≠ none) : i ∈ t.map (·.1) := by
  induction t with
  | nil => exact absurd rfl h
  | cons e r ih =>
    obtain ⟨j, x⟩ := e
    simp only [Table.find?] at h
    by_cases hj : j = i
    · simp [hj]
    · rw [if_neg hj] at h; simp only [List.map_cons, List.mem_cons]; exact Or.inr (ih h)

/-- Setting an entry adds at most one. -/
theorem Table.length_set_le {α : Type} (t : Table α) (i : Nat) (v : α) : (Table.set t i v).length ≤ t.length + 1 := by
  induction t with
  | nil => simp [Table.set]
  | cons e r ih =>
    obtain ⟨j, x⟩ := e
    simp only [Table.set]
    split
    · simp
    · split <;> simp only [List.length_cons] <;> omega

/-- Little-endian bytes as a number are below their size. -/
theorem leNat_lt (bs : List Byte) : leNat bs < 256 ^ bs.length := by
  induction bs with
  | nil => simp [leNat]
  | cons x r ih =>
    have := x.isLt
    simp only [leNat, List.length_cons, Nat.pow_succ]; omega

/-- A read of `n` bytes is below 256^n. -/
theorem Memory.readNat_lt (m : Memory) (a n : Nat) : m.readNat a n < 256 ^ n := by
  have := leNat_lt (m.readBytes a n); rwa [Memory.readBytes_length] at this

/-! ### The state of a lane trap -/

/-- Landing every result changes the lanes and the results on their way alone. -/
theorem Team.landAll_eq (t : Team) : t.landAll = { t with lanes := t.landAll.lanes, active := t.landAll.active } := by
  unfold Team.landAll
  split
  · rfl
  · next a ha => simp only; rw [Team.land_eq]

theorem Team.landAll_lanes {t : Team} {a : Active} (h : t.active = some a) : t.landAll.lanes = (t.land a.pend).lanes := by
  unfold Team.landAll; rw [h]

/-- What taking a trap of a lane instruction does where nothing stands in its way (R384). -/
theorem laneTrap_enters (s : State) (a : Active) (h : CanTrapLane s) (ha : s.team.active = some a) (tr : Trap) (hc' : tr.cause ≠ 0x10)
    (hs : tr.scalar = false) (hcmd : tr.cmd = none) :
    ∃ t, laneTrap s a tr = .next t ∧ EnteredLane s t a tr.cause tr.detail tr.addr tr.lanes tr.lane := by
  have h1 : s.team.landAll.sup = false := by rw [Team.landAll_eq]; exact h.user
  have h2 : (s.ctx.trapBase == 0) = false := by simpa using h.handler
  have h3 : s.block.prov = false := h.confirmed
  have hk : (tr.cause == 0x10) = false := by simpa using hc'
  refine ⟨_, rfl, ?_⟩
  have hl := Team.landAll_lanes ha
  have e := Team.landAll_eq s.team
  generalize s.team.landAll = u at *
  have hp : ((s.setTeam u).blockAt (teamBlock s.cur)).prov = false := h3
  have hv : (s.setTeam u).trapVoid (teamBlock s.cur) tr.cause = false := State.trapVoid_false (s := s.setTeam u) h.first tr.cause
  have hb : (((s.setTeam u).ctxAt (teamCtx s.cur)).trapBase == 0) = false := h2
  have ht : (s.setTeam u).teamAt s.cur = u := by simp [State.setTeam]
  have hu : (u.sup || ((s.setTeam u).ctxAt (teamCtx s.cur)).trapBase == 0 || tr.cause == 0x10) = false := by
    rw [h1, hb, hk]; rfl
  have et : takeTrap (s.setTeam u) s.cur tr s.team.spc a.lpc (a.remainder :: s.team.runs.tail) =
      (((if tr.cause = 0x06 then (s.setTeam u).count u.core (teamVf s.cur) 10 1 else s.setTeam u).freeDatapath s.cur).setTeamAt s.cur
        { u with
          trapInfo := trapInfoWord tr
          trapAddr := tr.addr
          trapRet := some { mask := u.mask, spc := s.team.spc, resume := a.lpc, aside := a.remainder :: s.team.runs.tail, cmd := none }
          mask := tr.lanes, sup := true, runs := [], active := none, spc := s.ctx.trapBase, ltrap := none, heldTrap := none
          gated := false, held := false, polling := false, hold := none, holdTrap := none
          progress := (u.unhold s.clock s.clock.toNat).progress }) := by
    unfold takeTrap deliverTrap
    simp only [hp, hv, ht, Bool.false_eq_true, if_false]
    simp only [hu, Bool.false_eq_true, if_false, hs, hcmd]
    split <;> rw [Team.unhold_eq] <;> rfl
  have e2 : takeTrap (s.setTeam u) s.cur tr u.spc a.lpc (a.remainder :: u.runs.tail) =
     takeTrap (s.setTeam u) s.cur tr s.team.spc a.lpc (a.remainder :: s.team.runs.tail) := by rw [e]
  rw [e2, et]
  have hl' : u.lanes = (s.team.land a.pend).lanes := hl
  refine ⟨?_, ?_, ?_, ?_, ?_, ?_, ?_, ?_⟩
  · split <;> rfl
  · intro j hj
    refine (Table.find?_set_other _ _ hj).trans ?_
    split <;> exact Table.find?_set_other _ _ hj
  all_goals
    have hT : ∀ (z : State) (x : Team), z.cur = s.cur → ((z.setTeamAt s.cur x).team) = x := fun z x hz => by
      unfold State.team; simp [hz]
    rw [hT _ _ (by split <;> rfl)]
  · rw [e]
    simp [hl', Active.remainder]
  · intro hw
    show (u.unhold s.clock s.clock.toNat).progress = _
    rw [Team.unhold_progress (by rw [e]; exact hw), e]
  · exact trapInfoWord_cause tr
  · exact trapInfoWord_detail tr
  · exact trapInfoWord_lane tr
  · exact (trapInfoWord_stream tr).trans hs

/-- An instruction that may issue and whose rule traps enters the handler. -/
theorem laneIssue_trap {i : Instr} {c : Ctl} {s : State} {a : Active} (h : Issuable i c s a) (ht : CanTrapLane s) {tr : Trap} (body : State → Team → Active → List Nat → LaneRes)
    (hb : body (s.setTeam (s.team.landDue a)) (s.team.landDue a) a ((s.team.landDue a).execLanes c) = .trap tr)
    (hc' : tr.cause ≠ 0x10) (hs : tr.scalar = false) (hcmd : tr.cmd = none) :
    ∃ t, laneIssue i c body s = .next t ∧ EnteredLane s t a tr.cause tr.detail tr.addr tr.lanes tr.lane := by
  rw [laneIssue_body h body, hb]
  exact laneTrap_enters s a ht h.granted tr hc' hs hcmd

/-! ### Positions -/

/-- The executing lanes come in rising order. -/
theorem execLanes_rising (t : Team) (c : Ctl) : (t.execLanes c).Pairwise (· < ·) := by
  unfold Team.execLanes Team.activeLanes
  exact (List.pairwise_lt_range.filter _).filter _

/-- No lane executes twice. -/
theorem execLanes_nodup (t : Team) (c : Ctl) : (t.execLanes c).Nodup := (execLanes_rising t c).imp (fun h => Nat.ne_of_lt h)

/-- Where every check passes no lane faults. -/
theorem laneFaults_none (ex : List Nat) (f : Nat → LaneCheck) (h : ∀ p ∈ ex, f p = .ok) : laneFaults (ex.map (fun p => (p, f p))) = none := by
  have : (ex.map (fun p => (p, f p))).find? (fun x => x.2 != .ok) = none := by
    rw [List.find?_eq_none]
    intro x hx
    obtain ⟨p, hp, rfl⟩ := List.mem_map.mp hx
    simp [h p hp]
  unfold laneFaults
  rw [this]

/-! ### Scratchpad -/

/-- The place of a scratchpad access (R88, R89). -/
theorem State.scratchAt_iff (s : State) (a n ci off : Nat) : s.scratchAt a n = some (ci, off) ↔
   (((a = off ∧ ci = s.shareIdx s.cur) ∨ (a = 0x4000000 + ci * 0x1000000 + off ∧ ci < 3 ∧ ci < s.block.shares.length)) ∧ off < 0x1000000 ∧ off + n ≤ s.kernel.scratch) := by
  simp only [State.scratchAt, scratchTarget, bitsOf]
  generalize s.block.shares.length = c
  generalize s.kernel.scratch = S
  generalize s.shareIdx s.cur = own
  norm_num only
  by_cases h1 : 134217728 ≤ a
  · simp only [h1, if_true]; constructor
    · intro h; cases h
    · rintro ⟨⟨h, -⟩ | ⟨h, h2, h3⟩, h4, h5⟩ <;> omega
  · simp only [h1, if_false]
    by_cases h2 : a / 67108864 % 2 = 0
    · simp only [h2, if_true]
      constructor
      · intro h
        split at h
        · simp only [Option.some.injEq, Prod.mk.injEq] at h; omega
        · cases h
      · rintro ⟨⟨h, h6⟩ | ⟨h, h7, h3⟩, h4, h5⟩
        · rw [if_pos (by omega)]; simp only [Option.some.injEq, Prod.mk.injEq]; omega
        · omega
    · simp only [h2, if_false]
      constructor
      · intro h
        split at h
        · simp only [Option.some.injEq, Prod.mk.injEq] at h; omega
        · cases h
      · rintro ⟨⟨h, h6⟩ | ⟨h, h7, h3⟩, h4, h5⟩
        · omega
        · rw [if_pos (by omega)]; simp only [Option.some.injEq, Prod.mk.injEq]; omega

/-- A scratchpad access whose place, alignment and locks are right passes its check. -/
theorem scratchCheck_ok {s : State} {x n : Nat} {w : Bool} {ci off : Nat} (hx : x < 2 ^ 64) (h : ScratchOk s x n w ci off) :
    scratchCheck s x n w = .ok ∧ scratchSpot s x n = (ci, off) := by
  have hx' : (BitVec.ofNat 64 x).toNat = x := by rw [BitVec.toNat_ofNat, Nat.mod_eq_of_lt hx]
  have h1 := (State.scratchAt_iff s x n ci off).mpr ⟨by have := h.spot.place; rwa [hx'] at this, h.spot.field, h.spot.inside⟩
  have h2 : x % n = 0 := by have := h.spot.aligned; rwa [hx'] at this
  simp only [scratchCheck, scratchSpot, h1, h2, h.free, ne_eq, not_true, if_false, Option.getD_some, and_self]

/-- A misaligned scratchpad access fails its check first. -/
theorem scratchCheck_mis {s : State} {x n : Nat} {w : Bool} (h : x % n ≠ 0) :
    scratchCheck s x n w = .bad 0x05 0x00 (BitVec.ofNat 64 x) := by simp [scratchCheck, h]

/-- Counting replay cycles changes the counters alone. -/
theorem State.countReplay_eq (s : State) (reqs) : s.countReplay reqs = { s with perf := (s.countReplay reqs).perf } := by
  unfold State.countReplay
  simp only
  split <;> rfl

theorem State.countReplay_cases (s : State) (reqs) (P : State → Prop) (h : ∀ q, P { s with perf := q }) : P (s.countReplay reqs) := by
  rw [State.countReplay_eq]; exact h _

/-- `t` is `s` but for the scratchpads of the current block. -/
structure ScratchOnly (s t : State) : Prop where
  rest : t = { s with blocks := t.blocks }
  blocks : ∀ j, j ≠ teamBlock s.cur → Table.find? t.blocks j = Table.find? s.blocks j
  block : t.block = { s.block with shares := t.block.shares }
  len : t.block.shares.length = s.block.shares.length
  shares : ∀ cj, t.block.share cj = { s.block.share cj with scratch := (t.block.share cj).scratch }

theorem ScratchOnly.refl (s : State) : ScratchOnly s s := ⟨rfl, fun _ _ => rfl, rfl, rfl, fun _ => rfl⟩

theorem ScratchOnly.cur {s t : State} (h : ScratchOnly s t) : t.cur = s.cur := by rw [h.rest]

theorem ScratchOnly.kernel {s t : State} (h : ScratchOnly s t) : t.kernel = s.kernel := by rw [h.rest]; rfl

theorem ScratchOnly.trans {s t u : State} (h : ScratchOnly s t) (h' : ScratchOnly t u) : ScratchOnly s u where
  rest := by rw [h'.rest, h.rest]
  blocks j hj := (h'.blocks j (by rw [h.cur]; exact hj)).trans (h.blocks j hj)
  block := by rw [h'.block, h.block]
  len := h'.len.trans h.len
  shares cj := by rw [h'.shares cj, h.shares cj]

/-- What a scratchpad write does. -/
theorem State.scratchWrite_spec (s : State) (ci off n x : Nat) (h : ci < s.block.shares.length) :
    ScratchOnly s (s.scratchWrite (teamBlock s.cur) ci off n x) ∧
    ∀ cj, ((s.scratchWrite (teamBlock s.cur) ci off n x).block.share cj).scratch =
      if cj = ci then (s.block.share cj).scratch.writeNat off n x else (s.block.share cj).scratch := by
  have hb : (s.scratchWrite (teamBlock s.cur) ci off n x).block = { s.block with shares := listUpd s.block.shares ci (fun h => { h with scratch := h.scratch.writeNat off n x }) } := State.blockAt_setBlockAt_same _ _ _
  have hsh : ∀ cj, (s.scratchWrite (teamBlock s.cur) ci off n x).block.share cj =
     if cj = ci then { s.block.share cj with scratch := (s.block.share cj).scratch.writeNat off n x } else s.block.share cj := by
    intro cj
    rw [hb]
    simp only [Block.share, listUpd_getD, h, and_true]
  refine ⟨⟨rfl, fun j hj => Table.find?_set_other _ _ hj, ?_, ?_, ?_⟩, ?_⟩
  · rw [hb]
  · rw [hb]; exact listUpd_length _ _ _
  · intro cj; rw [hsh]; split <;> rfl
  · intro cj; rw [hsh]; split <;> rfl

theorem ScratchOnly.scratchAt {s t : State} (h : ScratchOnly s t) (x n : Nat) : t.scratchAt x n = s.scratchAt x n := by
  have h1 : t.block.place = s.block.place := by rw [h.block]
  have h2 : (t.blockAt (teamBlock s.cur)).place = (s.blockAt (teamBlock s.cur)).place := by
    have := h1; simp only [State.block, h.cur] at this; exact this
  have h3 : t.shareIdx t.cur = s.shareIdx s.cur := by
    rw [h.cur]; simp only [State.shareIdx, Block.indexOf, h2]
  unfold State.scratchAt
  rw [h.kernel, h.len, h3]

/-- Where the rows of a tile lie does not depend on the team. -/
theorem rowsTarget_setTeam (s : State) (u : Team) (sw : Swizzle) (x y n r : Nat) (w : Bool) :
    rowsTarget (s.setTeam u) sw x y n r w = rowsTarget s sw x y n r w := by
  have h1 : (s.setTeam u).scratchAt = s.scratchAt := by funext x n; rfl
  have h2 : (s.setTeam u).scratchLock (teamBlock (s.setTeam u).cur) = s.scratchLock (teamBlock s.cur) := by funext a b c d; rfl
  unfold rowsTarget
  rw [h1, h2]

/-! ### Global memory -/

/-- A translation changes memory and the caches of the cores alone. -/
theorem State.translate_rest (s : State) (w : Who) (va : Word64) (k : Access) : (s.translate w va k).2 = { s with mem := (s.translate w va k).2.mem, cores := (s.translate w va k).2.cores } := by
  have hw : ∀ s : State, (s.translateWalk w va k).2 = { s with mem := (s.translateWalk w va k).2.mem, cores := (s.translateWalk w va k).2.cores } := by
    intro s
    simp only [State.translateWalk]
    split
    · rfl
    · split
      · rfl
      · split
        · rfl
        · split
          · rfl
          · generalize (if k = .write then (32:Word64) else 0) = z
            split <;> rfl
  simp only [State.translate]
  split
  · rfl
  · split
    · exact hw s
    · split
      · rfl
      · split
        · split
          · rfl
          · exact hw s
        · rfl

theorem State.translate_eq {s s1 : State} {w va k x} (h : s.translate w va k = (x, s1)) : s1 = { s with mem := s1.mem, cores := s1.cores } := by
  have := State.translate_rest s w va k; rw [h] at this; exact this

theorem translateUnits_rest (w : Who) (k : Access) (us : List Nat) (s : State) :
    (translateUnits w k us s).2 = { s with mem := (translateUnits w k us s).2.mem, cores := (translateUnits w k us s).2.cores } := by
  induction us generalizing s with
  | nil => rfl
  | cons x us ih =>
    simp only [translateUnits]
    have h1 := State.translate_rest s w (BitVec.ofNat 64 (x * 4096)) k
    have h2 := ih (s.translate w (BitVec.ofNat 64 (x * 4096)) k).2
    rw [h2, h1]

/-- A list without repeats has none. -/
theorem nodup_eraseDups (l : List Nat) : l.eraseDups.Nodup := by
  induction h : l.length using Nat.strong_induction_on generalizing l with
  | _ n ih =>
    cases l with
    | nil => simp
    | cons x r =>
      rw [List.eraseDups_cons, List.nodup_cons]
      refine ⟨by simp [List.mem_eraseDups], ih (r.filter (fun y => !y == x)).length ?_ _ rfl⟩
      have := List.length_filter_le (fun y => !y == x) r
      simp only [List.length_cons] at h; omega

/-- The order of lanes in one access names each lane once. -/
theorem laneSeq_perm (s : State) (ex : List Nat) (h : ex.Nodup) : List.Perm (laneSeq s ex) ex := by
  unfold laneSeq
  have h1 := nodup_eraseDups (s.laneOrder.filter (fun p => ex.contains p))
  have h2 : ∀ x, x ∈ (s.laneOrder.filter (fun p => ex.contains p)).eraseDups ↔ x ∈ s.laneOrder ∧ x ∈ ex := by
    intro x; rw [List.mem_eraseDups]; simp
  generalize (s.laneOrder.filter (fun p => ex.contains p)).eraseDups = first at *
  simp only
  rw [List.perm_ext_iff_of_nodup]
  · intro x
    simp only [List.mem_append, List.mem_filter, Bool.not_eq_true', List.contains_eq_mem, decide_eq_false_iff_not, h2]
    tauto
  · rw [List.nodup_append]
    refine ⟨h1, h.filter _, ?_⟩
    intro a ha b hb e
    subst e
    simp only [List.mem_filter, Bool.not_eq_true', List.contains_eq_mem, decide_eq_false_iff_not] at hb
    exact hb.2 ha
  · exact h

/-- An access whose lanes all reach memory goes on to perform. -/
theorem globalIssue_ok {i : Instr} {g : GlobalUse} {va : Nat → Nat} {act : Nat → LaneAct} {s s1 : State} {ex : List Nat} {spot : Nat → Spot}
    {gated : Bool} (hg : gated = false) (h : ReachesGlobal s s1 ex va g spot) (hnd : ex.Nodup) :
    s1 = { s with mem := s1.mem, cores := s1.cores } ∧
    ∃ seq, List.Perm seq ex ∧
      let ops := seq.map (fun p => laneOp s1 g (va p) p (spot p) (act p))
      globalIssue i g va gated act s ex =
        if g.strong = true ∧ ex ≠ [] then laneDrained s1 (fun v => perfRes s (laneWrites i) (issueOps ops v []))
        else perfRes s (laneWrites i) (issueOps ops s1 []) := by
  obtain ⟨xs, hx, hp⟩ := h.reached
  have hr := translateUnits_rest s.who (if g.use = .read then .read else .write) (unitsOf g.bytes (ex.map va)) s
  rw [hx] at hr
  simp only at hr
  refine ⟨hr, laneSeq s ex, laneSeq_perm s ex hnd, ?_⟩
  have hteam : s1.team = s.team := by rw [hr]; rfl
  have hcur : s1.cur = s.cur := by rw [hr]
  have hck : ∀ p ∈ ex, globalCheck s1 xs g (va p) = .ok := by
    intro p hq
    unfold globalCheck
    simp only [h.aligned p hq, hp p hq, ne_eq, not_true, if_false]
    rw [hteam, hcur, h.unlocked p hq]
  have hnone := laneFaults_none ex (fun p => globalCheck s1 xs g (va p)) hck
  have h2 : ex.any (fun p => placeOf s1 xs g (va p) == .gate) = false := by
    rw [List.any_eq_false]; intro p hq; rw [hp p hq]; simp
  have h3 : ex.find? (fun p => placeOf s1 xs g (va p) == .migrating) = none := by
    rw [List.find?_eq_none]; intro p hq; rw [hp p hq]; simp
  have h4 : (ex.any (fun p => (spotKeys s1 g (placeOf s1 xs g (va p)).spotOf).any noMemory)) = false := by
    rw [List.any_eq_false]
    intro p hq
    rw [hp p hq, Bool.not_eq_true, List.any_eq_false]
    intro k hk
    simp [h.present p hq k hk]
  have h5 : (laneSeq s ex).map (fun p => laneOp s1 g (va p) p (placeOf s1 xs g (va p)).spotOf (act p)) =
      (laneSeq s ex).map (fun p => laneOp s1 g (va p) p (spot p) (act p)) := by
    refine List.map_congr_left (fun p hq => ?_)
    rw [hp p ((laneSeq_perm s ex hnd).subset hq)]
    rfl
  unfold globalIssue
  simp only [hx, hnone, h2, h3, hg, Bool.false_and, Bool.or_self, Bool.false_eq_true, if_false, h4, h5]
  cases ex <;> simp

/-! ### Locks, tiles, counters, memories -/

/-- A table with an entry to spare has a free index. -/
theorem freeLock_some (t : Table Lock) (h : t.length < 64) : ∃ i, freeLock t = some i ∧ Table.find? t i = none := by
  unfold freeLock
  cases hf : (List.range 64).find? (fun i => !t.has i) with
  | some i =>
    refine ⟨i, rfl, ?_⟩
    have := List.find?_some hf
    rw [← Table.has_eq_false_iff]; simpa using this
  | none =>
    exfalso
    rw [List.find?_eq_none] at hf
    have hsub : List.range 64 ⊆ t.map (·.1) := by
      intro i hi
      have := hf i hi
      apply Table.mem_keys_of_find?
      rw [ne_eq, ← Table.has_eq_false_iff]; simpa using this
    have := (List.subperm_of_subset List.nodup_range hsub).length_le
    simp at this; omega

/-- Two entries registered on one core stand at two free indices. -/
theorem State.addLocks_two (s : State) (c : Nat) (l0 l1 : Lock) (h : (s.coreAt c).locks.length + 2 ≤ 64) :
    ∃ i0 i1, i0 ≠ i1 ∧ Table.find? (s.coreAt c).locks i0 = none ∧ Table.find? (s.coreAt c).locks i1 = none ∧
      s.addLocks [(c, l0), (c, l1)] = s.setCoreAt c { s.coreAt c with locks := ((s.coreAt c).locks.set i0 l0).set i1 l1 } := by
  obtain ⟨i0, f0, g0⟩ := freeLock_some (s.coreAt c).locks (by omega)
  obtain ⟨i1, f1, g1⟩ := freeLock_some ((s.coreAt c).locks.set i0 l0) (by have := Table.length_set_le (s.coreAt c).locks i0 l0; omega)
  have hne : i0 ≠ i1 := by intro e; subst e; rw [Table.find?_set_same] at g1; cases g1
  refine ⟨i0, i1, hne, g0, ?_, ?_⟩
  · rw [Table.find?_set_other _ _ (Ne.symm hne)] at g1; exact g1
  · simp only [State.addLocks, f0]
    rw [State.coreAt_setCoreAt_same]
    simp only [f1]
    unfold State.setCoreAt
    simp

/-- What writing a tile does. -/
theorem State.setTile_spec {z : State} {ci d : Nat} {m : Memory} (h : HasTile z ci d) :
    let w := z.setTile (teamBlock z.cur) ci d m
    w = { z with blocks := w.blocks } ∧ (∀ b, b ≠ teamBlock z.cur → Table.find? w.blocks b = Table.find? z.blocks b) ∧
      w.block = { z.block with shares := w.block.shares } ∧ w.block.shares.length = z.block.shares.length ∧
      (∀ cj, w.block.share cj = { z.block.share cj with tiles := (w.block.share cj).tiles }) ∧
      (∀ cj, (w.block.share cj).tiles = if cj = ci then listUpd (z.block.share cj).tiles d (fun _ => m) else (z.block.share cj).tiles) := by
  intro w
  have hb : w.block = { z.block with shares := listUpd z.block.shares ci (fun h => { h with tiles := listUpd h.tiles d (fun _ => m) }) } := State.blockAt_setBlockAt_same _ _ _
  have hsh : ∀ cj, w.block.share cj = if cj = ci then { z.block.share cj with tiles := listUpd (z.block.share cj).tiles d (fun _ => m) } else z.block.share cj := by
    intro cj
    rw [hb]
    simp only [Block.share, listUpd_getD, h.1, and_true]
  refine ⟨rfl, fun b hb => Table.find?_set_other _ _ hb, by rw [hb], by rw [hb]; exact listUpd_length _ _ _, fun cj => ?_, fun cj => ?_⟩
  · rw [hsh]; split <;> rfl
  · rw [hsh]; split <;> rfl

/-- The memories of a block are canonical. -/
theorem MemoriesWf.share {s : State} (h : MemoriesWf s) (ci : Nat) : (s.block.share ci).scratch.wf = true ∧ (s.block.share ci).wbuf.wf = true ∧ ∀ n, Memory.wf ((s.block.share ci).tiles.getD n []) = true := by
  have key : ∀ x : Share, (x.scratch.wf = true ∧ x.wbuf.wf = true ∧ ∀ m ∈ x.tiles, Memory.wf m = true) → x.scratch.wf = true ∧ x.wbuf.wf = true ∧ ∀ n, Memory.wf (x.tiles.getD n []) = true := by
    rintro x ⟨h1, h2, h3⟩
    refine ⟨h1, h2, fun n => ?_⟩
    by_cases hn : n < x.tiles.length
    · rw [List.getD_eq_getElem?_getD, List.getElem?_eq_getElem hn]; exact h3 _ (List.getElem_mem hn)
    · rw [List.getD_eq_getElem?_getD, List.getElem?_eq_none (by omega)]; rfl
  apply key
  by_cases hc : ci < s.block.shares.length
  · have hm : s.block.share ci ∈ s.block.shares := by
      unfold Block.share; rw [List.getD_eq_getElem?_getD, List.getElem?_eq_getElem hc]; exact List.getElem_mem hc
    cases hf : Table.find? s.blocks (teamBlock s.cur) with
    | none =>
      have : s.block = default := by unfold State.block State.blockAt Table.get; rw [hf]; rfl
      rw [this] at hc; exact absurd hc (Nat.not_lt_zero _)
    | some b =>
      have : s.block = b := by unfold State.block State.blockAt Table.get; rw [hf]; rfl
      rw [this] at hm ⊢
      exact h.blocks _ (Table.mem_of_find? hf) _ hm
  · have : s.block.share ci = { core := 0, slot := 0 } := by
      unfold Block.share; rw [List.getD_eq_getElem?_getD, List.getElem?_eq_none (by omega)]; rfl
    rw [this]; decide

theorem perfKey_inj {c v n c' v' n' : Nat} (hv : v < 16) (hn : n < 32) (hv' : v' < 16) (hn' : n' < 32)
    (h : perfKey c v n = perfKey c' v' n') : c = c' ∧ v = v' ∧ n = n' := by
  unfold perfKey at h; omega

/-- What counting does to each counter. -/
theorem State.count_get (s : State) (c v n x j : Nat) :
    Table.get (s.count c v n x).perf j = if j = perfKey c v n then Table.get s.perf j + BitVec.ofNat 64 x else Table.get s.perf j := by
  unfold State.count
  simp only [Table.get_set]
  split
  · next h => subst h; rfl
  · rfl

end Sys2Proof.Machine
end

