-- ==== Sys2Proof/Laws/PerInstr.lean ====
section
/-! SUPPORT. Statements made of each instruction as syntax, one lemma for each constructor. -/

namespace Sys2Proof.Laws.OneWord

/-- An instruction has at most one word: a scalar word, a lane word, or, as a step of the part, none (R251, R265). -/
def Statement (i : Instr) : Prop := encodeScalar i = none ∨ encodeLane i = none

theorem aluAdd : ∀ x0 x1 x2, Statement (.aluAdd x0 x1 x2) := fun _ _ _ => Or.inr rfl
theorem aluSub : ∀ x0 x1 x2, Statement (.aluSub x0 x1 x2) := fun _ _ _ => Or.inr rfl
theorem aluAnd : ∀ x0 x1 x2, Statement (.aluAnd x0 x1 x2) := fun _ _ _ => Or.inr rfl
theorem aluOr : ∀ x0 x1 x2, Statement (.aluOr x0 x1 x2) := fun _ _ _ => Or.inr rfl
theorem aluXor : ∀ x0 x1 x2, Statement (.aluXor x0 x1 x2) := fun _ _ _ => Or.inr rfl
theorem aluSll : ∀ x0 x1 x2, Statement (.aluSll x0 x1 x2) := fun _ _ _ => Or.inr rfl
theorem aluSrl : ∀ x0 x1 x2, Statement (.aluSrl x0 x1 x2) := fun _ _ _ => Or.inr rfl
theorem aluSra : ∀ x0 x1 x2, Statement (.aluSra x0 x1 x2) := fun _ _ _ => Or.inr rfl
theorem aluMul : ∀ x0 x1 x2, Statement (.aluMul x0 x1 x2) := fun _ _ _ => Or.inr rfl
theorem aluMulh : ∀ x0 x1 x2, Statement (.aluMulh x0 x1 x2) := fun _ _ _ => Or.inr rfl
theorem aluMulhu : ∀ x0 x1 x2, Statement (.aluMulhu x0 x1 x2) := fun _ _ _ => Or.inr rfl
theorem aluMin : ∀ x0 x1 x2, Statement (.aluMin x0 x1 x2) := fun _ _ _ => Or.inr rfl
theorem aluMax : ∀ x0 x1 x2, Statement (.aluMax x0 x1 x2) := fun _ _ _ => Or.inr rfl
theorem aluMinu : ∀ x0 x1 x2, Statement (.aluMinu x0 x1 x2) := fun _ _ _ => Or.inr rfl
theorem aluMaxu : ∀ x0 x1 x2, Statement (.aluMaxu x0 x1 x2) := fun _ _ _ => Or.inr rfl
theorem addi : ∀ x0 x1 x2, Statement (.addi x0 x1 x2) := fun _ _ _ => Or.inr rfl
theorem andi : ∀ x0 x1 x2, Statement (.andi x0 x1 x2) := fun _ _ _ => Or.inr rfl
theorem ori : ∀ x0 x1 x2, Statement (.ori x0 x1 x2) := fun _ _ _ => Or.inr rfl
theorem xori : ∀ x0 x1 x2, Statement (.xori x0 x1 x2) := fun _ _ _ => Or.inr rfl
theorem slli : ∀ x0 x1 x2, Statement (.slli x0 x1 x2) := fun _ _ _ => Or.inr rfl
theorem srli : ∀ x0 x1 x2, Statement (.srli x0 x1 x2) := fun _ _ _ => Or.inr rfl
theorem srai : ∀ x0 x1 x2, Statement (.srai x0 x1 x2) := fun _ _ _ => Or.inr rfl
theorem lui : ∀ x0 x1, Statement (.lui x0 x1) := fun _ _ => Or.inr rfl
theorem scmp : ∀ x0 x1 x2 x3, Statement (.scmp x0 x1 x2 x3) := fun _ _ _ _ => Or.inr rfl
theorem ssel : ∀ x0 x1 x2 x3 x4, Statement (.ssel x0 x1 x2 x3 x4) := fun _ _ _ _ _ => Or.inr rfl
theorem qand : ∀ x0 x1 x2, Statement (.qand x0 x1 x2) := fun _ _ _ => Or.inr rfl
theorem qor : ∀ x0 x1 x2, Statement (.qor x0 x1 x2) := fun _ _ _ => Or.inr rfl
theorem qxor : ∀ x0 x1 x2, Statement (.qxor x0 x1 x2) := fun _ _ _ => Or.inr rfl
theorem qandn : ∀ x0 x1 x2, Statement (.qandn x0 x1 x2) := fun _ _ _ => Or.inr rfl
theorem b : ∀ x0 x1 x2, Statement (.b x0 x1 x2) := fun _ _ _ => Or.inr rfl
theorem call : ∀ x0 x1 x2, Statement (.call x0 x1 x2) := fun _ _ _ => Or.inr rfl
theorem jr : ∀ x0, Statement (.jr x0) := fun _ => Or.inr rfl
theorem callr : ∀ x0, Statement (.callr x0) := fun _ => Or.inr rfl
theorem run : ∀ x0 x1, Statement (.run x0 x1) := fun _ _ => Or.inr rfl
theorem mpush : ∀ x0, Statement (.mpush x0) := fun _ => Or.inr rfl
theorem melse : Statement .melse := Or.inr rfl
theorem mpop : Statement .mpop := Or.inr rfl
theorem sany : ∀ x0 x1, Statement (.sany x0 x1) := fun _ _ => Or.inr rfl
theorem sall : ∀ x0 x1, Statement (.sall x0 x1) := fun _ _ => Or.inr rfl
theorem spop : ∀ x0 x1, Statement (.spop x0 x1) := fun _ _ => Or.inr rfl
theorem sfind : ∀ x0 x1, Statement (.sfind x0 x1) := fun _ _ => Or.inr rfl
theorem sred : ∀ x0 x1 x2, Statement (.sred x0 x1 x2) := fun _ _ _ => Or.inr rfl
theorem ldk : ∀ x0 x1 x2, Statement (.ldk x0 x1 x2) := fun _ _ _ => Or.inr rfl
theorem ldkN32 : ∀ x0 x1 x2, Statement (.ldkN32 x0 x1 x2) := fun _ _ _ => Or.inr rfl
theorem sldN8 : ∀ x0 x1 x2, Statement (.sldN8 x0 x1 x2) := fun _ _ _ => Or.inr rfl
theorem sldN16 : ∀ x0 x1 x2, Statement (.sldN16 x0 x1 x2) := fun _ _ _ => Or.inr rfl
theorem sldN32 : ∀ x0 x1 x2, Statement (.sldN32 x0 x1 x2) := fun _ _ _ => Or.inr rfl
theorem sldB64 : ∀ x0 x1 x2, Statement (.sldB64 x0 x1 x2) := fun _ _ _ => Or.inr rfl
theorem sstN8 : ∀ x0 x1 x2, Statement (.sstN8 x0 x1 x2) := fun _ _ _ => Or.inr rfl
theorem sstN16 : ∀ x0 x1 x2, Statement (.sstN16 x0 x1 x2) := fun _ _ _ => Or.inr rfl
theorem sstN32 : ∀ x0 x1 x2, Statement (.sstN32 x0 x1 x2) := fun _ _ _ => Or.inr rfl
theorem sstB64 : ∀ x0 x1 x2, Statement (.sstB64 x0 x1 x2) := fun _ _ _ => Or.inr rfl
theorem swait : ∀ x0 x1 x2 x3 x4 x5 x6, Statement (.swait x0 x1 x2 x3 x4 x5 x6) := fun _ _ _ _ _ _ _ => Or.inr rfl
theorem swaitPoll : Statement .swaitPoll := Or.inl rfl
theorem cpy : ∀ x0, Statement (.cpy x0) := fun _ => Or.inr rfl
theorem bseal : ∀ x0, Statement (.bseal x0) := fun _ => Or.inr rfl
theorem bwait : ∀ x0 x1, Statement (.bwait x0 x1) := fun _ _ => Or.inr rfl
theorem launch : ∀ x0 x1, Statement (.launch x0 x1) := fun _ _ => Or.inr rfl
theorem lwait : ∀ x0 x1 x2, Statement (.lwait x0 x1 x2) := fun _ _ _ => Or.inr rfl
theorem lstat : ∀ x0 x1 x2, Statement (.lstat x0 x1 x2) := fun _ _ _ => Or.inr rfl
theorem lcancel : ∀ x0 x1, Statement (.lcancel x0 x1) := fun _ _ => Or.inr rfl
theorem galloc : ∀ x0 x1, Statement (.galloc x0 x1) := fun _ _ => Or.inr rfl
theorem gfree : ∀ x0, Statement (.gfree x0) := fun _ => Or.inr rfl
theorem flush : ∀ x0 x1 x2, Statement (.flush x0 x1 x2) := fun _ _ _ => Or.inr rfl
theorem srd : ∀ x0 x1, Statement (.srd x0 x1) := fun _ _ => Or.inr rfl
theorem swr : ∀ x0 x1, Statement (.swr x0 x1) := fun _ _ => Or.inr rfl
theorem trap : ∀ x0, Statement (.trap x0) := fun _ => Or.inr rfl
theorem tret : Statement .tret := Or.inr rfl
theorem exit : Statement .exit := Or.inr rfl
theorem isync : Statement .isync := Or.inr rfl
theorem icinv : ∀ x0 x1 x2, Statement (.icinv x0 x1 x2) := fun _ _ _ => Or.inr rfl
theorem tlbinv : ∀ x0 x1 x2 x3 x4, Statement (.tlbinv x0 x1 x2 x3 x4) := fun _ _ _ _ _ => Or.inr rfl
theorem tlbinvAsid : ∀ x0 x1 x2, Statement (.tlbinvAsid x0 x1 x2) := fun _ _ _ => Or.inr rfl
theorem tlbinvVf : ∀ x0, Statement (.tlbinvVf x0) := fun _ => Or.inr rfl
theorem tlbsync : Statement .tlbsync := Or.inr rfl
theorem ptfence : Statement .ptfence := Or.inr rfl
theorem rngreg : ∀ x0 x1 x2, Statement (.rngreg x0 x1 x2) := fun _ _ _ => Or.inr rfl
theorem iadd : ∀ x0 x1 x2 x3 x4 x5, Statement (.iadd x0 x1 x2 x3 x4 x5) := fun _ _ _ _ _ _ => Or.inl rfl
theorem isub : ∀ x0 x1 x2 x3 x4 x5, Statement (.isub x0 x1 x2 x3 x4 x5) := fun _ _ _ _ _ _ => Or.inl rfl
theorem imul : ∀ x0 x1 x2 x3 x4 x5, Statement (.imul x0 x1 x2 x3 x4 x5) := fun _ _ _ _ _ _ => Or.inl rfl
theorem imulh : ∀ x0 x1 x2 x3 x4, Statement (.imulh x0 x1 x2 x3 x4) := fun _ _ _ _ _ => Or.inl rfl
theorem imad : ∀ x0 x1 x2 x3 x4 x5 x6, Statement (.imad x0 x1 x2 x3 x4 x5 x6) := fun _ _ _ _ _ _ _ => Or.inl rfl
theorem idiv : ∀ x0 x1 x2 x3 x4, Statement (.idiv x0 x1 x2 x3 x4) := fun _ _ _ _ _ => Or.inl rfl
theorem irem : ∀ x0 x1 x2 x3 x4, Statement (.irem x0 x1 x2 x3 x4) := fun _ _ _ _ _ => Or.inl rfl
theorem imin : ∀ x0 x1 x2 x3 x4, Statement (.imin x0 x1 x2 x3 x4) := fun _ _ _ _ _ => Or.inl rfl
theorem imax : ∀ x0 x1 x2 x3 x4, Statement (.imax x0 x1 x2 x3 x4) := fun _ _ _ _ _ => Or.inl rfl
theorem iabs : ∀ x0 x1 x2 x3 x4, Statement (.iabs x0 x1 x2 x3 x4) := fun _ _ _ _ _ => Or.inl rfl
theorem ineg : ∀ x0 x1 x2 x3 x4, Statement (.ineg x0 x1 x2 x3 x4) := fun _ _ _ _ _ => Or.inl rfl
theorem land : ∀ x0 x1 x2 x3 x4, Statement (.land x0 x1 x2 x3 x4) := fun _ _ _ _ _ => Or.inl rfl
theorem lor : ∀ x0 x1 x2 x3 x4, Statement (.lor x0 x1 x2 x3 x4) := fun _ _ _ _ _ => Or.inl rfl
theorem lxor : ∀ x0 x1 x2 x3 x4, Statement (.lxor x0 x1 x2 x3 x4) := fun _ _ _ _ _ => Or.inl rfl
theorem lnot : ∀ x0 x1 x2 x3, Statement (.lnot x0 x1 x2 x3) := fun _ _ _ _ => Or.inl rfl
theorem shl : ∀ x0 x1 x2 x3 x4, Statement (.shl x0 x1 x2 x3 x4) := fun _ _ _ _ _ => Or.inl rfl
theorem shr : ∀ x0 x1 x2 x3 x4, Statement (.shr x0 x1 x2 x3 x4) := fun _ _ _ _ _ => Or.inl rfl
theorem sar : ∀ x0 x1 x2 x3 x4, Statement (.sar x0 x1 x2 x3 x4) := fun _ _ _ _ _ => Or.inl rfl
theorem rol : ∀ x0 x1 x2 x3 x4, Statement (.rol x0 x1 x2 x3 x4) := fun _ _ _ _ _ => Or.inl rfl
theorem popc : ∀ x0 x1 x2 x3, Statement (.popc x0 x1 x2 x3) := fun _ _ _ _ => Or.inl rfl
theorem clz : ∀ x0 x1 x2 x3, Statement (.clz x0 x1 x2 x3) := fun _ _ _ _ => Or.inl rfl
theorem brev : ∀ x0 x1 x2 x3, Statement (.brev x0 x1 x2 x3) := fun _ _ _ _ => Or.inl rfl
theorem bfe : ∀ x0 x1 x2 x3 x4 x5, Statement (.bfe x0 x1 x2 x3 x4 x5) := fun _ _ _ _ _ _ => Or.inl rfl
theorem bfi : ∀ x0 x1 x2 x3 x4 x5 x6, Statement (.bfi x0 x1 x2 x3 x4 x5 x6) := fun _ _ _ _ _ _ _ => Or.inl rfl
theorem mov : ∀ x0 x1 x2 x3, Statement (.mov x0 x1 x2 x3) := fun _ _ _ _ => Or.inl rfl
theorem sel : ∀ x0 x1 x2 x3 x4 x5, Statement (.sel x0 x1 x2 x3 x4 x5) := fun _ _ _ _ _ _ => Or.inl rfl
theorem icmp : ∀ x0 x1 x2 x3 x4 x5, Statement (.icmp x0 x1 x2 x3 x4 x5) := fun _ _ _ _ _ _ => Or.inl rfl
theorem fadd : ∀ x0 x1 x2 x3 x4, Statement (.fadd x0 x1 x2 x3 x4) := fun _ _ _ _ _ => Or.inl rfl
theorem fsub : ∀ x0 x1 x2 x3 x4, Statement (.fsub x0 x1 x2 x3 x4) := fun _ _ _ _ _ => Or.inl rfl
theorem fmul : ∀ x0 x1 x2 x3 x4, Statement (.fmul x0 x1 x2 x3 x4) := fun _ _ _ _ _ => Or.inl rfl
theorem ffma : ∀ x0 x1 x2 x3 x4 x5, Statement (.ffma x0 x1 x2 x3 x4 x5) := fun _ _ _ _ _ _ => Or.inl rfl
theorem fmin : ∀ x0 x1 x2 x3, Statement (.fmin x0 x1 x2 x3) := fun _ _ _ _ => Or.inl rfl
theorem fmax : ∀ x0 x1 x2 x3, Statement (.fmax x0 x1 x2 x3) := fun _ _ _ _ => Or.inl rfl
theorem fabs : ∀ x0 x1 x2, Statement (.fabs x0 x1 x2) := fun _ _ _ => Or.inl rfl
theorem fneg : ∀ x0 x1 x2, Statement (.fneg x0 x1 x2) := fun _ _ _ => Or.inl rfl
theorem fcmp : ∀ x0 x1 x2 x3 x4, Statement (.fcmp x0 x1 x2 x3 x4) := fun _ _ _ _ _ => Or.inl rfl
theorem frint : ∀ x0 x1 x2 x3, Statement (.frint x0 x1 x2 x3) := fun _ _ _ _ => Or.inl rfl
theorem dadd : ∀ x0 x1 x2 x3 x4, Statement (.dadd x0 x1 x2 x3 x4) := fun _ _ _ _ _ => Or.inl rfl
theorem dsub : ∀ x0 x1 x2 x3 x4, Statement (.dsub x0 x1 x2 x3 x4) := fun _ _ _ _ _ => Or.inl rfl
theorem dmul : ∀ x0 x1 x2 x3 x4, Statement (.dmul x0 x1 x2 x3 x4) := fun _ _ _ _ _ => Or.inl rfl
theorem dfma : ∀ x0 x1 x2 x3 x4 x5, Statement (.dfma x0 x1 x2 x3 x4 x5) := fun _ _ _ _ _ _ => Or.inl rfl
theorem dmin : ∀ x0 x1 x2 x3, Statement (.dmin x0 x1 x2 x3) := fun _ _ _ _ => Or.inl rfl
theorem dmax : ∀ x0 x1 x2 x3, Statement (.dmax x0 x1 x2 x3) := fun _ _ _ _ => Or.inl rfl
theorem dabs : ∀ x0 x1 x2, Statement (.dabs x0 x1 x2) := fun _ _ _ => Or.inl rfl
theorem dneg : ∀ x0 x1 x2, Statement (.dneg x0 x1 x2) := fun _ _ _ => Or.inl rfl
theorem dcmp : ∀ x0 x1 x2 x3 x4, Statement (.dcmp x0 x1 x2 x3 x4) := fun _ _ _ _ _ => Or.inl rfl
theorem cvt : ∀ x0 x1 x2 x3 x4 x5 x6, Statement (.cvt x0 x1 x2 x3 x4 x5 x6) := fun _ _ _ _ _ _ _ => Or.inl rfl
theorem rcp : ∀ x0 x1 x2, Statement (.rcp x0 x1 x2) := fun _ _ _ => Or.inl rfl
theorem rsq : ∀ x0 x1 x2, Statement (.rsq x0 x1 x2) := fun _ _ _ => Or.inl rfl
theorem sqrt : ∀ x0 x1 x2, Statement (.sqrt x0 x1 x2) := fun _ _ _ => Or.inl rfl
theorem exp2 : ∀ x0 x1 x2, Statement (.exp2 x0 x1 x2) := fun _ _ _ => Or.inl rfl
theorem log2 : ∀ x0 x1 x2, Statement (.log2 x0 x1 x2) := fun _ _ _ => Or.inl rfl
theorem sin : ∀ x0 x1 x2, Statement (.sin x0 x1 x2) := fun _ _ _ => Or.inl rfl
theorem cos : ∀ x0 x1 x2, Statement (.cos x0 x1 x2) := fun _ _ _ => Or.inl rfl
theorem rand : ∀ x0 x1 x2 x3 x4, Statement (.rand x0 x1 x2 x3 x4) := fun _ _ _ _ _ => Or.inl rfl
theorem pand : ∀ x0 x1 x2 x3, Statement (.pand x0 x1 x2 x3) := fun _ _ _ _ => Or.inl rfl
theorem por : ∀ x0 x1 x2 x3, Statement (.por x0 x1 x2 x3) := fun _ _ _ _ => Or.inl rfl
theorem pxor : ∀ x0 x1 x2 x3, Statement (.pxor x0 x1 x2 x3) := fun _ _ _ _ => Or.inl rfl
theorem pandn : ∀ x0 x1 x2 x3, Statement (.pandn x0 x1 x2 x3) := fun _ _ _ _ => Or.inl rfl
theorem vote : ∀ x0 x1 x2, Statement (.vote x0 x1 x2) := fun _ _ _ => Or.inl rfl
theorem shfl : ∀ x0 x1 x2 x3 x4 x5, Statement (.shfl x0 x1 x2 x3 x4 x5) := fun _ _ _ _ _ _ => Or.inl rfl
theorem reduce : ∀ x0 x1 x2 x3, Statement (.reduce x0 x1 x2 x3) := fun _ _ _ _ => Or.inl rfl
theorem scan : ∀ x0 x1 x2 x3, Statement (.scan x0 x1 x2 x3) := fun _ _ _ _ => Or.inl rfl
theorem sample : ∀ x0 x1 x2 x3 x4, Statement (.sample x0 x1 x2 x3 x4) := fun _ _ _ _ _ => Or.inl rfl
theorem msplit : ∀ x0 x1 x2 x3 x4 x5, Statement (.msplit x0 x1 x2 x3 x4 x5) := fun _ _ _ _ _ _ => Or.inl rfl
theorem isect : ∀ x0 x1 x2 x3 x4 x5, Statement (.isect x0 x1 x2 x3 x4 x5) := fun _ _ _ _ _ _ => Or.inl rfl
theorem lds : ∀ x0 x1 x2 x3 x4 x5 x6 x7, Statement (.lds x0 x1 x2 x3 x4 x5 x6 x7) := fun _ _ _ _ _ _ _ _ => Or.inl rfl
theorem sts : ∀ x0 x1 x2 x3 x4 x5 x6, Statement (.sts x0 x1 x2 x3 x4 x5 x6) := fun _ _ _ _ _ _ _ => Or.inl rfl
theorem atos : ∀ x0 x1 x2 x3 x4 x5 x6 x7 x8, Statement (.atos x0 x1 x2 x3 x4 x5 x6 x7 x8) := fun _ _ _ _ _ _ _ _ _ => Or.inl rfl
theorem gld : ∀ x0 x1 x2 x3 x4 x5 x6 x7, Statement (.gld x0 x1 x2 x3 x4 x5 x6 x7) := fun _ _ _ _ _ _ _ _ => Or.inl rfl
theorem gst : ∀ x0 x1 x2 x3 x4 x5 x6 x7 x8, Statement (.gst x0 x1 x2 x3 x4 x5 x6 x7 x8) := fun _ _ _ _ _ _ _ _ _ => Or.inl rfl
theorem gatom : ∀ x0 x1 x2 x3 x4 x5 x6 x7 x8 x9, Statement (.gatom x0 x1 x2 x3 x4 x5 x6 x7 x8 x9) := fun _ _ _ _ _ _ _ _ _ _ => Or.inl rfl
theorem gred : ∀ x0 x1 x2 x3 x4 x5 x6 x7 x8, Statement (.gred x0 x1 x2 x3 x4 x5 x6 x7 x8) := fun _ _ _ _ _ _ _ _ _ => Or.inl rfl
theorem xfer : ∀ x0 x1 x2 x3 x4 x5 x6 x7, Statement (.xfer x0 x1 x2 x3 x4 x5 x6 x7) := fun _ _ _ _ _ _ _ _ => Or.inl rfl
theorem fence : ∀ x0 x1 x2, Statement (.fence x0 x1 x2) := fun _ _ _ => Or.inl rfl
theorem tld : ∀ x0 x1 x2 x3 x4 x5 x6, Statement (.tld x0 x1 x2 x3 x4 x5 x6) := fun _ _ _ _ _ _ _ => Or.inl rfl
theorem tst : ∀ x0 x1 x2 x3 x4 x5 x6, Statement (.tst x0 x1 x2 x3 x4 x5 x6) := fun _ _ _ _ _ _ _ => Or.inl rfl
theorem tmov : ∀ x0 x1 x2 x3 x4, Statement (.tmov x0 x1 x2 x3 x4) := fun _ _ _ _ _ => Or.inl rfl
theorem tzero : ∀ x0 x1, Statement (.tzero x0 x1) := fun _ _ => Or.inl rfl
theorem wld : ∀ x0 x1 x2 x3, Statement (.wld x0 x1 x2 x3) := fun _ _ _ _ => Or.inl rfl
theorem mma : ∀ x0 x1 x2 x3 x4 x5 x6, Statement (.mma x0 x1 x2 x3 x4 x5 x6) := fun _ _ _ _ _ _ _ => Or.inl rfl
theorem mmaPair : ∀ x0 x1 x2 x3 x4 x5 x6, Statement (.mmaPair x0 x1 x2 x3 x4 x5 x6) := fun _ _ _ _ _ _ _ => Or.inl rfl
theorem prune : ∀ x0 x1 x2 x3 x4 x5, Statement (.prune x0 x1 x2 x3 x4 x5) := fun _ _ _ _ _ _ => Or.inl rfl
theorem become : ∀ x0 x1 x2, Statement (.become x0 x1 x2) := fun _ _ _ => Or.inl rfl
theorem emit : ∀ x0 x1, Statement (.emit x0 x1) := fun _ _ => Or.inl rfl
theorem ltrap : ∀ x0 x1, Statement (.ltrap x0 x1) := fun _ _ => Or.inl rfl
theorem bar : ∀ x0 x1, Statement (.bar x0 x1) := fun _ _ => Or.inl rfl
theorem barn : ∀ x0 x1 x2, Statement (.barn x0 x1 x2) := fun _ _ _ => Or.inl rfl
theorem nop : ∀ x0, Statement (.nop x0) := fun _ => Or.inl rfl
theorem runGrant : ∀ x0 x1, Statement (.runGrant x0 x1) := fun _ _ => Or.inl rfl
theorem runRetire : ∀ x0, Statement (.runRetire x0) := fun _ => Or.inl rfl
theorem instructionCompletion : ∀ x0 x1, Statement (.instructionCompletion x0 x1) := fun _ _ => Or.inl rfl
theorem settlement : ∀ x0, Statement (.settlement x0) := fun _ => Or.inl rfl
theorem channelIssue : ∀ x0 x1, Statement (.channelIssue x0 x1) := fun _ _ => Or.inl rfl
theorem copyBytesComplete : ∀ x0 x1 x2, Statement (.copyBytesComplete x0 x1 x2) := fun _ _ _ => Or.inl rfl
theorem collectivePieceAccept : ∀ x0, Statement (.collectivePieceAccept x0) := fun _ => Or.inl rfl
theorem collectiveStall : ∀ x0 x1, Statement (.collectiveStall x0 x1) := fun _ _ => Or.inl rfl
theorem launchStart : ∀ x0, Statement (.launchStart x0) := fun _ => Or.inl rfl
theorem ticketTake : ∀ x0, Statement (.ticketTake x0) := fun _ => Or.inl rfl
theorem blockSteal : ∀ x0, Statement (.blockSteal x0) := fun _ => Or.inl rfl
theorem shapePublication : ∀ x0, Statement (.shapePublication x0) := fun _ => Or.inl rfl
theorem blockSquash : ∀ x0, Statement (.blockSquash x0) := fun _ => Or.inl rfl
theorem trapEntry : ∀ x0, Statement (.trapEntry x0) := fun _ => Or.inl rfl
theorem poolRefill : ∀ x0, Statement (.poolRefill x0) := fun _ => Or.inl rfl
theorem cancel : ∀ x0, Statement (.cancel x0) := fun _ => Or.inl rfl
theorem watchdog : ∀ x0, Statement (.watchdog x0) := fun _ => Or.inl rfl
theorem preemption : ∀ x0 x1, Statement (.preemption x0 x1) := fun _ _ => Or.inl rfl
theorem contextSave : ∀ x0, Statement (.contextSave x0) := fun _ => Or.inl rfl
theorem blockResume : ∀ x0 x1, Statement (.blockResume x0 x1) := fun _ _ => Or.inl rfl
theorem fatalFault : ∀ x0 x1, Statement (.fatalFault x0 x1) := fun _ _ => Or.inl rfl
theorem lateWriteFailure : ∀ x0 x1, Statement (.lateWriteFailure x0 x1) := fun _ _ => Or.inl rfl
theorem heldAccessRewalk : ∀ x0, Statement (.heldAccessRewalk x0) := fun _ => Or.inl rfl
theorem migrationLimit : ∀ x0, Statement (.migrationLimit x0) := fun _ => Or.inl rfl
theorem refreshWindowEnd : ∀ x0 x1, Statement (.refreshWindowEnd x0 x1) := fun _ _ => Or.inl rfl
theorem tlbinvArrival : Statement .tlbinvArrival := Or.inl rfl
theorem shootdownTimeout : ∀ x0, Statement (.shootdownTimeout x0) := fun _ => Or.inl rfl
theorem heartbeat : ∀ x0, Statement (.heartbeat x0) := fun _ => Or.inl rfl
theorem heartbeatMiss : ∀ x0, Statement (.heartbeatMiss x0) := fun _ => Or.inl rfl
theorem linkDown : ∀ x0, Statement (.linkDown x0) := fun _ => Or.inl rfl
theorem fenceNotice : ∀ x0, Statement (.fenceNotice x0) := fun _ => Or.inl rfl
theorem peerDeviceAccess : ∀ x0 x1, Statement (.peerDeviceAccess x0 x1) := fun _ _ => Or.inl rfl
theorem hostBar2Access : ∀ x0 x1, Statement (.hostBar2Access x0 x1) := fun _ _ => Or.inl rfl
theorem currentLimiter : Statement .currentLimiter := Or.inl rfl
theorem deviceReset : Statement .deviceReset := Or.inl rfl
theorem registerWrite : ∀ x0 x1 x2 x3, Statement (.registerWrite x0 x1 x2 x3) := fun _ _ _ _ => Or.inl rfl
theorem eventHeadDoorbell : ∀ x0 x1, Statement (.eventHeadDoorbell x0 x1) := fun _ _ => Or.inl rfl
theorem jobQueueWrite : ∀ x0 x1 x2, Statement (.jobQueueWrite x0 x1 x2) := fun _ _ _ => Or.inl rfl
theorem tailDoorbell : ∀ x0 x1 x2, Statement (.tailDoorbell x0 x1 x2) := fun _ _ _ => Or.inl rfl
theorem perfCounterClear : ∀ x0 x1 x2, Statement (.perfCounterClear x0 x1 x2) := fun _ _ _ => Or.inl rfl
theorem settingsWrite : ∀ x0 x1 x2 x3 x4, Statement (.settingsWrite x0 x1 x2 x3 x4) := fun _ _ _ _ _ => Or.inl rfl
theorem deviceNumberWrite : ∀ x0, Statement (.deviceNumberWrite x0) := fun _ => Or.inl rfl
theorem loadRoutingTable : ∀ x0, Statement (.loadRoutingTable x0) := fun _ => Or.inl rfl
theorem routingLoadComplete : Statement .routingLoadComplete := Or.inl rfl
theorem poolAssign : ∀ x0, Statement (.poolAssign x0) := fun _ => Or.inl rfl
theorem poolRelease : ∀ x0, Statement (.poolRelease x0) := fun _ => Or.inl rfl
theorem poolReleaseComplete : ∀ x0, Statement (.poolReleaseComplete x0) := fun _ => Or.inl rfl
theorem submitJob : ∀ x0 x1, Statement (.submitJob x0 x1) := fun _ _ => Or.inl rfl
theorem createContext : ∀ x0 x1, Statement (.createContext x0 x1) := fun _ _ => Or.inl rfl
theorem destroyContext : ∀ x0 x1, Statement (.destroyContext x0 x1) := fun _ _ => Or.inl rfl
theorem getVersion : ∀ x0, Statement (.getVersion x0) := fun _ => Or.inl rfl
theorem getCapabilities : ∀ x0, Statement (.getCapabilities x0) := fun _ => Or.inl rfl
theorem negotiateAlgorithms : ∀ x0, Statement (.negotiateAlgorithms x0) := fun _ => Or.inl rfl
theorem getDigests : ∀ x0, Statement (.getDigests x0) := fun _ => Or.inl rfl
theorem getCertificate : ∀ x0, Statement (.getCertificate x0) := fun _ => Or.inl rfl
theorem challenge : ∀ x0 x1, Statement (.challenge x0 x1) := fun _ _ => Or.inl rfl
theorem getMeasurements : ∀ x0 x1, Statement (.getMeasurements x0 x1) := fun _ _ => Or.inl rfl
theorem timebaseCycle : Statement .timebaseCycle := Or.inl rfl
theorem currentBackWithinRating : Statement .currentBackWithinRating := Or.inl rfl

end Sys2Proof.Laws.OneWord
end

