-- ==== Sys2Proof/Tests/Slice0.lean ====
section
/-! SUPPORT. Small tests of the model: terms that `wellFormed` refuses, words of the manual, examples of the manual, and for each
statement a state and operands that meet its hypotheses. -/

namespace Sys2Proof.Machine.Tests

set_option Elab.async false

/-! ### Terms that `wellFormed` refuses, one for each check -/

def always : PSrc := { idx := 127, neg := false }
def plain : Ctl := { g0 := always, g1 := always, stall := 0, set := 0, wait := 0, boundary := false }
def last : Ctl := { plain with boundary := true }
def flat : Swizzle := { b := 0, m := 0, k4 := 0 }

theorem test_wf_scalar_fields :
    wellFormed (.srai 1 2 63) = true ∧ wellFormed (.srai 1 2 64) = false ∧ wellFormed (.slli 1 2 64) = false ∧
      wellFormed (.srli 1 2 64) = false ∧ wellFormed (.mpush { idx := 95, neg := true }) = true ∧
      wellFormed (.mpush { idx := 96, neg := false }) = false ∧ wellFormed (.spop 1 { idx := 126, neg := false }) = false ∧
      wellFormed (.sred .add 1 1535) = true ∧ wellFormed (.sred .add 1 1536) = false ∧ wellFormed (.cpy 8) = true ∧
      wellFormed (.cpy 6) = false ∧ wellFormed (.bwait 1 16) = true ∧ wellFormed (.bwait 1 17) = false ∧
      wellFormed (.flush 1 2 15) = true ∧ wellFormed (.flush 1 2 16) = false ∧ wellFormed (.tlbinv 1 2 3 false .dev) = true ∧
      wellFormed (.tlbinv 1 2 3 false .block) = false ∧ wellFormed (.tlbinvVf .team) = false := by decide

theorem test_wf_lane_fields :
    wellFormed (.nop { plain with stall := 15, set := 3, wait := 7 }) = true ∧ wellFormed (.nop { plain with stall := 16 }) = false ∧
      wellFormed (.nop { plain with set := 4 }) = false ∧ wellFormed (.nop { plain with wait := 8 }) = false ∧
      wellFormed (.nop { plain with g0 := { idx := 96, neg := false } }) = false ∧
      wellFormed (.nop { plain with g1 := { idx := 126, neg := true } }) = false := by decide

theorem test_wf_operands :
    wellFormed (.lnot plain .i32 (.v 1535) (.v 1535)) = true ∧ wellFormed (.lnot plain .i32 (.v 1536) (.v 0)) = false ∧
      wellFormed (.lnot plain .i32 (.v 0) (.v 1536)) = false ∧ wellFormed (.mov plain .i32 (.v 0) (.code (.int (-64)))) = true ∧
      wellFormed (.mov plain .i32 (.v 0) (.code (.int (-65)))) = false ∧ wellFormed (.mov plain .i32 (.v 0) (.code (.int 128))) = false ∧
      wellFormed (.mov plain .i32 (.v 0) (.code (.const 64))) = false ∧ wellFormed (.mov plain .i32 .discard (.imm 0xFFFFFFFF)) = true ∧
      wellFormed (.pand plain (.p 96) always always) = false ∧ wellFormed (.pand plain .discard always { idx := 100, neg := false }) = false :=
  by decide

theorem test_wf_modifiers :
    wellFormed (.icmp plain .i32 .num (.p 1) (.v 1) (.v 2)) = false ∧ wellFormed (.fcmp plain .num (.p 1) (.v 1) (.v 2)) = true ∧
      wellFormed (.cvt plain .rn true .i8 .f32 (.v 1) (.v 2)) = false ∧ wellFormed (.cvt plain .rn true .i8 .i32 (.v 1) (.v 2)) = true ∧
      wellFormed (.lds plain .b4 true .rlx .team (.v 1) (.v 2) .zero) = false ∧
      wellFormed (.lds plain .b2 true .rel .team (.v 1) (.v 2) .zero) = false ∧
      wellFormed (.sts plain .b4 .acq .team (.v 1) (.v 2) (.v 3)) = false ∧
      wellFormed (.gatom plain .normal false .add .rlx .dev (.v 1) (.v 2) (.v 4) (.v 5)) = false ∧
      wellFormed (.gred plain .normal false false .swap .rlx .dev (.v 2) (.v 4)) = false ∧
      wellFormed (.gst plain .normal false true .rlx .dev (.v 2) (.v 4) (.v 5)) = false ∧
      wellFormed (.fence plain .rlx .dev) = false ∧ wellFormed (.fence plain .sc .dev) = false ∧ wellFormed (.fence last .sc .dev) = true :=
  by decide

theorem test_wf_tiles :
    wellFormed (.tzero plain 31) = true ∧ wellFormed (.tzero plain 32) = false ∧
      wellFormed (.tld plain .row .w8 { b := 9, m := 3, k4 := 0 } 1 (.v 1) (.s 2)) = true ∧
      wellFormed (.tld plain .row .w8 { b := 6, m := 3, k4 := 0 } 1 (.v 1) (.s 2)) = false ∧
      wellFormed (.tst plain .row .w8 { b := 22, m := 3, k4 := 0 } (.v 1) (.s 2) 1) = false ∧
      wellFormed (.tst plain .row .w8 { b := 1, m := 0, k4 := 0 } (.v 1) (.s 2) 1) = false ∧
      wellFormed (.prune plain .w8 64 3 1 2) = false ∧ wellFormed (.prune plain .w8 2 6 1 2) = false ∧
      wellFormed (.prune plain .w8 2 1 1 2) = false ∧ wellFormed (.mma plain .row 1 2 (.s 3) 32 4) = false := by decide

theorem test_wf_transfers :
    wellFormed (.xfer plain .normal false 15 127 (.v 2) (.s 3) (.int 64)) = true ∧
      wellFormed (.xfer plain .normal false 16 127 (.v 2) (.s 3) (.int 64)) = false ∧
      wellFormed (.xfer plain .normal false 1 128 (.v 2) (.s 3) (.int 64)) = false ∧
      wellFormed (.xfer plain .normal false 1 1 (.v 2) (.v 3) (.int 64)) = false := by decide

theorem test_wf_run_ends :
    wellFormed (.become last 5 16) = true ∧ wellFormed (.become plain 5 16) = false ∧ wellFormed (.become last 5 17) = false ∧
      wellFormed (.become last 5 0) = false ∧ wellFormed (.ltrap last 2047) = true ∧ wellFormed (.ltrap last 2048) = false ∧
      wellFormed (.ltrap plain 1) = false ∧ wellFormed (.bar last 7) = true ∧ wellFormed (.bar last 8) = false ∧
      wellFormed (.bar plain 1) = false ∧ wellFormed (.barn last (.v 1) 1) = false ∧ wellFormed (.barn last (.s 1) 1) = true := by decide

/-! ### Words of the manual -/

/-- The words that 13 writes out beside its examples. -/
theorem test_scalar_words :
    decodeTableWord 32 0x102891A3 = some (.lui 5 0x091A3) ∧ decodeTableWord 32 0x0228B678 = some (.addi 5 5 (BitVec.ofInt 13 (-2440))) ∧
      decodeTableWord 32 0x207FFFFB = some (.b 3 true (BitVec.ofInt 20 (-5))) ∧ decodeTableWord 32 0x3C380002 = some (.spop 7 { idx := 2, neg := false }) ∧
      decodeTableWord 32 0x28000000 = some (.run 0 0) ∧ decodeTableWord 32 0x6A000002 = some (.bseal .dev) ∧
      decodeTableWord 32 0x6C000000 = some (.bwait 0 0) ∧ decodeTableWord 32 0x8A000000 = some .tret := by decide

/-- Words written out from the formats of R252 and the opcodes of R264. -/
theorem test_scalar_formats :
    decodeTableWord 32 (0 * 2 ^ 25 + 9 * 2 ^ 19 + 7 * 2 ^ 13 + 8 * 2 ^ 7 + 0x0A) = some (.aluMulhu 9 7 8) ∧
      decodeTableWord 32 (0x0A * 2 ^ 25 + 2 * 2 ^ 19 + 10 * 2 ^ 13 + 11 * 2 ^ 7 + 4) = some (.scmp .ltu 2 10 11) ∧
      decodeTableWord 32 (0x24 * 2 ^ 25 + 5 * 2 ^ 19 + 1 * 2 ^ 13 + 16) = some (.ldk 5 1 16) := by decide

def bytes12 (bs : List Nat) : Option Instr := decodeTableWord 96 (leNat (bs.map (BitVec.ofNat 8)))

/-- The bytes that 14, 15 and 16 write out beside their examples, one for each class that has one. -/
theorem test_lane_words :
    bytes12 [0x1A, 0x62, 0x00, 0x02, 0x20, 0x3A, 0x00, 0x04, 0xF0, 0xF7, 0x07, 0x80] = some (.icmp last .n32 .lt (.p 3) (.v 2) (.int 100)) ∧
      bytes12 [0x43, 0x80, 0x00, 0x05, 0x30, 0xC0, 0x01, 0x00, 0xF0, 0xF7, 0x47, 0x01] =
        some (.ffma { plain with stall := 5 } .rn (.v 4) (.v 5) (.v 6) (.v 7)) ∧
      bytes12 [0x06, 0x31, 0x01, 0x08, 0x00, 0x00, 0x00, 0x00, 0xF0, 0xF7, 0x07, 0x80] = some (.reduce last .fadd (.v 9) (.v 8)) := by decide
theorem test_lane_words_memory :
    (bytes12 [0x45, 0x45, 0x01, 0x08, 0x60, 0x00, 0x00, 0x20, 0xF7, 0xF7, 0x07, 0x80]).isSome = true ∧
      bytes12 [0x48, 0x01, 0x00, 0x00, 0x00, 0x00, 0x00, 0x28, 0xF0, 0xF7, 0x07, 0x80] = some (.fence last .sc .dev) ∧
      bytes12 [0x85, 0x61, 0x00, 0x00, 0x48, 0xB0, 0x00, 0x28, 0xFC, 0xF7, 0x07, 0x04] = some (.mma { plain with set := 1 } .row 3 0 (.s 9) 2 20) ∧
      bytes12 [0xC0, 0x01, 0x00, 0x05, 0x00, 0x00, 0x00, 0x04, 0xF0, 0xF7, 0x07, 0x80] = some (.become last 5 2) := by decide

def stored (bs : List Nat) : List Byte := bs.map (BitVec.ofNat 8)

/-- The stored forms that the manual writes out (R108). -/
theorem test_stored_forms :
    encode (.icmp last .n32 .lt (.p 3) (.v 2) (.int 100)) = stored [0xBB, 0xAF, 0x1A, 0x62, 0x02, 0x20, 0x3A, 0x04, 0xF0, 0xF7, 0x07, 0x80] ∧
      encode (.ffma { plain with stall := 5 } .rn (.v 4) (.v 5) (.v 6) (.v 7)) =
        stored [0x7B, 0xAF, 0x43, 0x80, 0x05, 0x30, 0xC0, 0x01, 0xF0, 0xF7, 0x47, 0x01] ∧
      encode (.reduce last .fadd (.v 9) (.v 8)) = stored [0x0F, 0x8F, 0x06, 0x31, 0x01, 0x08, 0xF0, 0xF7, 0x07, 0x80] := by decide
theorem test_stored_forms_system :
    encode (.fence last .sc .dev) = stored [0x83, 0x7F, 0x48, 0x01, 0x28, 0xF0, 0xF7, 0x07, 0x80] ∧
      encode (.mma { plain with set := 1 } .row 3 0 (.s 9) 2 20) =
        stored [0xB3, 0x9F, 0x85, 0x61, 0x48, 0xB0, 0x28, 0xFC, 0xF7, 0x07, 0x04] ∧
      encode (.become last 5 2) = stored [0x8B, 0x8F, 0xC0, 0x01, 0x05, 0x04, 0xF0, 0xF7, 0x07, 0x80] := by decide

/-- Reserved encodings are refused by name (R266): an unassigned scalar opcode, condition code 6, and a shift immediate of 64. -/
theorem test_reserved_encodings :
    decodeScalar (0xFE000000#32) = .error .unassignedOpcode ∧ decodeScalar (0x14000006#32) = .error .unassignedFunction ∧
      decodeScalar (0x0A000040#32) = .error .badModifier := by decide

/-! ### Examples of the manual -/

/-- R98: with CLOCK 1,000,000 and selector 6, `WSREF` reads 0x0000000600000320. -/
theorem test_wsref : wsrefWord 1000000 6 = 0x0000000600000320 := by decide
/-- R119: sample rows of the lattice table, in halves. -/
theorem test_lattice_rows :
    latticeTable.length = 256 ∧ latticeTable.getD 1 [] = [0, 0, 0, 0, 0, 0, 0, 1] ∧ latticeTable.getD 36 [] = [1, 1, 0, 0, 0, 0, 0, 0] ∧
      latticeTable.getD 101 [] = [0, 0, 0, 0, 0, 0, 1, 2] ∧ latticeTable.getD 247 [] = [0, 0, 0, 1, 1, 1, 1, 1] ∧
      latticeTable.getD 255 [] = [0, 0, 0, 2, 1, 0, 0, 1] := by decide +kernel
/-- R146: with k = 4, m = 3 and b = 9 the offset 0x210 becomes 0x200. -/
theorem test_swizzle : swizzled { b := 9, m := 3, k4 := 0 } 0x210 = 0x200 := by decide
/-- R374: the E4M3 group of the example at k = 2, 3 and 4. -/
theorem test_prune_group :
    pruneGroup 8 2 [0x38, 0xB8, 0x30, 0x40, 0xC0, 0, 0x38, 0x3C] = [0, 0, 0, 0x40, 0xC0, 0, 0, 0] ∧
      pruneGroup 8 3 [0x38, 0xB8, 0x30, 0x40, 0xC0, 0, 0x38, 0x3C] = [0, 0, 0, 0x40, 0xC0, 0, 0, 0x3C] ∧
      pruneGroup 8 4 [0x38, 0xB8, 0x30, 0x40, 0xC0, 0, 0x38, 0x3C] = [0x38, 0, 0, 0x40, 0xC0, 0, 0, 0x3C] := by decide
/-- R305, R308: the examples of saturation and of division. -/
theorem test_int_examples :
    fitInt .n32 true (3 - 5) = 0 ∧ fitInt .i32 true (65536 * 65536) = 0x7FFFFFFF ∧ divInt (-7) 2 = -3 ∧ remInt (-7) 2 = -1 ∧
      divInt 0xFFFFFFF9 2 = 0x7FFFFFFC ∧ fitInt .i32 false (divInt (-2147483648) (-1)) = 0x80000000 ∧ fitInt .n32 false (divInt 5 0) = 0xFFFFFFFF :=
  by decide
/-- R314: the fields of 0x0000F0A0. -/
theorem test_bfe :
    bfe .i32 0xF0A0 8 8 = 0xFFFFFFF0 ∧ bfe .n32 0xF0A0 8 8 = 0xF0 ∧ bfe .i32 0xF0A0 4 8 = 0x0A ∧ bfe .n32 0xF0000000 28 8 = 0xF := by decide
/-- R317, R318, R319: signs of exact zeros, a product of zero and infinity, and minima. -/
theorem test_float_examples :
    fmaF32 .rn 0x80000000 0x40A00000 0 = 0 ∧ fmaF32 .rm 0x80000000 0x40A00000 0 = 0x80000000 ∧
      fmaF32 .rn 0 0x7F800000 0x3F800000 = 0x7FC00000 ∧ minF32 0 0x80000000 = 0x80000000 ∧ maxF32 0x7FC00001 0 = 0 := by decide +kernel
/-- R321: `FRINT` of -0.4, and of 2.5 in two modes. -/
theorem test_frint :
    frintF32 .rn 0xBECCCCCD = 0x80000000 ∧ frintF32 .rp 0xBECCCCCD = 0x80000000 ∧ frintF32 .rn 0x40200000 = 0x40000000 ∧
      frintF32 .rp 0x40200000 = 0x40400000 := by decide +kernel
/-- R323: the conversions of the table. -/
theorem test_cvt_table :
    cvtResult .e4m3 (cvtBitsTo .rn false .e4m3 .f32 0x43E88000) = 0x7F ∧ cvtResult .e4m3 (cvtBitsTo .rn true .e4m3 .f32 0x43E88000) = 0x7E ∧
      (cvtResult .i8 (cvtBitsTo .rn false .i8 .f32 0xC348B333)).setWidth 32 = 0xFFFFFF80#32 ∧
      cvtResult .f32 (cvtBitsTo .rn false .f32 .e2m1 0xFFFFFFFC) = 0xC0000000 ∧
      cvtResult .f64 (cvtBitsTo .rn false .f64 .e8m0 0x80) = 0x4000000000000000 ∧
      cvtResult .n16 (cvtBitsTo .rn true .n16 .i32 0x12345) = 0xFFFF ∧ cvtResult .n16 (cvtBitsTo .rn false .n16 .i32 0x12345) = 0x2345 := by
  decide +kernel
/-- R127: four lanes holding 2^24, 1, 1 and 1 give 16,777,218. -/
theorem test_butterfly :
    butterflyOf (addF32 .rn) (fun i => if i = 0 then 0x4B800000 else if i < 4 then 0x3F800000 else 0x80000000) 5 0 = 0x4B800001 := by
  decide +kernel
/-- R324: `SQRT` of 2^-140 under versions 0 and 1, and `EXP2` of 1.0. -/
theorem test_functions :
    fnValue .sqrt 0 0x00000200 = 0x1C800000 ∧ fnValue .sqrt 1 0x00000200 = 0 ∧ fnValue .exp2 0 0x3F800000 = 0x40000000 ∧
      fnValue .rcp 2 0x80000000 = 0xFF800000 := by decide +kernel
/-- R331: weights 1, 0, 2 and 1 with u = 0x80000000 draw lane 2; with u = 0, lane 0. -/
theorem test_sample :
    let w : List Word32 := [0x3F800000, 0, 0x40000000, 0x3F800000] ++ List.replicate 28 0
    sampleBand w 0x80000000 = (2, true) ∧ sampleBand w 0 = (0, true) ∧
      sampleBand ([0x3F800000, 0xBF800000] ++ List.replicate 30 0) 0 = (0xFFFFFFFF, false) := by decide +kernel

/-! ### Small states -/

/-- One block of one team on core 0 with one live lane, whose scalar stream stands at 0x100000. -/
def home : State := { placeBytes State.reset false [] with agenda := [] }
def homeWith (f : Team → Team) : State := home.setTeam (f home.team)
/-- The same with a value in s1. -/
def home1 (x : Word64) : State := homeWith (fun t => { t with sregs := t.sregs.set 1 x })
/-- The same with a granted run. -/
def lane0 : State := { placeBytes State.reset true [] with agenda := [] }
def laneWith (f : Team → Team) : State := lane0.setTeam (f lane0.team)
def act0 : Active := { lpc := 0x100000, run := { addr := 0x100000, start := 0x100000 } }
/-- The same with both registers of lane 0 set. -/
def lane2 (x y : Word32) : State :=
  laneWith (fun t => { t with lanes := [{ regs := [x, y] ++ List.replicate 1534 0 }] })
def lane3 (x y z : Word32) : State :=
  laneWith (fun t => { t with lanes := [{ regs := [x, y, z] ++ List.replicate 1533 0 }] })

theorem canTrap_of {s : State} (h : s.team.trapReady = true ∧ s.team.sup = false ∧ s.ctx.trapBase ≠ 0 ∧ s.block.prov = false ∧
    (s.block.squashDue = false ∧ s.block.ending = none ∧ s.block.saveDue = false)) : CanTrap s :=
  ⟨h.1, h.2.1, h.2.2.1, h.2.2.2.1, h.2.2.2.2⟩
theorem canTrapLane_of {s : State} (h : s.team.sup = false ∧ s.ctx.trapBase ≠ 0 ∧ s.block.prov = false ∧
    (s.block.squashDue = false ∧ s.block.ending = none ∧ s.block.saveDue = false)) : CanTrapLane s :=
  ⟨h.1, h.2.1, h.2.2.1, h.2.2.2⟩
theorem issuable_of {i : Instr} {c : Ctl} {s : State} {a : Active} (h : s.team.active = some a ∧ a.finished = false ∧
    laneOutside i s.kernel.regs s.kernel.tiles = false ∧ BitVec.ofNat 3 c.wait &&& a.run.raised = 0 ∧ s.issueHeld s.cur i c = false ∧
    s.team.stallchk = false) : Issuable i c s a :=
  ⟨h.1, h.2.1, h.2.2.1, h.2.2.2.1, h.2.2.2.2.1, fun g => absurd (h.2.2.2.2.2 ▸ g) (by decide)⟩

theorem canTrap_home : CanTrap home := canTrap_of (by decide +kernel)
theorem canTrapLane_home : CanTrapLane lane0 := canTrapLane_of (by decide +kernel)

/-! ### For each statement, states and operands that meet its hypotheses -/

theorem test_witness_ScalarAluSetsItsDestination :
    63 < 64 ∧ ((0x05 : BitVec 7) = 0x05 ∨ (0x05 : BitVec 7) = 0x06 ∨ (0x05 : BitVec 7) = 0x07) ∧ 64 ≤ (64 : BitVec 13).toNat ∧
      6 ≤ (6 : BitVec 7).toNat % 8 ∧ 6 ≤ (127 : BitVec 7).toNat % 8 := by decide
theorem test_witness_RunAppendsToTheQueue :
    (homeWith (fun t => { t with runs := List.replicate 7 {} })).team.runs.length < 8 ∧
      8 ≤ (homeWith (fun t => { t with runs := List.replicate 8 {} })).team.runs.length := by decide +kernel

theorem one_lane_pred (s : State) (h : s.team.nlive = 1 ∧ (s.team.lane 0).pred always = true) :
    ∀ i, (1 : MaskBits).getLsbD i = (decide (i < s.team.nlive) && decide (i < 1024) && (s.team.lane i).pred always) := by
  intro i
  rw [h.1]
  rcases i with _ | i
  · rw [h.2]; exact BitVec.getLsbD_one
  · rw [show decide (i + 1 < 1) = false by simp]
    simp only [Bool.false_and]
    exact BitVec.getLsbD_one.trans (by simp)
def stacked (n : Nat) : State := homeWith (fun t => { t with stack := List.replicate n (1, 0) })
def busy : State := homeWith (fun t => { t with runs := [{}] })
theorem test_witness_MaskInstructionsMoveTheStack :
    (∀ i, (1 : MaskBits).getLsbD i = (decide (i < (stacked 16).team.nlive) && decide (i < 1024) && ((stacked 16).team.lane i).pred always)) ∧
      busy.team.drained = false ∧ (stacked 15).team.drained = true ∧ (stacked 15).team.stack.length < 16 ∧
      (stacked 1).team.stack = (1, 0) :: [] ∧ 16 ≤ (stacked 16).team.stack.length ∧ CanTrap (stacked 16) ∧ CanTrap home ∧
      home.team.stack = [] :=
  ⟨one_lane_pred _ (by decide +kernel), by decide +kernel, by decide +kernel, by decide +kernel, by decide +kernel, by decide +kernel,
    canTrap_of (by decide +kernel), canTrap_home, by decide +kernel⟩
theorem test_witness_LaneSummaries :
    1535 < home.kernel.regs ∧ busy.team.drained = false ∧ home.team.drained = true ∧
      home.team.activeLanes.filter (fun i => (home.team.lane i).pred { idx := 127, neg := true }) = [] ∧
      0 ∈ home.team.activeLanes.filter (fun i => (home.team.lane i).pred always) := by decide +kernel

/-- The address in s1 with an offset of 0. -/
theorem home1_at (x : Word64) (h : (home1 x).team.sreg 1 = x) : (home1 x).team.sreg 1 + BitVec.ofInt 64 (BitVec.toInt (0 : BitVec 13)) = x := by
  rw [h]
  show x + BitVec.ofInt 64 0 = x
  simp
theorem test_witness_ScalarLoadsAndStores_window :
    (((home1 0xFFF8).team.sreg 1).toNat % 8 = 0 ∧ ((home1 0xFFF8).team.sreg 1).toNat + 8 ≤ 0x10000 ∧
      ((home1 0xFFFC).team.sreg 1).toNat % 4 = 0 ∧ ((home1 0xFFFC).team.sreg 1).toNat + 4 ≤ 0x10000) ∧ CanTrap (home1 0x10004) ∧
      ((home1 0x10004).team.sreg 1).toNat % 8 ≠ 0 ∧ ((home1 0x10004).team.sreg 1).toNat % 4 = 0 ∧
      0x10000 < ((home1 0x10004).team.sreg 1).toNat + 4 :=
  ⟨by decide +kernel, canTrap_of (by decide +kernel), by decide +kernel⟩
theorem no_spot (s : State) (x : Word64) (n : Nat) (h : 0x8000000 ≤ x.toNat) : ∀ ci off, ¬ScratchSpot s x n ci off := by
  intro ci off h'
  rcases h'.place with ⟨h1, _⟩ | ⟨h1, h2, _⟩ <;> have := h'.field <;> omega
theorem test_witness_ScalarLoadsAndStores_scratchpad :
    ScratchSpot (home1 0x17FFF8) ((home1 0x17FFF8).team.sreg 1) 8 0 0x17FFF8 ∧
      (home1 0x17FFF8).scratchLock (teamBlock (home1 0x17FFF8).cur) 0 0x17FFF8 8 false = none ∧
      ScratchSpot (home1 0x4000001) ((home1 0x4000001).team.sreg 1) 1 0 1 ∧
      ((home1 0x4000001).scratchLock (teamBlock (home1 0x4000001).cur) 0 1 1 true = none ∧ 0 < (home1 0x4000001).block.shares.length) ∧
      CanTrap (home1 0x8000000) ∧ ((home1 0x8000000).team.sreg 1).toNat % 8 = 0 ∧
      (∀ ci off, ¬ScratchSpot (home1 0x8000000) ((home1 0x8000000).team.sreg 1) 8 ci off) :=
  ⟨⟨by decide +kernel, .inl (by decide +kernel), by decide, by decide +kernel⟩, by decide +kernel,
    ⟨by decide +kernel, .inr (by decide +kernel), by decide, by decide +kernel⟩, by decide +kernel, canTrap_of (by decide +kernel),
    by decide +kernel, no_spot _ _ _ (by decide +kernel)⟩

/-- What a walk of the state reaches, and what it leaves. -/
def walked (s : State) (x : Word64) : State := (s.translate s.who x .read).2
def walksTo (s : State) (x : Word64) (pa : Nat) : Bool :=
  match (s.translate s.who x .read).1 with
  | .ok p 0 0 false => p == pa
  | _ => false
theorem walksTo_ok {s : State} {x : Word64} {pa : Nat} (h : walksTo s x pa = true) : s.translate s.who x .read = (.ok pa 0 0 false, walked s x) := by
  unfold walksTo at h
  unfold walked
  revert h
  generalize s.translate s.who x .read = y
  rcases y with ⟨y, t⟩
  intro h
  dsimp only at h ⊢
  split at h <;> simp_all
def placesAt (s : State) (pa : Nat) : Bool :=
  match s.place (teamCtx s.cur) pa 0 0 false .read with
  | .ok k => k == pa
  | _ => false
theorem reads_of {s z : State} {x : Word64} {align pa : Nat} (hz : z = walked s x) (hc : teamCtx z.cur = teamCtx s.cur)
    (h : x.toNat % align = 0 ∧ s.block.prov = false ∧
      walksTo s x pa = true ∧ placesAt z pa = true ∧ noMemory pa = false) : ReadsGlobal s z x align pa pa 0 := by
  obtain ⟨h1, h2, h3, h4, h5⟩ := h
  refine ⟨h1, h2, ⟨0, false, hz ▸ walksTo_ok h3, ?_, h5⟩⟩
  unfold placesAt at h4
  rw [hc] at h4
  split at h4
  · rename_i k hk; rw [hk]; simp_all
  · simp at h4

/-- An `SWAIT.GEU` of the word at the address in s1, with s2 to compare against, that has made its first poll. -/
def pollWord : Word32 := 0x60382160
def pollInstr : Instr := (decodeScalar pollWord).toOption.getD .exit
def poller (x y : Word64) : State :=
  let s : State := { placeBytes State.reset false (leBytes 4 pollWord.toNat) with agenda := [] }
  s.setTeam { s.team with sregs := (s.team.sregs.set 1 x).set 2 y, polling := true }
def afterFetch (s : State) : State :=
  match fetchScalar s with
  | .run _ t => t
  | .out _ => s
def fetches (s : State) (i : Instr) : Bool :=
  match fetchScalar s with
  | .run j _ => j == i
  | .out _ => false
theorem fetches_run {s : State} {i : Instr} (h : fetches s i = true) : fetchScalar s = .run i (afterFetch s) := by
  unfold fetches at h
  unfold afterFetch
  split at h
  · rename_i j t e; simp_all
  · simp at h
/-- A store of team 0 to 8 bytes at a key, issued and not performed. -/
def storeAt (key ins : Nat) : LaneOp :=
  { team := 0, ins := ins, pos := 0, va := key, bytes := 8, pa := key, tier := 0, dev := 0, keys := [key], core := 0, act := .write 5, awaited := false }
theorem test_witness_SwaitStopsWhenItsConditionHolds_pending :
    let s : State := { poller 0x100000 0 with ops := [storeAt 0xFFFF9 0] }
    ReadsGlobal s (walked s 0x100000) 0x100000 8 0x100000 0x100000 0 ∧ s.team.polling = true ∧ s.ctx.mode = .free ∧
      Loaded 0x60382160 (walked s 0x100000).mem 0x100000 8 ∧
      ∃ o ∈ s.ops, o.team = s.cur ∧ ∃ k ∈ o.keys, max k 0x100000 < min (k + o.bytes) (0x100000 + 8) :=
  ⟨reads_of rfl (by decide +kernel) (by decide +kernel), by decide +kernel, by decide +kernel, by unfold Loaded; decide +kernel, by decide +kernel⟩
theorem test_witness_SwaitStopsWhenItsConditionHolds :
    let z := poller 0x100000 0
    let s := afterFetch z
    s.ops = [] ∧ ReadsGlobal s (walked s 0x100000) 0x100000 8 0x100000 0x100000 0 ∧
      (walked s 0x100000).globalLock s.team.core (teamAsid s.cur) 0x100000 8 false = none ∧ s.ctx.mode = .free ∧
      Loaded 0x60382160 (walked s 0x100000).mem 0x100000 8 ∧ (z.stopped = false ∧ z.team.polling = true) ∧
      fetchScalar z = .run pollInstr s ∧ pollInstr = .swait 7 1 2 true .geu false .team ∧ s.team.sreg 1 = 0x100000 ∧
      (s.team.sreg 2).toNat ≤ (0x60382160 : Word64).toNat :=
  ⟨by decide +kernel, reads_of rfl (by decide +kernel) (by decide +kernel), by decide +kernel, by decide +kernel, by unfold Loaded; decide +kernel,
    by decide +kernel, fetches_run (by decide +kernel), by decide +kernel⟩
def walkFault (s : State) (x : Word64) : Nat :=
  match (s.translate s.who x .read).1 with
  | .fault k => k
  | _ => 255
theorem walkFault_eq {s : State} {x : Word64} {k : Nat} (h : walkFault s x = k) (hk : k ≠ 255) :
    s.translate s.who x .read = (.fault k, walked s x) := by
  unfold walkFault at h
  unfold walked
  revert h
  generalize s.translate s.who x .read = y
  rcases y with ⟨y, t⟩
  intro h
  dsimp only at h ⊢
  split at h <;> simp_all
theorem test_witness_SwaitStopsWhenItsConditionHolds_traps :
    CanTrap (home1 0x100004) ∧ (((home1 0x100004).team.sreg 1).toNat % 8 ≠ 0 ∧ ((home1 0x40000000).team.sreg 1).toNat % 8 = 0) ∧
      (home1 0x40000000).translate (home1 0x40000000).who 0x40000000 .read = (.fault 0, walked (home1 0x40000000) 0x40000000) ∧
      CanTrap (walked (home1 0x40000000) 0x40000000) ∧ (home1 0x40000000).block.prov = false :=
  ⟨canTrap_of (by decide +kernel), by decide +kernel, walkFault_eq (by decide +kernel) (by decide), canTrap_of (by decide +kernel),
    by decide +kernel⟩

/-- A linear copy of 16 bytes of scratchpad on channel 15, its words in s8 to s11. -/
def copier (w0 : Word64) (queued : Nat) : State :=
  let s := homeWith (fun t => { t with sregs := ((((t.sregs.set 8 w0).set 9 0).set 10 64).set 11 16) })
  s.updChan 0 0 15 (fun h => { h with queue := List.replicate queued { id := 0, team := 0, sup := false, uid := 0, after := [], body := .copy 0 0 0 0 } })
theorem test_witness_CopyAppendsItsCommand :
    let s := copier 0x14F0 63
    let c := copyOf (s.team.sreg 8) (s.team.sreg 9) (s.team.sreg 10) (s.team.sreg 11)
    (c.defects s.block.shares.length s.kernel.chans = [] ∧ checkCopy s c = none ∧ s.block.prov = false ∧
      ((s.team.sreg 8).extractLsb' 4 4).toNat = 15) ∧ ChannelTakes s 15 ∧
      64 ≤ (((copier 0x14F0 64).block.share ((copier 0x14F0 64).shareIdx (copier 0x14F0 64).cur)).chans.getD 15 {}).queue.length :=
  ⟨by decide +kernel, ⟨by decide +kernel, by decide +kernel, by decide +kernel⟩, by decide +kernel⟩
theorem test_witness_CopyAppendsItsCommand_traps :
    CanTrap (copier 0x1000000000000000 0) ∧ ((copier 0x1000000000000000 0).team.sreg 8).extractLsb' 60 4 ≠ 0 ∧
      3 < (((copier 0x40000000000 0).team.sreg 8).extractLsb' 40 4).toNat ∧
      (((copier 0x38000000000 0).team.sreg 8).extractLsb' 40 4).toNat = 3 ∧ ((copier 0x38000000000 0).team.sreg 8).getLsbD 39 = true ∧
      (((copier 0x22000000000 0).team.sreg 8).extractLsb' 40 4).toNat < 3 ∧ 3 < (((copier 0x22000000000 0).team.sreg 8).extractLsb' 35 4).toNat :=
  ⟨canTrap_of (by decide +kernel), by decide +kernel⟩
theorem channel_home (s : State) (h : s.shareIdx s.cur < s.block.shares.length ∧ 15 < (s.block.share (s.shareIdx s.cur)).chans.length ∧
    ((s.block.share (s.shareIdx s.cur)).chans.getD 15 {}).queue.length < 64) : ChannelTakes s 15 := ⟨h.1, h.2.1, h.2.2⟩
theorem test_witness_FlushIssuesTheSortedBuffer :
    (15 < (home1 8).kernel.chans ∧ ((home1 8).team.sreg 1).toNat % 4 = 0 ∧ (home1 8).block.prov = false ∧ busy.team.drained = false ∧
      (home1 8).team.drained = true) ∧ ChannelTakes (home1 8) 15 ∧ CanTrap (home1 6) ∧ (home1 6).kernel.chans ≤ 16 ∧
      ((home1 6).team.sreg 1).toNat % 4 ≠ 0 :=
  ⟨by decide +kernel, channel_home _ (by decide +kernel), canTrap_of (by decide +kernel), by decide +kernel⟩
/-- `n` batches are sealed and none finished, each of one command that has not completed. -/
def sealedState (n : Nat) : State := homeWith (fun t =>
  { t with nSealed := BitVec.ofNat 32 n, cmds := [7], sealed := List.replicate n { num := 0, scope := .team, cmds := [7] } })
theorem test_witness_BatchesAreSealedAndAwaited_seal :
    busy.settled = false ∧ 16 ≤ (sealedState 16).team.unfinished ∧ (sealedState 15).settled = true ∧
      (sealedState 15).team.unfinished < 16 := by decide +kernel
theorem drain_none {s : State} (h : s.ops = []) (k : Nat) : s.drainOps k = .ok s := by
  unfold State.drainOps State.priorOps
  rw [h]
  rfl
/-- A store that its target rejects, and the next store of the team to the same bytes, which waits for it. -/
def rejected : LaneOp := { storeAt 64 1 with doomed := true }
def stuckOps : List LaneOp := [rejected, storeAt 64 2]
theorem drain_stuck {s : State} (h : s.ops = stuckOps) : s.drainOps 0 = .wait s := by
  have ho : s.olderOps (storeAt 64 2) = [rejected] := by unfold State.olderOps; rw [h]; decide
  have hb : s.blockedOp (storeAt 64 2) = true := by unfold State.blockedOp; rw [ho]; rfl
  have ht : s.priorOps 0 = stuckOps := by unfold State.priorOps; rw [h]; decide
  unfold State.drainOps
  rw [ht, stuckOps, performOps, if_pos (show rejected.doomed = true from rfl), performOps, hb]
  rfl
def heldState : State := (sealedState 2).updChan 0 0 3 (fun h =>
  { h with issued := [({ id := 7, team := 0, sup := false, uid := 9, after := [], body := .copy 0 0 0 0 }, { held := some (0, 64) })] })
theorem test_witness_BatchesAreSealedAndAwaited_wait :
    (sealedState 2).drainOps (sealedState 2).cur = .ok (sealedState 2) ∧ (sealedState 2).team.unfinished ≤ 2 := ⟨drain_none (by decide +kernel) _, by decide +kernel⟩
theorem test_witness_BatchesAreSealedAndAwaited_held :
    ((sealedState 2).team.unfinished ≤ 2 ∧ 1 < (sealedState 2).team.unfinished ∧
      heldCommand (sealedState 2).block (sealedState 2).cur [7] = none ∧ 1 < heldState.team.unfinished ∧
      heldCommand heldState.block heldState.cur
        ((heldState.team.sealed.take (heldState.team.sealed.length - 1)).flatMap (·.cmds)) = some (9, 0, 64)) ∧ CanTrap heldState :=
  ⟨by decide +kernel, canTrap_of (by decide +kernel)⟩

/-- A second launch, number 1, of graph 5, whose counter is as given. -/
def twoLaunches (x : Word64) (c : Counter) : State :=
  let s := home1 x
  { s with ctxs := s.ctxs.set 0 { s.ctx with nextLaunch := 2 }, launches := s.launches.set 1 { graph := 5, st := .started, ctr := c } }
theorem test_witness_LevelStatusWaitAndCancel :
    NamesLaunch (twoLaunches 1 { status := 2 }) ((twoLaunches 1 { status := 2 }).team.sreg 1) 1 ∧
      NamesLaunch (home1 (-1)) ((home1 (-1)).team.sreg 1) 0 ∧ (home1 (-1)).block.prov = false ∧ CanTrap (home1 (-1)) ∧
      ownLevel (home1 (-1)) .job 0 = true ∧
      (twoLaunches 1 { status := 2 }).block.prov = false ∧ ownLevel (twoLaunches 1 { status := 2 }) .graph 1 = false ∧
      ((twoLaunches 1 { status := 2 }).levelCounter 1 .launch).done = ((twoLaunches 1 { status := 2 }).levelCounter 1 .launch).expected ∧
      2 ≤ ((twoLaunches 1 { status := 2 }).levelCounter 1 .launch).status ∧
      ¬(((twoLaunches 1 { status := 1 }).levelCounter 1 .launch).known = true ∧
        ((twoLaunches 1 { status := 1 }).levelCounter 1 .launch).done = ((twoLaunches 1 { status := 1 }).levelCounter 1 .launch).expected ∧
        2 ≤ ((twoLaunches 1 { status := 1 }).levelCounter 1 .launch).status) :=
  ⟨.inr (by decide +kernel), .inl (by decide +kernel), by decide +kernel, canTrap_of (by decide +kernel), by decide +kernel⟩
theorem test_witness_LevelStatusWaitAndCancel_traps : CanTrap (home1 1) ∧ ∀ l, ¬NamesLaunch (home1 1) ((home1 1).team.sreg 1) l :=
  ⟨canTrap_of (by decide +kernel), fun _ h => h.elim (fun g => absurd g.1 (by decide +kernel)) (fun g => absurd g.2.1 (by decide +kernel))⟩
theorem jobs_consistent (s : State) (h : s.jobs = [(0, { ctr := { status := 1, expected := 1 }, phases :=
      [{ ctr := { status := 1, expected := 1 }, graphs := [{ ctr := { status := 1, expected := 1 }, launches := [0] }] }] })])
    (hl : (s.launchAt 0).job = 0 ∧ (s.launchAt 0).phase = 0 ∧ (s.launchAt 0).graph = 0) : JobsConsistent s := by
  intro j p g i hi
  unfold State.jobAt at hi ⊢
  rw [h] at hi ⊢
  rcases j with _ | j
  · rcases p with _ | p
    · rcases g with _ | g
      · obtain rfl := List.mem_singleton.mp hi
        exact hl
      · cases hi
    · cases hi
  · cases hi
theorem test_witness_LevelStatusWaitAndCancel_job :
    let s := home1 (-1)
    JobsConsistent s ∧ NamesLaunch s (s.team.sreg 1) 0 ∧ (s.block.prov = false ∧ (s.levelCounter 0 .job).status < 2) ∧ HasLevel s 0 .job ∧
      s.ops = [] ∧ BelowLevel s 0 .job 0 ∧ (s.launchAt 0).st = .started ∧ (s.launchAt 0).ctr.status < 2 ∧
      (s.launchAt 0).ctr.full = false ∧ s.blocks.has 0 = true :=
  ⟨jobs_consistent _ (by decide +kernel) (by decide +kernel), .inl (by decide +kernel), by decide +kernel, trivial, by decide +kernel,
    ⟨0, by decide +kernel, by decide +kernel, 0, by decide +kernel, by decide +kernel, 0, by decide +kernel, by decide +kernel⟩,
    by decide +kernel⟩
theorem test_witness_LevelStatusWaitAndCancel_cancel :
    let s := twoLaunches 1 { status := 1, expected := 4 }
    NamesLaunch s (s.team.sreg 1) 1 ∧ HasLevel s 1 .launch ∧ s.block.prov = false ∧ (s.launchAt 1).st = .started ∧ (s.launchAt 1).ctr.status < 2 ∧
      (s.launchAt 1).ctr.full = false ∧ s.blocks.has 0 = true ∧ blockLaunch 0 = 0 :=
  ⟨.inr (by decide +kernel), trivial, by decide +kernel⟩
def full : State :=
  let s := home1 0x40
  { s with launches := s.launches ++ (List.range 4096).map (fun i => (i + 1, { device := true })) }
theorem test_witness_LaunchAssignsTheNextIdentity :
    ReadsGlobal (home1 0x100040) (walked (home1 0x100040) 0x100040) ((home1 0x100040).team.sreg 1) 64 0x100040 0x100040 0 ∧
      (walked (home1 0x100040) 0x100040).imageHeld 0 (launchRec ((walked (home1 0x100040) 0x100040).mem.readNat 0x100040 64)) = false ∧
      ((home1 0x100040).settled = true ∧ (home1 0x100040).deviceLaunches (teamCtx (home1 0x100040).cur) < 4096 ∧
      (full.team.sreg 1).toNat % 64 = 0 ∧ full.block.prov = false ∧ 4096 ≤ full.deviceLaunches (teamCtx full.cur)) ∧
      CanTrap (home1 0x20) ∧ ((home1 0x20).team.sreg 1).toNat % 64 ≠ 0 :=
  ⟨reads_of (by decide +kernel) (by decide +kernel) (by decide +kernel), by decide +kernel, by decide +kernel, canTrap_of (by decide +kernel),
    by decide +kernel⟩
/-- A record at 0x100040, of a kernel whose image lies on a page that migrates. -/
def launching (clock : Word64) (hold : Option Word64) : State :=
  let s := home1 0x100040
  let s := s.setTeam { s.team with hold := hold }
  { s with clock := clock, mem := (s.mem.writeNat 0x12008 8 0x4000007F).writeNat 0x100040 64 (0x40000000 + 2 ^ 64 + 2 ^ 96 + 2 ^ 112) }
theorem test_witness_LaunchAssignsTheNextIdentity_held :
    let s := launching 0 none
    ReadsGlobal s (walked s 0x100040) (s.team.sreg 1) 64 0x100040 0x100040 0 ∧ s.settled = true ∧ s.deviceLaunches 0 < 4096 ∧
      (walked s 0x100040).imageHeld 0 (launchRec ((walked s 0x100040).mem.readNat 0x100040 64)) = true ∧
      ¬(s.team.holdTrap = none ∧ ∃ z, s.team.hold = some z ∧ (walked s 0x100040).pastLimit 0 z = true) ∧
      ((launching 1800000000 (some 0)).team.holdTrap = none ∧ (launching 1800000000 (some 0)).team.hold = some 0 ∧
        (walked (launching 1800000000 (some 0)) 0x100040).pastLimit 0 0 = true) :=
  ⟨reads_of (by decide +kernel) (by decide +kernel) (by decide +kernel), by decide +kernel, by decide +kernel, by decide +kernel,
    fun h => by obtain ⟨z, h, _⟩ := h.2; exact absurd h (by rw [show (launching 0 none).team.hold = none by decide +kernel]; simp), by decide +kernel⟩

/-- The context has a reserve of one page. -/
def reserved (n : Word64) : State :=
  let s := home1 n
  { s with ctxs := s.ctxs.set 0 { s.ctx with reserve := [5] } }
theorem fst_some {α β : Type} {o : Option (α × β)} {x : α} (h : o.map (·.1) = some x) : ∃ y, o = some (x, y) := by
  rcases o with _ | ⟨a, y⟩
  · cases h
  · cases h; exact ⟨y, rfl⟩
theorem base_some {s : State} {c n : Nat}
    (h : (((List.range (s.mem.length + 1)).map (fun i => i * ((4096 * n + 2 ^ 30 - 1) / 2 ^ 30) * 2 ^ 30)).find?
      (fun va => decide (va + 4096 * n ≤ 2 ^ 56) && (List.range n).all (fun i => s.unmapped c (va + 4096 * i)))).isSome = true) (pick : Nat) :
    ∃ base, s.allocBase c n pick = some base := by
  unfold State.allocBase
  dsimp only
  split
  · exact ⟨_, rfl⟩
  · exact Option.isSome_iff_exists.mp h
def reserved1 : State := { reserved 4096 with fresh := 1 }
def noReserve : State := { home1 1 with fresh := 1 }
theorem test_witness_AllocationIsMadeAndFreed_made :
    (((home1 0).team.sreg 1).toNat = 0 ∧ 0x100000000 < ((home1 0x100000001).team.sreg 1).toNat ∧
      ((home1 0x100000000).team.sreg 1).toNat ≤ 0x100000000 ∧ (home1 1).block.prov = false ∧ noReserve.poolTake 0 1 = none) ∧
      (∃ s1, reserved1.poolTake 0 1 = some ([5], s1)) ∧ ∃ base, reserved1.allocBase 0 1 (Config.gallocPage 0) = some base :=
  ⟨by decide +kernel, fst_some (by decide +kernel), base_some (by decide +kernel) _⟩
def allocated (n : Word64) : State :=
  let s := home1 n
  { s with ctxs := s.ctxs.set 0 { s.ctx with allocs := [{ base := 0x40000000, pages := [5], launch := 0, block := 0 }] } }
theorem test_witness_AllocationIsMadeAndFreed_held :
    let s : State := { allocated 0x40000000 with ops := [storeAt 0x40000FF9 0] }
    s.ctx.allocs.find? (fun y => decide (y.base = 0x40000000 ∧ y.launch = 0 ∧ y.block = 0)) =
        some { base := 0x40000000, pages := [5], launch := 0, block := 0 } ∧
      s.lockedOver 0 (some 0) [(0x40000000, 0x40001000)] = true := by decide +kernel
theorem test_witness_AllocationIsMadeAndFreed_freed :
    ((allocated 0x40000000).ctx.allocs.find? (fun y => decide (y.base = 0x40000000 ∧ y.launch = 0 ∧ y.block = 0)) =
        some { base := 0x40000000, pages := [5], launch := 0, block := 0 } ∧
      (allocated 0x40000000).lockedOver 0 (some 0) [(0x40000000, 0x40001000)] = false) ∧ CanTrap (allocated 0x40001000) ∧
      ∀ al ∈ (allocated 0x40001000).ctx.allocs, al.base = 0x40001000 → ¬(al.launch = 0 ∧ al.block = 0) :=
  ⟨by decide +kernel, canTrap_of (by decide +kernel), by decide +kernel⟩
def fewChans : State := { home with launches := home.launches.set 0 { home.launch with kernel := { home.kernel with chans := 4 } } }
theorem test_witness_SpecialRegistersAreReadAndWritten_pointer :
    { home with ops := stuckOps }.drainOps 0 = .wait { home with ops := stuckOps } ∧
      home.drainOps home.cur = .ok home ∧ 15 < home.kernel.chans :=
  ⟨drain_stuck rfl, drain_none (by decide +kernel) _, by decide +kernel⟩
theorem test_witness_SpecialRegistersAreReadAndWritten_read :
    (busy.team.drained = false ∧ home.team.drained = true ∧ 15 < home.kernel.chans ∧ fewChans.kernel.chans ≤ 4 ∧ 3 < fewChans.kernel.chans) ∧
      CanTrap fewChans ∧ (0x00F ≤ (0x01F : BitVec 13).toNat ∧ (0x01F : BitVec 13).toNat < 0x020) ∧ 0x030 ≤ (0x030 : BitVec 13).toNat :=
  ⟨by decide +kernel, canTrap_of (by decide +kernel), by decide +kernel⟩
def handling (x : Word64) : State := homeWith (fun t =>
  { t with sregs := t.sregs.set 1 x, sup := true, trapRet := some { mask := 1, spc := 0x100000, resume := 0, aside := [], cmd := none } })
theorem test_witness_SpecialRegistersAreReadAndWritten_write :
    (busy.team.drained = false ∧ (handling 2).team.drained = true ∧ (handling 2).team.sup = true ∧ ((handling 2).team.sreg 1).toNat ≤ 2) ∧
      CanTrap (home1 2) ∧ ((home1 2).team.sreg 1).toNat ≤ 2 ∧ CanTrap (home1 3) ∧ 2 < ((home1 3).team.sreg 1).toNat ∧
      (0x008 : BitVec 13).toNat < 0x009 ∧ 0x00E < (0x00F : BitVec 13).toNat :=
  ⟨by decide +kernel, canTrap_of (by decide +kernel), by decide +kernel, canTrap_of (by decide +kernel), by decide +kernel⟩
theorem test_witness_TrapAndReturn :
    busy.team.runsRetired = false ∧ CanTrap home ∧ (handling 0).team.sup = true ∧ (handling 0).settled = true ∧
      (handling 0).team.trapRet = some { mask := 1, spc := 0x100000, resume := 0, aside := [], cmd := none } ∧
      { (handling 0) with teams := busy.teams.set 0 { busy.team with sup := true } }.settled = false :=
  ⟨by decide +kernel, canTrap_home, by decide +kernel⟩
/-- A second team of the block. -/
def twoTeams (done : Bool) : State := { home with teams := home.teams.set 1 { home.team with ended := done } }
theorem test_witness_ExitEndsTheTeam :
    (busy.team.drained = false ∧ (sealedState 1).team.drained = true ∧ (sealedState 1).team.cmds ≠ [] ∧
      heldCommand (sealedState 1).block (sealedState 1).cur (sealedState 1).team.cmds = none ∧ (twoTeams false).team.drained = true ∧
      (twoTeams false).team.cmds = [] ∧
      (∃ j ∈ (twoTeams false).blockTeams (teamBlock (twoTeams false).cur), j ≠ (twoTeams false).cur ∧ ((twoTeams false).teamAt j).ended = false) ∧
      (twoTeams true).block.prov = false ∧
      (∀ j ∈ (twoTeams true).blockTeams (teamBlock (twoTeams true).cur), j ≠ (twoTeams true).cur → ((twoTeams true).teamAt j).ended = true)) ∧
      ∀ n, ((twoTeams true).block.bars.getD n {}).kind = none :=
  ⟨by decide +kernel,
    fun n => by
      have h : (twoTeams true).block.bars = List.replicate 8 {} := by decide +kernel
      rw [h, List.getD_eq_getElem?_getD, List.getElem?_replicate]
      split <;> rfl⟩
def asked (devs : List Nat) : State := homeWith (fun t =>
  { t with sup := true, shoots := [{ uid := 0, await := devs, since := 0 }], icinv := some { uid := 1, await := devs, since := 0 } })
theorem test_witness_CachesAndShootDowns :
    (busy.settled = false ∧ home.settled = true ∧ home.team.icinv = none ∧ ((asked [1]).team.sup = true ∧ (asked [1]).settled = true) ∧
      (asked []).team.icinv = some { uid := 1, await := [], since := 0 } ∧ (asked [1]).team.icinv = some { uid := 1, await := [1], since := 0 } ∧
      (∀ x ∈ (asked []).team.shoots, x.await = []) ∧ ∃ x ∈ (asked [1]).team.shoots, x.await ≠ []) ∧ CanTrap home :=
  ⟨by decide +kernel, canTrap_home⟩
theorem test_witness_RandomRangesAreRegistered :
    (home1 0).block.prov = false ∧ (home1 0).team.sreg 1 = 0 ∧ (home1 1).team.sreg 1 ≠ 0 ∧
      { home with blocks := home.blocks.set 0 { home.block with prov := true } }.block.prov = true := by decide +kernel

/-! ### Lane instructions -/

theorem all_one {ex : List Nat} {P : Nat → Prop} (h : ex = [0]) (h0 : P 0) : ∀ p ∈ ex, P p := by
  subst h
  intro p hp
  obtain rfl := List.mem_singleton.mp hp
  exact h0

theorem test_witness_LaneIntegerArithmetic :
    Issuable (.iadd plain .i64 true (.v 1534) (.v 1532) (.imm 0xFFFFFFFF)) plain lane0 act0 ∧
      Issuable (.irem last .n32 (.v 1535) (.s 63) (.code .zero)) last lane0 act0 := ⟨issuable_of (by decide +kernel), issuable_of (by decide +kernel)⟩
theorem test_witness_LaneBitsAndMoves :
    Issuable (.bfi plain .n64 (.v 0) (.v 2) (.v 4) (.v 6) (.int 127)) plain lane0 act0 ∧
      (∀ m n, (fun x y : Int => decide (x < y)) m n = true ↔ intCompares .lt m n) ∧ (Cond.lt ≠ .num) ∧ (Cond.lt ≠ .nan) :=
  ⟨issuable_of (by decide +kernel), fun m n => by simp [intCompares], by decide +kernel⟩
theorem test_witness_LaneF32Instructions : Issuable (.ffma plain .rm (.v 4) (.v 5) (.const 63) (.int (-64))) plain lane0 act0 :=
  issuable_of (by decide +kernel)
theorem test_witness_LaneF64AndConversions : Issuable (.cvt plain .rz false .f64 .e8m0 (.v 1534) (.v 1535)) plain lane0 act0 :=
  issuable_of (by decide +kernel)
theorem test_witness_FloatResultsAreRoundedOnce :
    IsFin fmtF32 (0x7F7FFFFF : Word32) ∧ IsInf fmtF32 (0xFF800000 : Word32) ∧ IsNan fmtF32 (0x7F800001 : Word32) ∧
      IsFin fmtF64 (0x7FEFFFFFFFFFFFFF : Word64) ∧ IsInf fmtF64 (0x7FF0000000000000 : Word64) ∧ IsNan fmtF64 (0xFFF0000000000001 : Word64) ∧
      magBits (0x80000000 : Word32) = 0 := by
  unfold IsFin IsInf IsNan; decide +kernel
theorem test_witness_LaneF64AndConversions_kinds : cvtInt .n16 = true ∧ cvtInt .e8m0 = false := by decide
theorem test_witness_OrdinaryFunctionValues_root :
    IsFin fmtF32 (0x3F800000 : Word32) ∧ magBits (0x3F800000 : Word32) ≠ 0 ∧ (0x3F800000 : Word32).msb = false ∧
      (2 : ℚ) ^ (0 : Int) ≤ |floatVal fmtF32 (0x3F800000 : Word32)| ∧ |floatVal fmtF32 (0x3F800000 : Word32)| < 2 ^ ((0 : Int) + 1) := by
  unfold IsFin; decide +kernel
theorem test_witness_OrdinaryFunctionValues_exp2 :
    IsFin fmtF32 (0xC3150000 : Word32) ∧ ((-149 : Int) : ℚ) ≤ floatVal fmtF32 (0xC3150000 : Word32) ∧
      floatVal fmtF32 (0xC3150000 : Word32) < ((-149 : Int) : ℚ) + 1 ∧ IsFin fmtF32 (0x43000000 : Word32) ∧
      ((128 : Int) : ℚ) ≤ floatVal fmtF32 (0x43000000 : Word32) ∧ floatVal fmtF32 (0x43000000 : Word32) < ((128 : Int) : ℚ) + 1 := by
  unfold IsFin; decide +kernel
theorem test_witness_OrdinaryFunctionValues_turns :
    IsFin fmtF32 (0x3E800000 : Word32) ∧ 4 * floatVal fmtF32 (0x3E800000 : Word32) = ((1 : Int) : ℚ) ∧ IsFin fmtF32 (0x3FA00000 : Word32) ∧
      (0x3FA00000 : Word32).msb = (0x3E800000 : Word32).msb ∧
      floatVal fmtF32 (0x3FA00000 : Word32) - floatVal fmtF32 (0x3E800000 : Word32) = ((1 : Int) : ℚ) := by
  unfold IsFin; decide +kernel
def roundOf (r : Nat) (x : Word32 × Word32 × Word32 × Word32) : Word32 × Word32 × Word32 × Word32 :=
  let a := x.1 + x.2.1 + BitVec.ofNat 32 r * BitVec.ofNat 32 0x9E3779B9
  let d := (x.2.2.2 ^^^ a).rotateLeft 16
  let c := x.2.2.1 + d
  let e := (x.2.1 ^^^ c).rotateLeft 12
  let a' := a + e
  let d' := (d ^^^ a').rotateLeft 8
  let c' := c + d'
  (a', (e ^^^ c').rotateLeft 7, c', d')
def roundsOf (x : Word32 × Word32 × Word32 × Word32) : Nat → Word32 × Word32 × Word32 × Word32
  | 0 => x
  | r + 1 => roundOf (r + 1) (roundsOf x r)
theorem test_witness_LaneFunctionsAndRandom :
    Issuable (.rand plain true (.v 2) (.s 4) (.v 6)) plain lane0 act0 ∧ Issuable (.sin plain (.v 2) (.v 3)) plain lane0 act0 ∧
      (∀ x, ∀ r < 10, RandRound (r + 1) (roundsOf x r) (roundsOf x (r + 1))) ∧
      (0x80800000 : Word32).msb = true ∧ IsFin fmtF32 (0x80800000 : Word32) ∧ 2 ^ 23 ≤ magBits (0x80800000 : Word32) :=
  ⟨issuable_of (by decide +kernel), issuable_of (by decide +kernel), fun _ _ _ => ⟨_, _, _, _, rfl, rfl, rfl, rfl, rfl, rfl, rfl, rfl⟩,
    by decide, by unfold IsFin; decide +kernel, by decide +kernel⟩
theorem test_witness_LanePredicatesVotesAndShuffles :
    Issuable (.vote plain (.ballot (.v 5)) { idx := 2, neg := true }) plain lane0 act0 ∧ Issuable (.pandn last (.p 95) always always) last lane0 act0 ∧
      Issuable (.shfl plain .up true (.v 8) (.v 10) (.v 7)) plain lane0 act0 :=
  ⟨issuable_of (by decide +kernel), issuable_of (by decide +kernel), issuable_of (by decide +kernel)⟩
theorem test_witness_ReductionsAndPrefixes :
    Issuable (.reduce plain .fadd (.v 9) (.v 8)) plain lane0 act0 ∧ Issuable (.scan plain (.int .min) (.v 9) (.v 8)) plain lane0 act0 :=
  ⟨issuable_of (by decide +kernel), issuable_of (by decide +kernel)⟩
theorem test_witness_SampleDrawsALane : Issuable (.sample plain (.v 7) (.p 2) (.v 5) (.v 6)) plain lane0 act0 := issuable_of (by decide +kernel)

/-- Eight registers declared. -/
def fewRegs : State := { lane0 with launches := lane0.launches.set 0 { lane0.launch with kernel := { lane0.kernel with regs := 8 } } }
def raised : Active := { act0 with run := { act0.run with raised := 1 } }
def early : Active := { act0 with pend := [{ due := 4, dsts := [.v 2], writes := [] }] }
theorem test_witness_LaneChecksComeFirst :
    (ctl? (.lnot plain .i32 (.v 8) (.v 2)) = some plain ∧ fewRegs.team.active = some act0 ∧ act0.finished = false) ∧ CanTrapLane fewRegs ∧
      laneOutside (.lnot plain .i32 (.v 8) (.v 2)) fewRegs.kernel.regs fewRegs.kernel.tiles = true ∧
      laneOutside (.lnot plain .i32 (.v 7) (.v 2)) fewRegs.kernel.regs fewRegs.kernel.tiles = false ∧
      BitVec.ofNat 3 1 &&& raised.run.raised ≠ 0 ∧
      (laneWith (fun t => { t with inflight := [{ n := 0, dsts := [.v 2] }] })).pendingHit 0 (.lnot plain .i32 (.v 7) (.v 2)) = true ∧
      tooEarly early (.lnot plain .i32 (.v 7) (.v 2)) = true ∧ (lane0.team.landDue early).execLanes plain ≠ [] ∧
      (laneWith (fun t => { t with stallchk := true })).team.stallchk = true ∧
      (laneWith (fun t => { t with stallchk := true })).issueHeld 0 (.lnot plain .i32 (.v 7) (.v 2)) plain = false ∧
      (laneWith (fun t => { t with t1 := 1 })).team.waitsToken (BitVec.ofNat 3 1) = true :=
  ⟨by decide +kernel, canTrapLane_of (by decide +kernel), by decide +kernel⟩

theorem scratchOk_of {s : State} {x n off : Nat} {write : Bool} (h : x = off ∧ (BitVec.ofNat 64 x).toNat = off ∧ off % n = 0 ∧
    s.shareIdx s.cur = 0 ∧ off < 0x1000000 ∧ off + n ≤ s.kernel.scratch ∧ s.scratchLock (teamBlock s.cur) 0 off n write = none) :
    ScratchOk s x n write 0 off := by
  obtain ⟨h1, h2, h3, h4, h5, h6, h7⟩ := h
  exact ⟨⟨by rw [h2]; exact h3, .inl ⟨h2, h4.symm⟩, h5, h6⟩, h7⟩
theorem test_witness_LaneScratchLoadsAndStores_load :
    Issuable (.lds plain .b8 false .rlx .team (.v 2) (.v 0) (.v 1)) plain (lane2 0x17FFF0 8) act0 ∧
      (∀ p ∈ ((lane2 0x17FFF0 8).team.landDue act0).execLanes plain, ScratchOk (lane2 0x17FFF0 8)
        (src32 ((lane2 0x17FFF0 8).team.landDue act0) act0 p (.v 0) + src32 ((lane2 0x17FFF0 8).team.landDue act0) act0 p (.v 1)).toNat 8 false
        0 0x17FFF8) ∧
      CanTrapLane (lane2 4 0) ∧ ((lane2 4 0).team.landDue act0).execLanes plain = 0 :: [] ∧
      (src32 ((lane2 4 0).team.landDue act0) act0 0 (.v 0) + src32 ((lane2 4 0).team.landDue act0) act0 0 (.v 1)).toNat % 8 ≠ 0 :=
  ⟨issuable_of (by decide +kernel), all_one (by decide +kernel) (scratchOk_of (by decide +kernel)), canTrapLane_of (by decide +kernel),
    by decide +kernel, by decide +kernel⟩
theorem test_witness_LaneScratchLoadsAndStores_store :
    Issuable (.sts plain .b2 .rlx .team (.v 0) (.v 1) (.v 2)) plain (lane2 0x17FFF0 14) act0 ∧
      (∀ p ∈ ((lane2 0x17FFF0 14).team.landDue act0).execLanes plain, ScratchOk (lane2 0x17FFF0 14)
        (src32 ((lane2 0x17FFF0 14).team.landDue act0) act0 p (.v 0) + src32 ((lane2 0x17FFF0 14).team.landDue act0) act0 p (.v 1)).toNat 2 true
        0 0x17FFFE ∧ 0 < (lane2 0x17FFF0 14).block.shares.length) :=
  ⟨issuable_of (by decide +kernel), all_one (by decide +kernel) ⟨scratchOk_of (by decide +kernel), by decide +kernel⟩⟩
theorem releases_of {s : State} (h : s.ops = []) (o : Order) (ex : List Nat) : ReleasesFrom s s o ex := by
  unfold ReleasesFrom State.drainOps State.priorOps
  rw [h]
  split <;> rfl
/-- A state whose team has an access before it that no turn can perform. -/
def behind (s : State) : State := { s with ops := stuckOps }
theorem test_witness_LaneScratchLoadsAndStores_release :
    Issuable (.sts plain .b2 .rel .team (.v 0) (.v 1) (.v 2)) plain (behind (lane2 0x17FFF0 14)) act0 ∧
      (∀ p ∈ ((behind (lane2 0x17FFF0 14)).team.landDue act0).execLanes plain, ScratchOk (behind (lane2 0x17FFF0 14))
        (src32 ((behind (lane2 0x17FFF0 14)).team.landDue act0) act0 p (.v 0) + src32 ((behind (lane2 0x17FFF0 14)).team.landDue act0) act0 p (.v 1)).toNat
        2 true 0 0x17FFFE) ∧
      ((behind (lane2 0x17FFF0 14)).team.landDue act0).execLanes plain ≠ [] ∧
      ((behind (lane2 0x17FFF0 14)).setTeam ((behind (lane2 0x17FFF0 14)).team.landDue act0)).drainOps 0 =
        .wait ((behind (lane2 0x17FFF0 14)).setTeam ((behind (lane2 0x17FFF0 14)).team.landDue act0)) ∧
      ∀ ex, ReleasesFrom ((lane2 0x17FFF0 14).setTeam ((lane2 0x17FFF0 14).team.landDue act0))
        ((lane2 0x17FFF0 14).setTeam ((lane2 0x17FFF0 14).team.landDue act0)) .sc ex :=
  ⟨issuable_of (by decide +kernel), all_one (by decide +kernel) (scratchOk_of (by decide +kernel)), by decide +kernel, drain_stuck rfl,
    releases_of (by decide +kernel) _⟩
theorem test_witness_LaneScratchAtomics :
    (lane2 0x17FFF8 0).strongPending (lane2 0x17FFF8 0).cur = false ∧ Issuable (.atos plain true .add .rlx .team (.v 2) (.v 0) (.v 2) (.v 0)) plain (lane2 0x17FFF8 0) act0 ∧ (lane2 0x17FFF8 0).ctx.mode = .free ∧
      (∀ p ∈ ((lane2 0x17FFF8 0).team.landDue act0).execLanes plain, ScratchOk (lane2 0x17FFF8 0)
        (src32 ((lane2 0x17FFF8 0).team.landDue act0) act0 p (.v 0)).toNat 8 true 0 0x17FFF8 ∧ 0 < (lane2 0x17FFF8 0).block.shares.length) :=
  ⟨by decide +kernel, issuable_of (by decide +kernel), by decide +kernel, all_one (by decide +kernel) ⟨scratchOk_of (by decide +kernel), by decide +kernel⟩⟩

/-- The units of one address, and what translating them leaves. -/
def unitWalk (s : State) (k : Access) (va n : Nat) : List (Nat × Xl) × State := translateUnits s.who k (unitsOf n [va]) s
def placed (s : State) (k : Access) (va : Nat) (g : GlobalUse) : Option Spot :=
  match placeOf (unitWalk s k va g.bytes).2 (unitWalk s k va g.bytes).1 g va with
  | .spot x => some x
  | _ => none
theorem placed_eq {s : State} {k : Access} {va : Nat} {g : GlobalUse} {x : Spot} (h : placed s k va g = some x) :
    placeOf (unitWalk s k va g.bytes).2 (unitWalk s k va g.bytes).1 g va = .spot x := by
  unfold placed at h
  split at h
  · rename_i y hy; rw [hy]; cases h; rfl
  · cases h
theorem reaches_of {s : State} {ex : List Nat} {va : Nat → Nat} {g : GlobalUse} {k : Access} {x : Spot} {v : Nat} (hex : ex = [0])
    (hv : va 0 = v) (hk : (if g.use = .read then Access.read else .write) = k)
    (h : v % g.bytes = 0 ∧ s.block.prov = false ∧ s.ctx.mode = .free ∧ placed s k v g = some x ∧
      (spotKeys (unitWalk s k v g.bytes).2 g x).all (fun k => !noMemory k) = true ∧
      (unitWalk s k v g.bytes).2.globalLock s.team.core (teamAsid s.cur) v g.bytes (g.use != .read) = none) :
    ReachesGlobal s (unitWalk s k v g.bytes).2 ex va g (fun _ => x) := by
  obtain ⟨h1, h2, h3, h4, h5, h6⟩ := h
  subst hex hv hk
  exact ⟨all_one rfl h1, h2, h3, ⟨(unitWalk s _ (va 0) g.bytes).1, rfl, all_one rfl (placed_eq h4)⟩,
    all_one rfl (fun k hk => by simpa using List.all_eq_true.mp h5 k hk), all_one rfl h6⟩
theorem begins_of {s : State} (h : s.ops = []) (o : Order) (ex : List Nat) : BeginsFrom s s o ex := by
  unfold BeginsFrom State.drainOps State.priorOps
  rw [h]
  split <;> rfl
def spotAt (pa : Nat) : Spot := { pa := pa, tier := 0, dev := 0, key := pa }
def load8 : GlobalUse := { bytes := 8, use := .read, mc := false, awaited := true, strong := true }
def store4 : GlobalUse := { bytes := 4, use := .write, mc := false, awaited := false, strong := true }
def atom8 (ret : Bool) : GlobalUse := { bytes := 8, use := .atomic true, mc := false, awaited := ret, strong := false }
/-- What the translations of a load and of a store leave. -/
def loadTeam : Team := (lane3 0x100000 0 (-8)).team.landDue act0
def storeTeam : Team := (lane3 0x100000 0 4).team.landDue act0
def loadWalked : State := (unitWalk ((lane3 0x100000 0 (-8)).setTeam loadTeam) .read 0xFFFF8 load8.bytes).2
def storeWalked : State := (unitWalk ((lane3 0x100000 0 4).setTeam storeTeam) .write 0x100004 store4.bytes).2
theorem test_witness_LaneGlobalAccesses_load :
    Issuable (.gld plain .normal true .acq .dev (.v 4) (.v 0) (.v 2)) plain (lane3 0x100000 0 (-8)) act0 ∧
      ReachesGlobal ((lane3 0x100000 0 (-8)).setTeam loadTeam) loadWalked (loadTeam.execLanes plain)
        (fun p => (src64 loadTeam act0 p (.v 0) + (src32 loadTeam act0 p (.v 2)).signExtend 64).toNat) load8 (fun _ => spotAt 0xFFFF8) ∧
      ∀ ex, BeginsFrom loadWalked loadWalked .acq ex :=
  ⟨issuable_of (by decide +kernel), reaches_of (k := .read) (v := 0xFFFF8) (g := load8) (by decide +kernel) (by decide +kernel) rfl (by decide +kernel),
    begins_of (by decide +kernel) _⟩
theorem test_witness_LaneGlobalAccesses_store :
    Issuable (.gst plain .normal false false .rel .dev (.v 0) (.v 2) (.v 2)) plain (lane3 0x100000 0 4) act0 ∧
      ReachesGlobal ((lane3 0x100000 0 4).setTeam storeTeam) storeWalked (storeTeam.execLanes plain)
        (fun p => (src64 storeTeam act0 p (.v 0) + (src32 storeTeam act0 p (.v 2)).signExtend 64).toNat) store4 (fun _ => spotAt 0x100004) ∧
      ∀ ex, BeginsFrom storeWalked storeWalked .rel ex :=
  ⟨issuable_of (by decide +kernel), reaches_of (k := .write) (v := 0x100004) (g := store4) (by decide +kernel) (by decide +kernel) rfl (by decide +kernel),
    begins_of (by decide +kernel) _⟩
theorem test_witness_LaneGlobalAtomics :
    let s := lane3 0x100000 0 4
    let u := s.team.landDue act0
    let s1 := (unitWalk (s.setTeam u) .write 0x100000 (atom8 true).bytes).2
    Issuable (.gatom plain .normal true .cas .rlx .dev (.v 4) (.v 0) (.v 2) (.v 4)) plain s act0 ∧
      Issuable (.gred plain .normal true false .add .rlx .dev (.v 0) (.v 2)) plain s act0 ∧ AtomOp.add ≠ .cas ∧
      (∀ ret, ReachesGlobal (s.setTeam u) s1 (u.execLanes plain) (fun p => (src64 u act0 p (.v 0)).toNat) (atom8 ret) (fun _ => spotAt 0x100000)) ∧
      ∀ ex, BeginsFrom s1 s1 .rlx ex :=
  ⟨issuable_of (by decide +kernel), issuable_of (by decide +kernel), by decide,
    fun ret => reaches_of (k := .write) (v := 0x100000) (g := atom8 ret) (by decide +kernel) (by decide +kernel) rfl (by cases ret <;> decide +kernel),
    begins_of (by decide +kernel) _⟩
/-- The turn of one access of team 0, with what it has issued. -/
def performing (ops : List LaneOp) : State := { home with agenda := [.perform 0 2 0], ops := ops }
theorem test_witness_OutstandingAccessesPerform :
    ((performing stuckOps).agenda = .perform (storeAt 64 2).team (storeAt 64 2).ins (storeAt 64 2).pos :: [] ∧
        (performing stuckOps).ops.filter (fun p => p.team == 0 && p.ins == 2 && p.pos == 0) = [storeAt 64 2] ∧
        ((performing stuckOps).ctxAt (teamCtx 0)).mode = .free ∧ rejected.doomed = true ∧ (performing stuckOps).ops = [] ++ rejected :: [storeAt 64 2] ∧
        (performing [storeAt 64 2]).ops.filter (fun p => p.team == 0 && p.ins == 2 && p.pos == 0) = [storeAt 64 2] ∧
        (storeAt 64 2).doomed = false ∧ (performing [storeAt 64 2]).ops = [] ++ [storeAt 64 2] ∧ ComesBefore rejected (storeAt 64 2) ∧
        (performing [storeAt 64 2]).blockedOp (storeAt 64 2) = false) ∧
      CommonByte rejected (storeAt 64 2) :=
  ⟨by unfold ComesBefore; decide +kernel, 64, ⟨64, by decide, by decide, by decide⟩, 64, by decide, by decide, by decide⟩
/-- A read of team 0 of the upper four bytes that a store of it holds. -/
def readBack : LaneOp := { storeAt 64 2 with bytes := 4, keys := [68], act := .read (.v 0), awaited := true }
theorem test_witness_OutstandingAccessesPerform_read :
    ((performing [storeAt 64 1, readBack]).ops = [] ++ storeAt 64 1 :: [readBack] ∧ ComesBefore (storeAt 64 1) readBack ∧
        ((performing [storeAt 64 1, readBack]).ctxAt (teamCtx 0)).mode = .free ∧ (storeAt 64 1).act = .write 5 ∧ readBack.act = .read (.v 0) ∧
        (storeAt 64 1).keys = [64] ∧ readBack.keys = [68] ∧ (storeAt 64 1).doomed = false ∧ 64 ≤ 68 ∧ 68 + readBack.bytes ≤ 64 + (storeAt 64 1).bytes) ∧
      CommonByte (storeAt 64 1) readBack :=
  ⟨by unfold ComesBefore; decide +kernel, 68, ⟨64, by decide, by decide, by decide⟩, 68, by decide, by decide, by decide⟩
theorem test_witness_OutstandingAccessesPerform_fence :
    Issuable (.fence last .sc .dev) last lane0 act0 ∧ lane0.priorOps lane0.cur = [] ∧
      (lane0.setTeam (lane0.team.landDue act0)).drainOps lane0.cur = .ok (lane0.setTeam (lane0.team.landDue act0)) ∧
      ({ lane0 with ops := stuckOps }.setTeam ({ lane0 with ops := stuckOps }.team.landDue act0)).drainOps 0 =
        .wait ({ lane0 with ops := stuckOps }.setTeam ({ lane0 with ops := stuckOps }.team.landDue act0)) ∧
      Issuable (.fence last .sc .dev) last { lane0 with ops := stuckOps } act0 :=
  ⟨issuable_of (by decide +kernel), by decide +kernel, drain_none (by decide +kernel) _, drain_stuck rfl, issuable_of (by decide +kernel)⟩
theorem test_witness_ScratchpadSearches :
    let s := lane3 5 0x17FFF8 2
    let u := s.team.landDue act0
    Issuable (.msplit plain (.v 10) (.v 0) (.v 1) (.v 2) (.v 0)) plain s act0 ∧ Issuable (.isect plain (.v 11) (.p 4) (.v 0) (.v 1) (.v 2)) plain s act0 ∧
      ∀ p ∈ u.execLanes plain, (src32 u act0 p (.v 2)).toNat ≠ 0 ∧ (src32 u act0 p (.v 1)).toNat % 4 = 0 ∧
        s.scratchAt (src32 u act0 p (.v 1)).toNat (4 * (src32 u act0 p (.v 2)).toNat) = some (0, 0x17FFF8) ∧
        s.scratchLock (teamBlock s.cur) 0 0x17FFF8 (4 * (src32 u act0 p (.v 2)).toNat) false = none :=
  ⟨issuable_of (by decide +kernel), issuable_of (by decide +kernel), all_one (by decide +kernel) (by decide +kernel)⟩

theorem lane_channel (s : State) (h : s.shareIdx s.cur < s.block.shares.length ∧ 15 < (s.block.share (s.shareIdx s.cur)).chans.length ∧
    ((s.block.share (s.shareIdx s.cur)).chans.getD 15 {}).queue.length < 64) : ChannelTakes s 15 := ⟨h.1, h.2.1, h.2.2⟩
def xfer15 : Instr := .xfer plain .normal false 15 127 (.v 0) (.s 2) (.int 64)
def xferState (stride : Word64) : State :=
  let s := lane3 0x100000 0 0
  s.setTeam { s.team with sregs := s.team.sregs.set 3 stride, active := some { act0 with run := { act0.run with sregs := s.team.sregs.set 3 stride } } }
def xferAct (stride : Word64) : Active := (xferState stride).team.active.getD {}
def noLane : State := laneWith (fun t => { t with mask := 0 })
theorem test_witness_Transfers :
    let i := Instr.xfer plain .normal false 15 127 (.v 0) (.s 2) (.s 3)
    let s := xferState 4096
    let u := s.team.landDue (xferAct 4096)
    ((noLane.team.landDue act0).execLanes plain = [] ∧ u.execLanes plain = [0] ∧ 15 < s.kernel.chans ∧
        32 * (127 + 1) ≤ (src32 u (xferAct 4096) 0 (.s 3)).toNat ∧ s.block.prov = false ∧ (s.coreAt 0).locks = [] ∧ s.ops = []) ∧
      (∀ p ∈ u.execLanes plain, (src64 u (xferAct 4096) p (.v 0)).toNat % 4 = 0 ∧
        ((src32 u (xferAct 4096) p (.s 2)).toNat + p * (src32 u (xferAct 4096) p (.s 3)).toNat) % 4 = 0 ∧
        ∃ off, s.scratchAt ((src32 u (xferAct 4096) p (.s 2)).toNat + p * (src32 u (xferAct 4096) p (.s 3)).toNat) 4096 =
          some (s.shareIdx s.cur, off)) ∧
      Issuable xfer15 plain noLane act0 ∧ Issuable i plain s (xferAct 4096) ∧ ChannelTakes s 15 :=
  ⟨by decide +kernel, all_one (by decide +kernel) ⟨by decide +kernel, by decide +kernel, 0, by decide +kernel⟩,
    issuable_of (by decide +kernel), issuable_of (by decide +kernel), lane_channel _ (by decide +kernel)⟩
/-- The entries of that transfer meet none that is held or ahead of them; an entry over the same bytes of scratchpad is in its way. -/
def xferLock (dest : Bool) : Lock :=
  { start := 0, lo := 0, hi := 4096, space := spaceScratch, dest := dest, ptr := dest, engine := 0, chan := 15, team := 0, asid := 0, slot := 0, uid := 0 }
def xferReads : Lock :=
  { start := 0x100000, lo := 0x100000, hi := 0x101000, space := spaceVirtual, dest := false, ptr := false, engine := 0, chan := 15, team := 0
    asid := 0, slot := 0, uid := 0 }
theorem test_witness_Transfers_entries :
    let s := xferState 4096
    s.opsMeet 0 0 (xferLock true) = false ∧ s.opsMeet 0 0 xferReads = false ∧ s.aheadConflicts { blk := 0, ci := 0, ch := 15 } [(0, xferLock true), (0, xferReads)] = false ∧
      { s with cores := s.cores.set 0 { locks := [(3, xferLock false)] } }.coreAt 0 = { locks := [(3, xferLock false)] } ∧
      (xferLock false).conflicts (xferLock true) = true := by decide +kernel
def fewChansLane : State := { lane0 with launches := lane0.launches.set 0 { lane0.launch with kernel := { lane0.kernel with chans := 15 } } }
theorem test_witness_Transfers_traps :
    (fewChansLane.kernel.chans ≤ 15 ∧ (fewChansLane.team.landDue act0).execLanes plain ≠ [] ∧ 15 < lane0.kernel.chans ∧
        (src32 (lane0.team.landDue act0) act0 0 (.int 64)).toNat < 32 * (127 + 1)) ∧
      Issuable xfer15 plain fewChansLane act0 ∧ CanTrapLane fewChansLane ∧ CanTrapLane lane0 :=
  ⟨by decide +kernel, issuable_of (by decide +kernel), canTrapLane_of (by decide +kernel), canTrapLane_home⟩

/-! ### Tiles and matrix products -/

theorem memories_of {s : State} (h : s.mem.wf = true ∧ s.wstore.wf = true ∧
    (∀ e ∈ s.blocks, ∀ h ∈ e.2.shares, h.scratch.wf = true ∧ h.wbuf.wf = true ∧ ∀ m ∈ h.tiles, Memory.wf m = true) ∧
    (∀ e ∈ s.launches, e.2.window.wf = true)) : MemoriesWf s := ⟨h.1, h.2.1, h.2.2.1, h.2.2.2⟩
def rowsOk (s : State) (sw : Swizzle) (a stride n r : Nat) (write : Bool) (ci : Nat) : Bool :=
  match rowsTarget s sw a stride n r write with
  | .ok k => k == ci
  | .error _ => false
theorem rowsOk_eq {s : State} {sw : Swizzle} {a stride n r ci : Nat} {write : Bool} (h : rowsOk s sw a stride n r write ci = true) :
    rowsTarget s sw a stride n r write = .ok ci := by
  unfold rowsOk at h
  split at h
  · rename_i k hk; rw [hk]; simp_all
  · cases h
def sw9 : Swizzle := { b := 9, m := 3, k4 := 0 }
theorem test_witness_TileRegistersAreWritten :
    let s := lane2 0x1000 512
    let u := s.team.landDue act0
    MemoriesWf s ∧ sw9.wf = true ∧ Issuable (.tld plain .row .w8 sw9 23 (.v 0) (.v 1)) plain s act0 ∧ HasTile s 0 23 ∧
      (u.execLanes plain = [0] ∧ (noLane.team.landDue act0).execLanes plain = []) ∧ Issuable (.tmov plain .col .w32 4 4) plain noLane act0 ∧
      rowsTarget s sw9 (src32 u act0 0 (.v 0)).toNat (src32 u act0 0 (.v 1)).toNat (portRows .row .w8) (portBytes .row .w8) false = .ok 0 ∧
      Issuable (.tmov plain .col .w32 4 4) plain s act0 ∧ Issuable (.tzero plain 23) plain s act0 ∧
      Issuable (.prune plain .w4 63 5 0 23) plain s act0 :=
  ⟨memories_of (by decide +kernel), by decide, issuable_of (by decide +kernel), by unfold HasTile; decide +kernel, by decide +kernel,
    issuable_of (by decide +kernel), rowsOk_eq (by decide +kernel), issuable_of (by decide +kernel), issuable_of (by decide +kernel),
    issuable_of (by decide +kernel)⟩
theorem test_witness_TileRegistersAreWritten_traps :
    Issuable (.tld plain .row .w8 flat 0 (.v 0) (.v 1)) plain (lane2 8 512) act0 ∧ CanTrapLane (lane2 8 512) ∧
      (src32 ((lane2 8 512).team.landDue act0) act0 0 (.v 0)).toNat % 16 ≠ 0 ∧
      (src32 ((lane2 16 520).team.landDue act0) act0 0 (.v 0)).toNat % 16 = 0 ∧ (src32 ((lane2 16 520).team.landDue act0) act0 0 (.v 1)).toNat % 16 ≠ 0 :=
  ⟨issuable_of (by decide +kernel), canTrapLane_of (by decide +kernel), by decide +kernel⟩
theorem test_witness_TilesAreStored :
    let s := lane2 0x1000 512
    let u := s.team.landDue act0
    Issuable (.tst plain .row .w8 sw9 (.v 0) (.v 1) 23) plain s act0 ∧ u.execLanes plain ≠ [] ∧ MemoriesWf s ∧ (sw9.wf = true ∧
      portBytes .row .w8 ≤ (src32 u act0 0 (.v 1)).toNat ∧ 0 < s.block.shares.length) ∧
      rowsTarget s sw9 (src32 u act0 0 (.v 0)).toNat (src32 u act0 0 (.v 1)).toNat (portRows .row .w8) (portBytes .row .w8) true = .ok 0 ∧
      CanTrapLane (lane2 8 511) ∧ (src32 ((lane2 8 511).team.landDue act0) act0 0 (.v 1)).toNat < portBytes .row .w8 ∧
      portBytes .row .w8 ≤ (src32 ((lane2 8 520).team.landDue act0) act0 0 (.v 1)).toNat ∧
      (src32 ((lane2 8 520).team.landDue act0) act0 0 (.v 0)).toNat % 16 ≠ 0 ∧
      (src32 ((lane2 16 520).team.landDue act0) act0 0 (.v 0)).toNat % 16 = 0 ∧ (src32 ((lane2 16 520).team.landDue act0) act0 0 (.v 1)).toNat % 16 ≠ 0 :=
  ⟨issuable_of (by decide +kernel), by decide +kernel, memories_of (by decide +kernel), by decide +kernel, rowsOk_eq (by decide +kernel),
    canTrapLane_of (by decide +kernel), by decide +kernel⟩
/-- The launch may use the weight store, of which its context has 4,096 bytes on die 0. -/
def storeState (a off n : Word32) : State :=
  let s := laneWith (fun t => { t with lanes := [{ regs := [a, 0, off, n] ++ List.replicate 1532 0 }] })
  { s with ctxs := s.ctxs.set 0 { s.ctx with ws := [(0, 4096), (0, 0), (0, 0), (0, 0)] }, launches := s.launches.set 0 { s.launch with wsWrite := true } }
def wldInstr : Instr := .wld plain (.v 0) (.v 2) (.v 3)
theorem test_witness_WeightLoadsAreIssued :
    let s := storeState 64 0x7F000 4032
    let u := s.team.landDue act0
    Issuable wldInstr plain s act0 ∧ (u.execLanes plain = [0] ∧ (src64 u act0 0 (.v 0)).toNat = 64 ∧ (src32 u act0 0 (.v 2)).toNat = 0x7F000 ∧
      (src32 u act0 0 (.v 3)).toNat = 4032 ∧ s.launch.wsAccess = true ∧ storeKey s.ctx 64 4032 = some 64 ∧ 0x7F000 + 4032 ≤ s.kernel.wbuf ∧
      s.team.waited = none ∧ (s.coreAt s.team.core).locks = [] ∧ s.bufferReads (teamBlock s.cur) s.team.core = [] ∧
      (src32 ((storeState 64 64 0).team.landDue act0) act0 0 (.v 3)).toNat = 0) ∧ Issuable wldInstr plain (storeState 64 64 0) act0 :=
  ⟨issuable_of (by decide +kernel), by decide +kernel, issuable_of (by decide +kernel)⟩
theorem test_witness_WeightLoadsAreIssued_traps :
    CanTrapLane (storeState 64 64 64) ∧ (32 : Nat) % 64 ≠ 0 ∧ (src64 ((storeState 32 64 64).team.landDue act0) act0 0 (.v 0)).toNat % 64 ≠ 0 ∧
      (src64 ((storeState 64 32 64).team.landDue act0) act0 0 (.v 0)).toNat % 64 = 0 ∧
      (src32 ((storeState 64 32 64).team.landDue act0) act0 0 (.v 2)).toNat % 64 ≠ 0 ∧
      (src32 ((storeState 64 64 32).team.landDue act0) act0 0 (.v 3)).toNat % 64 ≠ 0 ∧
      2 ^ 31 ≤ (src64 ((storeState 0x80000000 64 64).team.landDue act0) act0 0 (.v 0)).toNat ∧
      storeKey (storeState 64 64 4096).ctx 64 4096 = none ∧ storeKey (storeState 64 0x7FFC0 128).ctx 64 128 ≠ none ∧
      (storeState 64 0x7FFC0 128).kernel.wbuf < 0x7FFC0 + 128 :=
  ⟨canTrapLane_of (by decide +kernel), by decide +kernel⟩
/-- A granted run that sees the word of a format block in s1. -/
def actFmt (fmt : Word64) : Active := { act0 with run := { act0.run with sregs := act0.run.sregs.set 1 fmt } }
/-- A block on the pair of cores 0 and 1, with that run granted. -/
def pairState (fmt : Word64) : State :=
  let s := laneWith (fun t => { t with active := some (actFmt fmt) })
  let h := s.block.share 0
  { s with blocks := s.blocks.set 0 { s.block with shares := [h, { h with core := 1 }] }
           launches := s.launches.set 0 { s.launch with kernel := { s.kernel with paired := true } } }
theorem test_witness_MatrixProductsAreFormed :
    let s := pairState 0x800
    let a := actFmt 0x800
    let x := formatBlock (a.sreg 1)
    (s.team.landDue a).execLanes plain ≠ [] ∧ MemoriesWf s ∧ (s.block.share (s.shareIdx s.cur)).core = s.team.core ∧
      Issuable (.mma plain .row 3 0 (.v 9) 2 1) plain s a ∧ Issuable (.mmaPair plain .row 3 0 (.v 9) 2 1) plain s a ∧
      ((x.defects .row = [] ∧ 0 % 64 = 0 ∧ 0 + x.bBytes + (if x.table = true then 2048 else 0) ≤ s.kernel.wbuf ∧
        ∀ e ∈ scaleArrays x, (scaleSpan x e.1).2 ≤ s.kernel.scratch) ∧
      (src32 (s.team.landDue a) a 0 (.v 9)).toNat = 0) ∧ HasTile s 0 3 ∧ HasTile s 1 3 ∧ (s.coreAt s.team.core).arrayQ = [] ∧
      (∀ e ∈ mmaLocks s x 0 [0, 1], ∀ l ∈ (s.coreAt e.1).locks, l.2.conflicts e.2 = false) ∧ (s.coreAt 0).arrayBusy = none ∧
      (s.coreAt 1).arrayBusy = none ∧ s.isLeader s.team.core = true ∧ s.kernel.paired = true ∧
      (s.block.share 1).core ≠ (s.block.share 0).core :=
  ⟨by decide +kernel, memories_of (by decide +kernel), by decide +kernel, issuable_of (by decide +kernel), issuable_of (by decide +kernel),
    by decide +kernel, by unfold HasTile; decide +kernel, by unfold HasTile; decide +kernel, by decide +kernel⟩
theorem test_witness_MatrixProductsAreFormed_traps :
    CanTrapLane (pairState 0) ∧ (formatBlock ((actFmt 0).sreg 1)).defects .row = 0x64 :: [] ∧
      (formatBlock ((actFmt 0x800).sreg 1)).defects .row = [] ∧
      (src32 (lane0.team.landDue act0) act0 0 (.int 32)).toNat % 64 ≠ 0 ∧ lane0.kernel.paired = false ∧
      ({ (pairState 0x800) with cores := Table.set (pairState 0x800).cores 0 { arrayBusy := some 5, arrayQ := [5] } }.coreAt 0).arrayBusy ≠ none ∧
      ({ (pairState 0x800) with cores := Table.set (pairState 0x800).cores 0 { arrayBusy := some 5, arrayQ := [5] } }.coreAt 0).arrayQ.head? = some 5 :=
  ⟨canTrapLane_of (by decide +kernel), by decide +kernel⟩
def wide16 : FormatBlock := formatBlock 0x855
theorem test_witness_MatrixElementsAndTheirSums :
    let xs : List Sys2Proof.Machine.Num := List.replicate 16 (.fin false 1 0)
    (xs.length = wide16.chunk ∧ wide16.chunk ≤ wide16.k ∧ wide16.i32 = false) ∧ IsFin fmtF32 (0x3F800000 : Word32) ∧
      (∀ p ∈ (List.zip xs xs).map (fun p => p.1.mul p.2), p ≠ .nan ∧ ∀ neg, p ≠ .inf neg) ∧ (xs ++ xs).length ≤ wide16.k ∧
      (formatBlock 0x933).i32 = true ∧ (formatBlock 0x933).fa = 3 ∧ (formatBlock 0x933).chunk ≤ (formatBlock 0x933).k ∧
      (List.replicate 2048 (0x7F : Byte)).length = 2048 :=
  ⟨by decide +kernel, by unfold IsFin; decide +kernel, by decide +kernel⟩

/-! ### Multiplicity and barriers -/

def fewEntries (n : Nat) : State :=
  let s := laneWith (fun t => { t with emitBuf := List.replicate n { key := 0, seq := 0, val := 0 } })
  { s with launches := s.launches.set 0 { s.launch with kernel := { s.kernel with emit := 2 } } }
theorem test_witness_MultiplicityInstructionsIssue :
    Issuable (.become last 5 16) last lane0 act0 ∧ Issuable (.emit plain (.v 1)) plain (fewEntries 1) act0 ∧
      ((fewEntries 1).team.emitBuf.length + (((fewEntries 1).team.landDue act0).execLanes plain).length ≤ (fewEntries 1).kernel.emit ∧
      (fewEntries 2).kernel.emit < (fewEntries 2).team.emitBuf.length + (((fewEntries 2).team.landDue act0).execLanes plain).length) ∧
      CanTrapLane (fewEntries 2) ∧ 0 < ((fewEntries 1).team.landDue act0).lanes.length ∧ Issuable (.ltrap last 2047) last lane0 act0 ∧
      Issuable (.nop plain) plain lane0 act0 :=
  ⟨issuable_of (by decide +kernel), issuable_of (by decide +kernel), by decide +kernel, canTrapLane_of (by decide +kernel),
    by decide +kernel, issuable_of (by decide +kernel), issuable_of (by decide +kernel)⟩
def barState (b : Barrier) : State :=
  { lane0 with blocks := lane0.blocks.set 0 { lane0.block with bars := listUpd lane0.block.bars 7 (fun _ => b) }
               teams := lane0.teams.set 1 lane0.team
               launches := lane0.launches.set 0 { lane0.launch with kernel := { lane0.kernel with teams := 2 } } }
theorem test_witness_TeamsArriveAtBarriers :
    Issuable (.bar last 7) last (barState {}) act0 ∧ Issuable (.barn last (.int 2) 7) last (barState {}) act0 ∧
      (barState {}).team.saved = false ∧
      7 < (barState {}).block.bars.length ∧ TeamsRising (barState {}) ∧ (((barState {}).block.bars.getD 7 {}).kind = none ∧
      ((barState {}).block.bars.getD 7 {}).arrivals = [] ∧
      (src32 ((barState {}).team.landDue act0) act0 0 (.int 2)).toNat = 2 ∧ 1 ≤ 2 ∧ 2 ≤ (barState {}).kernel.teams ∧
      ((barState { kind := some none, arrivals := [1] }).block.bars.getD 7 {}).kind = some none ∧
      (∀ j ∈ ((barState { kind := some none, arrivals := [1] }).block.bars.getD 7 {}).arrivals,
        j < 16 ∧ teamKey (teamBlock (barState {}).cur) j ≠ (barState {}).cur)) ∧
      CanTrapLane (barState { kind := some none, arrivals := [1] }) ∧ (some none : Option (Option Nat)) ≠ some (some 2) ∧
      (barState {}).kernel.teams < 3 :=
  ⟨issuable_of (by decide +kernel), issuable_of (by decide +kernel), by decide +kernel,
    by decide +kernel, by unfold TeamsRising; decide +kernel, by decide +kernel, canTrapLane_of (by decide +kernel), by decide +kernel⟩
def yardTeam : Team := { nlive := 1, lanes := [{}, {}], yard := [{ key := 0, depth := 1, width := 1, count := 1, seq := 0, regs := [], preds := 0 }] }
theorem test_witness_SettlementsKeepKeyOrder :
    1 < (population yardTeam { width := 1, counts := [(0, 2)], run := {} }).length ∧
      (population yardTeam { width := 1, counts := [(0, 1)], run := {} }).length ≤ 1 ∧ ∀ r ∈ yardTeam.yard, 1 ≤ r.count := by decide +kernel

/-! ### Steps of the part -/

/-- A run waits in the queue of the team. -/
def ready (waited : Nat) : State := homeWith (fun t => { t with runs := [{ addr := 0x100000, waited := waited }] })
def ready2 : State :=
  let s := ready 4096
  { s with teams := s.teams.set 1 { s.team with runs := [{ addr := 0x100000, waited := 5000 }] } }
theorem test_witness_StreamsAdvanceByTheirSteps_grant :
    Table.find? (ready2.coreAt 0).dps 7 = none ∧ TeamsRising ready2 ∧ 1 ∈ readyTeams ready2 0 ∧ 0 ∈ readyTeams ready2 0 ∧
      ∀ j ∈ readyTeams ready2 0, j ≠ 1 → GrantsBefore ready2 1 j := by
  refine ⟨by decide +kernel, by unfold TeamsRising; decide +kernel, by decide +kernel, by decide +kernel, ?_⟩
  rw [show readyTeams ready2 0 = [0, 1] by decide +kernel]
  intro j hj hn
  obtain rfl : j = 0 := by simp only [List.mem_cons, List.not_mem_nil, or_false] at hj; omega
  unfold GrantsBefore
  rw [if_pos (by decide +kernel)]
  exact .inr (.inl (by decide +kernel))
theorem test_witness_StreamsAdvanceByTheirSteps_retire :
    (laneWith (fun t => { t with active := some { act0 with finished := true } })).team.active = some { act0 with finished := true } ∧
      (lane0.ctxAt 0).failed = false := by decide +kernel
def inflightState (f : Inflight) : State := laneWith (fun t => { t with inflight := [f] })
/-- A fill of 64 bytes at offset 64 of the weight store is in flight; the context has 4,096 bytes of the store on die 0. -/
def filling (held : Option (List Nat)) (clock : Word64) : State :=
  let s := inflightState { n := 4, tok := 3, until_ := .wld 7 64 0 64 held }
  { s with clock := clock, ctxs := s.ctxs.set 0 { s.ctx with ws := [(0, 4096), (0, 0), (0, 0), (0, 0)] } }
def fill (held : Option (List Nat)) : Inflight := { n := 4, tok := 3, until_ := .wld 7 64 0 64 held }
/-- Bank group 0 is inside its refresh window at clock 459 and past it at clock 460. -/
theorem test_witness_StreamsAdvanceByTheirSteps_fill :
    (filling none 459).team.inflight.find? (fun x => x.n == 4) = some (fill none) ∧
      ((filling none 459).ctxAt (teamCtx 0)).failed = false ∧
      ((64 / 4096 ≤ 0 ∧ 0 * 4096 < 64 + 64) ∧ refreshRemaining (filling none 459).clock (0 % 16) ≠ 0) ∧
      (filling none 460).team.inflight.find? (fun x => x.n == 4) = some (fill none) ∧
      (filling (some []) 459).team.inflight.find? (fun x => x.n == 4) = some (fill (some [])) ∧
      storeKey ((filling none 460).ctxAt (teamCtx 0)) 64 64 = some 64 := by decide +kernel
theorem no_window : ∀ u, ¬(64 / 4096 ≤ u ∧ u * 4096 < 64 + 64 ∧ refreshRemaining (filling none 460).clock (u % 16) ≠ 0) := by
  intro u ⟨_, h, g⟩
  obtain rfl : u = 0 := by omega
  exact g (by decide +kernel)
theorem test_witness_StreamsAdvanceByTheirSteps_complete :
    (inflightState { n := 4 }).team.inflight.find? (fun x => x.n == 4) = some { n := 4 } ∧ (inflightState { n := 4 }).ops = [] ∧
      (inflightState { n := 4, until_ := .barrier 2 }).team.inflight.find? (fun x => x.n == 4) = some { n := 4, until_ := .barrier 2 } ∧
      (inflightState { n := 4, until_ := .barrier 2 }).team.arrived = none ∧
      (inflightState { n := 4, until_ := .array [0] [] }).team.inflight.find? (fun x => x.n == 4) =
        some { n := 4, until_ := .array [0] [] } := by decide +kernel
theorem test_witness_StreamsAdvanceByTheirSteps_memories :
    MemoriesWf (filling none 460) ∧ (filling none 460).shareIdx 0 < ((filling none 460).blockAt (teamBlock 0)).shares.length :=
  ⟨memories_of (by decide +kernel), by decide +kernel⟩
/-- A `BECOME` with one copy of the one lane is at its boundary; the kernel declares two lanes and no yard record. -/
def settleState (n : Nat) : State :=
  let s := homeWith (fun t => { t with settling := some { width := 4, counts := [(0, n)], run := {} }, inflight := [{ n := 0, until_ := .settlement }] })
  { s with launches := s.launches.set 0 { s.launch with kernel := { s.kernel with lanes := 2 } } }
theorem canTrapAt_of {s : State} {k : Nat} (h : (s.teamAt k).sup = false ∧ (s.ctxAt (teamCtx k)).trapBase ≠ 0 ∧ (s.blockAt (teamBlock k)).prov = false ∧
    ((s.blockAt (teamBlock k)).squashDue = false ∧ (s.blockAt (teamBlock k)).ending = none ∧ (s.blockAt (teamBlock k)).saveDue = false)) : CanTrapAt s k :=
  ⟨h.1, h.2.1, h.2.2.1, h.2.2.2⟩
theorem test_witness_StreamsAdvanceByTheirSteps_settle :
    ((settleState 2).team.settling = some { width := 4, counts := [(0, 2)], run := {} } ∧ (settleState 2).team.active = none ∧
      (settleState 2).team.heldTrap = none ∧ (settleState 2).team.escalated = none ∧
      (∀ f ∈ (settleState 2).team.inflight, f.until_ = .settlement) ∧ (settleState 2).block.squashDue = false ∧
      (settleState 2).block.st = .running ∧ settleTrap (settleState 2).team { width := 4, counts := [(0, 2)], run := {} } 2 0 = none ∧
      (settleTrap (settleState 3).team { width := 4, counts := [(0, 3)], run := {} } 2 0).map (·.cause) = some 0x08 ∧
      (settleTeam (settleState 2).team { width := 4, counts := [(0, 2)], run := {} } 2).1.nlive ≠ 0 ∧
      (settleTeam (settleState 0).team { width := 4, counts := [(0, 0)], run := {} } 2).1.nlive = 0 ∧
      (settleState 2).orderedPending 0 = false) ∧ CanTrapAt (settleState 3) 0 :=
  ⟨by decide +kernel, canTrapAt_of (by decide +kernel)⟩
def ltrapState : State := homeWith (fun t => { t with
  ltrap := some { cause := 0x0C, addr := 5, lanes := 1 }, inflight := [{ n := 3, tok := 1, until_ := .ltrap }] })
def heldAt (z : Word64) : State :=
  let s := laneWith (fun t => { t with hold := some 0, holdTrap := some { cause := 0x07, detail := 2 } })
  { s with clock := z }
theorem test_witness_StreamsAdvanceByTheirSteps_ltrap :
    (ltrapState.team.ltrap = some { cause := 0x0C, addr := 5, lanes := 1 } ∧ ltrapState.team.active = none ∧ ltrapState.team.ended = false ∧
      ltrapState.team.inflight.filter (fun f => f.until_ == .ltrap) = [{ n := 3, tok := 1, until_ := .ltrap }]) ∧ CanTrapAt ltrapState 0 :=
  ⟨by decide +kernel, canTrapAt_of (by decide +kernel)⟩
/-- The scalar stream of the team has held its access since the clock was zero. -/
def heldScalar : State :=
  let s := homeWith (fun t => { t with hold := some 0, holdTrap := some { scalar := true, cause := 0x06, detail := 2 } })
  { s with clock := 10000000 }
theorem test_witness_StreamsAdvanceByTheirSteps_holds :
    ((heldAt 65536).team.hold = some 0 ∧ 65536 ≤ ((heldAt 65536).clock - 0).toNat ∧
      (heldAt 10000000).team.holdTrap = some { cause := 0x07, detail := 2 } ∧ (heldAt 10000000).team.active = some act0 ∧
      migrateLimit (heldAt 10000000) 0 0 < ((heldAt 10000000).clock - 0).toNat ∧
      heldScalar.team.holdTrap = some { scalar := true, cause := 0x06, detail := 2 } ∧ heldScalar.team.runs = [] ∧
      heldScalar.team.active = none ∧ heldScalar.team.settling = none ∧ heldScalar.team.ltrap = none) ∧
      CanTrapAt (heldAt 10000000) 0 ∧ CanTrapAt heldScalar 0 :=
  ⟨by decide +kernel, canTrapAt_of (by decide +kernel), canTrapAt_of (by decide +kernel)⟩

/-- A copy of 16 bytes of scratchpad heads channel 15 of the block in slot 0 of core 0. -/
def engineState (w0 : Word64) (issue : Option Issue) (lock : List (Nat × Lock)) : State :=
  let c : Cmd := { id := 7, team := 0, sup := false, uid := 9, after := [], body := .copy w0 0 64 16 }
  let s := home.updChan 0 0 15 (fun h => match issue with
    | some i => { h with issued := [(c, i)] }
    | none => { h with queue := [c] })
  { s with cores := s.cores.set 0 { (s.coreAt 0) with slots := [(0, 0)], locks := lock } }
def conflicting : Lock := { start := 64, lo := 64, hi := 80, space := spaceScratch, dest := true, ptr := false, engine := 0, chan := 1, team := 0, asid := 0, slot := 0, uid := 3 }
def ref15 : ChanRef := { blk := 0, ci := 0, ch := 15 }
def copy15 (w0 : Word64) : Cmd := { id := 7, team := 0, sup := false, uid := 9, after := [], body := .copy w0 0 64 16 }
theorem test_witness_CopyEnginesAdvance_issue :
    let s := engineState 0x14F0 none []
    let z := engineState 0x14F0 none [(0, conflicting)]
    let c := copy15 0x14F0
    chanRef s 0 15 = some ref15 ∧ (s.chan ref15).queue = c :: [] ∧ engineLive s ref15 = true ∧
      s.cmdEarly c (cmdLocks s ref15 c (cmdIndex s ref15 c)) = false ∧ s.cmdGated ref15 c (cmdIndex s ref15 c) = false ∧
      s.locksFit (cmdLocks s ref15 c (cmdIndex s ref15 c)) = true ∧ z.locksFit (cmdLocks z ref15 c (cmdIndex z ref15 c)) = false ∧
      (z.chan ref15).waiting = none := by decide +kernel
theorem test_witness_CopyEnginesAdvance_stall :
    let s := engineState 5 (some {}) []
    chanRef s 0 15 = some ref15 ∧ engineLive s ref15 = true ∧ (s.chan ref15).issued = (copy15 5, {}) :: [] ∧ (copyOf 5 0 64 16).kind = 5 ∧
      1800 * ({ s with clock := 18000000 }.setSince 0 0).stall ≤ (({ s with clock := 18000000 }).clock - 0).toNat ∧
      (∀ y ∈ s.reductions, y.len ≠ 16) ∧ refreshRemaining 460 0 = 0 := by decide +kernel
def piece1 (op : Nat) : Piece :=
  { fromDev := 1, vf := 0, queue := 15, op := op, exact := false, format := 0, rank := 1, parts := 2, asid := 0, base := 0x100000, len := 8, off := 0,
    bytes := [1, 2, 3, 4] }
def routed : State := { home with routes := [0, 1] }
/-- The piece is the next turn of the agenda, or has landed. -/
def arriving (op : Nat) : State := { routed with agenda := [.pieceArrival (piece1 op)] }
def landed (op : Nat) : State := { routed with landing := [] ++ (piece1 op, none) :: [] }
theorem test_witness_CopyEnginesAdvance_pieces :
    (arriving 0).agenda = .pieceArrival (piece1 0) :: [] ∧ (arriving 0).pieceOk (piece1 0) = true ∧ (arriving 0).reachable 1 = true ∧
      (1 : Nat) ≠ (arriving 0).ownDevice ∧ (arriving 0).credits.get (0 * 16 + 15) + ((piece1 0).bytes.length + 255) / 256 ≤ 256 ∧
      (landed 1).landing = [] ++ (piece1 1, none) :: [] ∧ (landed 1).pieceOk (piece1 1) = true ∧ (landed 1).stageRoom (piece1 1) = true ∧
      2 ≤ (piece1 1).parts ∧ (piece1 1).bytes.length < (piece1 1).len ∧ (∀ y ∈ (landed 1).reductions, y.takes (piece1 1) = false) ∧
      (landed 0).pieceOk (piece1 0) = true ∧ (landed 0).pieceHeld (piece1 0) none = false ∧ (∀ e ∈ ([] : List (Piece × Option Nat)), sameSend e.1 (piece1 0) = false) := by decide +kernel
theorem test_witness_CopiesMoveTheirBytes :
    let s := engineState 0x14F0 (some { done := 15 }) []
    let c := copy15 0x14F0
    chanRef s 0 15 = some ref15 ∧ engineLive s ref15 = true ∧ (s.chan ref15).issued = (c, { done := 15 }) :: [] ∧
      15 + 1 = c.body.total ∧ 14 + 1 < c.body.total ∧ bytePlaces c.body [] 15 = (.at_ 1 15, .at_ 1 79) := by decide +kernel
theorem test_witness_CopiesMoveTheirBytes_ends :
    let s := engineState 0x14F0 (some { done := 15 }) []
    MovesBytes s ref15 (copy15 0x14F0).body { done := 15 } ∧ ReadsByte s ref15 (copy15 0x14F0) none (.at_ 1 15) 0 s none ∧
      WritesByte s ref15 (copy15 0x14F0) none (.at_ 1 79) 0 (s.scratchWriteBytes 0 0 79 [0]) none :=
  ⟨⟨by decide, by decide, fun h => absurd h (by decide)⟩, ⟨0, 15, by decide +kernel, by decide +kernel, rfl, rfl⟩, rfl, by
    rw [if_neg]
    · exact ⟨0, 79, by decide +kernel, rfl⟩
    · rintro ⟨w0, w1, w2, w3, h, k⟩
      obtain ⟨rfl, rfl, rfl, rfl⟩ := CmdBody.copy.inj h
      exact absurd k (by decide)⟩
/-- The copy reads global memory at an address that no page maps. -/
def farCopy : Cmd := { copy15 0 with body := .copy 0x10F0 0x40000000 64 16 }
def farEngine : State := home.updChan 0 0 15 (fun h => { h with issued := [(farCopy, {})] })
theorem engineFault_eq {s t : State} {a d : Nat} (h : (s.translate (engineWho s ref15 farCopy) (BitVec.ofNat 64 a) .read).1 = .fault d)
    (ht : t = (s.translate (engineWho s ref15 farCopy) (BitVec.ofNat 64 a) .read).2) :
    s.translate (engineWho s ref15 farCopy) (BitVec.ofNat 64 a) .read = (.fault d, t) := Prod.ext h ht.symm
theorem test_witness_CopiesMoveTheirBytes_fault :
    (∃ t, farEngine.translate (engineWho farEngine ref15 farCopy) (BitVec.ofNat 64 0x40000000) .read = (.fault 0, t)) ∧
      bytePlaces farCopy.body [] 0 = (.at_ 0 0x40000000, .at_ 1 64) ∧ (farEngine.chan ref15).issued = [(farCopy, {})] ∧ 0 < farCopy.body.total :=
  ⟨⟨_, engineFault_eq (by decide +kernel) rfl⟩, by decide +kernel⟩

/-! ### The dispatcher -/

/-- Launch 1 of context 0, pending or started, of four blocks, in a graph of its own after that of launch 0. -/
def queued (f : Launch → Launch) : State :=
  { home with launches := home.launches.set 1 (f { kernel := { scalarBase := 0x100000 }, job := 0, phase := 0, graph := 0, ctr := { expected := 4 }, mask := 3 }) }
theorem test_witness_DispatcherStartsAndStopsBlocks_start :
    let s := queued id
    Table.find? s.launches 1 ≠ none ∧ (s.launchAt 1).st = .pending ∧ (s.ctxAt 0).failed = false ∧ s.launchTurn 1 = true ∧ s.storeTurn 1 = true ∧ s.startAgain 1 = true ∧
      (s.launchAt 1).image = 0 ∧ (s.launchAt 1).shape = none ∧ (s.launchAt 1).ctr.full = false := by decide +kernel
def shape1 : Shape := { word := 0x100000, xmax := 4, hint := 2, site := 3, stable := [] }
/-- The launch predicts its shape; the word that publishes it holds the empty value. -/
def predicted : State :=
  let s := queued (fun x => { x with shape := some shape1, ctr := { known := false } })
  { s with mem := s.mem.writeNat 0x100000 4 0xFFFFFFFF }
/-- Its shape word lies on a page that migrates. -/
def migrating : State := { predicted with mem := predicted.mem.writeNat 0x12000 8 0x7F }
def shapeKey (s : State) : Option (Nat × Nat) :=
  match (s.shapeWord 1 shape1).1 with
  | .ok key tier => some (key, tier)
  | _ => none
theorem shapeKey_eq {s : State} {k : Nat} (h : shapeKey s = some (k, 0)) : ∃ s1, s.shapeWord 1 shape1 = (.ok k 0, s1) := by
  unfold shapeKey at h
  rcases e : s.shapeWord 1 shape1 with ⟨x, t⟩
  rw [e] at h
  cases x <;> simp_all
theorem shape_migrating {s : State} (h : (s.shapeWord 1 shape1).1 = .migrating) : ∃ s1, s.shapeWord 1 shape1 = (.migrating, s1) :=
  ⟨_, Prod.ext h rfl⟩
theorem test_witness_DispatcherStartsAndStopsBlocks_predict :
    (∃ s1, predicted.shapeWord 1 shape1 = (.ok 0x100000 0, s1) ∧ s1.mem.readNat 0x100000 4 = 0xFFFFFFFF) ∧
      (predicted.launchAt 1).shape = some shape1 ∧ (predicted.ctxAt 0).mode ≠ .replay ∧ 1 ≤ shape1.xmax ∧
      (predicted.launchAt 1).ctr.known = false ∧ shape1.hint ≠ 0 ∧ predicted.traceHeld 0 = false ∧ predicted.launchTurn 1 = true ∧ predicted.storeTurn 1 = true := by
  obtain ⟨s1, h⟩ := shapeKey_eq (s := predicted) (k := 0x100000) (by decide +kernel)
  refine ⟨⟨s1, h, ?_⟩, by decide +kernel⟩
  rw [show s1 = (predicted.shapeWord 1 shape1).2 by rw [h]]
  decide +kernel
theorem test_witness_DispatcherStartsAndStopsBlocks_held :
    (∃ s1, migrating.shapeWord 1 shape1 = (.migrating, s1)) ∧ (migrating.launchAt 1).shape = some shape1 ∧ (migrating.launchAt 1).hold = none ∧
      migrating.startAgain 1 = true ∧ migrating.launchTurn 1 = true ∧ migrating.storeTurn 1 = true :=
  ⟨shape_migrating (by decide +kernel), by decide +kernel⟩
/-- A core with a granted run and a slaved array passes core cycles (R194). -/
theorem test_witness_StartUpTimeAndAttestation_time :
    let s := { State.reset with cores := [(0, { dps := [(0, 0)] }), (1, { arrayBusy := some 0 })], teams := [(0, {})] }
    (s.cores.map (·.1)).Nodup ∧ s.activeOn 0 0 = true ∧ s.slavedOn 1 0 = true ∧ s.activeOn 1 0 = false ∧ s.slavedOn 0 0 = false := by
  decide +kernel

/-- Launch 0 has started; its one block waits on the given die. -/
def waitingLaunch (d : Nat) : Launch :=
  let t (i : Nat) : Ticket := if i = d then { next := 0, stop := 1 } else {}
  { home.launch with kernel := { scalarBase := 0x100000 }, mask := BitVec.ofNat 96 (3 + 2 ^ 72), tickets := [t 0, t 1, t 2, t 3] }
def waiting (d : Nat) : State := { home with launches := [(0, waitingLaunch d)], blocks := [], teams := [] }
theorem only_zero {α : Type} {x : α} {m : Nat} (h : Table.find? [(0, x)] m ≠ none) : m = 0 := by
  by_contra g
  apply h
  simp [Table.find?, Ne.symm g]
theorem test_witness_DispatcherStartsAndStopsBlocks_take :
    ((waiting 0).canTake 0 1 = true ∧ Table.find? (waiting 0).launches 0 ≠ none ∧ ((waiting 0).launchAt 0).kernel.teams ≤ 16 ∧
      1 ≤ ((waiting 0).launchAt 0).kernel.regs ∧ ((waiting 0).launchAt 0).tail = []) ∧
      ∀ m, Table.find? (waiting 0).launches m ≠ none → m ≠ 0 → (waiting 0).canTake m 1 = true →
        listLt (launchOrder (waiting 0) 0) (launchOrder (waiting 0) m) = true :=
  ⟨by decide +kernel, fun _ h g => absurd (only_zero h) g⟩
/-- The one core of die 3 in the core mask has no free slot. -/
def crowded : State :=
  { waiting 3 with cores := (waiting 3).cores.set 72 { slots := (List.range 32).map (fun i => (i, 0)) } }
theorem test_witness_DispatcherStartsAndStopsBlocks_steal :
    crowded.canSteal 0 1 = true ∧ Table.find? crowded.launches 0 ≠ none ∧ (crowded.ctxAt 0).mode ≠ .replay ∧
      (∀ e < 4, (crowded.launchAt 0).dieLeft e ≤ (crowded.launchAt 0).dieLeft 3) ∧
      (∀ e < 3, (crowded.launchAt 0).dieLeft e < (crowded.launchAt 0).dieLeft 3) ∧
      ∀ e < 4, 0 < (crowded.launchAt 0).dieLeft e → crowded.dieBare (crowded.launchAt 0) e = false := by decide +kernel
def published (e : Nat) : State :=
  { home with launches := home.launches.set 0 { home.launch with shape := some { shape1 with ext := some e, watching := true }, ctr := { known := false } }
              blocks := home.blocks.set 0 { home.block with prov := true } }
theorem test_witness_DispatcherStartsAndStopsBlocks_publish :
    ((published 4).launchAt 0).shape = some { shape1 with ext := some 4, watching := true } ∧ (4 : Nat) ≤ shape1.xmax ∧ shape1.xmax < 5 ∧
      ((published 5).launchAt 0).shape = some { shape1 with ext := some 5, watching := true } ∧ ((published 4).ctxAt 0).failed = false ∧
      ((published 4).ctxAt 0).mode ≠ .replay ∧ ((published 4).launchAt 0).ctr.status ≠ 4 ∧ ((published 4).blockAt 0).prov = true ∧
      (published 4).publishesFirst 0 3 0 = false ∧ (published 4).traceHeld 0 = false := by decide +kernel
theorem test_witness_DispatcherStartsAndStopsBlocks_squash :
    let s : State := { home with blocks := home.blocks.set 0 { home.block with squashDue := true } }
    Table.find? s.blocks 0 ≠ none ∧ (s.blockAt 0).squashDue = true ∧ (s.ctxAt 0).failed = false ∧ (s.launchAt 0).ctr.full = false ∧
      ∀ k ∈ s.blockTeams 0, (s.teamAt k).ended = true ∨ (s.teamAt k).gated = true ∨ (s.teamAt k).active = none := by decide +kernel
/-- Block 1 of the launch is resident on core 1. -/
def twoBlocks : State := { home with blocks := home.blocks.set 1 { home.block with shares := [{ home.block.share 0 with core := 1 }] } }
theorem test_witness_DispatcherStartsAndStopsBlocks_preempt :
    Table.find? home.launches 0 ≠ none ∧ (home.launchAt 0).st ≠ .ended ∧ (home.launchAt 0).st ≠ .failed ∧ (home.ctxAt 0).failed = false ∧
      (home.launchAt 0).shape = none ∧ (home.blockAt 0).st = .running ∧
      home.evictsLowest 0 (2 &&& BitVec.ofNat 96 (2 ^ home.nCores - 1)) = false ∧
      twoBlocks.evictsLowest 0 (2 &&& BitVec.ofNat 96 (2 ^ twoBlocks.nCores - 1)) = true := by decide +kernel
theorem test_witness_DispatcherStartsAndStopsBlocks_resume :
    let s : State := { home with blocks := home.blocks.set 0 { home.block with st := .saved } }
    Table.find? s.blocks 0 ≠ none ∧ (s.savedBlocks 0).head? = some 0 ∧ (s.blockAt 0).st = .saved ∧ (s.blockAt 0).squashDue = false ∧ (s.ctxAt 0).failed = false ∧
      (s.ctxAt 0).mode ≠ .replay ∧ s.placement (s.launchAt 0) 0 = some [0] ∧ [0].length = (s.blockAt 0).shares.length ∧ [0].Nodup ∧
      ∀ h ∈ (s.blockAt 0).shares, ∀ n ∈ h.chans, n.locks = [] := by decide +kernel

/-! ### Boundaries and faults -/

def blockWith (f : Block → Block) : State := { home with blocks := home.blocks.set 0 (f home.block) }
theorem test_witness_TeamsAreStoppedAndSaved_ends :
    let s (x : Nat) := blockWith (fun b => { b with ending := some x })
    Table.find? (s 0x0E).teams 0 ≠ none ∧ ((s 0x0E).blockAt 0).ending = some 0x0E ∧ (s 0x0E).clearBoundary 0 = true ∧
      ((s 0x0F).blockAt 0).ending = some 0x0F ∧ (s 0x0F).clearBoundary 0 = true ∧ home.team.escalated = none ∧ (home.blockAt 0).ending = none ∧
      1800 * ({ lane0 with clock := 180000000 }.setSince 0 lane0.team.progress).watchdog ≤
        (({ lane0 with clock := 180000000 }).clock - lane0.team.progress).toNat ∧
      { lane0 with clock := 180000000 }.clearBoundary 0 = false ∧ lane0.team.hold = none := by decide +kernel
/-- The save of the block is due, and its team has not seen the end of a barrier whose token is raised. -/
def saveDueAt (s : State) : State := { s with blocks := s.blocks.set 0 { s.block with saveDue := true } }
def tokenUp : State := saveDueAt (homeWith (fun t => { t with inflight := [{ n := 2, tok := 1, until_ := .barrier 0 }], arrived := some 0 }))
theorem test_witness_TeamsAreStoppedAndSaved_save :
    let s := saveDueAt home
    s.team.saved = false ∧ (s.blockAt 0).st = .running ∧ (s.blockAt 0).saveDue = true ∧ (s.blockAt 0).ending = none ∧ (s.blockAt 0).drained = true ∧
      s.clearBoundary 0 = true ∧ s.tokenHeld 0 = false ∧ s.spared 0 = false ∧ s.team.settledDown = true ∧
      (saveDueAt twoBlocks).spared 0 = true ∧ (saveDueAt twoBlocks).clearBoundary 0 = true ∧
      (∀ j ∈ s.blockTeams 0, j ≠ 0 → (s.teamAt j).ended = true ∨ (s.teamAt j).saved = true) ∧
      (tokenUp.blockAt 0).saveDue = true ∧ (tokenUp.blockAt 0).drained = true ∧ tokenUp.clearBoundary 0 = true ∧
      tokenUp.tokenHeld 0 = true := by decide +kernel
/-- A write to another device that it has rejected. -/
def rejectedState : State := { home with ops := [{ storeAt (2 ^ 50) 1 with va := 64, doomed := true }] }
theorem test_witness_TeamsAreStoppedAndSaved_rejected :
    (∃ o ∈ rejectedState.ops, o.team = 0 ∧ o.va = 64 ∧ o.act.reads = false ∧ o.doomed = true) ∧
      (¬∃ o ∈ home.ops, o.team = 0 ∧ o.va = 64 ∧ o.act.reads = false ∧ o.doomed = true) ∧ (rejectedState.ctxAt 0).failed = false := by
  decide +kernel
def escalating (addr : Word64) : State := homeWith (fun t => { t with sup := true, escalated := some { cause := 0x0D, addr := addr } })
theorem test_witness_TeamsAreStoppedAndSaved_contexts :
    (escalating 2).team.escalated = some { cause := 0x0D, addr := 2 } ∧ (escalating 2).team.ended = false ∧
      ¬(((escalating 2).ctxAt 0).trapBase ≠ 0 ∧ (escalating 2).team.sup = true ∧ (0x0D : Nat) = 0x0D ∧ (2 : Word64) = 1) ∧ home.team.escalated = none ∧ home.team.heldTrap = none ∧
      (home.blockAt 0).st = .running ∧ (home.blockAt 0).prov = false ∧ Table.find? home.launches (teamLaunch 0) ≠ none ∧
      (escalating 1).team.escalated = some { cause := 0x0D, addr := 1 } ∧ ((escalating 1).ctxAt 0).trapBase ≠ 0 ∧ ((escalating 1).ctxAt 0).reserve = [] ∧
      ({ escalating 1 with ctxs := (escalating 1).ctxs.set 0 { (escalating 1).ctx with reserve := [5] } }.ctxAt 0).reserve ≠ [] := by decide +kernel

/-! ### The domain and the host -/

def shooting (dev : Nat) (since : Word64) : State :=
  let s := homeWith (fun t => { t with shoots := [{ uid := 4, await := [0, dev], since := since }] })
  { s with clock := 36000000
           tlbinvs := [{ uid := 4, team := 0, vf := 0, form := 0, asid := 0, lo := 0, hi := 4096, glob := false, devs := [0, dev], waiting := false }] }
/-- The shoot-down of this device's own team, or of device 1's. -/
def shot (dev : Nat) (origin : Option Nat) : TlbInv :=
  { uid := 4, team := 0, vf := 0, form := 0, asid := 0, lo := 0, hi := 4096, glob := false, devs := [0, dev], waiting := false, origin := origin }
/-- The same with its own device's part done. -/
def shotHere (dev : Nat) (origin : Option Nat) : TlbInv := { shot dev origin with devs := [dev] }
theorem test_witness_DeviceAnswersItsDomain_shoots :
    (shooting 1 0).tlbinvs = shot 1 none :: [] ∧ (shooting 1 0).ownDevice ∈ (shot 1 none).devs ∧ ((shooting 1 0).removeEntries (shotHere 1 none)).shootLocked (shotHere 1 none) = false ∧
      ((shooting 1 0).removeEntries (shotHere 1 (some 1))).shootLocked (shotHere 1 (some 1)) = false ∧
      ({ shooting 1 0 with ops := [storeAt 64 1] }.removeEntries (shotHere 1 none)).shootLocked (shotHere 1 none) = true ∧ (1 : Nat) ≠ (shooting 1 0).ownDevice ∧
      (∃ y ∈ ((shooting 1 0).teamAt 0).shoots, 1800 * ((shooting 1 0).setSince (teamVf 0) y.since).shoot < ((shooting 1 0).clock - y.since).toNat ∧
        1 ∈ y.await ∧ (shooting 1 0).ownDevice ∈ y.await) ∧ (shooting 1 0).ownDevice ∉ (shooting 1 0).fenced := by decide +kernel
/-- The device has its number and a routing table. -/
def trained : State := { routed with devNumber := 0x8000000000000000 }
theorem test_witness_DeviceAnswersItsDomain_ports :
    trained.devNumber.getLsbD 63 = true ∧ trained.routes ≠ [] ∧ trained.linkDown.getLsbD 15 = false ∧ trained.isolated = false ∧
      trained.misses.getD 15 0 < 15 ∧ 15 ≤ { trained with misses := List.replicate 16 15 }.misses.getD 15 0 ∧ trained.ownDevice = 0 ∧
      (1 < trained.routes.length ∧ trained.routes.getD 1 0 ≠ 0 ∧
        ∀ j < 16, (trained.routes.getD 1 0).getLsbD j = true → j = 0 ∨ trained.linkDown.getLsbD j = true) ∧
      1 ∉ trained.fenced ∧ trained.isolated = false ∧ 1 ∈ { trained with fenced := [1] }.fenced := by decide +kernel
def booted : State := { home with bootStep := 3, sriov := 3 }
theorem test_witness_DeviceAnswersItsDomain_accesses :
    (trained.reachable 1 = true ∧ (2 ^ 39 - 8) % 8 = 0 ∧ (2 ^ 39 - 8) + 8 ≤ 2 ^ 39) ∧ (trained.ctxAt (ctxKey 0 0)).mode = .free ∧
      3 ≤ booted.bootStep ∧ booted.sriov.getLsbD (booted.vfAt 15).port = true ∧ (booted.vfAt 15).set.allot ≠ 0 ∧ booted.mem.wf = true := by
  decide +kernel
theorem test_witness_StartUpTimeAndAttestation :
    let s : State := { State.reset with agenda := [.startUp] }
    s.agenda = .startUp :: [] ∧ s.bootStep ≤ 3 ∧ { booted with agenda := [.enableVfs 1] }.agenda = .enableVfs 1 :: [] ∧ 3 ≤ booted.bootStep ∧
      (1 : Nat) < 2 := by decide +kernel
def turnOf (t : Turn) : State := { trained with agenda := [t] }
theorem test_witness_OtherAgentsTakeTurns :
    (turnOf (.hostMem 1 (2 ^ 64 - 1) [7, 8])).agenda = .hostMem 1 (2 ^ 64 - 1) [7, 8] :: [] ∧
      (turnOf (.peerIcinv 1 2 0 64)).agenda = .peerIcinv 1 2 0 64 :: [] ∧ (turnOf (.peerIcinv 1 2 0 64)).reachable 1 = true ∧
      (1 : Nat) ≠ (turnOf (.peerIcinv 1 2 0 64)).ownDevice ∧ (turnOf (.icinvAnswer 1 2)).agenda = .icinvAnswer 1 2 :: [] ∧
      (turnOf (.icinvAnswer 1 2)).reachable 1 = true ∧ (turnOf (.peerReset 1)).agenda = .peerReset 1 :: [] ∧
      (turnOf (.peerShoot (shot 1 (some 1)))).agenda = .peerShoot (shot 1 (some 1)) :: [] ∧
      (turnOf (.reject 0 1 0 0)).agenda = .reject 0 1 0 0 :: [] ∧
      (turnOf (.peerMem 1 (2 ^ 39 - 2) [7, 8])).agenda = .peerMem 1 (2 ^ 39 - 2) [7, 8] :: [] ∧
      (2 ^ 39 - 2) + ([7, 8] : List Byte).length ≤ 2 ^ 39 := by decide +kernel
def queueState (size : BitVec 5) (tail head : BitVec 16) : State :=
  { booted with vfs := listUpd booted.vfs 15 (fun v => { v with queues := listUpd v.queues 63 (fun q => { q with size := size, tail := tail, head := head }) }) }
theorem test_witness_HostWritesAreTaken_queues :
    15 < booted.vfs.length ∧ booted.sriov.getLsbD (booted.vfAt 15).port = true ∧ 3 ≤ booted.bootStep ∧
      63 < (booted.vfAt 15).queues.length ∧ ¬(4 ≤ ((booted.vfAt 15).queues.getD 63 {}).size.toNat ∧ ((booted.vfAt 15).queues.getD 63 {}).size.toNat ≤ 16) ∧
      4 ≤ (((queueState 16 0 0).vfAt 15).queues.getD 63 {}).size.toNat ∧ (((queueState 16 0 0).vfAt 15).queues.getD 63 {}).size.toNat ≤ 16 ∧
      (0xFFFF : BitVec 16).toNat < 2 ^ (((queueState 16 0 0).vfAt 15).queues.getD 63 {}).size.toNat ∧
      2 ^ (((queueState 4 0 0).vfAt 15).queues.getD 63 {}).size.toNat ≤ (16 : BitVec 16).toNat ∧ 95 < booted.nCores ∧ 31 < 32 := by decide +kernel
theorem test_witness_HostWritesAreTaken_settings :
    booted.pfUp 0 = true ∧ (booted.vfAt 15).port = 0 ∧ 15 < booted.vfs.length ∧ (100 ≤ 100 ∧ 100 ≤ 100000) ∧
      booted.devNumber.getLsbD 63 = false ∧ booted.routeLoading = false := by decide +kernel
def region (f : PoolRegion → PoolRegion) : State := { booted with pool := listUpd booted.pool 63 f }
/-- Region 63 is free, of one gibibyte of port 1, which has trained in CXL 3 mode. -/
def assigning : State := { region (fun r => { r with cmd := 1, size := 1, port := true }) with ifaces := [.pcie5, .cxl3] }
theorem test_witness_MarkhorRequestsAreServed_regions :
    63 < booted.pool.length ∧ 2 ≤ booted.bootStep ∧ (assigning.pool.getD 63 {}).cmd = 1 ∧ (assigning.pool.getD 63 {}).st = 0 ∧
      (assigning.pool.getD 63 {}).size ≠ 0 ∧ assigning.ifaces.getD 1 .pcie5 = .cxl3 ∧ (∀ y ∈ assigning.pool, ¬y.st ≠ 0) ∧
      ((region (fun r => { r with cmd := 1 })).pool.getD 63 {}).size = 0 ∧ ((region (fun r => { r with cmd := 2 })).pool.getD 63 {}).cmd = 2 ∧
      ((region (fun r => { r with st := 2, size := 1 })).pool.getD 63 {}).st = 2 ∧
      (region (fun r => { r with st := 2, size := 1 })).poolUnused ((region (fun r => { r with st := 2, size := 1 })).pool.getD 63 {}) = true := by
  decide +kernel
/-- A routing image of two devices lies at address 0 of the host's memory. -/
def imaging (count : Nat) : State :=
  { booted with routeLoading := true, mem := (booted.mem.writeNat (2 ^ 64) 4 count).writeNat (2 ^ 64 + 18) 2 1 }
theorem test_witness_MarkhorRequestsAreServed_images :
    let image (s : State) (off n : Nat) : Nat := s.mem.readNat (2 ^ 64 * (1 + s.routePort) + (s.routeAddr.toNat + off) % 2 ^ 64) n
    (imaging 2).routeLoading = true ∧ image (imaging 2) 0 4 = 2 ∧ (imaging 2).ownDevice = 0 ∧ image (imaging 2) 4 12 = 0 ∧
      image (imaging 2) 16 2 = 0 ∧ image (imaging 2) 18 2 = 1 ∧ image (imaging 0) 0 4 = 0 := by decide +kernel

/-- Queue 63 of virtual function 0 holds one entry of the given command, at address 0x1000 of the device as well as of the host: which of
the two the queue's base names is free. -/
def entryBytes (command asid desc : Nat) : List Byte :=
  leBytes 1 command ++ leBytes 5 0 ++ leBytes 2 asid ++ leBytes 8 7 ++ leBytes 8 desc ++ leBytes 40 0
def entryCells (command asid desc : Nat) : Memory :=
  let at_ (key : Nat) : Memory := (entryBytes command asid desc).zipIdx.map (fun e => (key + e.2, e.1))
  at_ 0x1000 ++ booted.mem ++ at_ (2 ^ 64 + 0x1000)
def entryState (command asid desc : Nat) (tail : Memory) : State :=
  { booted with
    vfs := listUpd booted.vfs 0 (fun v => { v with queues := listUpd v.queues 63 (fun q => { q with size := 4, tail := 1, base := 0x40 }) })
    mem := entryCells command asid desc ++ tail }
theorem heads {s : State} {e : JobEntry} (h : s.vfUp 0 = true ∧ sizeOk (((s.vfAt 0).queues.getD 63 {}).size.toNat) = true ∧
    ((s.vfAt 0).queues.getD 63 {}).head ≠ ((s.vfAt 0).queues.getD 63 {}).tail ∧
    64 * ((s.vfAt 0).queues.getD 63 {}).base.toNat + 64 * ((s.vfAt 0).queues.getD 63 {}).head.toNat = 0x1000 ∧
    s.entryAt 0x1000 = e ∧ s.entryAt (s.hostKey 0 0x1000) = e) : s.headEntry 0 63 = some e := by
  obtain ⟨h1, h2, h3, h4, h5, h6⟩ := h
  unfold State.headEntry State.entryKey
  dsimp only
  rw [h4, h1, h2, beq_false_of_ne h3]
  cases hq : Config.queueOnDevice 0x1000 && s.inAllotment 0 0x1000 64 <;> simp [h5, h6]
/-- A job of one graph of one launch, with its descriptor at 0x300000. -/
def jobEntryState (asid command : Nat) : State :=
  let s := entryState command asid 0x300000 []
  { s with mem := (s.mem.writeNat 0x300000 8 1).writeNat 0x300008 8 1 }
def entry (command asid desc : Nat) : JobEntry := { command := command, asid := asid, tag := 7, desc := desc, compl := 0 }
def headBytes (s : State) : List Byte := ((s.ctxPages 0 3 0x300000 8).1.get?).getD []
def graphsOk (s : State) : Bool :=
  (s.ctxPages 0 3 0x300000 8).1 == .ok (leBytes 8 1) && (match readGraphs (s.ctxPages 0 3 0x300000 8).2 0 1 0x300008 0 with
    | .ok (gs, t) => gs.all (fun g => g.launches.all (fun r => !t.imageHeld 0 r.1))
    | .error _ => false)
theorem graphsOk_eq {s : State} (h : graphsOk s = true) : ∃ h s1 gs s2, s.ctxPages 0 3 0x300000 8 = (.ok h, s1) ∧ leNat h = 1 ∧
    readGraphs s1 0 (leNat h) (0x300000 + 8) 0 = .ok (gs, s2) ∧ ∀ g ∈ gs, ∀ r ∈ g.launches, s2.imageHeld 0 r.1 = false := by
  unfold graphsOk at h
  rw [Bool.and_eq_true, beq_iff_eq] at h
  obtain ⟨h1, h2⟩ := h
  split at h2
  · rename_i gs t hx
    exact ⟨_, _, gs, t, Prod.ext h1 rfl, by decide, hx, by simpa using h2⟩
  · cases h2
theorem test_witness_JobEntriesAreServed_graphs : ∃ h s1 gs s2, (jobEntryState 0 1).ctxPages 0 3 0x300000 8 = (.ok h, s1) ∧ leNat h = 1 ∧
    readGraphs s1 0 (leNat h) (0x300000 + 8) 0 = .ok (gs, s2) ∧ ∀ g ∈ gs, ∀ r ∈ g.launches, s2.imageHeld 0 r.1 = false := graphsOk_eq (by decide +kernel)
/-- The page of the descriptor migrates. -/
def heldEntry (clock : Word64) : State :=
  let s := jobEntryState 0 1
  { s with clock := clock, mem := s.mem.writeNat 0x12000 8 0x7F }
theorem test_witness_JobEntriesAreServed_held :
    (heldEntry 0).headEntry 0 63 = some (entry 1 0 0x300000) ∧ (∃ s1, (heldEntry 0).ctxPages 0 3 0x300000 8 = (.migrating, s1)) ∧
      (heldEntry 0).pastLimit 0 ((((heldEntry 0).vfAt 0).queues.getD 63 {}).hold.getD 0) = false ∧ (heldEntry 1800000000).pastLimit 0 0 = true :=
  ⟨heads (by decide +kernel), ⟨_, Prod.ext (by decide +kernel) rfl⟩, by decide +kernel, by decide +kernel⟩
theorem test_witness_JobEntriesAreServed_heads :
    (jobEntryState 0 1).headEntry 0 63 = some (entry 1 0 0x300000) ∧ (jobEntryState 0 9).headEntry 0 63 = some (entry 9 0 0x300000) ∧
      (jobEntryState 5 1).headEntry 0 63 = some (entry 1 5 0x300000) ∧ (jobEntryState 5 3).headEntry 0 63 = some (entry 3 5 0x300000) :=
  ⟨heads (by decide +kernel), heads (by decide +kernel), heads (by decide +kernel), heads (by decide +kernel)⟩
theorem test_witness_JobEntriesAreServed_job :
    0 < (jobEntryState 0 1).vfs.length ∧ 63 < ((jobEntryState 0 1).vfAt 0).queues.length ∧
      Table.find? (jobEntryState 0 1).ctxs (ctxKey 0 0) ≠ none ∧ ((jobEntryState 0 1).ctxAt (ctxKey 0 0)).failed = false ∧
      Table.find? (jobEntryState 5 1).ctxs (ctxKey 0 5) = none := by decide +kernel
def idle : State := { jobEntryState 0 3 with jobs := [] }
theorem test_witness_JobEntriesAreServed_destroy :
    idle.headEntry 0 63 = some (entry 3 0 0x300000) ∧ Table.find? idle.ctxs (ctxKey 0 0) ≠ none ∧
      ∀ j, ∀ x, (j, x) ∈ idle.jobs → x.ctx = ctxKey 0 0 → idle.jobOver j = true :=
  ⟨heads (by decide +kernel), by decide +kernel, fun _ _ h => absurd h (by rw [show idle.jobs = [] from rfl]; exact List.not_mem_nil)⟩

/-- The descriptor of a new context 0 whose save region has the least size that the part takes, at host address 0x2000. -/
def leastSave : Nat := Config.saveMinimum.toNat
def newContext : State :=
  let s := entryState 2 0 0x2000 (Memory.writeNat [] (0x2000 + 2 ^ 64) 128 (leastSave * 2 ^ 256))
  { s with ctxs := [], vfs := listUpd s.vfs 0 (fun v => { v with set := { v.set with allot := 2 ^ 40 } }) }
theorem read_append {xs ys : Memory} {c : Nat} (h : ∀ e ∈ xs, e.1 < c) : Memory.read (xs ++ ys) c = Memory.read ys c := by
  induction xs with
  | nil => rfl
  | cons x rest ih =>
    have := h x (by simp)
    rw [List.cons_append, Memory.read, if_neg (by omega)]
    exact ih (fun e he => h e (List.mem_cons_of_mem _ he))
theorem newContext_desc : newContext.mem.readNat (2 ^ 64 * (1 + (newContext.vfAt 0).port) + 0x2000 % 2 ^ 64) 128 = leastSave * 2 ^ 256 := by
  have hp : (newContext.vfAt 0).port = 0 := by decide +kernel
  have hm : newContext.mem = entryCells 2 0 0x2000 ++
    Memory.writeNat [] (0x2000 + 2 ^ 64) 128 (leastSave * 2 ^ 256) := rfl
  have hb : ∀ e ∈ entryCells 2 0 0x2000, e.1 < 0x2000 + 2 ^ 64 := by
    decide +kernel
  have hn : leastSave < 2 ^ 64 := Config.saveMinimum.isLt
  rw [hp, hm]
  unfold Memory.readNat
  rw [Memory.readBytes_congr (m' := Memory.writeNat [] (0x2000 + 2 ^ 64) 128 (leastSave * 2 ^ 256))
    (fun c h1 _ => read_append (fun e he => lt_of_lt_of_le (hb e he) (by omega)))]
  refine (Memory.readNat_writeNat [] (0x2000 + 2 ^ 64) 128 (leastSave * 2 ^ 256)).trans (Nat.mod_eq_of_lt ?_)
  calc leastSave * 2 ^ 256 < 2 ^ 64 * 2 ^ 256 := Nat.mul_lt_mul_of_pos_right hn (by positivity)
    _ < 256 ^ 128 := by norm_num
set_option exponentiation.threshold 400 in
theorem desc_field {n lo k : Nat} (h : n < 2 ^ 64) (hl : lo + k ≤ 256 ∨ 320 ≤ lo) : bitsOf (n * 2 ^ 256) lo k = 0 := by
  unfold bitsOf
  rcases hl with hl | hl
  · rw [show n * 2 ^ 256 = 2 ^ lo * (n * 2 ^ (256 - lo)) by
      rw [Nat.mul_left_comm, ← pow_add, Nat.add_sub_cancel' (by omega)], Nat.mul_div_cancel_left _ (by positivity)]
    apply Nat.mod_eq_zero_of_dvd
    exact Dvd.dvd.mul_left (pow_dvd_pow 2 (by omega)) n
  · rw [Nat.div_eq_of_lt, Nat.zero_mod]
    calc n * 2 ^ 256 < 2 ^ 64 * 2 ^ 256 := Nat.mul_lt_mul_of_pos_right h (by positivity)
      _ = 2 ^ 320 := by rw [← pow_add]
      _ ≤ 2 ^ lo := Nat.pow_le_pow_right (by norm_num) hl
theorem desc_size {n : Nat} (h : n < 2 ^ 64) : bitsOf (n * 2 ^ 256) 256 64 = n := by
  unfold bitsOf
  rw [Nat.mul_div_cancel _ (by positivity), Nat.mod_eq_of_lt h]
theorem descOk_least {s : State} {d n : Nat} (a0 : s.allotBase 0 = 0) (a1 : s.allotSize 0 = 2 ^ 70) (hn : n < 2 ^ 64)
    (hs : Config.saveMinimum.toNat ≤ n) (hz : bitsOf d (8 * 32) (8 * 8) = n)
    (h0 : bitsOf d (8 * 0) (8 * 8) = 0) (h10 : bitsOf d (8 * 10) (8 * 1) = 0) (h11 : bitsOf d (8 * 11) (8 * 1) = 0) (h12 : bitsOf d (8 * 12) (8 * 4) = 0) (h16 : bitsOf d (8 * 16) (8 * 8) = 0) (h24 : bitsOf d (8 * 24) (8 * 8) = 0) (h40 : bitsOf d (8 * 40) (8 * 8) = 0) (h48 : bitsOf d (8 * 48) (8 * 8) = 0)
    (h56 : bitsOf d (8 * 56) (8 * 8) = 0) (h64 : bitsOf d (8 * 64) (8 * 8) = 0) (h72 : bitsOf d (8 * 72) (8 * 8) = 0) (h80 : bitsOf d (8 * 80) (8 * 2) = 0) (h82 : bitsOf d (8 * 82) (8 * 2) = 0) (h84 : bitsOf d (8 * 84) (8 * 4) = 0) (h88 : bitsOf d (8 * 88) (8 * 8) = 0) (h104 : bitsOf d (8 * 104) (8 * 8) = 0) (h112 : bitsOf d (8 * 112) (8 * 16) = 0) :
    s.descOk 0 d = true := by
  unfold State.descOk State.inAllotment
  simp only [a0, a1, hz, h0, h10, h11, h12, h16, h24, h40, h48, h56, h64, h72, h80, h82, h84, h88, h104, h112]
  have h1 : n ≤ 2 ^ 70 := le_trans hn.le (by norm_num)
  simp [hs]
  exact h1
theorem newContext_ok : newContext.descOk 0 (leastSave * 2 ^ 256) = true := by
  have hn : leastSave < 2 ^ 64 := Config.saveMinimum.isLt
  apply descOk_least (n := leastSave) (by decide +kernel) (by decide +kernel) hn (le_refl _) (desc_size hn)
  all_goals exact desc_field hn (by decide)
theorem test_witness_JobEntriesAreServed_create :
    newContext.headEntry 0 63 = some (entry 2 0 0x2000) ∧ 63 < (newContext.vfAt 0).queues.length ∧
      (let d := newContext.mem.readNat (2 ^ 64 * (1 + (newContext.vfAt 0).port) + 0x2000 % 2 ^ 64) 128
       newContext.descOk 0 d = true ∧ bitsOf d (8 * 8) (8 * 2) = 0 ∧ bitsOf d (8 * 10) (8 * 1) = 0 ∧ bitsOf d (8 * 80) (8 * 2) = 0 ∧
        bitsOf d (8 * 82) (8 * 2) = 0 ∧ bitsOf d (8 * 96) (8 * 8) = 0) ∧
      Table.find? newContext.ctxs (ctxKey 0 0) = none ∧ (newContext.vfAt 0).live < 64 := by
  have hn : leastSave < 2 ^ 64 := Config.saveMinimum.isLt
  rw [newContext_desc]
  exact ⟨heads (by decide +kernel), by decide +kernel, ⟨newContext_ok, desc_field hn (by decide), desc_field hn (by decide), desc_field hn (by decide),
    desc_field hn (by decide), desc_field hn (by decide)⟩, by decide +kernel, by decide +kernel⟩
theorem test_witness_JobEntriesAreServed_refuse :
    let s := entryState 2 0 0x2000 []
    s.headEntry 0 63 = some (entry 2 0 0x2000) ∧ Table.find? s.ctxs (ctxKey 0 0) ≠ none ∧ Table.find? { s with ctxs := [] }.ctxs (ctxKey 0 0) = none ∧
      64 ≤ ({ s with vfs := listUpd s.vfs 0 (fun v => { v with live := 64 }) }.vfAt 0).live ∧
      { s with mem := s.mem ++ [(0x2000 + 2 ^ 64 + 1, 8), (0x2000 + 2 ^ 64, 1)] }.descOk 0 1 = false :=
  ⟨heads (by decide +kernel), by decide +kernel⟩

/-! ### The whole machine -/

def turning (lane : Bool) (bytes : List Byte) : State := placeBytes State.reset lane bytes
def turned (lane : Bool) (bytes : List Byte) : State := { turning lane bytes with agenda := [] }
/-- The bytes that a stream fetches, and the state that the fetch leaves. -/
def fetchedAt (s : State) (lane : Bool) (base fuel at_ n off : Nat) : Option (List Byte) :=
  match s.fetchBytes s.who lane (teamCtx s.cur) base fuel at_ n off [] with
  | (.bytes bs, _) => some bs
  | _ => none
theorem fetchedAt_eq {s : State} {lane : Bool} {base fuel at_ n off : Nat} {bs : List Byte} (h : fetchedAt s lane base fuel at_ n off = some bs) :
    s.fetchBytes s.who lane (teamCtx s.cur) base fuel at_ n off [] =
      (.bytes bs, (s.fetchBytes s.who lane (teamCtx s.cur) base fuel at_ n off []).2) := by
  unfold fetchedAt at h
  revert h
  rcases s.fetchBytes s.who lane (teamCtx s.cur) base fuel at_ n off [] with ⟨x, t⟩
  cases x <;> simp
theorem moves_of {u : State} (h : u.stopped = false ∧ u.dueChannel = none ∧ u.team.cancelDue = false ∧ u.block.ending = none ∧
    u.block.squashDue = false ∧ u.saveHolds (teamBlock u.cur) = false) : ScalarMoves u :=
  ⟨h.1, h.2.1, h.2.2.1, .inl h.2.2.2.1, .inl h.2.2.2.2.1, h.2.2.2.2.2⟩
/-- The word of `ADDI s5, s5, -2440`. -/
theorem test_witness_StepRunsTheDecodedInstruction_scalar :
    let u := turned false (stored [0x78, 0xB6, 0x28, 0x02])
    StreamTurn (turning false (stored [0x78, 0xB6, 0x28, 0x02])) u .scalar 0 ∧ ScalarMoves u ∧ u.team.spc.toNat % 4 = 0 ∧
      (∃ u1, u.fetchBytes u.who false (teamCtx 0) u.fresh 4 u.team.spc.toNat 4 0 [] = (.bytes (stored [0x78, 0xB6, 0x28, 0x02]), u1)) ∧
      u.team.runs = [] ∧
      (decodeScalar (BitVec.ofNat 32 (leNat (stored [0x78, 0xB6, 0x28, 0x02])))).toOption = some (.addi 5 5 (BitVec.ofInt 13 (-2440))) :=
  ⟨⟨[], by decide +kernel, by decide +kernel⟩, moves_of (by decide +kernel), by decide +kernel, ⟨_, fetchedAt_eq (by decide +kernel)⟩, by decide +kernel⟩
/-- The word of `ADDI s9, s5, -2440`, while a run that reads s9 waits in the queue. -/
def interlockState : State :=
  let s := turned false (stored [0x78, 0xB6, 0x48, 0x02])
  { s.setTeam { s.team with runs := [{ addr := 0x100100, start := 0x100100 }] } with
    mem := s.mem.writeBytes 0x100100 (stored [0xB3, 0x9F, 0x85, 0x61, 0x48, 0xB0, 0x28, 0xFC, 0xF7, 0x07, 0x04]) }
theorem test_witness_StepRunsTheDecodedInstruction_waits :
    (fetchedAt interlockState false interlockState.fresh 4 0x100000 4 0).isSome = true ∧ scalarDest (.addi 9 5 (BitVec.ofInt 13 (-2440))) = some 9 ∧
      (∃ j ∈ interlockState.runInstrs 0 24 0x100100, 9 ∈ laneSregs j) ∧ interlockState.team.runs = [{ addr := 0x100100, start := 0x100100 }] ∧
      (decodeScalar 0x0248B678).toOption = some (.addi 9 5 (BitVec.ofInt 13 (-2440))) ∧
      wholeRun 24 (interlockState.runInstrs 0 24 0x40000000) = false ∧ wholeRun 24 (interlockState.runInstrs 0 24 0x100100) = true := by decide +kernel
/-- A word of an unassigned opcode, a misaligned SPC, a stopped team and a command that is due. -/
theorem test_witness_StepRunsTheDecodedInstruction_other :
    let u := turned false (stored [0, 0, 0, 0xFE])
    ScalarMoves u ∧ (∃ u1, u.fetchBytes u.who false (teamCtx 0) u.fresh 4 u.team.spc.toNat 4 0 [] = (.bytes (stored [0, 0, 0, 0xFE]), u1) ∧ CanTrap u1) ∧
      decodeScalar (BitVec.ofNat 32 (leNat (stored [0, 0, 0, 0xFE]))) = .error .unassignedOpcode ∧
      ScalarMoves (homeWith (fun t => { t with spc := 0x100002 })) ∧ (homeWith (fun t => { t with spc := 0x100002 })).team.spc.toNat % 4 ≠ 0 ∧
      CanTrap (homeWith (fun t => { t with spc := 0x100002 })) ∧ (homeWith (fun t => { t with ended := true })).stopped = true ∧
      (engineState 0x14F0 none []).dueChannel = some (0, 15) ∧ (engineState 0x14F0 none []).stopped = false ∧
      Table.find? State.reset.teams State.reset.cur = none ∧ Table.find? home.teams home.cur ≠ none ∧ home.agenda = [] :=
  ⟨moves_of (by decide +kernel), ⟨_, fetchedAt_eq (by decide +kernel), canTrap_of (by decide +kernel)⟩, by decide,
    moves_of (by decide +kernel), by decide +kernel, canTrap_of (by decide +kernel), by decide +kernel⟩
def icmpBytes : List Byte := stored [0xBB, 0xAF, 0x1A, 0x62, 0x02, 0x20, 0x3A, 0x04, 0xF0, 0xF7, 0x07, 0x80]
def laneFetched (bytes : List Byte) : State :=
  let u := turned true bytes
  (u.fetchBytes u.who true (teamCtx u.cur) u.fresh 2 0x100000 2 0 []).2
theorem test_witness_StepRunsTheDecodedInstruction_lane :
    let u := turned true icmpBytes
    let u1 := laneFetched icmpBytes
    LaneTurn (turning true icmpBytes) u 0 [] [] ∧ (u.strongPending 0 = false ∧
      { u with ops := [{ storeAt 64 1 with strong := true }] }.strongPending 0 = true ∧ u.stopped = false ∧ u.dueChannel = none ∧ u.team.active = some act0 ∧ act0.count < 24) ∧
      u.fetchBytes u.who true (teamCtx u.cur) u.fresh 2 0x100000 2 0 [] = (.bytes (stored [0xBB, 0xAF]), u1) ∧ headerOk (leNat (stored [0xBB, 0xAF])) = true ∧
      (∃ u2, u1.fetchBytes u1.who true (teamCtx u1.cur) u.fresh 16 0x100002 10 2 [] = (.bytes (icmpBytes.drop 2), u2)) ∧
      (unpackBytes (leNat (stored [0xBB, 0xAF])) (icmpBytes.drop 2)).toOption.bind (fun w => (decodeLane w).toOption) =
        some (.icmp last .n32 .lt (.p 3) (.v 2) (.int 100)) :=
  ⟨⟨[], by decide +kernel, by decide +kernel⟩, by decide +kernel, fetchedAt_eq (by decide +kernel), by decide +kernel,
    ⟨_, fetchedAt_eq (by decide +kernel)⟩, by decide +kernel⟩
/-- A header whose count does not match its marks (R108), a marked byte that is zero, and an unassigned opcode. -/
theorem test_witness_StepRunsTheDecodedInstruction_badRuns :
    headerOk (leNat (stored [1, 0])) = false ∧ CanTrapLane (laneFetched (stored [1, 0])) ∧
      ((fetchedAt (turned true (stored [1, 0])) true (turned true (stored [1, 0])).fresh 2 0x100000 2 0) = some (stored [1, 0]) ∧
      (unpackBytes (leNat (stored [0xBB, 0xAF])) (stored [0x1A, 0, 0x02, 0x20, 0x3A, 0x04, 0xF0, 0xF7, 0x07, 0x80])).toOption = none ∧
      (decodeLane 0xFFF).toOption = none) ∧ CanTrapLane (laneFetched icmpBytes) ∧
      24 ≤ { act0 with count := 24 }.count ∧ CanTrapLane lane0 :=
  ⟨by decide +kernel, canTrapLane_of (by decide +kernel), by decide +kernel, canTrapLane_of (by decide +kernel), by decide,
    canTrapLane_home⟩
theorem test_witness_EncodingsRoundTrip :
    wellFormed (.icmp last .n32 .lt (.p 3) (.v 2) (.int 100)) = true ∧ isStep (.icmp last .n32 .lt (.p 3) (.v 2) (.int 100)) = false ∧
      wellFormed (.slli 1 2 63) = true ∧ isStep (.slli 1 2 63) = false ∧ isStep (.runGrant 0 0) = true := by decide
def isNext (o : Out) : Bool :=
  match o with
  | .next _ => true
  | _ => false
theorem test_witness_StepsKeepTheCanonicalForm :
    Canonical (turning false (stored [0x78, 0xB6, 0x28, 0x02])) ∧ isNext (step (turning false (stored [0x78, 0xB6, 0x28, 0x02]))) = true :=
  ⟨⟨memories_of (by decide +kernel), by unfold TeamsRising; decide +kernel⟩, by decide +kernel⟩

/-! ### Single steps -/

/-- R272: from a state in which it is placed, `ADDI s5, s5, -2440` leaves -2440 in s5 and SPC behind itself. -/
theorem test_step_addi :
    (match step (turning false (stored [0x78, 0xB6, 0x28, 0x02])) with
      | .next t => t.team.sreg 5 == BitVec.ofInt 64 (-2440) && t.team.spc == 0x100004
      | _ => false) = true := by decide +kernel
/-- R316, R39: `ICMP.LT.N32 p3, v2, 100` of v2 = 0 is to write 1 four cycles after it issued, and its run has ended. -/
theorem test_step_icmp :
    (match step (State.reset.withFetchWord 96 (leNat (stored [0x1A, 0x62, 0x00, 0x02, 0x20, 0x3A, 0x00, 0x04, 0xF0, 0xF7, 0x07, 0x80]))) with
      | .next t => (match t.team.active with
        | some a => a.finished && a.pend == [{ due := 4, dsts := [.p 3], writes := [{ pos := 0, reg := .p 3, val := 1 }] }]
        | none => false)
      | _ => false) = true := by decide +kernel
/-- R384: an unassigned opcode enters the handler with cause 0x01 and detail 0x01. -/
theorem test_step_illegal :
    (match step (State.reset.withFetchWord 32 0xFE000000) with
      | .next t => t.team.sup && t.team.spc == placeTrapBase && t.team.trapInfo == 0x0000000180000001
      | _ => false) = true := by decide +kernel
/-- The digest of the three bytes of FIPS 180-4's first example, `abc`. -/
theorem test_sha384 : sha384 (stored [0x61, 0x62, 0x63]) =
    0xcb00753f45a35e8bb5a03d699ac65007272c32ab0eded1631a8b605a43ff5bed8086072ba1e7cc2358baeca134c825a7 := by decide +kernel

end Sys2Proof.Machine.Tests
end

section
/-! SUPPORT. The canonical form (log 3): what the updates of the state ask for and leave of it. -/

namespace Sys2Proof.Machine

-- Lemmas are elaborated one after another: a proof that adds a helper lemma waits for those before it, and each that waits holds a thread.
set_option Elab.async false

/-! ### Tables -/

section
variable {α : Type} {t : Table α}

theorem Table.mem_set {k : Nat} {v : α} {e : Nat × α} (h : e ∈ Table.set t k v) : e = (k, v) ∨ e ∈ t := by
  induction t with
  | nil => simpa [Table.set] using h
  | cons a r ih =>
    simp only [Table.set] at h
    grind

theorem Table.mem_mapVals {f : Nat → α → α} {e : Nat × α} (h : e ∈ Table.mapVals t f) : ∃ d ∈ t, e = (d.1, f d.1 d.2) := by
  obtain ⟨d, hd, rfl⟩ := List.mem_map.mp h
  exact ⟨d, hd, rfl⟩

/-- Where the keys of a table rise, they rise after an entry is set. -/
theorem Table.rising_set (h : (t.map (·.1)).Pairwise (· < ·)) (k : Nat) (v : α) :
    ((Table.set t k v).map (·.1)).Pairwise (· < ·) := by
  induction t with
  | nil => simp [Table.set]
  | cons a r ih =>
    have hk : ∀ x ∈ (Table.set r k v).map (·.1), x = k ∨ x ∈ r.map (·.1) := by
      intro x hx
      obtain ⟨e, he, rfl⟩ := List.mem_map.mp hx
      rcases Table.mem_set he with rfl | he
      · exact .inl rfl
      · exact .inr (List.mem_map_of_mem he)
    simp only [List.map_cons, List.pairwise_cons] at h
    have hr := ih h.2
    simp only [Table.set]
    split
    · simp only [List.map_cons, List.pairwise_cons, List.mem_cons]; grind
    · split <;> simp only [List.map_cons, List.pairwise_cons] <;> grind

theorem Table.rising_filter (h : (t.map (·.1)).Pairwise (· < ·)) (p : Nat × α → Bool) :
    ((t.filter p).map (·.1)).Pairwise (· < ·) :=
  h.sublist ((List.filter_sublist (p := p)).map _)

theorem Table.keys_mapVals (t : Table α) (f : Nat → α → α) : (Table.mapVals t f).map (·.1) = t.map (·.1) := by
  simp [Table.mapVals]

theorem Table.rising_mapVals (h : (t.map (·.1)).Pairwise (· < ·)) (f : Nat → α → α) :
    ((Table.mapVals t f).map (·.1)).Pairwise (· < ·) := by
  rwa [Table.keys_mapVals]

end

theorem mem_listUpd {α : Type} {xs : List α} {k : Nat} {f : α → α} {y : α} (h : y ∈ listUpd xs k f) : y ∈ xs ∨ ∃ x ∈ xs, y = f x := by
  induction xs generalizing k with
  | nil => cases h
  | cons x r ih => cases k <;> simp only [listUpd] at h <;> grind

/-! ### Shares and blocks -/

/-- The memories of a share are in their canonical form. -/
def Share.Wf (h : Share) : Prop := h.scratch.wf = true ∧ h.wbuf.wf = true ∧ ∀ m ∈ h.tiles, Memory.wf m = true

/-- The memories of a block are in their canonical form. -/
def Block.Wf (b : Block) : Prop := ∀ h ∈ b.shares, h.Wf

theorem Block.Wf.updShare {b : Block} (hb : b.Wf) (ci : Nat) {f : Share → Share} (hf : ∀ h, h.Wf → (f h).Wf) :
    Block.Wf { b with shares := listUpd b.shares ci f } := by
  intro h hh
  rcases mem_listUpd hh with hh | ⟨g, hg, rfl⟩
  · exact hb h hh
  · exact hf g (hb g hg)

theorem Block.Wf.mapChans {b : Block} (hb : b.Wf) (f : Chan → Chan) : (b.mapChans f).Wf := by
  intro h hh
  obtain ⟨g, hg, rfl⟩ := List.mem_map.mp hh
  exact hb g hg

/-- The core index of a share that a block does not have stands for an empty share. -/
theorem Block.Wf.share {b : Block} (hb : b.Wf) (ci : Nat) : (b.share ci).Wf := by
  rw [Block.share, List.getD_eq_getElem?_getD]
  cases e : b.shares[ci]? with
  | none => exact ⟨rfl, rfl, by simp⟩
  | some h => exact hb h (List.mem_of_getElem? e)

theorem blocks_mapVals {t : Table Block} (h : ∀ e ∈ t, e.2.Wf) {f : Nat → Block → Block} (hf : ∀ k b, b.Wf → (f k b).Wf) :
    ∀ e ∈ Table.mapVals t f, e.2.Wf := by
  intro e he
  obtain ⟨d, hd, rfl⟩ := Table.mem_mapVals he
  exact hf d.1 d.2 (h d hd)

theorem windows_mapVals {t : Table Launch} (h : ∀ e ∈ t, e.2.window.wf = true) {f : Nat → Launch → Launch}
    (hf : ∀ k x, (f k x).window = x.window) : ∀ e ∈ Table.mapVals t f, e.2.window.wf = true := by
  intro e he
  obtain ⟨d, hd, rfl⟩ := Table.mem_mapVals he
  rw [hf]
  exact h d hd

/-! ### The canonical form -/

section
variable {s t : State}

/-- What of the state the canonical form reads. -/
theorem canonical_iff : Canonical s ↔ s.mem.wf = true ∧ s.wstore.wf = true ∧ (∀ e ∈ s.blocks, e.2.Wf) ∧
    (∀ e ∈ s.launches, e.2.window.wf = true) ∧ (s.teams.map (·.1)).Pairwise (· < ·) :=
  ⟨fun h => ⟨h.memories.global, h.memories.store, h.memories.blocks, h.memories.windows, h.teams⟩,
    fun ⟨hm, hw, hb, hl, ht⟩ => ⟨⟨hm, hw, hb, hl⟩, ht⟩⟩

/-- An update that leaves the memories and the teams keeps the canonical form. -/
theorem Canonical.of_eq (h : Canonical s) (hm : t.mem = s.mem := by rfl) (hw : t.wstore = s.wstore := by rfl)
    (hb : t.blocks = s.blocks := by rfl) (hl : t.launches = s.launches := by rfl) (ht : t.teams = s.teams := by rfl) : Canonical t := by
  rw [canonical_iff] at h ⊢
  rwa [hm, hw, hb, hl, ht]

theorem Canonical.blockAt (h : Canonical s) (b : Nat) : (s.blockAt b).Wf := by
  unfold State.blockAt Table.get
  cases e : Table.find? s.blocks b with
  | none => exact fun _ hh => absurd hh List.not_mem_nil
  | some x => exact h.memories.blocks _ (Table.mem_of_find? e)

theorem Canonical.window (h : Canonical s) (l : Nat) : (s.launchAt l).window.wf = true := by
  unfold State.launchAt Table.get
  cases e : Table.find? s.launches l with
  | none => rfl
  | some x => exact h.memories.windows _ (Table.mem_of_find? e)

/-! ### The parts of the machine -/

theorem Canonical.setTeamAt (h : Canonical s) (k : Nat) (x : Team) : Canonical (s.setTeamAt k x) :=
  ⟨{ h.memories with }, Table.rising_set h.teams _ _⟩
theorem Canonical.setTeam (h : Canonical s) (x : Team) : Canonical (s.setTeam x) := h.setTeamAt _ _
theorem Canonical.setBlockAt (h : Canonical s) (b : Nat) {x : Block} (hx : x.Wf) : Canonical (s.setBlockAt b x) := by
  refine ⟨{ h.memories with blocks := fun e he => ?_ }, h.teams⟩
  rcases Table.mem_set he with rfl | he
  · exact hx
  · exact h.memories.blocks e he
theorem Canonical.setLaunchAt (h : Canonical s) (l : Nat) {x : Launch} (hx : x.window.wf = true) : Canonical (s.setLaunchAt l x) := by
  refine ⟨{ h.memories with windows := fun e he => ?_ }, h.teams⟩
  rcases Table.mem_set he with rfl | he
  · exact hx
  · exact h.memories.windows e he
theorem Canonical.setCtxAt (h : Canonical s) (c : Nat) (x : Ctx) : Canonical (s.setCtxAt c x) := h.of_eq
theorem Canonical.setCtx (h : Canonical s) (x : Ctx) : Canonical (s.setCtx x) := h.of_eq
theorem Canonical.setCoreAt (h : Canonical s) (c : Nat) (x : Core) : Canonical (s.setCoreAt c x) := h.of_eq
theorem Canonical.setVfAt (h : Canonical s) (v : Nat) (x : VFun) : Canonical (s.setVfAt v x) := h.of_eq
theorem Canonical.setJobAt (h : Canonical s) (j : Nat) (x : Job) : Canonical (s.setJobAt j x) := h.of_eq
theorem Canonical.updShare (h : Canonical s) (b ci : Nat) {f : Share → Share} (hf : ∀ x : Share, x.Wf → (f x).Wf) : Canonical (s.updShare b ci f) :=
  h.setBlockAt b ((h.blockAt b).updShare ci hf)
theorem Canonical.mapTeams (h : Canonical s) (f : Nat → Team → Team) : Canonical { s with teams := s.teams.mapVals f } :=
  ⟨{ h.memories with }, Table.rising_mapVals h.teams f⟩
theorem Canonical.mapBlocks (h : Canonical s) {f : Nat → Block → Block} (hf : ∀ k b, b.Wf → (f k b).Wf) :
    Canonical { s with blocks := s.blocks.mapVals f } :=
  ⟨{ h.memories with blocks := blocks_mapVals h.memories.blocks hf }, h.teams⟩
theorem Canonical.mapLaunches (h : Canonical s) {f : Nat → Launch → Launch} (hf : ∀ k x, (f k x).window = x.window) :
    Canonical { s with launches := s.launches.mapVals f } :=
  ⟨{ h.memories with windows := windows_mapVals h.memories.windows hf }, h.teams⟩
theorem Canonical.setMem (h : Canonical s) {m : Memory} (hm : m.wf = true) : Canonical { s with mem := m } :=
  ⟨{ h.memories with global := hm }, h.teams⟩
theorem Canonical.setStore (h : Canonical s) {m : Memory} (hm : m.wf = true) : Canonical { s with wstore := m } :=
  ⟨{ h.memories with store := hm }, h.teams⟩

/-- Repeating an operation that keeps the canonical form keeps it. -/
theorem Canonical.foldl {β : Type} {f : State → β → State} (xs : List β) (hf : ∀ s x, Canonical s → Canonical (f s x)) (h : Canonical s) :
    Canonical (xs.foldl f s) := by
  induction xs generalizing s with
  | nil => exact h
  | cons x r ih => exact ih (hf s x h)

/-! ### Counters, numbers and locks -/

theorem Canonical.count (h : Canonical s) (core vf n x : Nat) : Canonical (s.count core vf n x) := h.of_eq
theorem Canonical.countHere (h : Canonical s) (n x : Nat) : Canonical (s.countHere n x) := h.of_eq
theorem Canonical.countReplay (h : Canonical s) (reqs) : Canonical (s.countReplay reqs) :=
  State.countReplay_cases s reqs _ fun _ => h.of_eq
theorem Canonical.correctedError (h : Canonical s) (k : Nat) : Canonical (s.correctedError k) := h.of_eq
theorem Canonical.newUid (h : Canonical s) : Canonical s.newUid.2 := h.of_eq
theorem Canonical.takeFresh (h : Canonical s) : Canonical s.takeFresh.2 := h.of_eq
theorem Canonical.setUids (h : Canonical s) (n : Nat) : Canonical { s with uids := n } := h.of_eq
theorem Canonical.setFresh (h : Canonical s) (n : Nat) : Canonical { s with fresh := n } := h.of_eq
theorem Canonical.setCur (h : Canonical s) (k : Nat) : Canonical { s with cur := k } := h.of_eq
theorem Canonical.setOps (h : Canonical s) (os : List LaneOp) : Canonical { s with ops := os } := h.of_eq
theorem Canonical.waitDone (h : Canonical s) (k : Nat) : Canonical (s.waitDone k) := by
  unfold State.waitDone
  grind [Canonical.count, Canonical.setTeamAt]
theorem Canonical.waitBegins (h : Canonical s) : Canonical s.waitBegins := by
  unfold State.waitBegins
  grind [Canonical.countHere, Canonical.setTeam]
theorem Canonical.blockWaits (h : Canonical s) (b : Nat) : Canonical (s.blockWaits b) :=
  .foldl _ (fun _ k h => h.waitDone k) (.foldl _ (fun _ _ h => h.count ..) h)
theorem Canonical.addLocks (h : Canonical s) (ls : List (Nat × Lock)) : Canonical (s.addLocks ls) := by
  induction ls generalizing s with
  | nil => exact h
  | cons l r ih => unfold State.addLocks; grind [Canonical.setCoreAt]
theorem Canonical.dropLocks (h : Canonical s) (uid : Nat) : Canonical (s.dropLocks uid) := h.of_eq
theorem Canonical.dropSourceLocks (h : Canonical s) (uid : Nat) : Canonical (s.dropSourceLocks uid) := h.of_eq
theorem Canonical.raiseLock (h : Canonical s) (uid space lo : Nat) : Canonical (s.raiseLock uid space lo) := h.of_eq
theorem Canonical.freeDatapath (h : Canonical s) (k : Nat) : Canonical (s.freeDatapath k) := h.of_eq
theorem Canonical.reserveArrays (h : Canonical s) (k : Nat) (cores : List Nat) : Canonical (s.reserveArrays k cores) :=
  .foldl _ (fun _ _ h => h.setCoreAt ..) h
theorem Canonical.promotePairs (h : Canonical s) : Canonical s.promotePairs :=
  .foldl _ (fun _ _ h => by grind [Canonical.reserveArrays]) h
theorem Canonical.leaveArrays (h : Canonical s) (k : Nat) : Canonical (s.leaveArrays k) :=
  Canonical.promotePairs h.of_eq

/-! ### Scratchpads and traps -/

theorem Canonical.scratchWrite (h : Canonical s) (b ci off n x : Nat) : Canonical (s.scratchWrite b ci off n x) :=
  h.updShare b ci fun _ ⟨hs, hr⟩ => ⟨Memory.wf_writeNat hs .., hr⟩
theorem Canonical.scratchWriteBytes (h : Canonical s) (b ci off : Nat) (xs : List Byte) : Canonical (s.scratchWriteBytes b ci off xs) :=
  h.updShare b ci fun _ ⟨hs, hr⟩ => ⟨Memory.wf_writeBytes hs .., hr⟩
theorem Canonical.deliverTrap (h : Canonical s) (k : Nat) (tr : Trap) (spc resume : Word64) (aside : List RunEntry) :
    Canonical (deliverTrap s k tr spc resume aside) := by
  unfold Machine.deliverTrap
  grind [Canonical.setTeamAt, Canonical.freeDatapath, Canonical.count, Canonical.setUids]
theorem Canonical.takeTrap (h : Canonical s) (k : Nat) (tr : Trap) (spc resume : Word64) (aside : List RunEntry) :
    Canonical (takeTrap s k tr spc resume aside) := by
  unfold Machine.takeTrap
  split
  · exact h.setTeamAt ..
  · exact h.deliverTrap ..
theorem Canonical.endGrant (h : Canonical s) (k : Nat) : Canonical (s.endGrant k) := by
  unfold State.endGrant
  grind [Canonical.setTeamAt, Canonical.freeDatapath]
theorem Canonical.holdFor (h : Canonical s) (tr : Trap) : Canonical (s.holdFor tr) := h.setTeam _

/-! ### Translation and fetch -/

theorem Canonical.pteOr (h : Canonical s) (addr : Nat) (e bits : Word64) : Canonical (s.pteOr addr e bits) :=
  h.setMem (Memory.wf_writeNat h.memories.global ..)
theorem Canonical.tlbPut (h : Canonical s) (w : Who) (e : TlbEntry) : Canonical (s.tlbPut w e) := h.of_eq
theorem Canonical.walkPut (h : Canonical s) (w : Who) (va : Word64) (ts) : Canonical (s.walkPut w va ts) := h.of_eq
theorem Canonical.translateWalk (h : Canonical s) (w : Who) (va : Word64) (k : Access) : Canonical (s.translateWalk w va k).2 := by
  unfold State.translateWalk
  grind [Canonical.pteOr, Canonical.tlbPut, Canonical.walkPut]
theorem Canonical.translate (h : Canonical s) (w : Who) (va : Word64) (k : Access) : Canonical (s.translate w va k).2 := by
  unfold State.translate
  grind [Canonical.pteOr, Canonical.tlbPut, Canonical.translateWalk]
theorem Canonical.fillGranule (h : Canonical s) {w : Who} {lane : Bool} {ctx va : Nat} {g : Granule}
    (e : s.fillGranule w lane ctx va = .ok (g, t)) : Canonical t := by
  unfold State.fillGranule at e
  grind [Canonical.translate]
theorem Canonical.granule (h : Canonical s) {w : Who} {lane : Bool} {ctx base va : Nat} {bs : List Byte}
    (e : s.granule w lane ctx base va = .ok (bs, t)) : Canonical t := by
  unfold State.granule at e
  grind [→ Canonical.fillGranule, Canonical.setCoreAt, Canonical.setFresh]
theorem Canonical.fetchBytes (h : Canonical s) (w : Who) (lane : Bool) (ctx base fuel va n off : Nat) (acc : List Byte) :
    Canonical (s.fetchBytes w lane ctx base fuel va n off acc).2 := by
  induction fuel generalizing s va n off acc with
  | zero => exact h
  | succ fuel ih =>
    unfold State.fetchBytes
    grind [→ Canonical.granule]

end
end Sys2Proof.Machine
end

section
/-! SUPPORT. The canonical form through firmware, performing accesses, the pool and the completion levels. -/

namespace Sys2Proof.Machine
-- Lemmas are elaborated one after another: a proof that adds a helper lemma waits for those before it, and each that waits holds a thread.
set_option Elab.async false

variable {s t : State}

/-! ### Firmware -/

theorem Launch.noteShape_window (m : Memory) (no : Nat) (l : Launch) : (l.noteShape m no).window = l.window := by
  unfold Launch.noteShape
  grind
theorem Canonical.gwrite (h : Canonical s) (key : Nat) (bs : List Byte) : Canonical (s.gwrite key bs) :=
  (h.setMem (Memory.wf_writeBytes h.memories.global key bs)).mapLaunches fun _ _ => Launch.noteShape_window ..
theorem Canonical.gwriteNat (h : Canonical s) (key n x : Nat) : Canonical (s.gwriteNat key n x) := h.gwrite ..
theorem Canonical.ctxPhys (h : Canonical s) (c : Nat) (va : Word64) (k : Access) : Canonical (s.ctxPhys c va k).2 := by
  unfold State.ctxPhys
  grind [Canonical.pteOr]
theorem Canonical.ctxRead (h : Canonical s) (c va n : Nat) : Canonical (s.ctxRead c va n).2 := by
  induction n generalizing s va with
  | zero => exact h
  | succ n ih => unfold State.ctxRead; grind [Canonical.ctxPhys]
theorem Canonical.ctxReadNat (h : Canonical s) (c va n : Nat) : Canonical (s.ctxReadNat c va n).2 := h.ctxRead ..
theorem Canonical.ctxWrite (h : Canonical s) (c va : Nat) (bs : List Byte) : Canonical (s.ctxWrite c va bs) := by
  induction bs generalizing s va with
  | nil => exact h
  | cons x r ih => unfold State.ctxWrite; grind [Canonical.ctxPhys, Canonical.gwrite]
theorem Canonical.post (h : Canonical s) (vf : Nat) (e : Event) : Canonical (s.post vf e) := by
  unfold State.post
  grind [Canonical.setVfAt, Canonical.gwriteNat]
theorem Canonical.readLog (h : Canonical s) (c va n : Nat) : Canonical (s.readLog c va n) := (h.ctxRead ..).ctxRead ..
theorem Canonical.stopRecording (h : Canonical s) (c : Nat) : Canonical (s.stopRecording c) :=
  (((h.ctxWrite ..).ctxWrite ..).setCtxAt ..).post ..
theorem Canonical.log (h : Canonical s) (c : Nat) (spoor : Bool) (entry : Nat) : Canonical (s.log c spoor entry) := by
  unfold State.log
  grind [Canonical.readLog, Canonical.stopRecording, Canonical.ctxWrite]
theorem Canonical.trace (h : Canonical s) (c entry : Nat) : Canonical (s.trace c entry) := by
  unfold State.trace
  grind [Canonical.readLog, Canonical.log]
theorem Canonical.serveEntry (h : Canonical s) {c unit entry : Nat} (e : s.serveEntry c unit entry = .serve t) : Canonical t := by
  unfold State.serveEntry at e
  grind [Canonical.log, Canonical.readLog, Canonical.setCtxAt]
theorem Canonical.ordered (h : Canonical s) {team kind region unit : Nat} (e : s.ordered team kind region unit = .serve t) : Canonical t := by
  unfold State.ordered at e
  grind [→ Canonical.serveEntry, Canonical.setCtxAt]
theorem Canonical.request (h : Canonical s) {team va key n : Nat} (e : s.request team va key n = .serve t) : Canonical t := by
  unfold State.request at e
  grind [→ Canonical.ordered]
theorem Canonical.dropLanded (h : Canonical s) (gone) : Canonical (s.dropLanded gone) := h.of_eq
theorem Canonical.endContext (h : Canonical s) (c : Nat) : Canonical (s.endContext c) := by
  unfold State.endContext
  have hw := (Canonical.foldl ((s.blocks.map (·.1)).filter (fun b => launchCtx (blockLaunch b) == c)) (fun _ b h => h.blockWaits b) h).dropLanded
    (fun e => ctxKey e.1.vf e.1.asid == c)
  apply Canonical.setCtxAt
  apply Canonical.promotePairs
  obtain ⟨⟨hm, hs, hb, hl⟩, ht⟩ := hw
  refine ⟨⟨hm, hs, fun e he => hb e (List.mem_of_mem_filter he), fun e he => ?_⟩, Table.rising_filter ht _⟩
  dsimp only at he
  refine windows_mapVals hl (fun l x => ?_) e he
  split <;> rfl
theorem Canonical.diverge (h : Canonical s) (c : Nat) : Canonical (s.diverge c) := (h.endContext c).post ..

/-! ### Performing accesses -/

theorem Canonical.atomAt (h : Canonical s) (op : AtomOp) (wide : Bool) (key dat cmp : Nat) : Canonical (atomAt s op wide key dat cmp).1 := by
  unfold Machine.atomAt
  grind [Canonical.gwriteNat]
theorem Canonical.scratchAtom (h : Canonical s) (op : AtomOp) (wide : Bool) (b ci off dat cmp : Nat) :
    Canonical (scratchAtom s op wide b ci off dat cmp).1 := by
  unfold Machine.scratchAtom
  grind [Canonical.scratchWrite]
theorem Canonical.runOp (h : Canonical s) (o : LaneOp) : Canonical (o.run s).1 := by
  unfold LaneOp.run
  split
  · exact h
  · exact .foldl _ (fun _ _ h => h.gwriteNat ..) h
  · split
    · exact h.scratchAtom ..
    · exact .foldl _ (fun _ _ h => h.atomAt ..) h
theorem Canonical.requestOp (h : Canonical s) {o : LaneOp} (e : s.requestOp o = .serve t) : Canonical t := by
  unfold State.requestOp at e
  grind [→ Canonical.ordered, → Canonical.request]
/-- The state in which an access has performed, or has ended its context, is in its canonical form. -/
def Perf.Canonical : Perf → Prop
  | .ok s _ => Machine.Canonical s
  | .wait => True
  | .diverged s => Machine.Canonical s
theorem Canonical.performOp (h : Canonical s) (o : LaneOp) : (s.performOp o).Canonical := by
  unfold State.performOp
  grind [→ Canonical.requestOp, Canonical.runOp, Canonical.diverge, Perf.Canonical]
theorem Canonical.landOp (h : Canonical s) (o : LaneOp) (ws : List LaneWrite) : Canonical (s.landOp o ws) :=
  (h.mapTeams _).of_eq
/-- The state in which several accesses have performed, or have stopped, is in its canonical form. -/
def Drain.Canonical : Drain → Prop
  | .ok s => Machine.Canonical s
  | .wait s => Machine.Canonical s
  | .diverged s => Machine.Canonical s
theorem Canonical.performOps (h : Canonical s) (os : List LaneOp) : (performOps os s).Canonical := by
  induction os generalizing s with
  | nil => exact h
  | cons o r ih =>
    have hp := h.performOp o
    unfold Machine.performOps
    grind [Canonical.landOp, Perf.Canonical, Drain.Canonical]
theorem Canonical.drainOps (h : Canonical s) (k : Nat) : (s.drainOps k).Canonical := h.performOps _
theorem Canonical.performEach (h : Canonical s) (os : List LaneOp) : Canonical (s.performEach os) :=
  .foldl _ (fun s o h => by
    have hp := h.performOp o
    grind [Canonical.landOp, Perf.Canonical]) h
theorem Canonical.performLaunch (h : Canonical s) (l : Nat) : Canonical (s.performLaunch l) := h.performEach _
theorem Canonical.performStopped (h : Canonical s) (c : Nat) : Canonical (s.performStopped c) := (h.setOps _).performEach _

/-! ### The pool -/

theorem Canonical.rawWrite8 (h : Canonical s) (c va x : Nat) : Canonical (s.rawWrite8 c va x) := by
  unfold State.rawWrite8
  grind [Canonical.gwriteNat]
theorem Canonical.poolTake (h : Canonical s) {c n : Nat} {ps : List Nat} (e : s.poolTake c n = some (ps, t)) : Canonical t := by
  unfold State.poolTake at e
  grind [Canonical.rawWrite8, Canonical.setCtxAt]
theorem Canonical.zeroPage (h : Canonical s) (page : Nat) : Canonical (s.zeroPage page) := h.gwrite ..
theorem Canonical.takePage (h : Canonical s) (c : Nat) : Canonical (s.takePage c).2 := h.takeFresh.setCtxAt ..
theorem Canonical.ringFill (h : Canonical s) (c : Nat) (pages : List Nat) : Canonical (s.ringFill c pages).2 := by
  unfold State.ringFill
  split
  · exact h
  · exact (Canonical.foldl _ (fun _ _ h => h.rawWrite8 ..) h).rawWrite8 ..
theorem Canonical.poolReturn (h : Canonical s) (c : Nat) (pages : List Nat) : Canonical (s.poolReturn c pages) :=
  ((Canonical.foldl _ (fun _ p h => h.zeroPage p) h).ringFill c pages).setCtxAt ..
theorem Canonical.mapFrom (h : Canonical s) (c va leaf level table : Nat) : Canonical (mapFrom c va leaf level table s) := by
  induction level generalizing s table with
  | zero => exact h.gwriteNat ..
  | succ n ih =>
    unfold Machine.mapFrom
    dsimp only
    split
    · exact ih h _
    · exact ih (((h.takePage c).zeroPage _).gwriteNat ..) _
theorem Canonical.mapPage (h : Canonical s) (c va page : Nat) : Canonical (s.mapPage c va page) := h.mapFrom ..
theorem Canonical.unmapPage (h : Canonical s) (c va : Nat) : Canonical (s.unmapPage c va) := by
  unfold State.unmapPage
  grind [Canonical.gwriteNat]

/-! ### The end of a level -/

theorem Canonical.updGraph (h : Canonical s) (j p g : Nat) (f : Graph → Graph) : Canonical (s.updGraph j p g f) := h.of_eq
theorem Canonical.jobReport (h : Canonical s) (j : Nat) : Canonical (s.jobReport j) := by
  unfold State.jobReport
  grind [Canonical.ctxWrite, Canonical.setJobAt, Canonical.post]
theorem Canonical.jobDone (h : Canonical s) (j : Nat) : Canonical (s.jobDone j) := by
  unfold State.jobDone
  grind [Canonical.setJobAt, Canonical.jobReport]
theorem Canonical.reportAgain (h : Canonical s) (j : Nat) : Canonical (s.reportAgain j) := by
  unfold State.reportAgain
  grind [Canonical.jobReport]
theorem Canonical.jobMember (h : Canonical s) (j : Nat) (bad : Bool) : Canonical (s.jobMember j bad) := by
  unfold State.jobMember
  grind [Canonical.setJobAt, Canonical.jobDone]
theorem Canonical.phaseMember (h : Canonical s) (j p : Nat) (bad : Bool) : Canonical (s.phaseMember j p bad) := by
  unfold State.phaseMember
  grind [Canonical.setJobAt, Canonical.jobMember]
theorem Canonical.graphMember (h : Canonical s) (j p g : Nat) (bad : Bool) : Canonical (s.graphMember j p g bad) := by
  unfold State.graphMember
  grind [Canonical.updGraph, Canonical.phaseMember]
theorem Canonical.shootRange (h : Canonical s) (vf asid lo hi : Nat) : Canonical (s.shootRange vf asid lo hi) := h.of_eq
theorem Canonical.rewalkWhere (h : Canonical s) (p : Nat → Bool) : Canonical (s.rewalkWhere p) := by
  unfold State.rewalkWhere
  obtain ⟨⟨hm, hw, hb, hl⟩, ht⟩ := h
  rw [canonical_iff]
  dsimp only
  refine ⟨hm, hw, blocks_mapVals hb fun b x hx => ?_, windows_mapVals hl fun l x => ?_, Table.rising_mapVals ht _⟩
  · split
    · exact hx.mapChans _
    · exact hx
  · split <;> rfl
theorem Canonical.rewalkCtx (h : Canonical s) (c : Nat) : Canonical (s.rewalkCtx c) := h.rewalkWhere _
theorem Canonical.retract (h : Canonical s) (c : Nat) (al : Alloc) : Canonical (s.retract c al) :=
  ((((Canonical.foldl _ (fun _ _ h => h.unmapPage ..) h).shootRange ..).rewalkCtx c).setCtxAt ..).poolReturn ..
theorem Canonical.retractSoon (h : Canonical s) (c : Nat) (al : Alloc) : Canonical (s.retractSoon c al) := by
  unfold State.retractSoon
  split
  · exact h.setCtxAt ..
  · exact h.retract ..
theorem Canonical.launchLeaves (h : Canonical s) (l : Nat) : Canonical (s.launchLeaves l) :=
  (Canonical.foldl _ (fun _ _ h => h.retractSoon ..) h).setCtxAt ..
theorem Canonical.retractDue (h : Canonical s) : Canonical s.retractDue :=
  .foldl _ (fun _ _ h => .foldl _ (fun _ _ h => by grind [Canonical.retract]) h) h
theorem Canonical.launchDone (h : Canonical s) (l : Nat) : Canonical (s.launchDone l) := by
  unfold State.launchDone
  have hp := h.performLaunch l
  apply Canonical.graphMember
  apply Canonical.launchLeaves
  exact hp.setLaunchAt l (hp.window l)
theorem Canonical.launchCheck (h : Canonical s) (l : Nat) : Canonical (s.launchCheck l) := by
  unfold State.launchCheck
  grind [Canonical.launchDone]

/-! ### The end of teams and blocks -/

theorem Canonical.removeBlock (h : Canonical s) (b : Nat) : Canonical (s.removeBlock b) := by
  have hw := h.blockWaits b
  exact Canonical.promotePairs
    ⟨{ hw.memories with blocks := fun e he => hw.memories.blocks e (List.mem_of_mem_filter he) }, Table.rising_filter hw.teams _⟩
theorem Canonical.endBlock (h : Canonical s) (b : Nat) (bad : Bool) : Canonical (s.endBlock b bad) := by
  have hr := h.removeBlock b
  apply Canonical.launchCheck
  exact hr.setLaunchAt (blockLaunch b) (hr.window (blockLaunch b))
theorem Canonical.barrierCheck (h : Canonical s) (b slot : Nat) : Canonical (s.barrierCheck b slot) := by
  unfold State.barrierCheck
  split
  · exact .foldl _ (fun _ _ h => h.setTeamAt ..) (h.setBlockAt b (h.blockAt b))
  · exact h
theorem Canonical.endTeam (h : Canonical s) (k : Nat) : Canonical (s.endTeam k) := by
  have hb := Canonical.foldl (List.range 8) (fun _ i h => h.barrierCheck (teamBlock k) i)
    (((h.waitDone k).freeDatapath k).setTeamAt k (((s.waitDone k).freeDatapath k).teamAt k).finish)
  unfold State.endTeam
  grind [Canonical.endBlock]
theorem Canonical.squashBlock (h : Canonical s) (b : Nat) : Canonical (s.squashBlock b) := by
  have hr := (h.count ((s.blockAt b).share 0).core (ctxVf (launchCtx (blockLaunch b))) 13 1).removeBlock b
  unfold State.squashBlock
  grind [Canonical.setLaunchAt, Canonical.window, Canonical.launchCheck]

/-! ### Cancel -/

theorem Canonical.cancelApplies (h : Canonical s) (l : Nat) : Canonical (s.cancelApplies l) := by
  apply Canonical.setJobAt
  exact h.setLaunchAt l (h.window l)
theorem Canonical.cancelBlocks (h : Canonical s) (bs : List Nat) : Canonical (bs.foldl (fun s b =>
      let y := s.blockAt b
      if y.prov then s.setBlockAt b { y with squashDue := true }
      else s.setBlockAt b { y with ending := some (y.ending.getD 0x0E) }) s) := by
  refine .foldl _ (fun s b h => ?_) h
  dsimp only
  split <;> exact h.setBlockAt b (h.blockAt b)
theorem Canonical.cancelLaunch (h : Canonical s) (l : Nat) : Canonical (s.cancelLaunch l) := by
  unfold State.cancelLaunch
  extract_lets x unpublished published n cancelled ctr s1 s2 s3 s4
  have h1 : Canonical s1 := h.setLaunchAt l (h.window l)
  have h3 : Canonical s3 := (h1.launchLeaves l).cancelBlocks _
  have h4 : Canonical s4 := by
    unfold s4
    split
    · exact h3.cancelApplies l
    · exact h3
  split
  · exact h
  · split
    · exact h4
    · exact h4.launchCheck l
theorem Canonical.cancelGraph (h : Canonical s) (j p g : Nat) : Canonical (s.cancelGraph j p g) := by
  unfold State.cancelGraph
  dsimp only
  split
  · exact h
  · exact .foldl _ (fun _ _ h => h.cancelLaunch _) (h.updGraph ..)
theorem Canonical.cancelPhase (h : Canonical s) (j p : Nat) : Canonical (s.cancelPhase j p) := by
  unfold State.cancelPhase
  dsimp only
  split
  · exact h
  · exact .foldl _ (fun _ _ h => h.cancelGraph ..) (h.setJobAt ..)
theorem Canonical.cancelJob (h : Canonical s) (j : Nat) : Canonical (s.cancelJob j) := by
  unfold State.cancelJob
  dsimp only
  split
  · exact h
  · exact .foldl _ (fun _ _ h => h.cancelPhase ..) (h.setJobAt ..)
theorem Canonical.cancelLevel (h : Canonical s) (l : Nat) (lv : LevelKind) : Canonical (s.cancelLevel l lv) := by
  cases lv with
  | launch => exact h.cancelLaunch l
  | graph => exact h.cancelGraph ..
  | phase => exact h.cancelPhase ..
  | job => exact h.cancelJob _

end Sys2Proof.Machine
end

section
/-! SUPPORT. The canonical form through the streams: the ends of the meanings, fetching, scalar and lane instructions. -/

namespace Sys2Proof.Machine
-- Lemmas are elaborated one after another: a proof that adds a helper lemma waits for those before it, and each that waits holds a thread.
set_option Elab.async false

variable {s t : State}

/-! ### Outcomes -/

/-- A state that an outcome leaves is in its canonical form. -/
def OutCanonical : Out → Prop
  | .next s => Canonical s
  | .fault _ => True
  | .refused _ => True

theorem OutCanonical.next {o : Out} (h : OutCanonical o) (e : o = .next t) : Canonical t := by
  subst e; exact h

/-- The state that the rule of a lane instruction leaves is in its canonical form. -/
def ResCanonical : LaneRes → Prop
  | .results _ _ => True
  | .issued s _ => Canonical s
  | .effect s => Canonical s
  | .trap _ => True
  | .trapIn s _ => Canonical s
  | .hold s => Canonical s
  | .requeue s => Canonical s
  | .gate => True
  | .stop _ => True

/-- The state in which a move runs, or that it leaves, is in its canonical form. -/
def FetchedCanonical : Fetched → Prop
  | .run _ s => Canonical s
  | .out o => OutCanonical o

/-! ### The ends of the scalar meanings -/

theorem Canonical.scalarDone (h : Canonical s) (u : Team) : OutCanonical (scalarDone s u) := h.setTeam _
theorem Canonical.scalarJump (h : Canonical s) (u : Team) (spc : Word64) : OutCanonical (scalarJump s u spc) := h.setTeam _
theorem Canonical.gateHere (h : Canonical s) : OutCanonical (gateHere s) := h.setTeam _
theorem Canonical.scalarTrap (h : Canonical s) (cause detail : Nat) (addr : Word64) : OutCanonical (scalarTrap s cause detail addr) := by
  unfold Machine.scalarTrap
  dsimp only
  split
  · exact h.takeTrap ..
  · exact h
theorem Canonical.scalarXl (h : Canonical s) (x : Xl) (bits : Nat) (addr : Word64) : OutCanonical (scalarXl s x bits addr) := by
  cases x with
  | ok => exact h
  | fault d => exact h.scalarTrap ..
  | migrating => exact h.holdFor _
  | gate => exact h.gateHere
theorem Canonical.engineTrap (h : Canonical s) (uid detail : Nat) (addr : Word64) : OutCanonical (engineTrap s uid detail addr) := by
  unfold Machine.engineTrap
  dsimp only
  split
  · exact h.takeTrap ..
  · exact h
theorem Canonical.withDrained (h : Canonical s) {f : State → Out} (hf : ∀ u, Canonical u → OutCanonical (f u)) :
    OutCanonical (withDrained s f) := by
  have hd := h.drainOps s.cur
  unfold Machine.withDrained
  grind [Drain.Canonical, OutCanonical]

/-! ### The ends of the lane meanings -/

theorem Canonical.issueDone (h : Canonical s) (u : Team) (a : Active) (i : Instr) (c : Ctl) (new : List Pend) :
    OutCanonical (issueDone s u a i c new) := h.setTeam _
theorem Canonical.laneTrap (h : Canonical s) (a : Active) (tr : Trap) : OutCanonical (laneTrap s a tr) := (h.setTeam _).takeTrap ..
/-- The teams of a canonical state may stand in another canonical state. -/
theorem Canonical.teamsIn (h : Canonical s) (ht : Canonical t) : Canonical { t with teams := s.teams } :=
  ⟨{ ht.memories with }, h.teams⟩
/-- A lane instruction keeps the canonical form where its rule does, whatever team the rule sees. -/
theorem Canonical.laneIssue (h : Canonical s) {i : Instr} {c : Ctl} {body : State → Team → Active → List Nat → LaneRes}
    (hb : ∀ u t a ex, Canonical u → ResCanonical (body u t a ex)) : OutCanonical (laneIssue i c body s) := by
  unfold Machine.laneIssue
  dsimp only
  split
  · exact h
  · rename_i a _
    split
    · exact h
    split
    · exact h.laneTrap ..
    split
    · exact h.laneTrap ..
    split
    · exact h.setTeam _
    split
    · exact h.laneTrap ..
    · have hr := hb (s.setTeam (s.team.landDue a)) (s.team.landDue a) a ((s.team.landDue a).execLanes c) (h.setTeam _)
      split <;> rename_i e <;> rw [e] at hr
      · exact h.issueDone ..
      · exact Canonical.issueDone hr ..
      · exact Canonical.issueDone hr ..
      · exact h.laneTrap ..
      · exact (h.teamsIn hr).laneTrap ..
      · exact Canonical.setTeam hr _
      · exact Canonical.endGrant hr _
      · exact h.setTeam _
      · trivial
theorem Canonical.laneFixed (h : Canonical s) (i : Instr) (c : Ctl) (lat : Nat) (f : Team → Active → Nat → List LaneWrite) :
    OutCanonical (laneFixed i c lat f s) := h.laneIssue fun _ _ _ _ _ => trivial
theorem Canonical.bandFixed (h : Canonical s) (i : Instr) (c : Ctl) (f : Team → Active → Nat → List Nat → List LaneWrite) :
    OutCanonical (bandFixed i c f s) := h.laneIssue fun _ _ _ _ _ => trivial
theorem Canonical.teamIssue (h : Canonical s) {i : Instr} {c : Ctl} {f : State → Team → Active → List Nat → LaneRes}
    (hf : ∀ u t a ex, Canonical u → ResCanonical (f u t a ex)) : OutCanonical (teamIssue i c f s) :=
  h.laneIssue fun u t a ex hu => by
    split
    · exact hu
    · exact hf u t a ex hu
theorem Canonical.laneDrained (h : Canonical s) {f : State → LaneRes} (hf : ∀ u, Canonical u → ResCanonical (f u)) :
    ResCanonical (laneDrained s f) := by
  have hd := h.drainOps s.cur
  unfold Machine.laneDrained
  grind [Drain.Canonical, ResCanonical]
theorem Canonical.releaseAfter (h : Canonical s) {f : State → LaneRes} (hf : ∀ u, Canonical u → ResCanonical (f u)) (o : Order) (ex : List Nat) :
    ResCanonical (releaseAfter o ex s f) := by
  unfold Machine.releaseAfter
  grind [Canonical.laneDrained]

/-! ### Fetching -/

theorem Canonical.fetched (h : Canonical s) {w : Who} {lane : Bool} {ctx base fuel va n off : Nat} {acc : List Byte} {f : Fetch}
    (e : s.fetchBytes w lane ctx base fuel va n off acc = (f, t)) : Canonical t := by
  have hf := h.fetchBytes w lane ctx base fuel va n off acc
  rwa [e] at hf
theorem Canonical.fetchAtSpc (h : Canonical s) : FetchedCanonical (fetchAtSpc s) := by
  have hf := h.fetchBytes s.who false (teamCtx s.cur) s.fresh 4 s.team.spc.toNat 4 0 []
  unfold Machine.fetchAtSpc
  grind [FetchedCanonical, Canonical.scalarTrap, Canonical.scalarXl, OutCanonical]
theorem Canonical.fetchScalar (h : Canonical s) : FetchedCanonical (fetchScalar s) := by
  have hf := h.fetchAtSpc
  unfold Machine.fetchScalar Machine.exitOnly
  grind [FetchedCanonical, OutCanonical]
theorem Canonical.laneXl (h : Canonical s) (a : Active) (x : Xl) (off : Nat) (straddle : Bool) : OutCanonical (laneXl s a x off straddle) := by
  cases x with
  | ok => exact h
  | fault d => exact h.laneTrap ..
  | migrating => exact h.holdFor _
  | gate => exact h.gateHere
theorem Canonical.fetchLane (h : Canonical s) : FetchedCanonical (fetchLane s) := by
  unfold Machine.fetchLane
  dsimp only
  split
  · exact h
  split
  · exact h
  split
  · exact h.laneTrap ..
  split
  · exact (h.fetched ‹_›).laneXl ..
  have h2 := h.fetched ‹_›
  split
  · exact h2.laneTrap ..
  split
  · exact (h2.fetched ‹_›).laneXl ..
  have h3 := h2.fetched ‹_›
  split
  · exact h3.laneTrap ..
  split
  · exact h3.laneTrap ..
  · exact h3

/-! ### Scalar instructions -/

theorem Canonical.execSrd (h : Canonical s) (d : SReg) (n : BitVec 13) : OutCanonical (execSrd d n s) := by
  unfold Machine.execSrd
  split
  · exact h.scalarTrap ..
  · split
    · exact h
    · split
      · exact h.withDrained fun _ h => h.scalarDone _
      · exact h.scalarDone _
theorem Canonical.execSwr (h : Canonical s) (n : BitVec 13) (a : SReg) : OutCanonical (execSwr n a s) := by
  unfold Machine.execSwr Machine.scalarWait
  grind [Canonical.scalarTrap, Canonical.scalarDone, Canonical.setCtx, OutCanonical]
theorem Canonical.execTrap (h : Canonical s) (i : BitVec 19) : OutCanonical (execTrap i s) := by
  unfold Machine.execTrap
  dsimp only
  split
  · exact h.takeTrap ..
  · exact h
theorem Canonical.resumeCmd (h : Canonical s) (b : Nat) (cmd : Option Nat) : Canonical (s.resumeCmd b cmd) := by
  cases cmd with
  | none => exact h
  | some uid => exact h.setBlockAt b ((h.blockAt b).mapChans _)
theorem Canonical.execTret (h : Canonical s) : OutCanonical (execTret s) := by
  unfold Machine.execTret Machine.scalarWait
  grind [Canonical.scalarTrap, Canonical.resumeCmd, Canonical.setTeam, OutCanonical]
theorem Canonical.execExit (h : Canonical s) : OutCanonical (execExit s) := by
  unfold Machine.execExit Machine.scalarWait
  grind [Canonical.endTeam, Canonical.engineTrap, OutCanonical]
theorem Canonical.execIsync (h : Canonical s) : OutCanonical (execIsync s) := by
  unfold Machine.execIsync
  split
  · exact h
  · exact h.scalarDone _
theorem Canonical.discardCode (h : Canonical s) (cs : List Nat) (a n : Nat) : Canonical (s.discardCode cs a n) := (h.mapTeams _).of_eq
theorem Canonical.execIcinv (h : Canonical s) (a y : SReg) (sc : Scope) : OutCanonical (execIcinv a y sc s) := by
  unfold Machine.execIcinv Machine.scalarWait State.newUid
  grind [Canonical.discardCode, Canonical.setUids, Canonical.setTeam, Canonical.scalarDone, OutCanonical]
theorem Canonical.sendShoot (h : Canonical s) (sc : Scope) (form asid lo hi : Nat) (glob : Bool) :
    OutCanonical (sendShoot s sc form asid lo hi glob) := by
  unfold Machine.sendShoot
  dsimp only
  split
  · exact h.scalarTrap ..
  split
  · exact h
  · exact Canonical.scalarDone h.of_eq _
theorem Canonical.execTlbsync (h : Canonical s) : OutCanonical (execTlbsync s) := by
  unfold Machine.execTlbsync Machine.scalarWait
  grind [Canonical.scalarTrap, Canonical.scalarDone, OutCanonical]
theorem Canonical.execPtfence (h : Canonical s) : OutCanonical (execPtfence s) := by
  unfold Machine.execPtfence
  split
  · exact h
  · exact (h.rewalkCtx _).scalarDone _
theorem Canonical.addRange (h : Canonical s) (c : Nat) (e : RngEntry) : Canonical (s.addRange c e) := by
  have hp := Canonical.foldl ((s.ctxAt c).rng.filter (fun y => e.overlap y)) (fun s y (h : Canonical s) => h.post (ctxVf c)
    { code := 0x000A, ctx := ctxAsid c
      detail := BitVec.ofNat 64 (e.key.toNat % 2 ^ 32 + e.launch % 65536 * 2 ^ 32 + y.launch % 65536 * 2 ^ 48) }) h
  unfold State.addRange
  dsimp only
  split
  · exact h
  split
  · exact (hp.setCtxAt ..).post ..
  · exact hp.setCtxAt ..
theorem Canonical.execRngreg (h : Canonical s) (d a y : SReg) : OutCanonical (execRngreg d a y s) := by
  unfold Machine.execRngreg
  dsimp only
  split
  · apply Canonical.scalarDone
    exact h.setLaunchAt (teamLaunch s.cur) (h.window (teamLaunch s.cur))
  · exact (h.addRange ..).scalarDone _
theorem Canonical.ldkOp (h : Canonical s) (n : Nat) (d a : SReg) (i : BitVec 13) : OutCanonical (ldkOp n d a i s) := by
  unfold Machine.ldkOp
  grind [Canonical.scalarTrap, Canonical.scalarDone]
theorem Canonical.sldOp (h : Canonical s) (n : Nat) (d a : SReg) (i : BitVec 13) : OutCanonical (sldOp n d a i s) := by
  unfold Machine.sldOp
  grind [Canonical.scalarTrap, Canonical.scalarDone]
theorem Canonical.sstOp (h : Canonical s) (n : Nat) (d a : SReg) (i : BitVec 13) : OutCanonical (sstOp n d a i s) := by
  unfold Machine.sstOp
  grind [Canonical.scalarTrap, Canonical.scalarDone, Canonical.scratchWrite]
theorem Canonical.execSwait (h : Canonical s) (d a y : SReg) (wide : Bool) (c : WaitCond) (acq : Bool) (sc : Scope) :
    OutCanonical (execSwait d a y wide c acq sc s) := by
  have ht := h.translate s.who (s.team.sreg a) .read
  unfold Machine.execSwait
  grind [Canonical.scalarTrap, Canonical.scalarDone, Canonical.gateHere, Canonical.scalarXl, → Canonical.request, Canonical.diverge,
    Canonical.setTeam, OutCanonical]
theorem Canonical.execSwaitPoll (h : Canonical s) : OutCanonical (execSwaitPoll s) := by
  have hf := h.fetchScalar
  unfold Machine.execSwaitPoll
  grind [FetchedCanonical, OutCanonical, Canonical.execSwait]
theorem Canonical.updChan (h : Canonical s) (b ci ch : Nat) (f : Chan → Chan) : Canonical (s.updChan b ci ch f) :=
  h.updShare b ci fun _ hx => hx
theorem Canonical.enqueue (h : Canonical s) (ch : Nat) (after : List Nat) (body : CmdBody) : Canonical (s.enqueue ch after body) :=
  ((h.setUids _).updChan ..).setTeam _
theorem Canonical.execB (h : Canonical s) (q : QReg) (neg : Bool) (off : BitVec 20) : OutCanonical (execB q neg off s) := by
  unfold Machine.execB
  grind [Canonical.scalarJump, Canonical.scalarDone]
theorem Canonical.execCall (h : Canonical s) (q : QReg) (neg : Bool) (off : BitVec 20) : OutCanonical (execCall q neg off s) := by
  unfold Machine.execCall
  grind [Canonical.scalarJump, Canonical.scalarDone]
theorem Canonical.execRun (h : Canonical s) (d : SReg) (i : BitVec 19) : OutCanonical (execRun d i s) := by
  unfold Machine.execRun Machine.scalarWait
  grind [Canonical.scalarDone, OutCanonical]
theorem Canonical.execMpush (h : Canonical s) (p : PSrc) : OutCanonical (execMpush p s) := by
  unfold Machine.execMpush Machine.scalarWait
  grind [Canonical.scalarTrap, Canonical.scalarDone, OutCanonical]
theorem Canonical.execMelse (h : Canonical s) : OutCanonical (execMelse s) := by
  unfold Machine.execMelse Machine.scalarWait
  grind [Canonical.scalarTrap, Canonical.scalarDone, OutCanonical]
theorem Canonical.execMpop (h : Canonical s) : OutCanonical (execMpop s) := by
  unfold Machine.execMpop
  dsimp only
  split
  · exact h
  split
  · exact h.scalarTrap ..
  · exact h.withDrained fun _ h => h.scalarDone _
/-- A reduction over the lanes waits for the team's runs, and completes then (R36). -/
theorem Canonical.afterRuns (h : Canonical s) (u : Team) : OutCanonical (if !s.team.drained then scalarWait s else Machine.scalarDone s u) := by
  split
  · exact h
  · exact h.scalarDone u
theorem Canonical.execSred (h : Canonical s) (op : RedOp) (d : SReg) (v : Nat) : OutCanonical (execSred op d v s) := by
  unfold Machine.execSred
  dsimp only
  split
  · exact h.scalarTrap ..
  · exact h.afterRuns _
theorem Canonical.shiftImm (h : Canonical s) (d a : SReg) (k : Nat) (f : Word64 → Nat → Word64) : OutCanonical (shiftImm d a k f s) := by
  unfold Machine.shiftImm
  split
  · exact h.scalarTrap ..
  · exact h.scalarDone _
theorem Canonical.execCpy (h : Canonical s) (a : SReg) : OutCanonical (execCpy a s) := by
  unfold Machine.execCpy Machine.scalarWait
  grind [Canonical.scalarTrap, Canonical.gateHere, Canonical.enqueue, Canonical.scalarDone, OutCanonical]
theorem Canonical.execBseal (h : Canonical s) (sc : Scope) : OutCanonical (execBseal sc s) := by
  unfold Machine.execBseal Machine.scalarWait
  grind [Canonical.scalarDone, OutCanonical]
theorem Canonical.execBwait (h : Canonical s) (d : SReg) (n : Nat) : OutCanonical (execBwait d n s) := by
  unfold Machine.execBwait
  dsimp only
  split
  · exact h.withDrained fun _ h => h.scalarDone _
  split
  · exact h.engineTrap ..
  · exact h
theorem Canonical.execFlush (h : Canonical s) (d a : SReg) (ch : Nat) : OutCanonical (execFlush d a ch s) := by
  unfold Machine.execFlush Machine.scalarWait
  grind [Canonical.scalarTrap, Canonical.gateHere, Canonical.enqueue, Canonical.scalarDone, OutCanonical]
theorem Canonical.execLstat (h : Canonical s) (lv : LevelKind) (d a : SReg) : OutCanonical (execLstat lv d a s) := by
  unfold Machine.execLstat
  grind [Canonical.scalarTrap, Canonical.gateHere, Canonical.scalarDone]
theorem Canonical.execLwait (h : Canonical s) (lv : LevelKind) (d a : SReg) : OutCanonical (execLwait lv d a s) := by
  unfold Machine.execLwait Machine.scalarWait
  grind [Canonical.scalarTrap, Canonical.gateHere, Canonical.scalarDone, OutCanonical]
theorem Canonical.execLcancel (h : Canonical s) (lv : LevelKind) (a : SReg) : OutCanonical (execLcancel lv a s) := by
  unfold Machine.execLcancel
  grind [Canonical.scalarTrap, Canonical.gateHere, Canonical.cancelLevel, Canonical.scalarDone]
theorem Canonical.execGalloc (h : Canonical s) (d a : SReg) : OutCanonical (execGalloc d a s) := by
  unfold Machine.execGalloc
  dsimp only
  split
  · exact h.gateHere
  split
  · exact h.scalarDone _
  have hk := h.takeFresh
  split
  · rename_i ps u base hp _
    apply Canonical.scalarDone
    apply Canonical.rewalkCtx
    apply Canonical.setCtxAt
    exact .foldl _ (fun _ _ h => (h.zeroPage _).mapPage ..) (hk.poolTake hp)
  · exact hk.scalarDone _
theorem Canonical.execGfree (h : Canonical s) (a : SReg) : OutCanonical (execGfree a s) := by
  unfold Machine.execGfree Machine.scalarWait
  grind [Canonical.scalarTrap, Canonical.retract, Canonical.scalarDone, OutCanonical]

/-! ### Lane instructions -/

theorem Canonical.execBecome (h : Canonical s) (c : Ctl) (v w : Nat) : OutCanonical (execBecome c v w s) :=
  h.laneIssue fun _ _ _ _ h => h.setTeam _
theorem Canonical.execEmit (h : Canonical s) (c : Ctl) (a : Src) : OutCanonical (execEmit c a s) :=
  h.laneIssue fun _ _ _ _ h => by
    split
    · trivial
    · exact h.setTeam _
theorem Canonical.execLtrap (h : Canonical s) (c : Ctl) (code : Nat) : OutCanonical (execLtrap c code s) :=
  h.laneIssue fun _ _ _ _ h => by
    split
    · exact h
    · exact h.setTeam _
theorem Canonical.wakeSaved (h : Canonical s) (b : Nat) : Canonical (s.wakeSaved b) := .foldl _ (fun _ _ h => h.setTeamAt ..) h
theorem Canonical.shareOps (h : Canonical s) (k : Nat) : Canonical (s.shareOps k) := h.of_eq
theorem Canonical.arrive (h : Canonical s) (tok slot : Nat) (kind : Option Nat) (ex : List Nat) : ResCanonical (arrive tok slot kind s ex) := by
  have hb := (h.shareOps s.cur).setBlockAt (teamBlock s.cur)
    (x := { s.block with bars := listUpd s.block.bars slot (fun r => { kind := some kind, arrivals := r.arrivals ++ [teamIdx s.cur] }) })
    (h.blockAt (teamBlock s.cur))
  unfold Machine.arrive Machine.teamTrap
  grind [ResCanonical, Canonical.setTeam, Canonical.barrierCheck, Canonical.wakeSaved]
theorem Canonical.execBar (h : Canonical s) (c : Ctl) (slot : Nat) : OutCanonical (execBar c slot s) :=
  h.laneIssue fun _ _ _ _ h => h.arrive ..
theorem Canonical.execBarn (h : Canonical s) (c : Ctl) (n : Src) (slot : Nat) : OutCanonical (execBarn c n slot s) :=
  h.laneIssue fun _ _ _ _ h => h.arrive ..
theorem Canonical.execNop (h : Canonical s) (c : Ctl) : OutCanonical (execNop c s) := h.laneIssue fun _ _ _ _ h => h
theorem Canonical.countSearch (h : Canonical s) (lanes : List (Nat × Nat × List Nat)) : Canonical (s.countSearch lanes) :=
  .foldl _ (fun _ _ h => h.countReplay _) h
theorem Canonical.execMsplit (h : Canonical s) (c : Ctl) (d : Dst) (diag base rows nnz : Src) :
    OutCanonical (execMsplit c d diag base rows nnz s) :=
  h.laneIssue fun _ _ _ _ h => by
    dsimp only
    split
    · trivial
    · exact h.countSearch _
theorem Canonical.execIsect (h : Canonical s) (c : Ctl) (d : Dst) (f : PDst) (x base len : Src) :
    OutCanonical (execIsect c d f x base len s) :=
  h.laneIssue fun _ _ _ _ h => by
    dsimp only
    split
    · trivial
    · exact h.countSearch _
theorem Canonical.execLds (h : Canonical s) (c : Ctl) (w : Width) (sx : Bool) (o : Order) (sc : Scope) (d : Dst) (a y : Src) :
    OutCanonical (execLds c w sx o sc d a y s) :=
  h.laneIssue fun _ _ _ _ h => by
    dsimp only
    split
    · trivial
    · exact h.countReplay _
theorem Canonical.execSts (h : Canonical s) (c : Ctl) (w : Width) (o : Order) (sc : Scope) (a y x : Src) :
    OutCanonical (execSts c w o sc a y x s) :=
  h.laneIssue fun _ _ _ _ h => by
    split
    · trivial
    · refine h.releaseAfter (fun u hu => ?_) ..
      exact Canonical.foldl _ (fun _ _ h => h.scratchWrite ..) (hu.countReplay _)
theorem Canonical.issueOps (h : Canonical s) (os : List LaneOp) (ws : List LaneWrite) : (issueOps os s ws).Canonical := by
  induction os generalizing s ws with
  | nil => exact h
  | cons o r ih =>
    have hp := h.performOp o
    unfold Machine.issueOps
    grind [Canonical.setOps, Perf.Canonical]
theorem Canonical.perfRes (h : Canonical s) (dsts : List WReg) {p : Perf} (hp : p.Canonical) : ResCanonical (perfRes s dsts p) := by
  cases p with
  | ok => exact hp
  | wait => exact h
  | diverged => exact hp
theorem Canonical.execAtos (h : Canonical s) (c : Ctl) (wide : Bool) (op : AtomOp) (o : Order) (sc : Scope) (d : Dst) (a x cmp : Src) :
    OutCanonical (execAtos c wide op o sc d a x cmp s) :=
  h.laneIssue fun _ _ _ _ h => by
    dsimp only
    split
    · trivial
    · exact h.releaseAfter (fun _ h => (h.countReplay _).perfRes _ ((h.countReplay _).issueOps ..)) ..
theorem Canonical.translateUnits (h : Canonical s) (w : Who) (k : Access) (us : List Nat) : Canonical (translateUnits w k us s).2 := by
  induction us generalizing s with
  | nil => exact h
  | cons u r ih => exact ih (h.translate ..)
theorem Canonical.globalIssue (h : Canonical s) (i : Instr) (g : GlobalUse) (va : Nat → Nat) (gated : Bool) (act : Nat → LaneAct) (ex : List Nat) :
    ResCanonical (globalIssue i g va gated act s ex) := by
  unfold Machine.globalIssue
  dsimp only
  generalize (if g.use = .read then Access.read else .write) = k
  generalize (if g.use = .read then 0 else 0x20) = bit
  have ht := h.translateUnits s.who k (unitsOf g.bytes (ex.map va))
  split
  · exact ht
  split
  · trivial
  split
  · exact h.holdFor _
  split
  · trivial
  split
  · exact ht.laneDrained fun _ hu => h.perfRes _ (hu.issueOps ..)
  · exact h.perfRes _ (ht.issueOps ..)
theorem Canonical.execGld (h : Canonical s) (c : Ctl) (hint : Hint) (wide : Bool) (o : Order) (sc : Scope) (d : Dst) (a y : Src) :
    OutCanonical (execGld c hint wide o sc d a y s) := h.laneIssue fun _ _ _ _ h => h.globalIssue ..
theorem Canonical.execGst (h : Canonical s) (c : Ctl) (hint : Hint) (wide mc : Bool) (o : Order) (sc : Scope) (a y x : Src) :
    OutCanonical (execGst c hint wide mc o sc a y x s) := h.laneIssue fun _ _ _ _ h => h.globalIssue ..
theorem Canonical.execGatom (h : Canonical s) (c : Ctl) (hint : Hint) (wide : Bool) (op : AtomOp) (o : Order) (sc : Scope) (d : Dst)
    (a x cmp : Src) : OutCanonical (execGatom c hint wide op o sc d a x cmp s) := h.laneIssue fun _ _ _ _ h => h.globalIssue ..
theorem Canonical.execGred (h : Canonical s) (c : Ctl) (hint : Hint) (wide mc : Bool) (op : AtomOp) (o : Order) (sc : Scope) (a x : Src) :
    OutCanonical (execGred c hint wide mc op o sc a x s) := h.laneIssue fun _ _ _ _ h => h.globalIssue ..
theorem Canonical.execXfer (h : Canonical s) (c : Ctl) (hint : Hint) (out : Bool) (ch rb : Nat) (a base stride : Src) :
    OutCanonical (execXfer c hint out ch rb a base stride s) :=
  h.laneIssue fun _ _ _ _ h => by
    grind [ResCanonical, Canonical.waitBegins, Canonical.waitDone, Canonical.addLocks, Canonical.enqueue]
theorem Canonical.execFence (h : Canonical s) (c : Ctl) (o : Order) (sc : Scope) : OutCanonical (execFence c o sc s) :=
  h.laneIssue fun _ _ _ _ h => h.laneDrained fun _ h => h

/-! ### Tiles -/

theorem wf_tileOf (rows : List (List Byte)) : (tileOf rows).wf = true := Memory.wf_ofBytes ..
theorem wf_rowsToTile (pt : Port) (w : ElemW) (rows : List (List Byte)) : (rowsToTile pt w rows).wf = true := by
  cases pt <;> exact wf_tileOf _
theorem wf_tileMove (pt : Port) (w : ElemW) {m : Memory} (hm : m.wf = true) : (tileMove pt w m).wf = true := by
  cases pt with
  | row => exact hm
  | col => exact wf_tileOf _
theorem Canonical.tile (h : Canonical s) (b ci n : Nat) : (s.tile b ci n).wf = true := by
  have ht := ((h.blockAt b).share ci).2.2
  rw [State.tile, List.getD_eq_getElem?_getD]
  cases e : ((s.blockAt b).share ci).tiles[n]? with
  | none => rfl
  | some m => exact ht m (List.mem_of_getElem? e)
theorem Canonical.setTile (h : Canonical s) (b ci n : Nat) {m : Memory} (hm : m.wf = true) : Canonical (s.setTile b ci n m) := by
  refine h.updShare b ci fun x ⟨hs, hw, ht⟩ => ⟨hs, hw, fun y hy => ?_⟩
  rcases mem_listUpd hy with hy | ⟨_, _, rfl⟩
  · exact ht y hy
  · exact hm
theorem Canonical.setOwnTile (h : Canonical s) (n : Nat) {m : Memory} (hm : m.wf = true) : Canonical (s.setOwnTile n m) := h.setTile _ _ n hm
theorem wf_foldl {β : Type} {f : Memory → β → Memory} (xs : List β) (hf : ∀ m x, Memory.wf m = true → (f m x).wf = true) {m : Memory}
    (hm : m.wf = true) : Memory.wf (xs.foldl f m) = true := by
  induction xs generalizing m with
  | nil => exact hm
  | cons x r ih => exact ih (hf m x hm)
theorem Canonical.execTld (h : Canonical s) (c : Ctl) (pt : Port) (w : ElemW) (sw : Swizzle) (d : Nat) (a y : Src) :
    OutCanonical (execTld c pt w sw d a y s) :=
  h.teamIssue fun _ _ _ _ h => by
    dsimp only
    split
    · trivial
    · exact h.setOwnTile _ (wf_rowsToTile ..)
theorem Canonical.execTst (h : Canonical s) (c : Ctl) (pt : Port) (w : ElemW) (sw : Swizzle) (a y : Src) (src : Nat) :
    OutCanonical (execTst c pt w sw a y src s) :=
  h.teamIssue fun _ _ _ _ h => by
    dsimp only
    split
    · trivial
    split
    · trivial
    · exact h.updShare _ _ fun x ⟨hs, hr⟩ =>
        ⟨wf_foldl _ (fun _ _ hm => wf_foldl _ (fun _ _ hm => Memory.wf_writeBytes hm ..) hm) hs, hr⟩
theorem Canonical.execTmov (h : Canonical s) (c : Ctl) (pt : Port) (w : ElemW) (d a : Nat) : OutCanonical (execTmov c pt w d a s) :=
  h.teamIssue fun _ _ _ _ h => h.setOwnTile _ (wf_tileMove _ _ (h.tile ..))
theorem Canonical.execTzero (h : Canonical s) (c : Ctl) (d : Nat) : OutCanonical (execTzero c d s) :=
  h.teamIssue fun _ _ _ _ h => h.setOwnTile _ rfl
theorem Canonical.execPrune (h : Canonical s) (c : Ctl) (w : ElemW) (k lg d a : Nat) : OutCanonical (execPrune c w k lg d a s) :=
  h.teamIssue fun _ _ _ _ h => h.setOwnTile _ (wf_tileOf _)
theorem Canonical.parkRun (h : Canonical s) (p : Park) : ResCanonical (parkRun s p) := h.setTeam _
theorem Canonical.execWld (h : Canonical s) (c : Ctl) (a y len : Src) : OutCanonical (execWld c a y len s) :=
  h.teamIssue fun _ _ _ _ h => by
    dsimp only
    split
    · trivial
    split
    · exact h
    split
    · exact h.waitBegins.parkRun _
    split
    · exact h.parkRun _
    · exact (h.waitDone _).newUid.addLocks _
theorem Canonical.joinArrays (h : Canonical s) (k : Nat) (cores : List Nat) : Canonical (s.joinArrays k cores) := by
  unfold State.joinArrays
  grind [Canonical.setCoreAt, Canonical.reserveArrays]
theorem Canonical.takeArrays (h : Canonical s) (k : Nat) (cores : List Nat) : Canonical (s.takeArrays k cores) :=
  Canonical.promotePairs (.foldl _ (fun _ _ h => h.setCoreAt ..) h)
theorem Canonical.mmaHalf (h : Canonical s) (x : FormatBlock) (am : List (List Num)) (off d src ci : Nat) :
    Canonical (mmaHalf s x am off d src ci) := ((h.takeFresh.count ..).count ..).setTile _ _ _ (wf_tileOf _)
theorem Canonical.mmaOp (h : Canonical s) (i : Instr) (c : Ctl) (pt : Port) (d a : Nat) (y : Src) (src : Nat) (f : SReg) (pair : Bool) :
    OutCanonical (mmaOp i c pt d a y src f pair s) :=
  h.teamIssue fun u _ _ _ h => by
    dsimp only
    split
    · trivial
    generalize (if pair = true then [u.shareIdx u.cur, u.shareIdx u.cur + 1] else [u.shareIdx u.cur]) = cis
    split
    · exact h.parkRun _
    split
    · exact (h.joinArrays ..).parkRun _
    · exact Canonical.foldl _ (fun _ _ h => h.mmaHalf ..) ((h.joinArrays ..).takeArrays ..)

end Sys2Proof.Machine
end

section
/-! SUPPORT. The canonical form through the part's own steps: grants, launches, blocks, the copy engine, faults, devices and the host. -/

namespace Sys2Proof.Machine
-- Lemmas are elaborated one after another: a proof that adds a helper lemma waits for those before it, and each that waits holds a thread.
set_option Elab.async false

variable {s t : State}

/-! ### Runs and settlements -/

theorem Canonical.notDue (h : Canonical s) : OutCanonical (notDue s) := h
theorem Canonical.markReady (h : Canonical s) : Canonical s.markReady := h.mapTeams _
theorem Canonical.countIf (h : Canonical s) (p : Prop) [Decidable p] (core vf n x : Nat) : Canonical (if p then s.count core vf n x else s) := by
  split
  · exact h.count ..
  · exact h
theorem Canonical.execRunGrant (h : Canonical s) (core dp : Nat) : OutCanonical (execRunGrant core dp s) := by
  unfold Machine.execRunGrant
  dsimp only
  split
  · exact h
  split
  · exact h
  · apply Canonical.countIf
    apply Canonical.count
    apply Canonical.setCoreAt
    apply Canonical.setTeamAt
    exact .foldl _ (fun _ _ h => h.setTeamAt ..) h
theorem Canonical.execRunRetire (h : Canonical s) (team : Nat) : OutCanonical (execRunRetire team s) := by
  unfold Machine.execRunRetire Machine.notDue
  grind [Canonical.freeDatapath, Canonical.setTeamAt, Canonical.leaveArrays, OutCanonical]
theorem Canonical.holdPieces (h : Canonical s) (team : Nat) (f : Inflight) (held : List Nat) : Canonical (holdPieces s team f held) :=
  (h.count ..).setTeamAt ..
theorem Canonical.completeUnit (h : Canonical s) (team : Nat) (u : Until) : Canonical (completeUnit s team u) := by
  cases u with
  | wld uid a dst len held =>
    apply Canonical.dropLocks
    exact h.updShare _ _ fun _ ⟨hs, hw, ht⟩ => ⟨hs, Memory.wf_writeBytes hw .., ht⟩
  | array cores ranges => exact .foldl _ (fun _ _ h => h.setCoreAt ..) h
  | any | barrier _ | ltrap | settlement => exact h
theorem Canonical.execInstructionCompletion (h : Canonical s) (team n : Nat) : OutCanonical (execInstructionCompletion team n s) := by
  unfold Machine.execInstructionCompletion Machine.notDue
  grind [Canonical.holdPieces, Canonical.completeUnit, Canonical.setTeamAt, OutCanonical]
theorem Canonical.execSettlement (h : Canonical s) (team : Nat) : OutCanonical (execSettlement team s) := by
  unfold Machine.execSettlement Machine.notDue
  grind [Canonical.takeTrap, Canonical.setTeamAt, Canonical.count, Canonical.endTeam, OutCanonical]
theorem Canonical.enterHeld (h : Canonical s) (k : Nat) (tr : Trap) : Canonical (enterHeld s k tr) := by
  unfold Machine.enterHeld
  grind [Canonical.deliverTrap, Canonical.setTeamAt]
theorem Canonical.execTrapEntry (h : Canonical s) (team : Nat) : OutCanonical (execTrapEntry team s) := by
  unfold Machine.execTrapEntry Machine.notDue
  grind [Canonical.takeTrap, Canonical.setTeamAt, Canonical.enterHeld, OutCanonical]
theorem Canonical.execHeldAccessRewalk (h : Canonical s) (team : Nat) : OutCanonical (execHeldAccessRewalk team s) := by
  unfold Machine.execHeldAccessRewalk
  dsimp only
  split
  · exact (h.setTeamAt ..).setBlockAt _ ((h.blockAt _).mapChans _)
  · exact h
theorem Canonical.execMigrationLimit (h : Canonical s) (team : Nat) : OutCanonical (execMigrationLimit team s) := by
  have hb := h.setBlockAt (teamBlock team) ((h.blockAt (teamBlock team)).mapChans (limitChan s.clock (migrateLimit s (teamVf team)) team))
  unfold Machine.execMigrationLimit Machine.notDue
  grind [Canonical.takeTrap, Canonical.setTeamAt, OutCanonical]

/-! ### Launches and blocks -/

theorem Canonical.readStable (h : Canonical s) (c va n : Nat) : Canonical (readStable s c va n).2 := by
  induction n generalizing s va with
  | zero => exact h
  | succ n ih => unfold Machine.readStable; grind [Canonical.ctxReadNat]
/-- A launch that a record describes has an empty window, and the state in which it was read is in its canonical form. -/
theorem Canonical.buildLaunch (h : Canonical s) (c : Nat) (r : LaunchRec) : Canonical (buildLaunch s c r).2 ∧
    ∀ y ∈ (buildLaunch s c r).1, y.window = [] := by
  have hk := h.ctxReadNat c r.kernel 64
  unfold Machine.buildLaunch
  split
  · exact ⟨h, by simp⟩
  split <;> rename_i e <;> rw [e] at hk
  · exact ⟨hk, by simp⟩
  split
  · exact ⟨hk, by simp⟩
  split
  · exact ⟨hk, by simp⟩
  · refine ⟨hk.readStable .., fun y hy => ?_⟩
    obtain ⟨_, _, rfl⟩ := Option.map_eq_some_iff.mp hy
    rfl
theorem Canonical.refuseLaunch (h : Canonical s) (l : Nat) : Canonical (s.refuseLaunch l) := by
  apply Canonical.graphMember
  apply Canonical.post
  exact h.setLaunchAt l (h.window l)
theorem Canonical.submitLaunch (h : Canonical s) (c job phase graph : Nat) (r : LaunchRec) (deps : List Nat) (device : Bool) :
    Canonical (s.submitLaunch c job phase graph r deps device) := by
  have hb := ((h.setCtxAt c { s.ctxAt c with nextLaunch := (s.ctxAt c).nextLaunch + 1 }).updGraph job phase graph
    (fun g => { g with launches := g.launches ++ [(s.ctxAt c).nextLaunch] })).buildLaunch c r
  unfold State.submitLaunch
  dsimp only
  split <;> rename_i e <;> rw [e] at hb
  · exact hb.1.setLaunchAt _ (by rw [hb.2 _ rfl]; rfl)
  · exact (hb.1.setLaunchAt _ rfl).refuseLaunch _
theorem Canonical.execLaunch (h : Canonical s) (d a : SReg) : OutCanonical (execLaunch d a s) := by
  have ht := h.translate s.who (s.team.sreg a) .read
  unfold Machine.execLaunch Machine.scalarWait State.holdImage
  grind [Canonical.scalarTrap, Canonical.gateHere, Canonical.scalarXl, Canonical.setTeam, Canonical.updGraph, Canonical.submitLaunch,
    Canonical.scalarDone, OutCanonical]
theorem Canonical.oryxPut (h : Canonical s) (vf site e : Nat) : Canonical (s.oryxPut vf site e) := h.of_eq
theorem Canonical.ctxPages (h : Canonical s) (c fuel va n : Nat) : Canonical (s.ctxPages c fuel va n).2 := by
  induction fuel generalizing s va n with
  | zero => exact h
  | succ fuel ih => unfold State.ctxPages; grind [Canonical.ctxPhys]
theorem Canonical.windowImage (h : Canonical s) (l : Nat) : Canonical (s.windowImage l).2 := by
  unfold State.windowImage
  grind [Canonical.ctxPages]
theorem Canonical.holdLaunch (h : Canonical s) (l : Nat) : Canonical (s.holdLaunch l) := by
  unfold State.holdLaunch
  dsimp only
  split
  · exact h.refuseLaunch l
  · exact h.setLaunchAt l (h.window l)
theorem Canonical.levelsRunning (h : Canonical s) (l : Nat) : Canonical (s.levelsRunning l) := h.setJobAt ..
theorem Canonical.startWith (h : Canonical s) (ht : Canonical t) (l : Nat) (x : Launch) (n : Nat) : Canonical (t.startWith s l x n) := by
  have hi := h.windowImage l
  unfold State.startWith
  split <;> rename_i e <;> rw [e] at hi
  · exact hi.refuseLaunch l
  · exact ht.holdLaunch l
  · exact ((hi.levelsRunning l).setLaunchAt l (Memory.wf_ofBytes ..)).launchCheck l
theorem Canonical.shapeWord (h : Canonical s) (l : Nat) (x : Shape) : Canonical (s.shapeWord l x).2 := by
  unfold State.shapeWord
  grind [Canonical.ctxPhys]
theorem Canonical.startPredicted (h : Canonical s) (l : Nat) {x : Launch} (hx : x.window.wf = true) (y : Shape) :
    Canonical (s.startPredicted l x y) := by
  have hw := h.shapeWord l y
  unfold State.startPredicted
  dsimp only
  split <;> rename_i e <;> rw [e] at hw
  · exact hw.refuseLaunch l
  · exact hw.holdLaunch l
  split
  · exact h
  split
  · exact hw.startWith h ..
  split
  · exact h
  split
  · exact hw.diverge _
  split
  · apply Canonical.launchCheck
    exact ((hw.trace ..).levelsRunning l).setLaunchAt l hx
  · exact ((hw.trace ..).oryxPut ..).startWith h ..
theorem Canonical.execLaunchStart (h : Canonical s) (launch : Nat) : OutCanonical (execLaunchStart launch s) := by
  unfold Machine.execLaunchStart
  dsimp only
  split
  · exact h
  split
  · exact h.startWith h ..
  · exact h.startPredicted launch (h.window launch) _
theorem Canonical.takeSlot (h : Canonical s) (b core : Nat) : Canonical (s.takeSlot b core).2 := h.setCoreAt ..
/-- The shares that a block takes begin empty. -/
theorem Canonical.takeShares (h : Canonical s) (b : Nat) (k : Kernel) (cores : List Nat) :
    Canonical (s.takeShares b k cores).2 ∧ ∀ x ∈ (s.takeShares b k cores).1, x.Wf := by
  induction cores generalizing s with
  | nil => exact ⟨h, by simp [State.takeShares]⟩
  | cons c r ih =>
    obtain ⟨hs, hx⟩ := ih (h.takeSlot b c)
    refine ⟨hs, fun x hm => ?_⟩
    rcases List.mem_cons.mp hm with rfl | hm
    · exact ⟨rfl, rfl, fun m hm => by rw [List.eq_of_mem_replicate hm]; rfl⟩
    · exact hx x hm
theorem Canonical.startBlock (h : Canonical s) (l index core : Nat) (cores : List Nat) : Canonical (s.startBlock l index core cores) := by
  obtain ⟨hs, hx⟩ := h.takeShares (blockKey l index) (s.launchAt l).kernel cores
  unfold State.startBlock
  dsimp only
  apply Canonical.trace
  refine Canonical.setLaunchAt ?_ _ (Canonical.window ?_ l) <;>
  · refine .foldl _ (fun _ _ h => h.setTeamAt ..) ?_
    exact (hs.setCtxAt ..).setBlockAt _ hx
theorem Launch.takeLow_window (x : Launch) (d : Nat) : (x.takeLow d).2.window = x.window := by
  unfold Launch.takeLow
  grind
theorem Launch.takeHigh_window (x : Launch) (d : Nat) : (x.takeHigh d).2.window = x.window := by
  unfold Launch.takeHigh
  grind
theorem State.stealFrom_window {x : Launch} {l core : Nat} {y : Nat × Launch} (e : s.stealFrom x l core = some y) : y.2.window = x.window := by
  unfold State.stealFrom at e
  dsimp only at e
  split at e
  · split at e
    · cases e
    split at e
    · cases e
    · obtain ⟨d, -, hd⟩ := List.mem_flatMap.mp (List.mem_of_find?_eq_some e)
      simp only [List.mem_cons, List.not_mem_nil, or_false] at hd
      rcases hd with rfl | rfl
      · exact x.takeLow_window d
      · exact x.takeHigh_window d
  split at e
  · cases e
  split at e
  · cases e
    exact x.takeLow_window _
  split at e
  · cases e
    exact x.takeHigh_window _
  · cases e
theorem Canonical.execTicketTake (h : Canonical s) (core : Nat) : OutCanonical (execTicketTake core s) := by
  unfold Machine.execTicketTake
  split
  · exact h
  · rename_i l _
    have hw : ((s.launchAt l).takeLow (s.dieOf core)).2.window.wf = true := by rw [Launch.takeLow_window]; exact h.window l
    exact Canonical.startBlock (h.setLaunchAt l hw) ..
theorem Canonical.execBlockSteal (h : Canonical s) (core : Nat) : OutCanonical (execBlockSteal core s) := by
  unfold Machine.execBlockSteal
  split
  · exact h
  next l _ =>
  dsimp only
  split
  · exact h
  next e =>
  exact Canonical.startBlock (h.setLaunchAt l (by rw [State.stealFrom_window e]; exact h.window l)) ..
theorem Canonical.confirmBlock (h : Canonical s) (b : Nat) : Canonical (s.confirmBlock b) := by
  unfold State.confirmBlock
  extract_lets l y s1 s2 x s3 s4
  have h1 : Canonical s1 := h.setBlockAt b (h.blockAt b)
  have h2 : Canonical s2 := .foldl _ (fun _ _ h => h.setTeamAt ..) h1
  have h3 : Canonical s3 := h2.setLaunchAt l (h2.window l)
  have h4 : Canonical s4 := .foldl _ (fun _ _ h => h.addRange ..) h3
  split
  · exact h4.endBlock ..
  · exact h4
theorem Canonical.publish (h : Canonical s) (l : Nat) {x : Launch} (hx : x.window.wf = true) (y : Shape) (e : Nat) :
    Canonical (s.publish l x y e) := by
  unfold State.publish
  dsimp only
  apply Canonical.launchCheck
  refine .foldl _ (fun s b h => ?_) ?_
  · split
    · exact h
    split
    · exact h.confirmBlock b
    · exact h.setBlockAt b (h.blockAt b)
  · split
    · apply Canonical.oryxPut
      exact (h.trace ..).setLaunchAt l hx
    · exact (h.trace ..).setLaunchAt l hx
theorem Canonical.execShapePublication (h : Canonical s) (launch : Nat) : OutCanonical (execShapePublication launch s) := by
  unfold Machine.execShapePublication Machine.notDue
  grind [Canonical.diverge, Canonical.publish, Canonical.window, OutCanonical]
theorem Canonical.execBlockSquash (h : Canonical s) (block : Nat) : OutCanonical (execBlockSquash block s) := by
  unfold Machine.execBlockSquash Machine.notDue
  grind [Canonical.squashBlock, OutCanonical]

/-! ### The copy engine -/

theorem Canonical.tell (h : Canonical s) (ns : List Notice) : Canonical { s with outbox := ns } := h.of_eq
theorem Canonical.tellFar (h : Canonical s) (r : Reduction) (st : Nat) : Canonical (s.tellFar r st) := by
  unfold State.tellFar
  dsimp only
  apply Canonical.tell
  split
  · exact h
  · exact h.dropLanded _
theorem Canonical.putReduction (h : Canonical s) (r : Reduction) : Canonical (s.putReduction r).1 := by
  unfold State.putReduction
  dsimp only
  split
  · exact (h.tellFar ..).of_eq
  split
  · exact ((h.ctxWrite ..).tellFar ..).of_eq
  · exact h.of_eq
theorem Canonical.acceptPiece (h : Canonical s) (p : Piece) (uid : Option Nat) : Canonical (s.acceptPiece p uid).1 := by
  unfold State.acceptPiece
  split
  · exact h.ctxWrite ..
  · exact h.putReduction _
theorem Canonical.stallReductions (h : Canonical s) (hit : Reduction → Bool) : Canonical (s.stallReductions hit).1 :=
  (Canonical.foldl _ (fun _ _ h => h.tellFar ..) h).of_eq
theorem Canonical.land (h : Canonical s) (p : Piece) (uid : Option Nat) : Canonical (s.land p uid) := h.of_eq
theorem Canonical.pieceArrives (h : Canonical s) (p : Piece) : Canonical (s.pieceArrives p) := by
  unfold State.pieceArrives
  split
  · exact h.land ..
  · exact h
theorem Canonical.setLead (h : Canonical s) (r : ChanRef) (i : Issue) : Canonical (s.setLead r i) := h.updChan ..
theorem Canonical.execChannelIssue (h : Canonical s) (core ch : Nat) : OutCanonical (execChannelIssue core ch s) := by
  unfold Machine.execChannelIssue Machine.notDue
  grind [Canonical.addLocks, Canonical.count, Canonical.updChan, OutCanonical]
theorem Canonical.endCmd (h : Canonical s) (r : ChanRef) (c : Cmd) (st : Nat) : Canonical (endCmd s r c st) :=
  ((h.dropLocks _).updChan ..).setTeamAt ..
theorem Canonical.failCmd (h : Canonical s) (r : ChanRef) (c : Cmd) (left st : Nat) : Canonical (failCmd s r c left st) :=
  (h.updChan ..).endCmd ..
/-- The state that an access of the engine leaves is in its canonical form. -/
def Met.Canonical : Met → Prop
  | .ok s _ _ => Machine.Canonical s
  | .fault s _ _ => Machine.Canonical s
  | .unreachable s => Machine.Canonical s
  | .migrating _ => True
  | .refresh _ => True
  | .gate => True
  | .noMemory => True
theorem Canonical.engineUnit (h : Canonical s) (r : ChanRef) (c : Cmd) (page : Option UnitXl) (va : Nat) (write : Bool) :
    Canonical (engineUnit s r c page va write).2 := by
  unfold Machine.engineUnit
  grind [Canonical.translate]
theorem Canonical.engineVirtual (h : Canonical s) (r : ChanRef) (c : Cmd) (page : Option UnitXl) (va : Nat) (write : Bool) :
    (engineVirtual s r c page va write).Canonical := by
  unfold Machine.engineVirtual
  grind [Canonical.engineUnit, Met.Canonical]
theorem Canonical.engineRead (h : Canonical s) (r : ChanRef) (c : Cmd) (page : Option UnitXl) (e : End) :
    (engineRead s r c page e).1.Canonical := by
  unfold Machine.engineRead
  split
  · exact h
  · exact h
  · generalize storeKey _ _ 1 = k
    cases k with
    | none => exact h
    | some key =>
      dsimp only
      split
      · trivial
      · exact h
  · rename_i a _ _
    have hv := h.engineVirtual r c page a false
    split <;> rename_i e
    · rw [e] at hv
      exact hv
    · exact hv
theorem Canonical.storeByte (h : Canonical s) (key : Nat) (x : Byte) : Canonical { s with wstore := s.wstore.write key x } :=
  h.setStore (Memory.wf_write h.memories.store ..)
theorem Canonical.engineWrite (h : Canonical s) (r : ChanRef) (c : Cmd) (page : Option UnitXl) (e : End) (x : Byte) :
    (engineWrite s r c page e x).Canonical := by
  unfold Machine.engineWrite
  split
  · exact h
  · dsimp only
    split
    · exact Machine.Canonical.foldl _ (fun _ _ h => h.scratchWriteBytes ..) h
    · exact h.scratchWriteBytes ..
  · split
    · exact h
    · exact h.storeByte ..
  · rename_i a _ _
    have hv := h.engineVirtual r c page a true
    split <;> rename_i e
    · rw [e] at hv
      exact Machine.Canonical.gwrite hv ..
    · exact hv
/-- The state that the entropy decoder leaves is in its canonical form. -/
def Decoded.Canonical : Decoded → Prop
  | .byte s _ _ _ => Machine.Canonical s
  | .met m => m.Canonical
  | .bad => True
theorem Canonical.streamBits (h : Canonical s) (r : ChanRef) (c : Cmd) (x : CopyCmd) (page : Option UnitXl) (bit : Nat) :
    (streamBits s r c x page bit).1.Canonical := by
  unfold Machine.streamBits
  grind [Canonical.engineRead, Met.Canonical]
theorem Canonical.decodeByte (h : Canonical s) (r : ChanRef) (c : Cmd) (x : CopyCmd) (page : Option UnitXl) (fuel : Nat) (d : Decoder) :
    (decodeByte s r c x page fuel d).Canonical := by
  induction fuel generalizing s page d with
  | zero => trivial
  | succ n ih =>
    have hb := h.streamBits r c x page d.bit
    unfold Machine.decodeByte
    grind [Decoded.Canonical, Met.Canonical]
/-- The state that a move of the engine leaves is in its canonical form. -/
def Move.Canonical : Move → Prop
  | .go s => Machine.Canonical s
  | .stop s => Machine.Canonical s
  | .done s => Machine.Canonical s
  | .noMemory => True
theorem Canonical.stopAt (h : Canonical s) (r : ChanRef) (c : Cmd) (i : Issue) (left : Nat) (write : Bool) {m : Met} (hm : m.Canonical) :
    (stopAt s r c i left write m).Canonical := by
  cases m with
  | ok => exact hm
  | fault => exact Machine.Canonical.setLead hm ..
  | migrating => exact h.setLead ..
  | refresh => exact (h.count ..).setLead ..
  | unreachable => exact Machine.Canonical.failCmd hm ..
  | gate => exact h
  | noMemory => trivial
theorem Canonical.byteDone (h : Canonical s) (r : ChanRef) (c : Cmd) (i : Issue) : (byteDone s r c i).Canonical := by
  unfold Machine.byteDone
  grind [Canonical.updChan, Canonical.raiseLock, Canonical.endCmd, Move.Canonical]
theorem Canonical.byteMove (h : Canonical s) (r : ChanRef) (c : Cmd) (i : Issue) : (byteMove s r c i).Canonical := by
  unfold Machine.byteMove
  grind [Canonical.setLead, Canonical.decodeByte, Canonical.failCmd, Canonical.stopAt, Canonical.engineRead, Canonical.engineWrite,
    Canonical.byteDone, Decoded.Canonical, Met.Canonical, Move.Canonical]
theorem Canonical.readPiece (h : Canonical s) (r : ChanRef) (c : Cmd) (x : CopyCmd) (page : Option UnitXl) (off n : Nat) :
    (readPiece s r c x page off n).1.Canonical ∧ Canonical (readPiece s r c x page off n).2.1 := by
  induction n generalizing s page off with
  | zero => exact ⟨h, h⟩
  | succ n ih =>
    have hr := h.engineRead r c page (x.place x.srcSwz x.ss (x.src + off))
    unfold Machine.readPiece
    split <;> rename_i e <;> rw [e] at hr
    · exact ih hr ..
    · exact ⟨hr, h⟩
theorem Canonical.growPtr (h : Canonical s) (r : ChanRef) (n : Nat) : Canonical (growPtr s r n) := h.updChan ..
theorem Canonical.failSend (h : Canonical s) (r : ChanRef) (c : Cmd) (x : CopyCmd) (i : Issue) (st : Nat) :
    Canonical (failSend s r c x i st) := by
  unfold Machine.failSend
  dsimp only
  apply Canonical.failCmd
  split
  · exact h.dropLanded _
  · exact (h.dropLanded (fun e => e.2 == some c.uid)).of_eq
theorem Canonical.sendMove (h : Canonical s) (r : ChanRef) (c : Cmd) (x : CopyCmd) (i : Issue) : (sendMove s r c x i).Canonical := by
  obtain ⟨hm, hs⟩ := h.readPiece r c x i.rd i.done (pieceSize x i.done)
  unfold Machine.sendMove
  dsimp only
  split
  · exact h.failSend ..
  split
  · exact h
  split
  · exact hs.stopAt _ _ _ _ _ hm
  generalize (if (x.dev == s.ownDevice) = true then _ else _ : Bool) = room
  split
  · exact h
  · apply Canonical.setLead
    split
    · exact hs.land ..
    · exact hs.of_eq
theorem Canonical.endSends (h : Canonical s) (ends : List (Nat × Nat)) : Canonical (s.endSends ends) :=
  .foldl _ (fun _ _ h => by grind [Canonical.endCmd, Canonical.growPtr, Canonical.failSend]) h
theorem Canonical.accepted (h : Canonical s) (uid n : Nat) : Canonical (s.accepted uid n) := by
  unfold State.accepted
  grind [Canonical.endCmd, Canonical.growPtr, Canonical.dropSourceLocks, Canonical.setLead]
theorem Canonical.execCollectivePieceAccept (h : Canonical s) (p : Piece) : OutCanonical (execCollectivePieceAccept p s) := by
  unfold Machine.execCollectivePieceAccept
  split
  · exact h
  split
  · exact h
  dsimp only
  apply Canonical.endSends
  split
  · exact ((h.dropLanded _).acceptPiece ..).accepted ..
  · exact ((h.dropLanded _).acceptPiece ..).tell _
theorem Canonical.farAccepts (h : Canonical s) (uid : Nat) : Canonical (s.farAccepts uid) := by
  unfold State.farAccepts
  split
  · exact h
  split
  · exact Canonical.accepted h.of_eq ..
  · exact h
theorem Canonical.farReduced (h : Canonical s) (uid st : Nat) : Canonical (s.farReduced uid st) := by
  unfold State.farReduced
  grind [Canonical.endSends]
theorem Canonical.farStall (h : Canonical s) (vf asid : Nat) (base : Word64) (len : Nat) : Canonical (s.farStall vf asid base len) :=
  (h.stallReductions _).endSends _
theorem Canonical.engineMove (h : Canonical s) (r : ChanRef) : (engineMove s r).Canonical := by
  unfold Machine.engineMove
  grind [Canonical.endCmd, Canonical.sendMove, Canonical.byteMove, Move.Canonical]
theorem Canonical.engineMoves (h : Canonical s) (r : ChanRef) (n : Nat) : OutCanonical (engineMoves r n s) := by
  induction n generalizing s with
  | zero => exact h
  | succ n ih =>
    have hm := h.engineMove r
    unfold Machine.engineMoves
    split <;> rename_i e <;> rw [e] at hm
    · exact ih hm
    · exact hm
    · exact hm
    · trivial
theorem Canonical.execCopyBytesComplete (h : Canonical s) (core ch n : Nat) : OutCanonical (execCopyBytesComplete core ch n s) := by
  unfold Machine.execCopyBytesComplete
  split
  · exact h
  · exact h.engineMoves ..
theorem Canonical.execCollectiveStall (h : Canonical s) (core ch : Nat) : OutCanonical (execCollectiveStall core ch s) := by
  unfold Machine.execCollectiveStall Machine.notDue
  grind [Canonical.failSend, Canonical.stallReductions, Canonical.endSends, OutCanonical]
theorem Canonical.execRefreshWindowEnd (h : Canonical s) (die group : Nat) : OutCanonical (execRefreshWindowEnd die group s) := by
  unfold Machine.execRefreshWindowEnd
  dsimp only
  split
  · exact h
  · exact Canonical.mapTeams (h.mapBlocks fun _ _ hb => hb.mapChans _) _

end Sys2Proof.Machine
end

section
/-! SUPPORT. The canonical form through faults, the domain and the host. -/

namespace Sys2Proof.Machine
-- Lemmas are elaborated one after another: a proof that adds a helper lemma waits for those before it, and each that waits holds a thread.
set_option Elab.async false

variable {s t : State}

/-! ### Faults -/

theorem Canonical.stopTeam (h : Canonical s) (k cause : Nat) : Canonical (s.stopTeam k cause) := (h.setTeamAt ..).endTeam _
theorem Canonical.execCancel (h : Canonical s) (team : Nat) : OutCanonical (execCancel team s) := by
  unfold Machine.execCancel
  dsimp only
  split
  · exact (h.cancelApplies _).stopTeam ..
  · exact h
theorem Canonical.execWatchdog (h : Canonical s) (team : Nat) : OutCanonical (execWatchdog team s) := by
  have hb := h.setBlockAt (teamBlock team) (x := { s.blockAt (teamBlock team) with ending := some 0x0F }) (h.blockAt (teamBlock team))
  unfold Machine.execWatchdog Machine.notDue
  grind [Canonical.stopTeam, Canonical.post, OutCanonical]
theorem Canonical.execPreemption (h : Canonical s) (launch : Nat) (cores : BitVec 96) : OutCanonical (execPreemption launch cores s) := by
  unfold Machine.execPreemption
  dsimp only
  split
  · exact h
  split
  · exact h
  · have hs := h.setLaunchAt launch (x := { s.launchAt launch with mask := cores &&& BitVec.ofNat 96 (2 ^ s.nCores - 1) }) (h.window launch)
    refine hs.mapBlocks fun _ _ hb => ?_
    split
    · exact hb
    · exact hb
theorem Canonical.writeSave (h : Canonical s) (c : Nat) : Canonical (s.writeSave c) := (h.setFresh _).gwrite ..
theorem Canonical.saveBlock (h : Canonical s) (bk : Nat) : Canonical (s.saveBlock bk) := by
  have hs := (h.setBlockAt bk (x := { s.blockAt bk with
    st := .saved, saveDue := false, shares := ((s.blockAt bk).mapChans (s.saveChan (s.blockAt bk))).shares })
    ((h.blockAt bk).mapChans (s.saveChan (s.blockAt bk)))).writeSave (launchCtx (blockLaunch bk))
  exact hs.of_eq
theorem Canonical.execContextSave (h : Canonical s) (team : Nat) : OutCanonical (execContextSave team s) := by
  unfold Machine.execContextSave Machine.notDue
  grind [Canonical.waitDone, Canonical.freeDatapath, Canonical.setTeamAt, Canonical.leaveArrays, Canonical.saveBlock, OutCanonical]
theorem Canonical.execBlockResume (h : Canonical s) (block core : Nat) : OutCanonical (execBlockResume block core s) := by
  unfold Machine.execBlockResume
  dsimp only
  split
  · exact h
  split
  · exact h
  next cores _ =>
  have ht := (h.takeShares block (s.launchAt (blockLaunch block)).kernel cores).1
  split
  · exact h
  · apply Canonical.addLocks
    refine .foldl _ (fun _ _ h => h.setTeamAt ..) (ht.setBlockAt block fun x hx => ?_)
    obtain ⟨⟨y, z⟩, hy, rfl⟩ := List.mem_map.mp hx
    exact h.blockAt block y (List.of_mem_zip hy).1
theorem Canonical.fatal (h : Canonical s) (k : Nat) (r : FaultRec) : Canonical (s.fatal k r) :=
  ((((h.performStopped _).gwrite ..).setCtxAt ..).endContext _).post ..
theorem Canonical.execFatalFault (h : Canonical s) (team : Nat) (err : SoftError) : OutCanonical (execFatalFault team err s) := by
  unfold Machine.execFatalFault Machine.notDue
  grind [Canonical.fatal, Canonical.takeTrap, OutCanonical]
theorem Canonical.execLateWriteFailure (h : Canonical s) (team addr : Nat) : OutCanonical (execLateWriteFailure team addr s) := by
  unfold Machine.execLateWriteFailure
  split
  · exact h
  split
  · exact h
  · exact h.fatal ..
theorem Canonical.execPoolRefill (h : Canonical s) (team : Nat) : OutCanonical (execPoolRefill team s) := by
  have hr := h.ringFill (teamCtx team) (s.ctxAt (teamCtx team)).reserve
  unfold Machine.execPoolRefill
  dsimp only
  split
  · exact h
  split
  · exact h
  split
  · exact (h.post ..).fatal ..
  · apply Canonical.setTeamAt
    apply Canonical.setCtxAt
    exact .foldl _ (fun _ _ h => h.zeroPage _) hr

/-! ### The domain -/

theorem Canonical.postAll (h : Canonical s) (e : Event) : Canonical (s.postAll e) := .foldl _ (fun _ _ h => h.post ..) h
theorem Canonical.countAcked (h : Canonical s) (dev : Nat) : Canonical (s.countAcked dev) := Canonical.of_eq (h.mapTeams _)
theorem Canonical.fenceOff (h : Canonical s) (dev : Nat) : Canonical (s.fenceOff dev) := by
  unfold State.fenceOff
  split
  · exact h
  · exact Canonical.postAll (h.countAcked dev).of_eq _
theorem Canonical.isolate (h : Canonical s) : Canonical s.isolate := by
  unfold State.isolate
  split
  · exact h
  · exact Canonical.postAll (Canonical.of_eq (h.mapTeams _)) _
theorem Canonical.declareFailed (h : Canonical s) (dev : Nat) : Canonical (s.declareFailed dev) := by
  unfold State.declareFailed
  split
  · exact h
  split
  · exact (h.countAcked dev).isolate
  · exact (h.fenceOff dev).of_eq
theorem Canonical.declareCutOff (h : Canonical s) : Canonical s.declareCutOff := .foldl _ (fun _ _ h => h.declareFailed _) h
theorem Canonical.portDown (h : Canonical s) (port : Nat) : Canonical (s.portDown port) := Canonical.declareCutOff h.of_eq
theorem Canonical.execHeartbeat (h : Canonical s) (port : Nat) : OutCanonical (execHeartbeat port s) := by
  unfold Machine.execHeartbeat
  split
  · exact h.of_eq
  · exact h
theorem Canonical.execHeartbeatMiss (h : Canonical s) (port : Nat) : OutCanonical (execHeartbeatMiss port s) := by
  have hm : Canonical { s with misses := listUpd s.misses port (fun _ => s.misses.getD port 0 + 1) } := h.of_eq
  unfold Machine.execHeartbeatMiss
  dsimp only
  split
  · show Canonical _
    split
    · exact hm.portDown port
    · exact hm
  · exact h
theorem Canonical.execLinkDown (h : Canonical s) (port : Nat) : OutCanonical (execLinkDown port s) := by
  unfold Machine.execLinkDown
  split
  · exact h.portDown port
  · exact h
theorem Canonical.execFenceNotice (h : Canonical s) (dev : Nat) : OutCanonical (execFenceNotice dev s) := by
  show Canonical _
  split
  · exact h.isolate
  · exact h.fenceOff dev
theorem Canonical.acknowledge (h : Canonical s) (x : TlbInv) (dev : Nat) : Canonical (s.acknowledge x dev) := h.setTeamAt ..
theorem Canonical.removeEntries (h : Canonical s) (x : TlbInv) : Canonical (s.removeEntries x) := Canonical.rewalkWhere h.of_eq _
theorem Canonical.ackIf (h : Canonical s) (x : TlbInv) (dev : Nat) : Canonical (s.ackIf x dev) := by
  unfold State.ackIf
  split
  · exact h.tell _
  split
  · exact h.acknowledge ..
  · exact h
theorem Canonical.arriveOne (h : Canonical s) {x : TlbInv} {y : Option TlbInv} (e : arriveOne s x = some (t, y)) : Canonical t := by
  unfold Machine.arriveOne at e
  grind [Canonical.removeEntries, Canonical.ackIf]
theorem Canonical.arriveFirst (h : Canonical s) {xs ys : List TlbInv} (e : arriveFirst s xs = some (t, ys)) : Canonical t := by
  induction xs generalizing ys with
  | nil => cases e
  | cons x r ih =>
    unfold Machine.arriveFirst at e
    split at e
    next e' =>
      cases e
      exact h.arriveOne e'
    · obtain ⟨⟨u, zs⟩, hu, hz⟩ := Option.map_eq_some_iff.mp e
      cases hz
      exact ih hu
theorem Canonical.execTlbinvArrival (h : Canonical s) : OutCanonical (execTlbinvArrival s) := by
  unfold Machine.execTlbinvArrival
  split
  · exact h
  next e => exact (h.arriveFirst e).of_eq
theorem Canonical.execShootdownTimeout (h : Canonical s) (team : Nat) : OutCanonical (execShootdownTimeout team s) :=
  Canonical.foldl _ (fun _ _ h => h.declareFailed _) h
theorem Canonical.reply (h : Canonical s) (bs : List Byte) : Canonical (s.reply bs) := h.tell _
theorem Canonical.outsideAccess (h : Canonical s) (base room : Nat) (x : OutsideAccess) : Canonical (outsideAccess s base room x) := by
  unfold Machine.outsideAccess
  cases x with
  | write a bs => grind [Canonical.gwrite]
  | read a n => grind [Canonical.reply]
  | atom op wide a y cmp => grind [Canonical.atomAt, Canonical.reply]
theorem Canonical.peerRequest (h : Canonical s) {dev addr : Nat} {r : Option Requester} (e : s.peerRequest dev addr r = .serve t) :
    Canonical t := by
  cases r with
  | none => cases e; exact h
  | some r => exact h.serveEntry e
theorem Canonical.execPeerDeviceAccess (h : Canonical s) (dev : Nat) (x : PeerAccess) : OutCanonical (execPeerDeviceAccess dev x s) := by
  unfold Machine.execPeerDeviceAccess
  split
  · split
    next e => exact (h.peerRequest e).outsideAccess ..
    · exact h
    · exact h.diverge _
  · exact h
theorem Canonical.execHostBar2Access (h : Canonical s) (vf : Nat) (x : OutsideAccess) : OutCanonical (execHostBar2Access vf x s) := by
  unfold Machine.execHostBar2Access
  split
  · exact h.outsideAccess ..
  · exact h
theorem Canonical.coreTime (h : Canonical s) (c : Nat) : Canonical (s.coreTime c) :=
  .foldl _ (fun _ _ h => by grind [Canonical.count]) (h.setFresh _)
theorem Canonical.execTimebaseCycle (h : Canonical s) : OutCanonical (execTimebaseCycle s) :=
  Canonical.foldl _ (fun _ _ h => h.coreTime _) (Canonical.of_eq h.markReady)
theorem Canonical.peerShoot (h : Canonical s) (x : TlbInv) : Canonical (s.peerShoot x) := by
  unfold State.peerShoot
  split
  · split
    · exact h.of_eq
    · exact h
  · exact h
theorem Canonical.peerIcinv (h : Canonical s) (dev uid addr len : Nat) : Canonical (s.peerIcinv dev uid addr len) := by
  unfold State.peerIcinv
  split
  · exact (h.discardCode ..).tell _
  · exact h
theorem Canonical.icinvAnswer (h : Canonical s) (dev uid : Nat) : Canonical (s.icinvAnswer dev uid) := by
  unfold State.icinvAnswer
  split
  · exact h.mapTeams _
  · exact h

/-! ### The host's registers -/

/-- A reset keeps of the memories only what other agents hold. -/
theorem Canonical.execDeviceReset (h : Canonical s) : OutCanonical (execDeviceReset s) :=
  canonical_iff.mpr ⟨Memory.wf_filter h.memories.global _, rfl, fun _ he => absurd he List.not_mem_nil, fun _ he => absurd he List.not_mem_nil, .nil⟩
theorem Canonical.startUp (h : Canonical s) : Canonical s.startUp := by
  unfold State.startUp
  split
  · exact h.of_eq
  split
  · exact h.of_eq
  · exact h
theorem Canonical.enableVfs (h : Canonical s) (pf : Nat) : Canonical (s.enableVfs pf) := by
  unfold State.enableVfs
  split
  · exact h.of_eq
  · exact h
theorem Canonical.setPool (h : Canonical s) (xs : List PoolRegion) : Canonical { s with pool := xs } := h.of_eq
theorem Canonical.execRegisterWrite (h : Canonical s) (pf : Bool) (fn off : Nat) (x : Word64) : OutCanonical (execRegisterWrite pf fn off x s) := by
  unfold Machine.execRegisterWrite
  split
  · split
    · exact h
    split
    · exact h.of_eq
    split
    · exact h.setPool _
    · exact h
  split
  · exact h.setVfAt ..
  · exact h
theorem Canonical.execEventHeadDoorbell (h : Canonical s) (vf : Nat) (x : Word32) : OutCanonical (execEventHeadDoorbell vf x s) := by
  unfold Machine.execEventHeadDoorbell
  split
  · exact h.setVfAt ..
  · exact h
theorem Canonical.execJobQueueWrite (h : Canonical s) (vf q : Nat) (x : BitVec 128) : OutCanonical (execJobQueueWrite vf q x s) := by
  unfold Machine.execJobQueueWrite
  split
  · exact h.setVfAt ..
  · exact h
theorem Canonical.queueError (h : Canonical s) (vf q ctx code : Nat) : Canonical (s.queueError vf q ctx code) := h.post ..
theorem Canonical.execTailDoorbell (h : Canonical s) (vf q : Nat) (x : BitVec 16) : OutCanonical (execTailDoorbell vf q x s) := by
  unfold Machine.execTailDoorbell
  dsimp only
  split
  · exact h
  split
  · exact h
  split
  · exact h.queueError ..
  · exact h.setVfAt ..
theorem Canonical.execPerfCounterClear (h : Canonical s) (vf core n : Nat) : OutCanonical (execPerfCounterClear vf core n s) := by
  unfold Machine.execPerfCounterClear
  split
  · exact h.of_eq
  · exact h
theorem Canonical.execSettingsWrite (h : Canonical s) (pf vf off bytes : Nat) (x : Word64) :
    OutCanonical (execSettingsWrite pf vf off bytes x s) := by
  unfold Machine.execSettingsWrite
  dsimp only
  split
  · exact h
  · exact h.setVfAt ..
theorem Canonical.execDeviceNumberWrite (h : Canonical s) (x : Word64) : OutCanonical (execDeviceNumberWrite x s) := by
  unfold Machine.execDeviceNumberWrite
  split
  · exact h
  · exact h.of_eq
theorem Canonical.execLoadRoutingTable (h : Canonical s) (pf : Nat) : OutCanonical (execLoadRoutingTable pf s) := by
  unfold Machine.execLoadRoutingTable
  split
  · exact h.of_eq
  · exact h
theorem Canonical.loadRoutes (h : Canonical s) (ts : List (BitVec 16)) : Canonical (s.loadRoutes ts) := by
  unfold State.loadRoutes
  dsimp only
  split
  · exact h.of_eq
  · exact Canonical.declareCutOff h.of_eq
theorem Canonical.execRoutingLoadComplete (h : Canonical s) : OutCanonical (execRoutingLoadComplete s) := by
  unfold Machine.execRoutingLoadComplete
  split
  · exact h
  split
  · exact h.loadRoutes _
  · exact h.of_eq
theorem Canonical.execPoolAssign (h : Canonical s) (r : Nat) : OutCanonical (execPoolAssign r s) := by
  unfold Machine.execPoolAssign
  dsimp only
  split
  · exact h
  split
  · exact h.setPool _
  split
  · exact h.takeFresh.setPool _
  · exact h.takeFresh.setPool _
theorem Canonical.execPoolRelease (h : Canonical s) (r : Nat) : OutCanonical (execPoolRelease r s) := by
  unfold Machine.execPoolRelease
  dsimp only
  split
  · exact h
  · exact h.setPool _
theorem Canonical.execPoolReleaseComplete (h : Canonical s) (r : Nat) : OutCanonical (execPoolReleaseComplete r s) := by
  unfold Machine.execPoolReleaseComplete
  dsimp only
  split
  · exact h
  · exact (h.setPool _).postAll _

/-! ### Jobs and contexts -/

theorem Canonical.popEntry (h : Canonical s) (vf q : Nat) : Canonical (s.popEntry vf q) := h.setVfAt ..
theorem Canonical.refuseEntry (h : Canonical s) (vf q : Nat) (e : JobEntry) (code : Nat) : OutCanonical (s.refuseEntry vf q e code) :=
  (h.popEntry ..).queueError ..
theorem Canonical.holdEntry (h : Canonical s) (vf q : Nat) {past : Out} (hp : OutCanonical past) : OutCanonical (s.holdEntry vf q past) := by
  unfold State.holdEntry
  dsimp only
  split
  · exact hp
  · exact h.setVfAt ..
theorem Canonical.refuseOrHold (h : Canonical s) (vf q : Nat) (e : JobEntry) (code : Nat) : OutCanonical (s.refuseOrHold vf q e code) := by
  unfold State.refuseOrHold
  split
  · exact h.holdEntry _ _ (h.refuseEntry ..)
  · exact h.refuseEntry ..
theorem Canonical.readPages (h : Canonical s) {c fuel va n : Nat} {bs : List Byte} (e : s.readPages c fuel va n = .ok (bs, t)) : Canonical t := by
  have hp := h.ctxPages c fuel va n
  unfold State.readPages at e
  grind
theorem Canonical.readGraphs (h : Canonical s) {c n va last : Nat} {gs : List GraphRec} (e : readGraphs s c n va last = .ok (gs, t)) :
    Canonical t := by
  induction n generalizing s va last gs with
  | zero => cases e; exact h
  | succ n ih =>
    unfold Machine.readGraphs at e
    grind [→ Canonical.readPages]
theorem Canonical.submitGraph (h : Canonical s) (c j p g : Nat) (r : GraphRec) : Canonical (submitGraph c j p g r s) :=
  .foldl _ (fun _ _ h => h.submitLaunch ..) h
theorem Canonical.submit (h : Canonical s) (c q : Nat) (e : JobEntry) (gs : List GraphRec) : Canonical (s.submit c q e gs) :=
  .foldl _ (fun _ _ h => .foldl _ (fun _ _ h => h.submitGraph ..) h) (h.setJobAt ..)
theorem Canonical.execSubmitJob (h : Canonical s) (vf q : Nat) : OutCanonical (execSubmitJob vf q s) := by
  unfold Machine.execSubmitJob
  dsimp only
  split
  · exact h
  split
  · exact h
  split
  · exact h.refuseEntry ..
  split
  · exact h.refuseEntry ..
  split
  · exact h.refuseOrHold ..
  next hr =>
  split
  · exact h.refuseEntry ..
  split
  · exact h.refuseOrHold ..
  next hg =>
  have hs := (h.readPages hr).readGraphs hg
  split
  · exact h.holdEntry _ _ ((hs.submit ..).popEntry ..)
  · exact (hs.submit ..).popEntry ..
theorem Canonical.zeroStore (h : Canonical s) (ws : List (Nat × Nat)) : Canonical (s.zeroStore ws) :=
  h.setStore (Memory.wf_filter h.memories.store _)
theorem Canonical.fillReserve (h : Canonical s) (c n : Nat) : Canonical (s.fillReserve c n) := by
  induction n generalizing s with
  | zero => exact h
  | succ n ih => exact ih ((h.takePage c).setCtxAt ..)
theorem Canonical.readLists (h : Canonical s) {c d : Nat} {rs : List (Nat × Nat)} {gs : List McGroup}
    (e : s.readLists c d = some (rs, gs, t)) : Canonical t := by
  unfold State.readLists at e
  grind [→ Canonical.readPages]
theorem Canonical.logHeader (h : Canonical s) (c va : Nat) (spoor : Bool) : Canonical (s.logHeader c va spoor) := (h.ctxWrite ..).ctxWrite ..
theorem Canonical.newPages (h : Canonical s) (c va n : Nat) : Canonical (s.newPages c va n) := by
  induction n generalizing s va with
  | zero => exact h
  | succ n ih => exact ih (((h.takePage c).zeroPage _).mapPage ..) _
theorem Canonical.zeroPages (h : Canonical s) (pages : List Nat) : Canonical (pages.foldl (fun s p => s.zeroPage p) s) :=
  .foldl _ (fun _ _ h => h.zeroPage _) h
theorem Canonical.buildPool (h : Canonical s) (c : Nat) : Canonical (s.buildPool c) := by
  unfold State.buildPool
  dsimp only
  split
  · exact h
  split
  · exact h.takeFresh
  · apply Canonical.setCtxAt
    apply Canonical.ringFill
    apply Canonical.zeroPages
    exact .foldl _ (fun _ _ h => h.rawWrite8 ..) (h.takeFresh.newPages ..)
theorem Canonical.createWith (h : Canonical s) (vf q : Nat) (e : JobEntry) (d : Nat) (ws : List (Nat × Nat)) :
    OutCanonical (s.createWith vf q e d ws) := by
  unfold State.createWith
  dsimp only
  split
  · exact h.refuseEntry ..
  next rs gs s' hr =>
  have hl := (h.setCtxAt ..).readLists hr
  split
  · exact (h.post ..).refuseEntry ..
  have hs := (((hl.setCtxAt (ctxKey vf (bitsOf d 64 16)) { descCtx d ws with regions := rs, groups := gs }).fillReserve
    (ctxKey vf (bitsOf d 64 16)) (bitsOf d 704 64)).zeroStore ws)
  apply Canonical.popEntry
  apply Canonical.buildPool
  split
  · exact hs.setVfAt ..
  · exact ((hs.setVfAt ..).logHeader ..).logHeader ..
  · exact ((hs.setVfAt ..).readLog ..).readLog ..
theorem Canonical.execCreateContext (h : Canonical s) (vf q : Nat) : OutCanonical (execCreateContext vf q s) := by
  unfold Machine.execCreateContext
  dsimp only
  split
  · exact h
  split
  · exact h
  split
  · exact h.refuseEntry ..
  split
  · exact h.refuseEntry ..
  split
  · exact h.refuseEntry ..
  split
  · exact h.refuseEntry ..
  split
  · exact h.holdEntry _ _ (h.createWith ..)
  · exact h.createWith ..
theorem Canonical.removeContext (h : Canonical s) (c : Nat) : Canonical (s.removeContext c) := by
  have he := h.endContext c
  exact ⟨{ he.memories with windows := fun x hx => he.memories.windows x (List.mem_of_mem_filter hx) }, he.teams⟩
theorem Canonical.execDestroyContext (h : Canonical s) (vf q : Nat) : OutCanonical (execDestroyContext vf q s) := by
  unfold Machine.execDestroyContext
  dsimp only
  split
  · exact h
  split
  · exact h
  split
  · exact h.refuseEntry ..
  split
  · exact h
  · exact ((h.removeContext _).setVfAt ..).popEntry ..
theorem Canonical.answer (h : Canonical s) (pf : Nat) (r : SpdmReply) : OutCanonical (answer pf r s) := by
  unfold Machine.answer
  split
  · exact h.of_eq
  · exact h

end Sys2Proof.Machine
end

section
/-! SUPPORT. The canonical form through every instruction, every turn and every step. -/

namespace Sys2Proof.Machine
-- Lemmas are elaborated one after another: a proof that adds a helper lemma waits for those before it, and each that waits holds a thread.
set_option Elab.async false

variable {s t : State}

/-! ### The forms of the lane instructions -/

theorem Canonical.intOp2 (h : Canonical s) (i : Instr) (c : Ctl) (ty : IntTy) (sat : Bool) (d : Dst) (x : Src) (y : SrcImm)
    (f : Int → Int → Int) : OutCanonical (intOp2 i c ty sat d x y f s) := h.laneFixed ..
theorem Canonical.bitOp2 (h : Canonical s) (i : Instr) (c : Ctl) (ty : IntTy) (d : Dst) (x : Src) (y : SrcImm) (f : Nat → Nat → Nat) :
    OutCanonical (bitOp2 i c ty d x y f s) := h.laneFixed ..
theorem Canonical.bitOp1 (h : Canonical s) (i : Instr) (c : Ctl) (ty : IntTy) (d : Dst) (x : Src) (f : Nat → Nat) :
    OutCanonical (bitOp1 i c ty d x f s) := h.laneFixed ..
theorem Canonical.f32Op2 (h : Canonical s) (i : Instr) (c : Ctl) (d : Dst) (x : Src) (y : SrcImm) (f : Word32 → Word32 → Word32) :
    OutCanonical (f32Op2 i c d x y f s) := h.laneFixed ..
theorem Canonical.f32Op1 (h : Canonical s) (i : Instr) (c : Ctl) (lat : Nat) (d : Dst) (x : Src) (f : Word32 → Word32) :
    OutCanonical (f32Op1 i c lat d x f s) := h.laneFixed ..
theorem Canonical.f64Op2 (h : Canonical s) (i : Instr) (c : Ctl) (d : Dst) (x y : Src) (f : Word64 → Word64 → Word64) :
    OutCanonical (f64Op2 i c d x y f s) := h.laneFixed ..
theorem Canonical.f64Op1 (h : Canonical s) (i : Instr) (c : Ctl) (d : Dst) (x : Src) (f : Word64 → Word64) :
    OutCanonical (f64Op1 i c d x f s) := h.laneFixed ..
theorem Canonical.fnOp (h : Canonical s) (i : Instr) (c : Ctl) (f : Fn) (d : Dst) (x : Src) : OutCanonical (fnOp i c f d x s) :=
  h.laneFixed ..
theorem Canonical.predOp (h : Canonical s) (i : Instr) (c : Ctl) (d : PDst) (x y : PSrc) (f : Bool → Bool → Bool) :
    OutCanonical (predOp i c d x y f s) := h.laneFixed ..

/-! ### Every instruction and step of the part -/

/-- Whatever executes keeps the canonical form. -/
theorem Canonical.exec (h : Canonical s) (i : Instr) : OutCanonical (exec i s) := by
  unfold Machine.exec
  cases i with
  | aluAdd | aluSub | aluAnd | aluOr | aluXor | aluSll | aluSrl | aluSra | aluMul | aluMulh | aluMulhu | aluMin | aluMax | aluMinu | aluMaxu
  | addi | andi | ori | xori | lui | scmp | ssel | qand | qor | qxor | qandn => exact h.scalarDone _
  | slli | srli | srai => exact h.shiftImm ..
  | jr | callr => exact h.scalarJump ..
  | sany | sall | spop | sfind => exact h.afterRuns _
  | b => exact h.execB ..
  | call => exact h.execCall ..
  | run => exact h.execRun ..
  | mpush => exact h.execMpush _
  | melse => exact h.execMelse
  | mpop => exact h.execMpop
  | sred => exact h.execSred ..
  | ldk | ldkN32 => exact h.ldkOp ..
  | sldN8 | sldN16 | sldN32 | sldB64 => exact h.sldOp ..
  | sstN8 | sstN16 | sstN32 | sstB64 => exact h.sstOp ..
  | swait d a y wide c acq sc => exact h.execSwait d a y wide c acq sc
  | swaitPoll => exact h.execSwaitPoll
  | cpy a => exact h.execCpy a
  | bseal sc => exact h.execBseal sc
  | bwait => exact h.execBwait ..
  | launch => exact h.execLaunch ..
  | lwait => exact h.execLwait ..
  | lstat => exact h.execLstat ..
  | lcancel => exact h.execLcancel ..
  | galloc => exact h.execGalloc ..
  | gfree => exact h.execGfree _
  | flush => exact h.execFlush ..
  | srd => exact h.execSrd ..
  | swr => exact h.execSwr ..
  | trap => exact h.execTrap _
  | tret => exact h.execTret
  | exit => exact h.execExit
  | isync => exact h.execIsync
  | icinv => exact h.execIcinv ..
  | tlbinv | tlbinvAsid | tlbinvVf => exact h.sendShoot ..
  | tlbsync => exact h.execTlbsync
  | ptfence => exact h.execPtfence
  | rngreg => exact h.execRngreg ..
  | iadd | isub | imul | imulh | idiv | irem | imin | imax => exact h.intOp2 ..
  | land | lor | lxor | shl | shr | sar | rol => exact h.bitOp2 ..
  | lnot | popc | clz | brev => exact h.bitOp1 ..
  | fadd | fsub | fmul | fmin | fmax => exact h.f32Op2 ..
  | fabs | fneg | frint => exact h.f32Op1 ..
  | dadd | dsub | dmul | dmin | dmax => exact h.f64Op2 ..
  | dabs | dneg => exact h.f64Op1 ..
  | rcp | rsq | sqrt | exp2 | log2 | sin | cos => exact h.fnOp ..
  | pand | por | pxor | pandn => exact h.predOp ..
  | imad | iabs | ineg | bfe | bfi | mov | sel | icmp | ffma | fcmp | dfma | dcmp | cvt | rand => exact h.laneFixed ..
  | vote | shfl | reduce | scan | sample => exact h.bandFixed ..
  | msplit => exact h.execMsplit ..
  | isect => exact h.execIsect ..
  | lds => exact h.execLds ..
  | sts => exact h.execSts ..
  | atos => exact h.execAtos ..
  | gld => exact h.execGld ..
  | gst => exact h.execGst ..
  | gatom => exact h.execGatom ..
  | gred => exact h.execGred ..
  | xfer => exact h.execXfer ..
  | fence => exact h.execFence ..
  | tld => exact h.execTld ..
  | tst => exact h.execTst ..
  | tmov => exact h.execTmov ..
  | tzero => exact h.execTzero ..
  | wld => exact h.execWld ..
  | mma | mmaPair => exact h.mmaOp ..
  | prune => exact h.execPrune ..
  | become => exact h.execBecome ..
  | emit => exact h.execEmit ..
  | ltrap => exact h.execLtrap ..
  | bar => exact h.execBar ..
  | barn => exact h.execBarn ..
  | nop => exact h.execNop _
  | runGrant => exact h.execRunGrant ..
  | runRetire => exact h.execRunRetire _
  | instructionCompletion => exact h.execInstructionCompletion ..
  | settlement => exact h.execSettlement _
  | channelIssue => exact h.execChannelIssue ..
  | copyBytesComplete => exact h.execCopyBytesComplete ..
  | collectivePieceAccept => exact h.execCollectivePieceAccept _
  | collectiveStall => exact h.execCollectiveStall ..
  | launchStart => exact h.execLaunchStart _
  | ticketTake => exact h.execTicketTake _
  | blockSteal => exact h.execBlockSteal _
  | shapePublication => exact h.execShapePublication _
  | blockSquash => exact h.execBlockSquash _
  | trapEntry => exact h.execTrapEntry _
  | poolRefill => exact h.execPoolRefill _
  | cancel => exact h.execCancel _
  | watchdog => exact h.execWatchdog _
  | preemption => exact h.execPreemption ..
  | contextSave => exact h.execContextSave _
  | blockResume => exact h.execBlockResume ..
  | fatalFault => exact h.execFatalFault ..
  | lateWriteFailure => exact h.execLateWriteFailure ..
  | heldAccessRewalk => exact h.execHeldAccessRewalk _
  | migrationLimit => exact h.execMigrationLimit _
  | refreshWindowEnd => exact h.execRefreshWindowEnd ..
  | tlbinvArrival => exact h.execTlbinvArrival
  | shootdownTimeout => exact h.execShootdownTimeout _
  | heartbeat => exact h.execHeartbeat _
  | heartbeatMiss => exact h.execHeartbeatMiss _
  | linkDown => exact h.execLinkDown _
  | fenceNotice => exact h.execFenceNotice _
  | peerDeviceAccess => exact h.execPeerDeviceAccess ..
  | hostBar2Access => exact h.execHostBar2Access ..
  | deviceReset => exact h.execDeviceReset
  | registerWrite => exact h.execRegisterWrite ..
  | eventHeadDoorbell => exact h.execEventHeadDoorbell ..
  | jobQueueWrite => exact h.execJobQueueWrite ..
  | tailDoorbell => exact h.execTailDoorbell ..
  | perfCounterClear => exact h.execPerfCounterClear ..
  | settingsWrite => exact h.execSettingsWrite ..
  | deviceNumberWrite => exact h.execDeviceNumberWrite _
  | loadRoutingTable => exact h.execLoadRoutingTable _
  | routingLoadComplete => exact h.execRoutingLoadComplete
  | poolAssign => exact h.execPoolAssign _
  | poolRelease => exact h.execPoolRelease _
  | poolReleaseComplete => exact h.execPoolReleaseComplete _
  | submitJob => exact h.execSubmitJob ..
  | createContext => exact h.execCreateContext ..
  | destroyContext => exact h.execDestroyContext ..
  | getVersion | getCapabilities | negotiateAlgorithms | getDigests | getCertificate | challenge | getMeasurements => exact h.answer ..
  | timebaseCycle => exact h.execTimebaseCycle
  | currentLimiter | currentBackWithinRating => exact h.of_eq

/-! ### Every turn -/

theorem Canonical.hostWrites (h : Canonical s) (port addr : Nat) (bytes : List Byte) : Canonical (s.hostWrites port addr bytes) :=
  h.setMem (Memory.wf_writeBytes h.memories.global ..)
theorem Canonical.peerWrites (h : Canonical s) (dev addr : Nat) (bytes : List Byte) : Canonical (s.peerWrites dev addr bytes) := by
  unfold State.peerWrites
  split
  · exact h
  · exact h.gwrite ..
theorem Canonical.turn (h : Canonical s) (x : Turn) : Canonical (s.turn x) := by
  cases x with
  | perform => exact h.performEach _
  | reject => exact h.setOps _
  | hostMem => exact h.hostWrites ..
  | peerMem => exact h.peerWrites ..
  | softError => exact h.correctedError _
  | clearErrors => exact h.of_eq
  | pieceArrival => exact h.pieceArrives _
  | pieceAccepted => exact h.farAccepts _
  | reductionEnd => exact h.farReduced ..
  | reductionStall => exact h.farStall ..
  | farCredits => exact h.of_eq
  | peerShoot => exact h.peerShoot _
  | peerIcinv => exact h.peerIcinv ..
  | icinvAnswer => exact h.icinvAnswer ..
  | peerReset => exact h.of_eq
  | completion => exact h.reportAgain _
  | retraction => exact h.retractDue
  | startUp => exact h.startUp
  | enableVfs => exact h.enableVfs _
  | scalar | lane | event => exact h
theorem Canonical.streamMove (h : Canonical s) {fetch : State → Fetched} (hf : ∀ u, Canonical u → FetchedCanonical (fetch u)) (k : Nat) :
    FetchedCanonical (streamMove fetch k s) := by
  unfold Machine.streamMove
  dsimp only
  split
  · exact h.setCur k
  split
  · exact h.setCur k
  · exact hf _ (h.setCur k)
theorem Canonical.turnMove (h : Canonical s) (x : Turn) : FetchedCanonical (turnMove x s) := by
  unfold Machine.turnMove
  split
  · exact h.streamMove (fun _ h => h.fetchScalar) _
  · exact Canonical.streamMove h.of_eq (fun _ h => h.fetchLane) _
  · exact h
  · exact h.turn _
theorem Canonical.nextMove (h : Canonical s) : FetchedCanonical (nextMove s) := by
  unfold Machine.nextMove
  split
  · exact Canonical.turnMove h.of_eq _
  split
  · exact h.streamMove (fun _ h => h.fetchScalar) _
  · exact h
/-- A step keeps the canonical form. -/
theorem Canonical.step (h : Canonical s) : OutCanonical (step s) := by
  have hm := h.nextMove
  unfold Machine.step
  split <;> rename_i e <;> rw [e] at hm
  · exact hm
  · exact Canonical.exec hm _

/-- Settles O59: each operation on the state keeps the canonical form, so each instruction, each turn and each step does. -/
theorem stepsKeepTheCanonicalForm : Obligations.StepsKeepTheCanonicalForm := by
  unfold Obligations.StepsKeepTheCanonicalForm
  intro s t h e
  exact h.step.next e

end Sys2Proof.Machine
end

section
/-! SUPPORT. The time of the part and its attestation: what a cycle of the timebase notes and counts, what reset measures, and which
requests of SPDM are answered (R27, R37, R193, R194, R423 to R426). -/

namespace Sys2Proof.Machine

/-! ### Runs that are ready (R37) -/

theorem Table.mem_keys_iff {α : Type} {t : Table α} {k : Nat} : k ∈ t.map (·.1) ↔ ∃ x, Table.find? t k = some x := by
  induction t with
  | nil => simp [Table.find?]
  | cons e rest ih =>
    obtain ⟨j, x⟩ := e
    by_cases h : j = k
    · simp [Table.find?, h]
    · simpa [Table.find?, h, Ne.symm h] using ih

theorem grantable_runs {s : State} {k : Nat} (h : grantable s k = true) : ∃ r rs, (s.teamAt k).runs = r :: rs := by
  refine List.exists_cons_of_ne_nil fun e => ?_
  simp [grantable, e] at h

theorem mem_readyTeams {s : State} {k : Nat} : k ∈ readyTeams s (s.teamAt k).core ↔
    (∃ t, Table.find? s.teams k = some t) ∧ grantable s k = true ∧ runReady s k ((s.teamAt k).runs.headD {}) = true := by
  simp only [readyTeams, List.mem_filter, Table.mem_keys_iff, Bool.and_eq_true, beq_self_eq_true, true_and]

/-- Which teams a note of the ready runs changes, and how. -/
theorem State.teamAt_markReady (s : State) (k : Nat) : s.markReady.teamAt k =
    if k ∈ readyTeams s (s.teamAt k).core then
      { s.teamAt k with runs := listUpd (s.teamAt k).runs 0 (fun r => r.markReady s.clock) }
    else s.teamAt k := by
  cases e : Table.find? s.teams k with
  | none =>
    have hk : k ∉ readyTeams s (s.teamAt k).core := fun h => by
      obtain ⟨⟨t, ht⟩, -⟩ := mem_readyTeams.mp h
      simp [e] at ht
    rw [if_neg hk]
    simp [State.markReady, State.teamAt, Table.get, Table.find?_mapVals, e]
  | some t =>
    have ht : s.teamAt k = t := by simp [State.teamAt, Table.get, e]
    have hk : k ∈ readyTeams s (s.teamAt k).core ↔ (grantable s k && runReady s k (t.runs.headD {})) = true := by
      rw [mem_readyTeams, ht, e, Bool.and_eq_true]
      exact and_iff_right ⟨t, rfl⟩
    rw [if_congr hk rfl rfl, ht, State.markReady, State.teamAt, Table.get, Table.find?_mapVals, e]
    rfl

theorem State.teamAt_markReady_rest (s : State) (k : Nat) :
    s.markReady.teamAt k = { s.teamAt k with runs := (s.markReady.teamAt k).runs } := by
  rw [s.teamAt_markReady k]
  split <;> rfl

/-- The first run of a ready team is noted at the clock, unless it was noted before; the runs of other teams stay. -/
theorem State.runs_markReady (s : State) (k : Nat) :
    if k ∈ readyTeams s (s.teamAt k).core then
      ∃ r rs, (s.teamAt k).runs = r :: rs ∧ (s.markReady.teamAt k).runs = { r with readyAt := some (r.readyAt.getD s.clock) } :: rs
    else (s.markReady.teamAt k).runs = (s.teamAt k).runs := by
  rw [s.teamAt_markReady k]
  split
  · next h =>
    obtain ⟨-, hg, -⟩ := mem_readyTeams.mp h
    obtain ⟨r, rs, hr⟩ := grantable_runs hg
    exact ⟨r, rs, hr, by rw [hr]; rfl⟩
  · rfl

/-! ### Core cycles (R194) -/

/-- `t` is `s` but for the counters and the free values used. -/
def CountsOnly (s t : State) : Prop := t = { s with perf := t.perf, fresh := t.fresh }

theorem CountsOnly.refl (s : State) : CountsOnly s s := rfl
theorem CountsOnly.trans {s t u : State} (h : CountsOnly s t) (k : CountsOnly t u) : CountsOnly s u := by
  unfold CountsOnly at *; rw [k, h]
theorem CountsOnly.foldl {β : Type} {f : State → β → State} (h : ∀ s x, CountsOnly s (f s x)) (xs : List β) (s : State) :
    CountsOnly s (xs.foldl f s) := by
  induction xs generalizing s with
  | nil => exact .refl s
  | cons x r ih => exact (h s x).trans (ih _)
theorem CountsOnly.activeOn {s t : State} (h : CountsOnly s t) (c v : Nat) : t.activeOn c v = s.activeOn c v := by rw [h]; rfl
theorem CountsOnly.slavedOn {s t : State} (h : CountsOnly s t) (c v : Nat) : t.slavedOn c v = s.slavedOn c v := by rw [h]; rfl

/-- Counter `j` is one that counts the cycles of core `c` for virtual function `v`: 0 while a run is granted, 5 while the array is
slaved. -/
def State.timesOn (s : State) (c v j : Nat) : Prop :=
  (s.activeOn c v = true ∧ j = perfKey c v 0) ∨ (s.slavedOn c v = true ∧ j = perfKey c v 5)

theorem CountsOnly.timesOn {s t : State} (h : CountsOnly s t) {c v j : Nat} : t.timesOn c v j ↔ s.timesOn c v j := by
  simp only [State.timesOn, h.activeOn, h.slavedOn]

theorem State.timesOn_inj {s t : State} {c v c' v' j : Nat} (hv : v < 16) (hv' : v' < 16) (h : s.timesOn c v j) (h' : t.timesOn c' v' j) :
    c = c' ∧ v = v' := by
  obtain ⟨n, hn, e⟩ : ∃ n < 32, j = perfKey c v n := by
    rcases h with ⟨-, e⟩ | ⟨-, e⟩
    exacts [⟨0, by omega, e⟩, ⟨5, by omega, e⟩]
  obtain ⟨n', hn', e'⟩ : ∃ n < 32, j = perfKey c' v' n := by
    rcases h' with ⟨-, e⟩ | ⟨-, e⟩
    exacts [⟨0, by omega, e⟩, ⟨5, by omega, e⟩]
  obtain ⟨hc, hv, -⟩ := perfKey_inj hv hn hv' hn' (e.symm.trans e')
  exact ⟨hc, hv⟩

/-- The steps `f` change only counters, and free values; step `x` changes counter `j` only where `p j s x`. -/
structure CountsWhere (f : State → Nat → State) (p : Nat → State → Nat → Prop) : Prop where
  frame : ∀ s x, CountsOnly s (f s x)
  congr : ∀ {s t j x}, CountsOnly s t → (p j t x ↔ p j s x)
  other : ∀ {s j x}, ¬p j s x → Table.get (f s x).perf j = Table.get s.perf j

theorem CountsWhere.foldl_other {f : State → Nat → State} {p : Nat → State → Nat → Prop} (hf : CountsWhere f p) {j : Nat} {xs : List Nat}
    {s : State} (h : ∀ x ∈ xs, ¬p j s x) : Table.get (xs.foldl f s).perf j = Table.get s.perf j := by
  induction xs generalizing s with
  | nil => rfl
  | cons x r ih =>
    obtain ⟨hx, hr⟩ := List.forall_mem_cons.mp h
    exact (ih fun y hy g => hr y hy ((hf.congr (hf.frame s x)).mp g)).trans (hf.other hx)

/-- Of steps at different `x`, one alone changes a counter that is its own: the counter stands as at the start before it, and at the end
as after it. -/
theorem CountsWhere.foldl_own {f : State → Nat → State} {p : Nat → State → Nat → Prop} (hf : CountsWhere f p) {xs : List Nat}
    (hn : xs.Nodup) {x : Nat} (hx : x ∈ xs) (s : State) :
    ∃ t, CountsOnly s t ∧ ∀ j, (∀ y ∈ xs, p j s y → y = x) →
      Table.get t.perf j = Table.get s.perf j ∧ Table.get (xs.foldl f s).perf j = Table.get (f t x).perf j := by
  obtain ⟨l, r, rfl⟩ := List.append_of_mem hx
  obtain ⟨-, hr, hd⟩ := List.nodup_append.mp hn
  have hl : CountsOnly s (l.foldl f s) := .foldl hf.frame l s
  refine ⟨l.foldl f s, hl, fun j hj => ⟨hf.foldl_other fun y hy g => ?_, ?_⟩⟩
  · exact hd y hy x List.mem_cons_self (hj y (List.mem_append_left _ hy) g)
  · rw [List.foldl_append, List.foldl_cons]
    refine hf.foldl_other fun y hy g => ?_
    have hy' : y = x := hj y (List.mem_append_right _ (List.mem_cons_of_mem _ hy)) ((hf.congr (hl.trans (hf.frame _ _))).mp g)
    exact (List.nodup_cons.mp hr).1 (hy' ▸ hy)

/-- `m` core cycles pass on core `c` for virtual function `v`. -/
def State.vfTime (c m : Nat) (s : State) (v : Nat) : State :=
  let s := if s.activeOn c v then s.count c v 0 m else s
  if s.slavedOn c v then s.count c v 5 m else s

theorem State.coreTime_eq (s : State) (c : Nat) :
    s.coreTime c = (List.range 16).foldl (State.vfTime c (Config.coreCycles s.fresh)) { s with fresh := s.fresh + 1 } := rfl

/-- What the cycles of one virtual function leave in each counter. -/
theorem State.get_vfTime (c m : Nat) (s : State) (v j : Nat) : Table.get (State.vfTime c m s v).perf j =
    Table.get s.perf j + (if s.activeOn c v = true ∧ j = perfKey c v 0 then BitVec.ofNat 64 m else 0) +
      (if s.slavedOn c v = true ∧ j = perfKey c v 5 then BitVec.ofNat 64 m else 0) := by
  have hs : (s.count c v 0 m).slavedOn c v = s.slavedOn c v := rfl
  unfold State.vfTime
  cases ha : s.activeOn c v <;> cases hb : s.slavedOn c v <;> simp only [hs, hb, State.count_get, if_true, if_false, Bool.false_eq_true]
  · simp
  · split <;> simp [*]
  · split <;> simp [*]
  · split <;> split <;> simp_all

theorem State.countsWhere_vfTime (c m : Nat) : CountsWhere (State.vfTime c m) (fun j s v => s.timesOn c v j) where
  frame s v := by
    unfold State.vfTime
    dsimp only
    split <;> split <;> rfl
  congr h := h.timesOn
  other {s j v} h := by
    obtain ⟨h0, h5⟩ := not_or.mp h
    simp [State.get_vfTime, h0, h5]

theorem State.vfTime_timesOn {c m v j : Nat} {s : State} (h : s.timesOn c v j) :
    Table.get (State.vfTime c m s v).perf j = Table.get s.perf j + BitVec.ofNat 64 m := by
  have hne : perfKey c v 0 ≠ perfKey c v 5 := by unfold perfKey; omega
  rw [State.get_vfTime]
  rcases h with ⟨ha, rfl⟩ | ⟨hb, rfl⟩
  · simp [ha, hne]
  · simp [hb, hne.symm]

theorem State.countsWhere_coreTime : CountsWhere State.coreTime (fun j s c => ∃ v < 16, s.timesOn c v j) where
  frame s c := CountsOnly.trans (t := { s with fresh := s.fresh + 1 }) rfl (.foldl (State.countsWhere_vfTime c _).frame _ _)
  congr h := by simp only [h.timesOn]
  other {s j c} h := by
    rw [State.coreTime_eq]
    exact (State.countsWhere_vfTime c _).foldl_other fun v hv g => h ⟨v, List.mem_range.mp hv, g⟩

/-- The cycles that pass on a core are added to each of its counters. -/
theorem State.coreTime_timesOn {c v j : Nat} {s : State} (hv : v < 16) (h : s.timesOn c v j) :
    Table.get (s.coreTime c).perf j = Table.get s.perf j + BitVec.ofNat 64 (Config.coreCycles s.fresh) := by
  obtain ⟨t, ht, own⟩ := (State.countsWhere_vfTime c (Config.coreCycles s.fresh)).foldl_own List.nodup_range (List.mem_range.mpr hv)
    { s with fresh := s.fresh + 1 }
  obtain ⟨before, after⟩ := own j fun w hw g => (State.timesOn_inj (List.mem_range.mp hw) hv g h).2
  rw [State.coreTime_eq, after, State.vfTime_timesOn (ht.timesOn.mpr h), before]

/-- When core cycles pass on each of different cores, one number of them is added to every counter of a core. -/
theorem State.foldl_coreTime_timesOn {cs : List Nat} (hn : cs.Nodup) {c : Nat} (hc : c ∈ cs) (s : State) :
    ∃ m, ∀ v < 16, ∀ j, s.timesOn c v j → Table.get (cs.foldl State.coreTime s).perf j = Table.get s.perf j + BitVec.ofNat 64 m := by
  obtain ⟨t, ht, own⟩ := State.countsWhere_coreTime.foldl_own hn hc s
  refine ⟨Config.coreCycles t.fresh, fun v hv j h => ?_⟩
  obtain ⟨before, after⟩ := own j fun d _ ⟨w, hw, g⟩ => (State.timesOn_inj hw hv g h).1
  rw [after, State.coreTime_timesOn hv (ht.timesOn.mpr h), before]

/-! ### A cycle of the timebase (R27, R193) -/

/-- The state as a cycle of the timebase finds the cores: the runs noted, the clock and the limiter's count advanced. -/
def State.beforeCores (s : State) : State :=
  { s.markReady with
    clock := if s.markhorUp then s.clock + 1 else s.clock
    limiterCount := if s.limiting then s.limiterCount + 1 else s.limiterCount }

theorem exec_timebaseCycle (s : State) :
    exec .timebaseCycle s = .next ((s.cores.map (·.1)).foldl State.coreTime s.beforeCores) := rfl

theorem State.beforeCores_eq (s : State) : s.beforeCores =
    { s with
      clock := if 2 ≤ s.bootStep then s.clock + 1 else s.clock
      limiterCount := if s.limiting = true then s.limiterCount + 1 else s.limiterCount
      teams := s.markReady.teams } := by
  simp only [State.beforeCores, State.markhorUp, decide_eq_true_eq]
  rfl

theorem State.beforeCores_teamAt (s : State) (k : Nat) : s.beforeCores.teamAt k = s.markReady.teamAt k := rfl

theorem State.slavedOn_beforeCores (s : State) (c v : Nat) : s.beforeCores.slavedOn c v = s.slavedOn c v := by
  have hc (k : Nat) : (s.beforeCores.teamAt k).core = (s.teamAt k).core := by
    rw [s.beforeCores_teamAt k, s.teamAt_markReady_rest k]
  have ha : s.beforeCores.coreAt c = s.coreAt c := rfl
  simp only [State.slavedOn, ha, hc]

theorem State.timesOn_beforeCores {s : State} {c v j : Nat} : s.beforeCores.timesOn c v j ↔ s.timesOn c v j := by
  have ha : s.beforeCores.activeOn c v = s.activeOn c v := rfl
  simp only [State.timesOn, ha, s.slavedOn_beforeCores]

/-! ### Reset (R423, R424) -/

theorem State.reset_queue (v q : Nat) : (State.reset.vfAt v).queues.getD q {} = {} := by
  have hv : State.reset.vfAt v = {} := List.getElem?_getD_replicate_default_eq _ _ _
  rw [hv]
  exact List.getElem?_getD_replicate_default_eq _ _ _

/-- A refusal's status word is even. -/
theorem bootWord_getLsbD_zero : bootWord.getLsbD 0 = decide (refusedImage = 0) := by
  unfold bootWord
  split
  · next h => simp [h]
  · next h =>
    have he : (refusedImage * 2 + (1 + Config.bootReason % 3) * 16) % 2 = 0 := by omega
    rw [BitVec.getLsbD_ofNat, Nat.testBit_zero, he, decide_eq_false h]
    rfl

theorem measured_getD {i : Nat} (hi : i < 8) : measured.getD i 0 =
    if i = 0 ∨ i = 4 ∨ ((i = 1 ∨ i = 2 ∨ i = 3) ∧ (refusedImage = 0 ∨ i < refusedImage)) then
      sha384 (digestBytes 0 ++ digestBytes (Config.imageDigest (i + 1))) else 0 := by
  have voxfort : i + 1 = 1 ∨ i + 1 = 5 ↔ i = 0 ∨ i = 4 := by omega
  have images : 2 ≤ i + 1 ∧ i + 1 ≤ 4 ∧ (refusedImage = 0 ∨ i + 1 - 1 < refusedImage) ↔
      (i = 1 ∨ i = 2 ∨ i = 3) ∧ (refusedImage = 0 ∨ i < refusedImage) := by omega
  rw [measured, List.getD_eq_getElem?_getD, List.getElem?_map, List.getElem?_range hi]
  simp only [Option.map_some, Option.getD_some, voxfort, images, ← or_assoc]
  by_cases h : i = 0 ∨ i = 4 <;> simp only [h, if_true, if_false, true_or, false_or] <;> rfl

/-! ### SPDM (R424) -/

theorem answer_up {s : State} {pf : Nat} (h : s.pfUp pf = true) (r : SpdmReply) :
    answer pf r s = .next { s with spdmOut := s.spdmOut ++ [r] } := if_pos h

/-- The physical functions that are presented answer (R423). -/
theorem State.pfUp_iff (s : State) (pf : Nat) :
    s.pfUp pf = true ↔ pf < 2 ∧ (3 ≤ s.bootStep ∨ (s.bootStep = 1 ∧ refusedImage ≠ 0 ∧ pf = 0)) := by
  simp [State.pfUp, State.started, and_assoc]

/-! ### The obligation -/

/-- What a cycle of the timebase does (R27, R37, R193, R194). -/
theorem timebaseCycle_advances (s : State) : ∃ t, exec .timebaseCycle s = .next t ∧
    t = { s with clock := if 2 ≤ s.bootStep then s.clock + 1 else s.clock
                 limiterCount := if s.limiting = true then s.limiterCount + 1 else s.limiterCount
                 perf := t.perf, fresh := t.fresh, teams := s.markReady.teams } ∧
    (∀ j, (∀ c v, c ∈ s.cores.map (·.1) → v < 16 → ¬s.timesOn c v j) → Table.get t.perf j = Table.get s.perf j) ∧
    ((s.cores.map (·.1)).Nodup → ∀ c ∈ s.cores.map (·.1), ∃ m, ∀ v < 16, ∀ j, s.timesOn c v j →
      Table.get t.perf j = Table.get s.perf j + BitVec.ofNat 64 m) := by
  have frame : CountsOnly s.beforeCores ((s.cores.map (·.1)).foldl State.coreTime s.beforeCores) :=
    .foldl State.countsWhere_coreTime.frame _ _
  refine ⟨_, exec_timebaseCycle s, ?_, fun j h => ?_, fun hn c hc => ?_⟩
  · rw [State.beforeCores_eq] at frame ⊢
    exact frame
  · exact State.countsWhere_coreTime.foldl_other fun c hc ⟨v, hv, g⟩ => h c v hc hv (State.timesOn_beforeCores.mp g)
  · obtain ⟨m, hm⟩ := State.foldl_coreTime_timesOn hn hc s.beforeCores
    exact ⟨m, fun v hv j g => hm v hv j (State.timesOn_beforeCores.mpr g)⟩

theorem step_startUp {s : State} {rest : List Turn} (h : s.agenda = .startUp :: rest) :
    step s = .next (State.startUp { s with agenda := rest }) := by
  simp only [step, nextMove, h]
  rfl
theorem step_enableVfs {s : State} {pf : Nat} {rest : List Turn} (h : s.agenda = .enableVfs pf :: rest) :
    step s = .next (State.enableVfs { s with agenda := rest } pf) := by
  simp only [step, nextMove, h]
  rfl
theorem State.enableVfs_eq (s : State) (pf : Nat) :
    s.enableVfs pf = if 3 ≤ s.bootStep ∧ pf < 2 then { s with sriov := s.sriov ||| BitVec.twoPow 2 pf } else s := by
  simp only [State.enableVfs, State.started, Bool.and_eq_true, decide_eq_true_eq]

/-- Settles O51: a cycle's notes, clock and counts by `timebaseCycle_advances`, each of the other steps by its own equation. -/
theorem startUpTimeAndAttestation : Obligations.StartUpTimeAndAttestation := by
  unfold Obligations.StartUpTimeAndAttestation
  intro s pf nonce rest u turns replies
  refine ⟨rfl, rfl, ?cycle, ?reset, fun h => step_startUp h, fun h => ?vfs, fun hpf hup => ?spdm⟩
  case cycle =>
    obtain ⟨t, ht, frame, other, own⟩ := timebaseCycle_advances s
    have hk (k : Nat) : t.teamAt k = s.markReady.teamAt k := by rw [frame]; rfl
    have hteams : t.teams = s.markReady.teams := by rw [frame]
    refine ⟨t, ht, hteams ▸ frame, fun k => ⟨?_, ?_⟩, fun j h => ?_, fun hn c hc => ?_⟩
    · rw [hk]; exact s.teamAt_markReady_rest k
    · rw [hk]; exact s.runs_markReady k
    · refine other j fun c v hc hv g => ?_
      obtain ⟨active, slaved⟩ := h c v hc hv
      rcases g with ⟨ha, e⟩ | ⟨hb, e⟩
      exacts [active ha e, slaved hb e]
    · obtain ⟨m, hm⟩ := own hn c hc
      exact ⟨m, fun v hv => ⟨fun ha => hm v hv _ (.inl ⟨ha, rfl⟩), fun hb => hm v hv _ (.inr ⟨hb, rfl⟩)⟩⟩
  case reset =>
    exact ⟨_, rfl, rfl, rfl, rfl, rfl, rfl, rfl, rfl, rfl, rfl, rfl, rfl, rfl, rfl, rfl, rfl, bootWord_getLsbD_zero,
      fun q _ v => congrArg JobQueue.size (State.reset_queue v q), rfl, fun i hi => measured_getD hi⟩
  case vfs => rw [step_enableVfs h, State.enableVfs_eq]
  case spdm =>
    have up (r : SpdmReply) := answer_up ((s.pfUp_iff pf).mpr ⟨hpf, hup⟩) r
    exact ⟨up _, up _, up _, up _, up _, ⟨_, up _⟩, ⟨_, up _⟩⟩

end Sys2Proof.Machine
end

section
/-! SUPPORT. A request to assign a pool region beside a region in use that holds no byte (R418). -/

namespace Sys2Proof.Machine

/-! ### Assigning a pool region (R418) -/

/-- Where offset 0 of the window is free, some offset is chosen: the free value, or 0. -/
theorem State.chooseWindow_isSome {s : State} {size : Nat} (h : s.windowFree size 0 = true) (pick : Nat) :
    ∃ w, s.chooseWindow size pick = some w := by
  unfold State.chooseWindow
  split
  · exact ⟨_, rfl⟩
  · exact ⟨0, List.find?_cons_of_pos h⟩

/-- What command 1 does to a region that the model finds assignable and for which it chooses a window offset. -/
theorem exec_poolAssign_some {s : State} {r w : Nat} {x : PoolRegion} (hx : s.pool.getD r {} = x) (hcmd : x.cmd = 1)
    (hup : s.markhorUp = true) (ha : s.assignable x = true)
    (hw : s.takeFresh.2.chooseWindow x.size (Config.poolWindow s.fresh) = some w) :
    exec (.poolAssign r) s =
      .next { s.takeFresh.2 with pool := listUpd s.pool r (fun _ => { x with cmd := 0, st := 1, window := w }) } := by
  have due : (decide (x.cmd ≠ 1) || !s.markhorUp) = false := by simp [hcmd, hup]
  have ok : (!s.assignable x) = false := by simp [ha]
  show execPoolAssign r s = _
  simp only [execPoolAssign, hx, due, ok, Bool.false_eq_true, if_false]
  split
  · next v hv => obtain rfl : w = v := Option.some.inj (hw.symm.trans hv); rfl
  · next hv => cases hw.symm.trans hv

theorem exec_poolAssign_assigns {s : State} {r : Nat} (hr : r < s.pool.length) (hcmd : (s.pool.getD r {}).cmd = 1) (hup : s.markhorUp = true)
    (ha : s.assignable (s.pool.getD r {}) = true) (hw : s.windowFree (s.pool.getD r {}).size 0 = true) :
    ∃ t, exec (.poolAssign r) s = .next t ∧ (t.pool.getD r {}).st = 1 := by
  obtain ⟨w, e⟩ := State.chooseWindow_isSome (s := s.takeFresh.2) hw (Config.poolWindow s.fresh)
  refine ⟨_, exec_poolAssign_some rfl hcmd hup ha e, ?_⟩
  rw [listUpd_getD, if_pos ⟨rfl, hr⟩]

/-- Region 0 asks to be assigned the two gibibytes from 0 of port 1, where region 1, in use, has its base at 1 and no byte. -/
def besideEmptyRegion : State :=
  { State.reset with
    bootStep := 2
    ifaces := [.pcie5, .cxl3]
    pool := [{ cmd := 1, port := true, size := 2 }, { st := 1, port := true, base := 1 }] }

/-- Refutes O54: two ranges of the statement are apart when one ends before the other begins, which a range of no byte within another
range does not, while for the model it overlaps nothing; so the region is assigned, where the statement has it turned away. -/
theorem not_markhorRequestsAreServed : ¬Obligations.MarkhorRequestsAreServed := by
  unfold Obligations.MarkhorRequestsAreServed
  intro h
  obtain ⟨-, -, assign, -⟩ := h besideEmptyRegion 0 (by decide)
  obtain ⟨t, ht, -, -, -, turnedAway⟩ := assign (by decide) rfl
  obtain ⟨u, hu, assigned⟩ := exec_poolAssign_assigns (s := besideEmptyRegion) (r := 0) (by decide) rfl rfl (by decide) (by decide)
  obtain rfl : t = u := by rw [ht] at hu; injection hu
  have refused : (t.pool.getD 0 {}).st = 0 := by
    rw [turnedAway (.inl fun ⟨_, _, _, apart⟩ => ?_)]
    · rfl
    · have := apart { st := 1, port := true, base := 1 } (by simp [besideEmptyRegion]) (by decide) rfl
      revert this
      decide
  omega

end Sys2Proof.Machine
end

section
/-! SUPPORT. Runs and the ordered-output buffer: what `RUN` and `FLUSH` append (R35, R45, R153, R279, R294). -/

namespace Sys2Proof.Machine

/-! ### RUN -/

/-- The address of a run is the sum of its base, register and immediate, modulo 2^64 (R279). -/
theorem State.runAddr_eq (s : State) (d : SReg) (i : BitVec 19) : s.runBase + s.team.sreg d + i.setWidth 64 =
    BitVec.ofNat 64 ((if s.team.sup = true then s.ctx.trapBase.toNat else s.kernel.laneBase) + (s.team.sreg d).toNat + i.toNat) := by
  have hi : i.setWidth 64 = BitVec.ofNat 64 i.toNat := by rw [BitVec.ofNat_toNat]
  rw [BitVec.ofNat_add, BitVec.ofNat_add, BitVec.ofNat_toNat, BitVec.setWidth_eq, hi]
  cases h : s.team.sup <;> simp [State.runBase, h]

/-- Settles O3: `RUN` completes with the run appended while fewer than 8 are queued, and waits at 8. -/
theorem runAppendsToTheQueue : Obligations.RunAppendsToTheQueue := by
  intro d i s x
  have hx : s.runBase + s.team.sreg d + i.setWidth 64 = x := s.runAddr_eq d i
  refine ⟨fun h => ?_, fun h => ?_⟩
  · have e : exec (.run d i) s = scalarDone s { s.team with
        runs := s.team.runs ++ [{ addr := x, start := x, sregs := s.team.sregs, no := s.team.nextRun }]
        nextRun := s.team.nextRun + 1 } := by
      show execRun d i s = _
      simp only [execRun, hx, Nat.not_le.mpr h, if_false]
    obtain ⟨t, ht, hc⟩ := scalarDone_completed s { s.team with
        runs := s.team.runs ++ [{ addr := x, start := x, sregs := s.team.sregs, no := s.team.nextRun }]
        nextRun := s.team.nextRun + 1 } rfl
    exact ⟨t, e.trans ht, hc⟩
  · show execRun d i s = _
    simp only [execRun, h, if_true, scalarWait]

/-! ### The order of the ordered-output buffer (R45) -/

/-- An entry comes before another, or may: by key, then by sequence. -/
def EmitEntry.le (e f : EmitEntry) : Prop := e.key.toNat < f.key.toNat ∨ (e.key = f.key ∧ e.seq.toNat ≤ f.seq.toNat)

theorem EmitEntry.le_trans {e f g : EmitEntry} (h : e.le f) (k : f.le g) : e.le g := by
  rcases h with h | ⟨h, hs⟩ <;> rcases k with k | ⟨k, ks⟩
  · exact .inl (by omega)
  · exact .inl (k ▸ h)
  · exact .inl (h ▸ k)
  · exact .inr ⟨h.trans k, by omega⟩

/-- The test by which an entry is inserted: one that passes comes first, one that fails comes after. -/
theorem EmitEntry.insert_test (e x : EmitEntry) :
    if (e.key.ult x.key || (e.key == x.key && e.seq.ult x.seq)) = true then e.le x else x.le e := by
  split
  · next h =>
    simp only [Bool.or_eq_true, Bool.and_eq_true, BitVec.ult_iff_lt, BitVec.lt_def, beq_iff_eq] at h
    exact h.imp id (fun ⟨hk, hs⟩ => ⟨hk, Nat.le_of_lt hs⟩)
  · next h =>
    simp only [Bool.or_eq_true, Bool.and_eq_true, BitVec.ult_iff_lt, BitVec.lt_def, beq_iff_eq, not_or, not_and, Nat.not_lt] at h
    obtain ⟨hk, hs⟩ := h
    rcases Nat.lt_or_eq_of_le hk with hlt | heq
    · exact .inl hlt
    · have he : e.key = x.key := BitVec.eq_of_toNat_eq heq.symm
      exact .inr ⟨he.symm, hs he⟩

theorem insertEmit_perm (e : EmitEntry) (xs : List EmitEntry) : List.Perm (insertEmit e xs) (e :: xs) := by
  induction xs with
  | nil => exact .refl _
  | cons x rest ih =>
    unfold insertEmit
    split
    · exact .refl _
    · exact (ih.cons x).trans (.swap e x rest)

theorem insertEmit_sorted (e : EmitEntry) {xs : List EmitEntry} (h : xs.Pairwise EmitEntry.le) :
    (insertEmit e xs).Pairwise EmitEntry.le := by
  induction xs with
  | nil => exact List.pairwise_singleton _ _
  | cons x rest ih =>
    obtain ⟨hx, hr⟩ := List.pairwise_cons.mp h
    have ht := e.insert_test x
    unfold insertEmit
    split
    · next hc =>
      rw [if_pos hc] at ht
      refine .cons (fun f hf => ?_) h
      rcases List.mem_cons.mp hf with rfl | hf
      · exact ht
      · exact EmitEntry.le_trans ht (hx f hf)
    · next hc =>
      rw [if_neg hc] at ht
      refine .cons (fun f hf => ?_) (ih hr)
      rcases List.mem_cons.mp ((insertEmit_perm e rest).mem_iff.mp hf) with rfl | hf
      · exact ht
      · exact hx f hf

/-- Inserting entries one after another keeps the entries and the order. -/
theorem foldl_insertEmit (xs acc : List EmitEntry) (h : acc.Pairwise EmitEntry.le) :
    List.Perm (xs.foldl (fun acc e => insertEmit e acc) acc) (xs ++ acc) ∧
      (xs.foldl (fun acc e => insertEmit e acc) acc).Pairwise EmitEntry.le := by
  induction xs generalizing acc with
  | nil => exact ⟨.refl _, h⟩
  | cons x rest ih =>
    obtain ⟨hp, hs⟩ := ih (insertEmit x acc) (insertEmit_sorted x h)
    exact ⟨hp.trans (((insertEmit_perm x acc).append_left rest).trans List.perm_middle), hs⟩

theorem sortEmit_perm (xs : List EmitEntry) : List.Perm (sortEmit xs) xs := by
  simpa [sortEmit] using (foldl_insertEmit xs [] .nil).1

theorem sortEmit_sorted (xs : List EmitEntry) : (sortEmit xs).Pairwise EmitEntry.le := (foldl_insertEmit xs [] .nil).2

/-! ### Appending a command -/

/-- The team after it has appended a command: the command is its next, not completed and unsealed (R136, R148). -/
def Team.withCmd (t : Team) : Team :=
  { t with nextIns := t.nextIns + 1, cmds := t.cmds ++ [t.nextIns], unsealed := t.unsealed ++ [t.nextIns] }

theorem State.enqueue_team (s : State) (ch : Nat) (after : List Nat) (body : CmdBody) :
    (s.enqueue ch after body).team = s.team.withCmd := State.team_setTeam _ _

/-- What appending a command does to the block and to the rest of the device, whatever the instruction then leaves of the team. -/
theorem State.enqueue_enqueued {s : State} {ch : Nat} (h : ChannelTakes s ch) (after : List Nat) (body : CmdBody) (u : Team)
    (hn : u.nextIns = s.team.nextIns + 1) (hc : u.cmds = s.team.cmds ++ [s.team.nextIns])
    (hu : u.unsealed = s.team.unsealed ++ [s.team.nextIns]) :
    Enqueued s ((s.enqueue ch after body).setTeam u) ch after body := by
  generalize ht : (s.enqueue ch after body).setTeam u = t
  have hteam : t.team = u := by rw [← ht]; exact State.team_setTeam _ _
  have hb : t.block = { s.block with shares := listUpd s.block.shares (s.shareIdx s.cur) (fun h =>
      { h with chans := listUpd h.chans ch (fun c => { c with queue := c.queue ++ [s.nextCmd after body] }) }) } := by
    rw [← ht]; exact State.blockAt_setBlockAt_same _ _ _
  have hs : ∀ cj, t.block.share cj = if cj = s.shareIdx s.cur then
      { s.block.share cj with chans := listUpd (s.block.share cj).chans ch (fun c => { c with queue := c.queue ++ [s.nextCmd after body] }) }
      else s.block.share cj := by
    intro cj
    rw [hb]
    simp only [Block.share, listUpd_getD, h.core, and_true]
  refine ⟨by rw [← ht]; rfl, fun j hj => ?_, fun x hx => ?_, by rw [hb], fun cj => ?_, fun cj c => ?_, by rw [hteam, hn],
    by rw [hteam, hc], by rw [hteam, hu]⟩
  · rw [← ht]
    exact (Table.find?_set_other _ _ hj).trans (Table.find?_set_other _ _ hj)
  · rw [← ht]; exact Table.find?_set_other _ _ hx
  · rw [hs]; split <;> rfl
  · rw [hs]
    by_cases hcj : cj = s.shareIdx s.cur
    · subst hcj
      simp only [if_true, listUpd_getD, h.chan, and_true, true_and, State.nextCmd]
    · simp only [hcj, if_false, false_and]

theorem ChannelTakes.chanFull {s : State} {ch : Nat} (h : ChannelTakes s ch) : s.chanFull ch = false :=
  decide_eq_false (Nat.not_le.mpr h.room)

/-! ### FLUSH -/

/-- A `FLUSH` whose checks pass, in a drained team with room in its channel, appends its command and completes. -/
theorem execFlush_appends {d a : SReg} {ch : Nat} {s : State} (hch : ch < s.kernel.chans) (ha : (s.team.sreg a).toNat % 4 = 0)
    (hp : s.block.prov = false) (hd : s.team.drained = true) (hf : s.chanFull ch = false) :
    execFlush d a ch s = scalarDone (s.enqueue ch [] (.flush (s.team.sreg a) ((sortEmit s.team.emitBuf).map (·.val))))
      { s.team.withCmd.setSreg d (BitVec.ofNat 64 s.team.emitBuf.length) with emitBuf := [] } := by
  simp only [execFlush, Nat.not_le.mpr hch, ha, hp, hd, hf, State.enqueue_team, List.length_map, (sortEmit_perm _).length_eq,
    if_false, ne_eq, not_true_eq_false, Bool.not_true, Bool.false_eq_true]

/-- What a `FLUSH` that appends its command does: the values go with the command in order, and the buffer is empty (R153, R294). -/
theorem exec_flush_appends (d a : SReg) {ch : Nat} {s : State} (hch : ch < s.kernel.chans) (ha : (s.team.sreg a).toNat % 4 = 0)
    (hp : s.block.prov = false) (hd : s.team.drained = true) (hc : ChannelTakes s ch) :
    ∃ t, exec (.flush d a ch) s = .next t ∧
      Enqueued s t ch [] (.flush (s.team.sreg a) ((sortEmit s.team.emitBuf).map (·.val))) ∧
      t.team = { s.team.goneOn true with
        nextIns := t.team.nextIns, cmds := t.team.cmds, unsealed := t.team.unsealed, sregs := t.team.sregs, emitBuf := []
        spc := s.team.spc + 4, progress := s.clock } ∧
      ∀ r, t.team.sreg r = if r = d ∧ r ≠ 0 then BitVec.ofNat 64 s.team.emitBuf.length else s.team.sreg r := by
  set u : Team := { s.team.withCmd.setSreg d (BitVec.ofNat 64 s.team.emitBuf.length) with emitBuf := [] } with hu
  have hue : u = { s.team.withCmd with sregs := u.sregs, emitBuf := [] } := by
    rw [hu]; conv_lhs => rw [Team.setSreg_eq]
  refine ⟨_, execFlush_appends hch ha hp hd hc.chanFull, State.enqueue_enqueued hc [] _ _ ?_ ?_ ?_, ?_, fun r => ?_⟩
  · rw [Team.proceed_done, ← hu, hue]; rfl
  · rw [Team.proceed_done, ← hu, hue]; rfl
  · rw [Team.proceed_done, ← hu, hue]; rfl
  · rw [State.team_setTeam, Team.proceed_done, ← hu, hue]; rfl
  · rw [State.team_setTeam, Team.proceed_done]
    exact Team.sreg_setSreg s.team.withCmd d r _

/-- Settles O9: the command holds the buffer as `sortEmit` orders it, and the checks come in the order channel, alignment, commit gate,
drain, room. -/
theorem flushIssuesTheSortedBuffer : Obligations.FlushIssuesTheSortedBuffer := by
  intro d a ch s x
  refine ⟨fun hch ha hp => ⟨fun hd => ?_, fun hd hc => ?_⟩, fun ht hch => ?_, fun ht hch ha => ?_⟩
  · have ha' : (s.team.sreg a).toNat % 4 = 0 := ha
    show execFlush d a ch s = _
    simp only [execFlush, Nat.not_le.mpr hch, ha', hp, hd, scalarWait, if_false, if_true, ne_eq, not_true_eq_false, Bool.not_false,
      Bool.false_eq_true]
  · obtain ⟨t, ht, henq, hteam, hregs⟩ := exec_flush_appends d a hch ha hp hd hc
    exact ⟨t, _, ht, sortEmit_perm _, sortEmit_sorted _, henq, hteam, hregs⟩
  · have e : exec (.flush d a ch) s = scalarTrap s 0x01 0x5C 0 := by
      show execFlush d a ch s = _
      simp only [execFlush, hch, if_true]
    obtain ⟨t, h1, h2⟩ := scalarTrap_enters s ht 0x01 0x5C (by decide) (by decide) 0
    exact ⟨t, e.trans h1, h2⟩
  · have e : exec (.flush d a ch) s = scalarTrap s 0x05 0x00 x := by
      have ha' : (s.team.sreg a).toNat % 4 ≠ 0 := ha
      show execFlush d a ch s = _
      simp only [execFlush, Nat.not_le.mpr hch, ha', if_true, if_false, ne_eq, not_false_eq_true]
      rfl
    obtain ⟨t, h1, h2⟩ := scalarTrap_enters s ht 0x05 0x00 (by decide) (by decide) x
    exact ⟨t, e.trans h1, h2⟩

end Sys2Proof.Machine
end

section
/-! SUPPORT. An atomic of a removed block that performs late: it writes the block's entry again (R188, R337, R345). -/

namespace Sys2Proof.Machine

/-- An atomic in the scratchpad of block 0 that has issued and not performed, of a team of the block that the machine does not hold. A
block that leaves takes with it only the accesses of the teams that the machine holds. -/
def strayAtomic : LaneOp :=
  { team := 1, ins := 0, pos := 0, va := 0, bytes := 4, pa := 0, tier := 0, dev := 0, keys := [], core := 0
    act := .atom .swap 0 0 .discard, awaited := false, spad := some (0, 0) }

/-! ### The last team of a block exits -/

/-- The one team of the one block of a launch stands before its `EXIT`, and a stray atomic of the block is outstanding. -/
def lastTeamExits : State :=
  { State.reset with
    launches := [(0, { st := .started, ctr := { status := 1, expected := 1 } })]
    blocks := [(0, {})]
    teams := [(0, {})]
    ops := [strayAtomic] }

theorem exec_exit_lastTeamExits : exec .exit lastTeamExits = .next (lastTeamExits.endTeam 0) := rfl

/-- The end of the block completes its launch, for which the stray atomic performs: the block has an entry again. -/
theorem has_block_after_exit : (lastTeamExits.endTeam 0).blocks.has 0 = true := by decide

/-- Refutes O16: the block has an entry after its last team's `EXIT`, since the launch that completes with it performs the atomic of a
team that the machine does not hold, into the scratchpad of the block. -/
theorem not_exitEndsTheTeam : ¬Obligations.ExitEndsTheTeam := by
  unfold Obligations.ExitEndsTheTeam
  intro h
  obtain ⟨-, -, ends⟩ := h lastTeamExits
  obtain ⟨-, last⟩ := ends (by decide) rfl
  obtain ⟨t, ht, gone, -⟩ := last rfl (by decide) (fun _ => rfl)
  obtain rfl : lastTeamExits.endTeam 0 = t := by
    rw [exec_exit_lastTeamExits] at ht
    injection ht
  exact Bool.noConfusion (has_block_after_exit.symm.trans gone)

/-! ### A block is squashed -/

/-- A provisional block of a launch that counts every member as ended is to be squashed, with a stray atomic outstanding. -/
def squashedBlock : State :=
  { State.reset with
    launches := [(0, { st := .started, ctr := { status := 1 } })]
    blocks := [(0, { prov := true, squashDue := true })]
    ops := [strayAtomic] }

theorem exec_blockSquash_squashedBlock : exec (.blockSquash 0) squashedBlock = .next (squashedBlock.squashBlock 0) := rfl

/-- The launch completes as the block is squashed, and the stray atomic performs for it. -/
theorem find?_block_after_squash : Table.find? (squashedBlock.squashBlock 0).blocks 0 ≠ none := by decide

/-- Refutes O48, in its clause about squashes: the block has an entry after its squash, for the reason of `not_exitEndsTheTeam`. -/
theorem not_dispatcherStartsAndStopsBlocks : ¬Obligations.DispatcherStartsAndStopsBlocks := by
  unfold Obligations.DispatcherStartsAndStopsBlocks
  intro h
  obtain ⟨-, -, -, -, squash, -⟩ := h squashedBlock 0 0 0
  obtain ⟨t, ht, gone, -⟩ := squash 0 (by decide) rfl rfl (by decide)
  obtain rfl : squashedBlock.squashBlock 0 = t := by
    rw [exec_blockSquash_squashedBlock] at ht
    injection ht
  exact find?_block_after_squash gone

end Sys2Proof.Machine
end

section
/-! SUPPORT. The checks that every lane instruction makes before its own rule (R38, R40, R41, R62, R73, R266, R302). -/

namespace Sys2Proof.Machine

/-! ### Every lane instruction issues -/

/-- The outcome is that of the common checks, with a rule of the instruction's own behind them. -/
def Issues (i : Instr) (c : Ctl) (s : State) (o : Out) : Prop := ∃ body, o = laneIssue i c body s

theorem issues_laneIssue (i : Instr) (c : Ctl) (s : State) (body : State → Team → Active → List Nat → LaneRes) :
    Issues i c s (laneIssue i c body s) := ⟨body, rfl⟩

section
variable (i : Instr) (c : Ctl) (s : State)

theorem issues_laneFixed (lat : Nat) (f : Team → Active → Nat → List LaneWrite) : Issues i c s (laneFixed i c lat f s) :=
  issues_laneIssue ..
theorem issues_bandFixed (f : Team → Active → Nat → List Nat → List LaneWrite) : Issues i c s (bandFixed i c f s) := issues_laneIssue ..
theorem issues_teamIssue (f : State → Team → Active → List Nat → LaneRes) : Issues i c s (teamIssue i c f s) := issues_laneIssue ..
theorem issues_intOp2 (ty : IntTy) (sat : Bool) (d : Dst) (x : Src) (y : SrcImm) (f : Int → Int → Int) :
    Issues i c s (intOp2 i c ty sat d x y f s) := issues_laneFixed ..
theorem issues_bitOp2 (ty : IntTy) (d : Dst) (x : Src) (y : SrcImm) (f : Nat → Nat → Nat) : Issues i c s (bitOp2 i c ty d x y f s) :=
  issues_laneFixed ..
theorem issues_bitOp1 (ty : IntTy) (d : Dst) (x : Src) (f : Nat → Nat) : Issues i c s (bitOp1 i c ty d x f s) := issues_laneFixed ..
theorem issues_f32Op2 (d : Dst) (x : Src) (y : SrcImm) (f : Word32 → Word32 → Word32) : Issues i c s (f32Op2 i c d x y f s) :=
  issues_laneFixed ..
theorem issues_f32Op1 (lat : Nat) (d : Dst) (x : Src) (f : Word32 → Word32) : Issues i c s (f32Op1 i c lat d x f s) :=
  issues_laneFixed ..
theorem issues_f64Op2 (d : Dst) (x y : Src) (f : Word64 → Word64 → Word64) : Issues i c s (f64Op2 i c d x y f s) := issues_laneFixed ..
theorem issues_f64Op1 (d : Dst) (x : Src) (f : Word64 → Word64) : Issues i c s (f64Op1 i c d x f s) := issues_laneFixed ..
theorem issues_fnOp (f : Fn) (d : Dst) (x : Src) : Issues i c s (fnOp i c f d x s) := issues_laneFixed ..
theorem issues_predOp (d : PDst) (x y : PSrc) (f : Bool → Bool → Bool) : Issues i c s (predOp i c d x y f s) := issues_laneFixed ..
theorem issues_mmaOp (pt : Port) (d a : Nat) (y : Src) (src : Nat) (f : SReg) (pair : Bool) :
    Issues i c s (mmaOp i c pt d a y src f pair s) := issues_teamIssue ..
end

/-- Whatever a lane instruction does, it makes the common checks first. -/
theorem exec_issues {i : Instr} {c : Ctl} (h : ctl? i = some c) (s : State) : Issues i c s (exec i s) := by
  unfold exec
  cases i with
  | iadd | isub | imul | imulh | idiv | irem | imin | imax => cases h; exact issues_intOp2 ..
  | land | lor | lxor | shl | shr | sar | rol => cases h; exact issues_bitOp2 ..
  | lnot | popc | clz | brev => cases h; exact issues_bitOp1 ..
  | fadd | fsub | fmul | fmin | fmax => cases h; exact issues_f32Op2 ..
  | fabs | fneg | frint => cases h; exact issues_f32Op1 ..
  | dadd | dsub | dmul | dmin | dmax => cases h; exact issues_f64Op2 ..
  | dabs | dneg => cases h; exact issues_f64Op1 ..
  | rcp | rsq | sqrt | exp2 | log2 | sin | cos => cases h; exact issues_fnOp ..
  | pand | por | pxor | pandn => cases h; exact issues_predOp ..
  | imad | iabs | ineg | bfe | bfi | mov | sel | icmp | ffma | fcmp | dfma | dcmp | cvt | rand => cases h; exact issues_laneFixed ..
  | vote | shfl | reduce | scan | sample => cases h; exact issues_bandFixed ..
  | tld | tst | tmov | tzero | wld | prune => cases h; exact issues_teamIssue ..
  | mma | mmaPair => cases h; exact issues_mmaOp ..
  | msplit | isect | lds | sts | atos | gld | gst | gatom | gred | xfer | fence | become | emit | ltrap | bar | barn | nop =>
    cases h; exact issues_laneIssue ..
  | _ => cases h

/-! ### The checks, in order -/

section
variable {i : Instr} {c : Ctl} {s : State} {a : Active} (body : State → Team → Active → List Nat → LaneRes)
  (granted : s.team.active = some a) (more : a.finished = false)
include granted more

theorem laneIssue_outside (h : laneOutside i s.kernel.regs s.kernel.tiles = true) :
    laneIssue i c body s = laneTrap s a (illegalLane s.team 0x06) := by
  simp only [laneIssue, granted, more, h, if_true, if_false, Bool.false_eq_true]

theorem laneIssue_raised (inside : laneOutside i s.kernel.regs s.kernel.tiles = false) (h : BitVec.ofNat 3 c.wait &&& a.run.raised ≠ 0) :
    laneIssue i c body s = laneTrap s a (illegalLane s.team 0x09) := by
  have h' : (BitVec.ofNat 3 c.wait &&& a.run.raised != 0) = true := bne_iff_ne.mpr h
  simp only [laneIssue, granted, more, inside, h', if_true, if_false, Bool.false_eq_true]

theorem laneIssue_held (inside : laneOutside i s.kernel.regs s.kernel.tiles = false) (tokens : BitVec.ofNat 3 c.wait &&& a.run.raised = 0)
    (h : s.issueHeld s.cur i c = true) : laneIssue i c body s = .next (s.setTeam { s.team with held := true }) := by
  simp only [laneIssue, granted, more, inside, tokens, h, bne_self_eq_false, if_true, if_false, Bool.false_eq_true]

theorem laneIssue_early (inside : laneOutside i s.kernel.regs s.kernel.tiles = false) (tokens : BitVec.ofNat 3 c.wait &&& a.run.raised = 0)
    (free : s.issueHeld s.cur i c = false)
    (h : ((s.team.landDue a).stallchk && passes (s.team.landDue a).mask != 0 && tooEarly a i) = true) :
    laneIssue i c body s = laneTrap s a (stallTrap (s.team.landDue a) c) := by
  simp only [laneIssue, granted, more, inside, tokens, free, h, bne_self_eq_false, if_true, if_false, Bool.false_eq_true]
end

/-! ### Passes -/

/-- A mask with a position set has a pass. -/
theorem passes_ne_zero {m : MaskBits} {p : Nat} (h : m.getLsbD p = true) : passes m ≠ 0 := by
  have hp : p < 1024 := BitVec.lt_of_getLsbD h
  have hw : maskWord m (p / 32) ≠ 0 := fun e => by
    have hb : (maskWord m (p / 32)).getLsbD (p % 32) = true := by
      rw [maskWord, BitVec.getLsbD_extractLsb', Nat.div_add_mod, h]
      simp [Nat.mod_lt]
    rw [e] at hb
    simp at hb
  have hmem : p / 32 ∈ (List.range 32).filter (fun k => maskWord m k != 0) := by
    simp only [List.mem_filter, List.mem_range, bne_iff_ne]
    exact ⟨by omega, hw⟩
  exact Nat.ne_of_gt (List.length_pos_of_mem hmem)

/-- A team of which a lane executes an instruction counts a pass for it. -/
theorem passes_of_execLanes {t : Team} {c : Ctl} (h : t.execLanes c ≠ []) : passes t.mask ≠ 0 := by
  obtain ⟨p, hp⟩ := List.exists_mem_of_ne_nil _ h
  have hm : t.mask.getLsbD p = true := by
    simp only [Team.execLanes, Team.activeLanes, List.mem_filter] at hp
    exact hp.1.2
  exact passes_ne_zero hm

/-- The handler's mask of a stall check is the executing lanes, where a lane executes (log 10). -/
theorem stallTrap_of_execLanes {t : Team} {c : Ctl} (h : t.execLanes c ≠ []) :
    stallTrap t c = { cause := 0x0B, lanes := maskOf (t.execLanes c), lane := (t.execLanes c).headD 0 } := by
  simp only [stallTrap, List.isEmpty_iff, h, if_false]

/-- Settles O29: each check in its place in `laneIssue`, those before it having passed. -/
theorem laneChecksComeFirst : Obligations.LaneChecksComeFirst := by
  intro c i s a hc granted more u
  obtain ⟨body, hexec⟩ := exec_issues hc s
  have traps : ∀ tr : Trap, CanTrapLane s → exec i s = laneTrap s a tr → tr.cause ≠ 0x10 → tr.scalar = false → tr.cmd = none →
      LaneTraps i s a tr.cause tr.detail tr.addr tr.lanes tr.lane := fun tr can e h10 hs hcmd =>
    let ⟨t, ht, entered⟩ := laneTrap_enters s a can granted tr h10 hs hcmd
    ⟨t, e.trans ht, entered⟩
  refine ⟨fun can out => ?_, fun inside => ⟨fun can raised => ?_, fun tokens => ⟨fun held => ?_, fun free can on early ex => ?_⟩⟩⟩
  · exact traps _ can (hexec.trans (laneIssue_outside body granted more out)) (by simp [illegalLane]) rfl rfl
  · exact traps _ can (hexec.trans (laneIssue_raised body granted more inside raised)) (by simp [illegalLane]) rfl rfl
  · have hh : s.issueHeld s.cur i c = true := by
      rw [State.issueHeld, Bool.or_eq_true]; exact held
    exact ⟨_, hexec.trans (laneIssue_held body granted more inside tokens hh), OnlyTeam.setTeam s _, State.team_setTeam _ _⟩
  · have hstall : ((s.team.landDue a).stallchk && passes (s.team.landDue a).mask != 0 && tooEarly a i) = true := by
      have hs : (s.team.landDue a).stallchk = true := by rw [Team.landDue_eq]; exact on
      simp only [hs, early, Bool.true_and, Bool.and_true, bne_iff_ne]
      exact passes_of_execLanes ex
    have e := hexec.trans (laneIssue_early body granted more inside tokens free hstall)
    rw [stallTrap_of_execLanes ex] at e
    exact traps _ can e (by simp) rfl rfl

end Sys2Proof.Machine
end

section
/-! SUPPORT. Fetch and decode: what a fetch leaves alone, and what the next move of a stream comes to (R33, R35, R107 to R110, R139, R205,
R264 to R267). -/

namespace Sys2Proof.Machine

/-! ### A fetch serves code and touches no team and no block -/

theorem State.served_fillGranule {s t : State} {w : Who} {lane : Bool} {ctx va : Nat} {g : Granule}
    (h : s.fillGranule w lane ctx va = .ok (g, t)) : Served s t := by
  have ht := State.served_translate s w (BitVec.ofNat 64 va) .code
  simp only [State.fillGranule] at h
  split at h
  · next e =>
    rw [e] at ht
    split at h
    · cases h; exact ht
    · cases h
  · cases h

theorem State.served_granule {s t : State} {w : Who} {lane : Bool} {ctx base va : Nat} {bs : List Byte}
    (h : s.granule w lane ctx base va = .ok (bs, t)) : Served s t := by
  have fresh : ∀ u : State, Served u { u with fresh := base + 1 } := fun _ => ⟨rfl, SameButShape.refl _, id⟩
  simp only [State.granule] at h
  split at h
  · split at h
    · next e => cases h; exact (State.served_fillGranule e).trans (State.served_setCoreAt _ _ _)
    · cases h
  · split at h
    · next e =>
      have hf := State.served_fillGranule e
      split at h
      · cases h; exact hf.trans (State.served_setCoreAt _ _ _)
      · split at h
        · cases h; exact fresh s
        · cases h; exact (hf.trans (fresh _)).trans (State.served_setCoreAt _ _ _)
    · split at h
      · cases h
      · split at h
        · cases h; exact fresh s
        · cases h

theorem State.served_fetchBytes (w : Who) (lane : Bool) (ctx base : Nat) (fuel : Nat) :
    ∀ (s : State) (va n off : Nat) (acc : List Byte), Served s (s.fetchBytes w lane ctx base fuel va n off acc).2 := by
  induction fuel with
  | zero => intro s va n off acc; exact Served.refl s
  | succ fuel ih =>
    intro s va n off acc
    simp only [State.fetchBytes]
    split
    · exact Served.refl s
    · split
      · exact Served.refl s
      · next e => exact (State.served_granule e).trans (ih _ _ _ _ _)

theorem State.fetched_served {s t : State} {w : Who} {lane : Bool} {ctx base fuel va n off : Nat} {acc : List Byte} {r : Fetch}
    (h : s.fetchBytes w lane ctx base fuel va n off acc = (r, t)) : Served s t := by
  have hs := State.served_fetchBytes w lane ctx base fuel s va n off acc
  rwa [h] at hs

theorem Served.cur {s t : State} (h : Served s t) : t.cur = s.cur := h.acted.cur
theorem Served.team {s t : State} (h : Served s t) : t.team = s.team := h.acted.team

/-! ### The interlock of R35 -/

/-- Whether a call is taken, of an instruction that may be none. -/
theorem callHolds_iff (t : Team) (i : Instr) :
    (match i with
      | .call q neg _ => condHolds t q neg
      | _ => true) = true ↔ ∀ q neg off, i = .call q neg off → condHolds t q neg = true := by
  split
  · next q neg off =>
    refine ⟨fun h q' neg' off' e => ?_, fun h => h q neg off rfl⟩
    cases e
    exact h
  · next hn => exact ⟨fun _ q neg off e => (hn q neg off e).elim, fun _ => rfl⟩

/-- The run reads the register, or its code cannot be read to its end and so may. -/
theorem runReads_iff (is : List Instr) (d : SReg) :
    (is.any (fun j => (laneSregs j).contains d) || !wholeRun 24 is) = true ↔
      (∃ j ∈ is, d ∈ laneSregs j) ∨ wholeRun 24 is = false := by
  simp only [Bool.or_eq_true, List.any_eq_true, List.contains_iff_mem, Bool.not_eq_true']

/-- A write of a scalar register waits for a run that reads it. -/
theorem State.interlocked_iff (s : State) (i : Instr) : s.interlocked i = true ↔
    (∀ q neg off, i = .call q neg off → condHolds s.team q neg = true) ∧
      ∃ d, scalarDest i = some d ∧ d ≠ 0 ∧ ∃ r ∈ s.team.runs,
        (∃ j ∈ s.runInstrs s.cur 24 r.start, d ∈ laneSregs j) ∨ wholeRun 24 (s.runInstrs s.cur 24 r.start) = false := by
  unfold State.interlocked
  cases hd : scalarDest i with
  | none => simp
  | some d =>
    simp only [Bool.and_eq_true, bne_iff_ne, List.any_eq_true, runReads_iff, Option.some.injEq, exists_eq_left']
    exact ⟨fun ⟨⟨h0, hc⟩, hr⟩ => ⟨(callHolds_iff s.team i).mp hc, h0, hr⟩, fun ⟨hc, h0, hr⟩ => ⟨⟨h0, (callHolds_iff s.team i).mpr hc⟩, hr⟩⟩

/-! ### What a move comes to -/

/-- The outcome of a move: its own, or that of its instruction. -/
def Fetched.outcome : Fetched → Out
  | .out o => o
  | .run i s => exec i s

theorem step_eq (s : State) : step s = (nextMove s).outcome := by
  unfold step
  cases nextMove s <;> rfl

theorem step_scalarTurn {s u : State} {k : Nat} (h : StreamTurn s u .scalar k) : step s = (streamMove fetchScalar k u).outcome := by
  obtain ⟨rest, ha, rfl⟩ := h
  simp only [step_eq, nextMove, ha]
  rfl

theorem step_laneTurn {s u : State} {k : Nat} {order later : List Nat} (h : LaneTurn s u k order later) :
    step s = (streamMove fetchLane k u).outcome := by
  obtain ⟨rest, ha, rfl⟩ := h
  simp only [step_eq, nextMove, ha]
  rfl

theorem step_eventTurn {s : State} {i : Instr} {rest : List Turn} (h : s.agenda = .event i :: rest) :
    step s = exec i { s with agenda := rest } := by
  simp only [step_eq, nextMove, h]
  rfl

theorem step_noTurn {s : State} (h : s.agenda = []) (ht : Table.find? s.teams s.cur ≠ none) :
    step s = (streamMove fetchScalar s.cur s).outcome := by
  have hh : s.teams.has s.cur = true := Option.isSome_iff_ne_none.mpr ht
  simp only [step_eq, nextMove, h, hh, if_true]

theorem step_noTeam {s : State} (h : s.agenda = []) (ht : Table.find? s.teams s.cur = none) : step s = exec .timebaseCycle s := by
  have hh : s.teams.has s.cur = false := (Table.has_eq_false_iff _ _).mpr ht
  simp only [step_eq, nextMove, h, hh, Bool.false_eq_true, if_false]
  rfl

section
variable {u : State} (fetch : State → Fetched)

theorem streamMove_cur : streamMove fetch u.cur u =
    if u.stopped = true then .out (.next u)
    else
      match u.dueChannel with
      | some c => .run (.channelIssue c.1 c.2) u
      | none => fetch u := rfl

theorem streamMove_stopped (h : u.stopped = true) : streamMove fetch u.cur u = .out (.next u) := by
  rw [streamMove_cur, if_pos h]

theorem streamMove_due {c : Nat × Nat} (h : u.stopped = false) (hd : u.dueChannel = some c) :
    streamMove fetch u.cur u = .run (.channelIssue c.1 c.2) u := by
  rw [streamMove_cur, if_neg (by simp [h]), hd]

theorem streamMove_fetch (h : u.stopped = false) (hd : u.dueChannel = none) : streamMove fetch u.cur u = fetch u := by
  rw [streamMove_cur, if_neg (by simp [h]), hd]
end

/-! ### The scalar stream (R35, R107, R264) -/

section
variable {u u1 : State} {bs : List Byte}

/-- Nothing comes before the instruction at SPC. -/
theorem fetchScalar_moves (h : ScalarMoves u) : fetchScalar u = fetchAtSpc u := by
  have squash : (u.block.squashDue && u.team.active.isNone) = false := by
    rcases h.squash with hs | hs
    · simp [hs]
    · simp [Option.isNone_eq_false_iff, Option.isSome_iff_ne_none.mpr hs]
  have ending : (u.block.ending.isSome && u.team.atBoundary) = false := by
    rcases h.ending with he | he <;> simp [he]
  simp only [fetchScalar, h.cancel, squash, h.save, ending, Bool.or_false, Bool.false_eq_true, if_false]

theorem fetchAtSpc_misaligned (h : u.team.spc.toNat % 4 ≠ 0) : fetchAtSpc u = .out (scalarTrap u 0x05 0x00 u.team.spc) := by
  simp only [fetchAtSpc, h, ne_eq, not_false_eq_true, if_true]

section
variable (aligned : u.team.spc.toNat % 4 = 0)
  (reached : u.fetchBytes u.who false (teamCtx u.cur) u.fresh 4 u.team.spc.toNat 4 0 [] = (.bytes bs, u1))
include aligned reached

theorem fetchAtSpc_illegal {d : IllegalWord} (h : decodeScalar (BitVec.ofNat 32 (leNat bs)) = .error d) :
    fetchAtSpc u = .out (scalarTrap u1 0x01 d.detail 0) := by
  simp only [fetchAtSpc, aligned, reached, h, ne_eq, not_true_eq_false, if_false]

theorem fetchAtSpc_decoded {i : Instr} (h : decodeScalar (BitVec.ofNat 32 (leNat bs)) = .ok i) :
    fetchAtSpc u = if u1.interlocked i = true then .out (.next u1) else .run i u1 := by
  simp only [fetchAtSpc, aligned, reached, h, ne_eq, not_true_eq_false, if_false]
end
end

/-! ### The lane stream (R33, R108, R110, R205, R265) -/

section
variable {u u1 u2 : State} {a : Active} {hs bs : List Byte}

theorem fetchLane_over (granted : u.team.active = some a) (h : a.finished = true ∨ u.strongPending u.cur = true) :
    fetchLane u = .out (.next u) := by
  have h' : (a.finished || u.strongPending u.cur) = true := by rwa [Bool.or_eq_true]
  simp only [fetchLane, granted, h', if_true]

section
variable (granted : u.team.active = some a) (more : a.finished = false) (performed : u.strongPending u.cur = false)
include granted more performed

theorem fetchLane_tooLong (h : 24 ≤ a.count) : fetchLane u = .out (codeTrap u a 0x02 0x03 0 false) := by
  simp only [fetchLane, granted, more, performed, h, Bool.or_self, Bool.false_eq_true, if_false, if_true]

section
variable (short : a.count < 24)
  (header : u.fetchBytes u.who true (teamCtx u.cur) u.fresh 2 a.lpc.toNat 2 0 [] = (.bytes hs, u1))
include short header

theorem fetchLane_badHeader (h : headerOk (leNat hs) = false) : fetchLane u = .out (codeTrap u1 a 0x02 0x01 0 false) := by
  simp only [fetchLane, granted, more, performed, Nat.not_le.mpr short, header, h, Bool.or_self, Bool.not_false, Bool.false_eq_true,
    if_false, if_true]

section
variable (good : headerOk (leNat hs) = true)
  (body : u1.fetchBytes u1.who true (teamCtx u.cur) u.fresh 16 ((a.lpc.toNat + 2) % 2 ^ 64) (leNat hs / 4096) 2 [] = (.bytes bs, u2))
include good body

theorem fetchLane_badBody {e} (h : unpackBytes (leNat hs) bs = .error e) : fetchLane u = .out (codeTrap u2 a 0x02 0x02 0 false) := by
  simp only [fetchLane, granted, more, performed, Nat.not_le.mpr short, header, good, body, h, Bool.or_self, Bool.not_true,
    Bool.false_eq_true, if_false]

theorem fetchLane_illegal {w : BitVec 96} {d : IllegalWord} (h : unpackBytes (leNat hs) bs = .ok w) (hd : decodeLane w = .error d) :
    fetchLane u = .out (laneTrap u2 a (illegalLane u.team (laneWordDetail u2 w d))) := by
  simp only [fetchLane, granted, more, performed, Nat.not_le.mpr short, header, good, body, h, hd, Bool.or_self, Bool.not_true,
    Bool.false_eq_true, if_false]

theorem fetchLane_decoded {w : BitVec 96} {i : Instr} (h : unpackBytes (leNat hs) bs = .ok w) (hd : decodeLane w = .ok i) :
    fetchLane u = .run i u2 := by
  simp only [fetchLane, granted, more, performed, Nat.not_le.mpr short, header, good, body, h, hd, Bool.or_self, Bool.not_true,
    Bool.false_eq_true, if_false]
end
end
end
end

/-! ### O56 -/

/-- A trap of the lane code stream enters the handler with the mask in force. -/
theorem codeTrap_enters {z : State} {a : Active} (granted : z.team.active = some a) (can : CanTrapLane z) (detail : Nat) :
    ∃ t, codeTrap z a 0x02 detail 0 false = .next t ∧ EnteredLane z t a 0x02 detail 0 z.team.mask (z.team.activeLanes.headD 0) :=
  laneTrap_enters z a can granted (codeFault z.team a 0x02 detail 0 false) (by simp [codeFault]) rfl rfl

/-- The clauses of O56 about a step in which the scalar stream of the current team of `u` moves. -/
theorem scalarTurn_runs {s u u1 : State} {i : Instr} {bs : List Byte} (hstep : step s = (streamMove fetchScalar u.cur u).outcome) :
    (u.stopped = true → step s = .next u) ∧
    (∀ c, u.stopped = false → u.dueChannel = some c → step s = exec (.channelIssue c.1 c.2) u) ∧
    (ScalarMoves u → u.team.spc.toNat % 4 ≠ 0 → CanTrap u → ∃ t, step s = .next t ∧ EnteredScalar u t 0x05 0x00 u.team.spc u.team.spc) ∧
    (ScalarMoves u → u.team.spc.toNat % 4 = 0 →
      u.fetchBytes u.who false (teamCtx u.cur) u.fresh 4 u.team.spc.toNat 4 0 [] = (.bytes bs, u1) →
      (decodeScalar (BitVec.ofNat 32 (leNat bs)) = .ok i →
        (u1.interlocked i = false → step s = exec i u1) ∧ (u1.interlocked i = true → step s = .next u1) ∧
          u1.teams = u.teams ∧ u1.blocks = u.blocks ∧ u1.clock = u.clock) ∧
      ∀ d, decodeScalar (BitVec.ofNat 32 (leNat bs)) = .error d → CanTrap u1 →
        ∃ t, step s = .next t ∧ EnteredScalar u1 t 0x01 d.detail 0 u.team.spc) := by
  have fetched : ∀ f, ScalarMoves u → fetchAtSpc u = f → step s = f.outcome := fun f hm hf => by
    rw [hstep, streamMove_fetch _ hm.moves hm.copies, fetchScalar_moves hm, hf]
  refine ⟨fun h => ?_, fun c h hd => ?_, fun hm ha can => ?_, fun hm ha reached => ⟨fun hd => ⟨fun free => ?_, fun waits => ?_, ?_⟩, fun d hd can => ?_⟩⟩
  · rw [hstep, streamMove_stopped _ h]; rfl
  · rw [hstep, streamMove_due _ h hd]; rfl
  · obtain ⟨t, ht, entered⟩ := scalarTrap_enters u can 0x05 0x00 (by decide) (by decide) u.team.spc
    exact ⟨t, (fetched _ hm (fetchAtSpc_misaligned ha)).trans ht, entered⟩
  · exact fetched _ hm ((fetchAtSpc_decoded ha reached hd).trans (if_neg (by simp [free])))
  · exact fetched _ hm ((fetchAtSpc_decoded ha reached hd).trans (if_pos waits))
  · have served := (State.fetched_served reached).acted
    exact ⟨served.teams, served.blocks, served.clock⟩
  · obtain ⟨t, ht, entered⟩ := scalarTrap_enters u1 can 0x01 d.detail (by decide) (by decide) 0
    rw [(State.fetched_served reached).team] at entered
    exact ⟨t, (fetched _ hm (fetchAtSpc_illegal ha reached hd)).trans ht, entered⟩

/-- Settles O56: each turn is one move, and each end of a fetch of the scalar or of the lane stream one outcome of it. -/
theorem stepRunsTheDecodedInstruction : Obligations.StepRunsTheDecodedInstruction := by
  intro s u u1 u2 k i bs hs w a traps waits
  refine ⟨fun turn => ?_, fun order later turn moves due granted done => ?_, fun order later turn moves due granted more performed => ?_,
    fun rest h => step_eventTurn h, fun h ht => step_noTeam h ht⟩
  · obtain ⟨hk, hstep⟩ : k = u.cur ∧ step s = (streamMove fetchScalar u.cur u).outcome := by
      rcases turn with turn | ⟨h, ht, rfl, rfl⟩
      · have hk : k = u.cur := by obtain ⟨rest, -, rfl⟩ := turn; rfl
        exact ⟨hk, hk ▸ step_scalarTurn turn⟩
      · exact ⟨rfl, step_noTurn h ht⟩
    subst hk
    obtain ⟨stopped, copies, misaligned, runs⟩ := scalarTurn_runs (u1 := u1) (i := i) (bs := bs) hstep
    refine ⟨stopped, copies, misaligned, fun hm ha reached => ?_⟩
    obtain ⟨decoded, illegal⟩ := runs hm ha reached
    refine ⟨fun hd => ?_, illegal⟩
    obtain ⟨goes, stays, frame⟩ := decoded hd
    have interlock : u1.interlocked i = true ↔ waits i u1 := u1.interlocked_iff i
    exact ⟨fun h => goes (Bool.eq_false_iff.mpr fun hi => h (interlock.mp hi)), fun h => stays (interlock.mpr h), frame⟩
  · have hk : k = u.cur := by obtain ⟨rest, -, rfl⟩ := turn; rfl
    subst hk
    rw [step_laneTurn turn, streamMove_fetch _ moves due, fetchLane_over granted done]
    rfl
  · have hk : k = u.cur := by obtain ⟨rest, -, rfl⟩ := turn; rfl
    subst hk
    have fetched : ∀ f, fetchLane u = f → step s = f.outcome := fun f hf => by
      rw [step_laneTurn turn, streamMove_fetch _ moves due, hf]
    have ends : ∀ (z : State) (o : Out) (cause detail : Nat), fetchLane u = .out o →
        (∃ t, o = .next t ∧ EnteredLane z t a cause detail 0 z.team.mask (z.team.activeLanes.headD 0)) → traps z cause detail :=
      fun z o cause detail hf ⟨t, ho, entered⟩ => ⟨t, (fetched _ hf).trans ho, entered⟩
    refine ⟨fun long can => ends _ _ _ _ (fetchLane_tooLong granted more performed long) (codeTrap_enters granted can 0x03),
      fun short header => ⟨fun bad can => ?_, fun good body => ⟨fun e bad can => ?_, fun packed => ⟨fun d bad can => ?_, fun decoded => ?_⟩⟩⟩⟩
    · have granted1 : u1.team.active = some a := by rw [(State.fetched_served header).team, granted]
      exact ends _ _ _ _ (fetchLane_badHeader granted more performed short header bad) (codeTrap_enters granted1 can 0x01)
    all_goals
      have served := (State.fetched_served header).trans (State.fetched_served body)
      have granted2 : u2.team.active = some a := by rw [served.team, granted]
    · exact ends _ _ _ _ (fetchLane_badBody granted more performed short header good body bad) (codeTrap_enters granted2 can 0x02)
    · refine ends _ _ _ _ (fetchLane_illegal granted more performed short header good body packed bad) ?_
      rw [← served.team]
      exact laneTrap_enters u2 a can granted2 _ (by simp [illegalLane]) rfl rfl
    · exact ⟨fetched _ (fetchLane_decoded granted more performed short header good body packed decoded),
        served.acted.teams, served.acted.blocks, served.acted.clock⟩

end Sys2Proof.Machine
end

section
/-! SUPPORT. Arbitration and the end of a run: which run a datapath grants, and what granting and retiring one leaves (R34, R37). -/

namespace Sys2Proof.Machine

/-! ### The order of arbitration (R37) -/

theorem listLt_of_before {xs ys : List Nat} (hl : xs.length = ys.length) (h : Before xs ys) : listLt xs ys = true := by
  induction xs generalizing ys with
  | nil => obtain ⟨n, hn, -⟩ := h; exact absurd hn (Nat.not_lt_zero n)
  | cons x xs ih =>
    obtain ⟨n, hn, heq, hlt⟩ := h
    cases ys with
    | nil => cases hl
    | cons y ys =>
      cases n with
      | zero =>
        have hxy : x < y := hlt
        simp [listLt, hxy]
      | succ n =>
        have hxy : x = y := heq 0 (Nat.succ_pos n)
        have hb : Before xs ys := ⟨n, Nat.lt_of_succ_lt_succ hn, fun i hi => heq (i + 1) (Nat.succ_lt_succ hi), hlt⟩
        simp [listLt, hxy, ih (Nat.succ.inj hl) hb]

theorem listLt_asymm {xs ys : List Nat} (h : listLt xs ys = true) : listLt ys xs = false := by
  induction xs generalizing ys with
  | nil => simp [listLt] at h
  | cons x xs ih =>
    cases ys with
    | nil => rfl
    | cons y ys =>
      simp only [listLt, Bool.or_eq_true, decide_eq_true_eq, Bool.and_eq_true, beq_iff_eq] at h
      rcases h with h | ⟨rfl, h⟩
      · simp [listLt, Nat.le_of_lt h, Nat.ne_of_gt h]
      · simp [listLt, ih h]

/-- The model's order is the one that the rules give. -/
theorem grantsFirst_of_before {s : State} {k j : Nat} (h : GrantsBefore s k j) : grantsFirst s k j = true := by
  have key : Before (grantKey s k) (grantKey s j) → listLt (grantOrder s k) (grantOrder s j) = true := listLt_of_before rfl
  have since : Before (readySince s k :: grantKey s k) (readySince s j :: grantKey s j) →
      listLt (readyClock s k :: grantOrder s k) (readyClock s j :: grantOrder s j) = true := listLt_of_before rfl
  have young : ∀ {i}, headWaited s i < 4096 → aged s i = false := fun h => decide_eq_false (Nat.not_le.mpr h)
  unfold GrantsBefore at h
  dsimp only at h
  split at h
  · next hk =>
    have hk : aged s k = true := decide_eq_true hk
    rw [grantsFirst, if_pos hk]
    rcases h with h | h | ⟨h, hb⟩
    · simp [young h]
    · have hw : headWaited s j < headWaited s k := h
      simp [hw]
    · have hw : headWaited s j = headWaited s k := h
      simp [hw, since hb]
  · next hk =>
    have hk : ¬aged s k = true := by simp [young (Nat.not_le.mp hk)]
    rw [grantsFirst, if_neg hk]
    simp [young h.1, key h.2]

theorem grantsFirst_asymm {s : State} {k j : Nat} (h : grantsFirst s k j = true) : grantsFirst s j k = false := by
  unfold grantsFirst at h ⊢
  cases hk : aged s k <;> cases hj : aged s j <;>
    simp only [hk, hj, if_true, if_false, Bool.false_eq_true, Bool.not_false, Bool.not_true, Bool.true_and, Bool.false_and, Bool.true_or,
      Bool.false_or, Bool.or_eq_true, decide_eq_true_eq, Bool.and_eq_true, beq_iff_eq] at h ⊢
  · exact listLt_asymm h
  · rcases h with h | ⟨hw, h⟩
    · simp [Nat.le_of_lt h, Nat.ne_of_gt h]
    · simp [hw, listLt_asymm h]

theorem arbitrate_mem {s : State} {xs : List Nat} {k : Nat} (h : arbitrate s xs = some k) : k ∈ xs := by
  induction xs generalizing k with
  | nil => cases h
  | cons x rest ih =>
    simp only [arbitrate] at h
    split at h
    · cases h; exact .head _
    · next j hj =>
      split at h
      · cases h; exact .tail _ (ih hj)
      · cases h; exact .head _

/-- The team that comes before every other of a list wins arbitration. -/
theorem arbitrate_first {s : State} {xs : List Nat} {k : Nat} (hk : k ∈ xs) (h : ∀ j ∈ xs, j ≠ k → grantsFirst s k j = true) :
    arbitrate s xs = some k := by
  induction xs with
  | nil => cases hk
  | cons x rest ih =>
    by_cases hr : k ∈ rest
    · have e := ih hr (fun j hj => h j (.tail _ hj))
      simp only [arbitrate, e]
      by_cases hx : x = k
      · simp [hx]
      · rw [if_pos (h x (.head _) hx)]
    · obtain rfl : k = x := (List.mem_cons.mp hk).resolve_right hr
      simp only [arbitrate]
      split
      · rfl
      · next j hj =>
        have hjr := arbitrate_mem hj
        have hne : j ≠ k := fun e => hr (e ▸ hjr)
        rw [if_neg (by simp [grantsFirst_asymm (h j (.tail _ hjr) hne)])]

/-! ### A grant -/

/-- The teams of a core whose run is ready are listed once each. -/
theorem TeamsRising.readyTeams_nodup {s : State} (h : TeamsRising s) (core : Nat) : (readyTeams s core).Nodup :=
  (h.imp Nat.ne_of_lt).filter _

/-- Changing several teams, each once. -/
theorem State.foldl_setTeamAt (g : Word64 → Team → Team) {xs : List Nat} (hn : xs.Nodup) (s : State) :
    let t := xs.foldl (fun s j => s.setTeamAt j (g s.clock (s.teamAt j))) s
    t = { s with teams := t.teams } ∧ ∀ j, t.teamAt j = if j ∈ xs then g s.clock (s.teamAt j) else s.teamAt j := by
  induction xs generalizing s with
  | nil => exact ⟨rfl, fun j => rfl⟩
  | cons x rest ih =>
    obtain ⟨hx, hr⟩ := List.nodup_cons.mp hn
    obtain ⟨hrest, hteams⟩ := ih hr (s.setTeamAt x (g s.clock (s.teamAt x)))
    refine ⟨hrest.trans rfl, fun j => (hteams j).trans ?_⟩
    by_cases hj : j = x
    · subst hj; simp [hx]
    · simp [hj, State.teamAt_setTeamAt_other]

/-- A team whose run waits for a grant that another has been given. -/
def Team.passedOver (now : Word64) (t : Team) : Team :=
  { t with runs := listUpd t.runs 0 (fun x => { x.markReady now with waited := x.waited + 1 }) }

/-- The state after a grant to a ready run of team `k`, but for the counters. -/
def State.granted (s : State) (core dp k : Nat) (a : Active) : State :=
  let t := ((readyTeams s core).filter (fun j => j != k)).foldl (fun s j => s.setTeamAt j ((s.teamAt j).passedOver s.clock)) s
  let t := t.setTeamAt k { s.teamAt k with active := some a, parked := none }
  t.setCoreAt core { t.coreAt core with dps := (t.coreAt core).dps.set dp k }

/-- The run of a team as a datapath is granted to it (R37, R81). -/
def State.grantedRun (s : State) (dp k : Nat) : Active :=
  let r := (s.teamAt k).runs.headD {}
  { run := { r with waited := 0, readyAt := none }, dp := dp, lpc := r.addr, count := r.done, ftv := (s.ctxAt (teamCtx k)).ftv.toNat }

theorem exec_runGrant {s : State} {core dp k : Nat} (hdp : dp < 8) (free : Table.find? (s.coreAt core).dps dp = none)
    (h : arbitrate s (readyTeams s core) = some k) :
    ∃ t, exec (.runGrant core dp) s = .next t ∧ t = { s.granted core dp k (s.grantedRun dp k) with perf := t.perf } := by
  have hfree : (s.coreAt core).dps.has dp = false := (Table.has_eq_false_iff _ _).mpr free
  have hn : ¬(datapaths ≤ dp ∨ (s.coreAt core).dps.has dp = true) := by simp [datapaths, hfree, hdp]
  have e : exec (.runGrant core dp) s = .next
      (if aged s k = true then (State.count (s.granted core dp k (s.grantedRun dp k)) core (teamVf k) 1 1).count core (teamVf k) 2 1
       else State.count (s.granted core dp k (s.grantedRun dp k)) core (teamVf k) 1 1) := by
    show execRunGrant core dp s = _
    simp only [execRunGrant, if_neg hn, h]
    rfl
  refine ⟨_, e, ?_⟩
  split <;> rfl

/-- A grant goes to the ready run that comes first, and every other ready run counts it. -/
theorem runGrant_grants {s : State} {k core dp : Nat} (hdp : dp < 8) (free : Table.find? (s.coreAt core).dps dp = none)
    (rising : TeamsRising s) (ready : k ∈ readyTeams s core) (first : ∀ j ∈ readyTeams s core, j ≠ k → GrantsBefore s k j) :
    ∃ t, exec (.runGrant core dp) s = .next t ∧ t = { s with teams := t.teams, cores := t.cores, perf := t.perf } ∧
      t.teamAt k = { s.teamAt k with parked := none, active := some (s.grantedRun dp k) } ∧
      (∀ j, j ≠ k → t.teamAt j = if j ∈ readyTeams s core then (s.teamAt j).passedOver s.clock else s.teamAt j) ∧
      (∀ c, c ≠ core → t.coreAt c = s.coreAt c) ∧ t.coreAt core = { s.coreAt core with dps := (t.coreAt core).dps } ∧
      ∀ d, Table.find? (t.coreAt core).dps d = if d = dp then some k else Table.find? (s.coreAt core).dps d := by
  obtain ⟨t, ht, hperf⟩ := exec_runGrant hdp free
    (arbitrate_first ready (fun j hj hne => grantsFirst_of_before (first j hj hne)))
  obtain ⟨hrest, hteams⟩ := State.foldl_setTeamAt Team.passedOver ((rising.readyTeams_nodup core).filter (fun j => j != k)) s
  generalize hg : s.granted core dp k (s.grantedRun dp k) = g at hperf
  generalize hf : ((readyTeams s core).filter (fun j => j != k)).foldl (fun s j => s.setTeamAt j ((s.teamAt j).passedOver s.clock)) s = f
    at hrest hteams
  have hge : g = (f.setTeamAt k { s.teamAt k with active := some (s.grantedRun dp k), parked := none }).setCoreAt core
      { s.coreAt core with dps := (s.coreAt core).dps.set dp k } := by
    have hc : f.coreAt core = s.coreAt core := by rw [hrest]; rfl
    rw [← hg, ← hc, ← hf]; rfl
  have hcores : ∀ c, t.coreAt c = if c = core then { s.coreAt core with dps := (s.coreAt core).dps.set dp k } else s.coreAt c := by
    intro c
    have : t.coreAt c = g.coreAt c := by rw [hperf]; rfl
    rw [this, hge]
    by_cases hc : c = core
    · simp [hc]
    · rw [State.coreAt_setCoreAt_other _ _ hc, if_neg hc, hrest]; rfl
  have hteam : ∀ j, t.teamAt j = if j = k then { s.teamAt k with active := some (s.grantedRun dp k), parked := none } else f.teamAt j := by
    intro j
    have : t.teamAt j = (f.setTeamAt k { s.teamAt k with active := some (s.grantedRun dp k), parked := none }).teamAt j := by
      rw [hperf, hge]; rfl
    rw [this]
    by_cases hj : j = k
    · simp [hj]
    · rw [State.teamAt_setTeamAt_other _ _ hj, if_neg hj]
  refine ⟨t, ht, by rw [hperf, hge, hrest]; rfl, by rw [hteam, if_pos rfl], fun j hj => ?_, fun c hc => by rw [hcores, if_neg hc],
    by rw [hcores, if_pos rfl], fun d => ?_⟩
  · rw [hteam, if_neg hj, hteams]
    simp [hj]
  · rw [hcores, if_pos rfl]
    by_cases hd : d = dp
    · rw [if_pos hd, hd]; exact Table.find?_set_same _ _ _
    · rw [if_neg hd]; exact Table.find?_set_other _ _ hd

/-! ### The orders of the arrays (R373) -/

/-- `t` is `s` but for the orders in which teams wait for the matrix arrays. -/
structure OnlyArrayOrders (s t : State) : Prop where
  rest : t = { s with cores := t.cores }
  cores : ∀ c, t.coreAt c = { s.coreAt c with arrayQ := (t.coreAt c).arrayQ }

theorem OnlyArrayOrders.refl (s : State) : OnlyArrayOrders s s := ⟨rfl, fun _ => rfl⟩
theorem OnlyArrayOrders.trans {s t u : State} (h : OnlyArrayOrders s t) (k : OnlyArrayOrders t u) : OnlyArrayOrders s u :=
  ⟨by rw [k.rest, h.rest], fun c => by rw [k.cores, h.cores]⟩
theorem OnlyArrayOrders.foldl {β : Type} {f : State → β → State} (h : ∀ s x, OnlyArrayOrders s (f s x)) (xs : List β) (s : State) :
    OnlyArrayOrders s (xs.foldl f s) := by
  induction xs generalizing s with
  | nil => exact .refl s
  | cons x r ih => exact (h s x).trans (ih _)

theorem State.reserveArrays_onlyArrayOrders (s : State) (k : Nat) (cs : List Nat) : OnlyArrayOrders s (s.reserveArrays k cs) :=
  .foldl (fun s c => ⟨rfl, fun d => by
    by_cases hd : d = c
    · subst hd; simp
    · rw [State.coreAt_setCoreAt_other _ _ hd]⟩) cs s

theorem State.promotePairs_onlyArrayOrders (s : State) : OnlyArrayOrders s s.promotePairs := by
  refine .foldl (fun s e => ?_) _ _
  split
  · exact .refl s
  · split
    · split
      · exact s.reserveArrays_onlyArrayOrders _ _
      · exact .refl s
    · exact .refl s

/-- What a core holds after every core has been changed in the same way. -/
theorem State.coreAt_mapVals (s : State) (f : Core → Core) (hf : f default = default) (c : Nat) :
    ({ s with cores := s.cores.mapVals (fun _ x => f x) } : State).coreAt c = f (s.coreAt c) := by
  simp only [State.coreAt, Table.get, Table.find?_mapVals]
  cases Table.find? s.cores c
  · exact hf.symm
  · rfl

theorem State.leaveArrays_onlyArrayOrders (s : State) (k : Nat) : OnlyArrayOrders s (s.leaveArrays k) := by
  refine OnlyArrayOrders.trans ⟨rfl, fun c => ?_⟩ (State.promotePairs_onlyArrayOrders _)
  rw [State.coreAt_mapVals s (fun c => { c with arrayQ := c.arrayQ.filter (fun j => j != k) }) rfl]

/-! ### The end of a run (R34) -/

theorem State.freeDatapath_coreAt (s : State) (k c : Nat) : (s.freeDatapath k).coreAt c =
    if c = (s.teamAt k).core then { s.coreAt c with dps := (s.coreAt c).dps.filter (fun e => e.2 != k) } else s.coreAt c := by
  by_cases hc : c = (s.teamAt k).core
  · subst hc; simp [State.freeDatapath]
  · rw [if_neg hc]; exact State.coreAt_setCoreAt_other _ _ hc

theorem Team.landAll_retired {t : Team} {a : Active} (h : t.active = some a) (now : Word64) :
    ({ t.landAll with active := none, runs := t.landAll.runs.tail, progress := now } : Team) =
      { t with lanes := (t.land a.pend).lanes, active := none, runs := t.runs.tail, progress := now } := by
  have lanes := Team.landAll_lanes h
  have rest := Team.landAll_eq t
  generalize t.landAll = u at lanes rest ⊢
  rw [← lanes, rest]

/-- A run retires with its results written, and gives up its datapath. -/
theorem runRetire_retires {s : State} {k : Nat} {a : Active} (granted : (s.teamAt k).active = some a) (finished : a.finished = true)
    (live : (s.ctxAt (teamCtx k)).failed = false) :
    ∃ t, exec (.runRetire k) s = .next t ∧ t = { s with teams := t.teams, cores := t.cores } ∧ (∀ j, j ≠ k → t.teamAt j = s.teamAt j) ∧
      t.teamAt k = { s.teamAt k with
        lanes := ((s.teamAt k).land a.pend).lanes, active := none, runs := (s.teamAt k).runs.tail, progress := s.clock } ∧
      (∀ c, t.coreAt c = { s.coreAt c with dps := (t.coreAt c).dps, arrayQ := (t.coreAt c).arrayQ }) ∧
      ∀ e ∈ (t.coreAt (s.teamAt k).core).dps, e.2 ≠ k := by
  let u : Team := { (s.teamAt k).landAll with active := none, runs := (s.teamAt k).landAll.runs.tail, progress := s.clock }
  have e : exec (.runRetire k) s = .next (((s.freeDatapath k).setTeamAt k u).leaveArrays k) := by
    show execRunRetire k s = _
    simp only [execRunRetire, granted, finished, live, Bool.not_true, Bool.or_self, Bool.false_eq_true, if_false]
    rfl
  have orders := ((s.freeDatapath k).setTeamAt k u).leaveArrays_onlyArrayOrders k
  generalize ((s.freeDatapath k).setTeamAt k u).leaveArrays k = t at e orders
  have hteams : t.teams = ((s.freeDatapath k).setTeamAt k u).teams := by rw [orders.rest]
  have hcores : ∀ c, t.coreAt c = { (s.freeDatapath k).coreAt c with arrayQ := (t.coreAt c).arrayQ } := orders.cores
  refine ⟨t, e, by rw [orders.rest]; rfl, fun j hj => ?_, ?_, fun c => ?_, ?_⟩
  · rw [State.teamAt, hteams]; exact State.teamAt_setTeamAt_other _ _ hj
  · have : t.teamAt k = u := by rw [State.teamAt, hteams]; exact State.teamAt_setTeamAt_same _ _ _
    rw [this]; exact Team.landAll_retired granted s.clock
  · rw [hcores, State.freeDatapath_coreAt]; split <;> rfl
  · rw [hcores, State.freeDatapath_coreAt, if_pos rfl]
    intro e he
    simpa using (List.mem_filter.mp he).2

end Sys2Proof.Machine
end

section
/-! SUPPORT. The completion of an unfinished instruction (R41), and the reads of a fill that meet a refresh window (R98). -/

namespace Sys2Proof.Machine

/-! ### Bytes read in one walk -/

theorem Memory.read_below {lo : Nat} {m : Memory} (h : Memory.wfFrom lo m = true) {a : Nat} (ha : a < lo) : Memory.read m a = unlistedByte := by
  induction m generalizing lo with
  | nil => rfl
  | cons e rest ih =>
    obtain ⟨k, x⟩ := e
    simp only [Memory.wfFrom, Bool.and_eq_true, decide_eq_true_eq] at h
    obtain ⟨⟨hk, -⟩, hrest⟩ := h
    rw [Memory.read, if_neg (by omega)]
    exact ih hrest (by omega)

theorem Memory.sliceFrom_eq {n a : Nat} {m : Memory} (h : Memory.wfFrom a m = true) : Memory.sliceFrom n a m = m.readBytes a n := by
  induction n generalizing a m with
  | zero => rfl
  | succ n ih =>
    cases m with
    | nil => rw [Memory.sliceFrom, ih rfl]; rfl
    | cons e rest =>
      obtain ⟨k, x⟩ := e
      simp only [Memory.wfFrom, Bool.and_eq_true, decide_eq_true_eq] at h
      obtain ⟨⟨hk, hx⟩, hrest⟩ := h
      rw [Memory.sliceFrom, Memory.readBytes]
      split
      · next e =>
        subst e
        have above : Memory.readBytes rest (k + 1) n = Memory.readBytes ((k, x) :: rest) (k + 1) n :=
          Memory.readBytes_congr fun c h1 _ => by rw [Memory.read, if_neg (by omega)]
        rw [ih hrest, above, Memory.read, if_pos rfl]
      · next e =>
        have listed : Memory.wfFrom (a + 1) ((k, x) :: rest) = true := by
          simp only [Memory.wfFrom, Bool.and_eq_true, decide_eq_true_eq]; exact ⟨⟨by omega, hx⟩, hrest⟩
        rw [ih listed, Memory.read_below listed (Nat.lt_succ_self a)]

/-- The bytes below an address, left away from a canonical memory. -/
theorem Memory.wfFrom_dropWhile {lo : Nat} {m : Memory} (h : Memory.wfFrom lo m = true) (a : Nat) :
    Memory.wfFrom a (m.dropWhile (fun c => c.1 < a)) = true ∧
      ∀ c, a ≤ c → Memory.read (m.dropWhile (fun c => c.1 < a)) c = Memory.read m c := by
  induction m generalizing lo with
  | nil => exact ⟨rfl, fun _ _ => rfl⟩
  | cons e rest ih =>
    obtain ⟨k, x⟩ := e
    simp only [Memory.wfFrom, Bool.and_eq_true, decide_eq_true_eq] at h
    obtain ⟨⟨-, hx⟩, hrest⟩ := h
    by_cases hk : k < a
    · obtain ⟨wf, read⟩ := ih hrest
      rw [List.dropWhile_cons_of_pos (by simpa using hk)]
      exact ⟨wf, fun c hc => by rw [read c hc, Memory.read, if_neg (by omega)]⟩
    · rw [List.dropWhile_cons_of_neg (by simpa using hk)]
      refine ⟨?_, fun _ _ => rfl⟩
      simp only [Memory.wfFrom, Bool.and_eq_true, decide_eq_true_eq]
      exact ⟨⟨by omega, hx⟩, hrest⟩

theorem Memory.slice_eq {m : Memory} (h : m.wf = true) (a n : Nat) : m.slice a n = m.readBytes a n := by
  obtain ⟨wf, read⟩ := Memory.wfFrom_dropWhile h a
  rw [Memory.slice, Memory.sliceFrom_eq wf]
  exact Memory.readBytes_congr fun c h1 _ => read c h1

/-- A write of the bytes that stand from `a` up in another memory. -/
theorem Memory.read_writeBytes_slice (m : Memory) {w : Memory} (h : w.wf = true) (dst a len b : Nat) :
    Memory.read (m.writeBytes dst (w.slice a len)) b = if dst ≤ b ∧ b < dst + len then Memory.read w (a + (b - dst)) else Memory.read m b := by
  rw [Memory.slice_eq h, Memory.read_writeBytes, Memory.readBytes_length]
  split
  · next hb => rw [Memory.readBytes_getD, if_pos (by omega)]
  · rfl

/-! ### Tokens (R41) -/

theorem Team.lower_eq (t : Team) (j : Nat) : t.lower j = { t with t1 := (t.lower j).t1, t2 := (t.lower j).t2, t3 := (t.lower j).t3 } := by
  unfold Team.lower; split <;> rfl

theorem Team.token_lower (t : Team) (j i : Nat) : (t.lower j).token i = t.token i - (if i = j ∧ 1 ≤ i ∧ i ≤ 3 then 1 else 0) := by
  rcases i with _ | _ | _ | _ | i <;> rcases j with _ | _ | _ | _ | j <;> simp [Team.lower, Team.token]
  rw [if_neg (by omega)]; rfl

/-- The team as a completing instruction leaves it. -/
theorem Team.complete_eq (t : Team) (f : Inflight) : t.complete f = { t with
    lanes := (t.putLanes f.writes).lanes, t1 := (t.complete f).t1, t2 := (t.complete f).t2, t3 := (t.complete f).t3
    active := (t.complete f).active, inflight := t.inflight.filter (fun x => x.n != f.n) } := by
  unfold Team.complete
  rw [Team.lower_eq, Team.putLanes_eq]

theorem Team.token_complete (t : Team) (f : Inflight) (i : Nat) :
    (t.complete f).token i = t.token i - (if i = f.tok ∧ 1 ≤ i ∧ i ≤ 3 then 1 else 0) := by
  have lowered : (t.complete f).token i = ((t.putLanes f.writes).lower f.tok).token i := rfl
  rw [lowered, Team.token_lower, Team.putLanes_eq]
  rfl

/-! ### The reads of a fill -/

/-- The piece of 4 KiB with the number `u` holds bytes of the range and is in its refresh window. -/
theorem mem_heldPieces {s : State} {a n u : Nat} :
    u ∈ heldPieces s a n ↔ a / 4096 ≤ u ∧ u * 4096 < a + n ∧ refreshRemaining s.clock (u % 16) ≠ 0 := by
  simp only [heldPieces, List.mem_filter, List.mem_map, List.mem_range, bne_iff_ne, ne_eq]
  constructor
  · rintro ⟨⟨i, hi, rfl⟩, hw⟩; exact ⟨by omega, by omega, hw⟩
  · rintro ⟨h1, h2, hw⟩; exact ⟨⟨u - a / 4096, by omega, by omega⟩, hw⟩

/-- A fill whose reads are held on pieces of the store. -/
def Until.holding (held : List Nat) : Until → Until
  | .wld uid off dst len _ => .wld uid off dst len (some held)
  | u => u

/-- A fill whose reads meet a refresh window is held. -/
theorem instructionCompletion_holds {s : State} {k n uid off dst len : Nat} {f : Inflight}
    (found : (s.teamAt k).inflight.find? (fun x => x.n == n) = some f) (fill : f.until_ = .wld uid off dst len none)
    (live : (s.ctxAt (teamCtx k)).failed = false)
    (meets : ∃ u, off / 4096 ≤ u ∧ u * 4096 < off + len ∧ refreshRemaining s.clock (u % 16) ≠ 0) :
    ∃ t held, exec (.instructionCompletion k n) s = .next t ∧ t = { s with teams := t.teams, perf := t.perf } ∧
      (∀ j, j ≠ k → t.teamAt j = s.teamAt j) ∧
      (∀ u, u ∈ held ↔ off / 4096 ≤ u ∧ u * 4096 < off + len ∧ refreshRemaining s.clock (u % 16) ≠ 0) ∧
      t.teamAt k = { s.teamAt k with
        inflight := (s.teamAt k).inflight.map (fun x => if x.n = n then { x with until_ := x.until_.holding held } else x) } := by
  obtain ⟨u, hu⟩ := meets
  have some_held : (heldPieces s off len).isEmpty = false := by
    rw [List.isEmpty_eq_false_iff_exists_mem]; exact ⟨u, mem_heldPieces.mpr hu⟩
  have due : completable s k f = true := by rw [completable, fill]; rfl
  have number : f.n = n := by simpa using List.find?_some found
  have e : exec (.instructionCompletion k n) s = .next (holdPieces s k f (heldPieces s off len)) := by
    show execInstructionCompletion k n s = _
    simp [execInstructionCompletion, found, due, live, reached, fill, some_held]
  refine ⟨_, heldPieces s off len, e, rfl, fun j hj => State.teamAt_setTeamAt_other _ _ hj, fun u => mem_heldPieces, ?_⟩
  rw [holdPieces, State.teamAt_setTeamAt_same, number]
  rfl

/-! ### Completion -/

/-- What an unfinished instruction of team `k` awaits has happened (R41, R98, R337, R356). -/
def Happened (s : State) (k n : Nat) : Until → Prop
  | .settlement | .ltrap => False
  | .any => ∀ o ∈ s.ops, o.team = k → o.ins = n → o.awaited = false
  | .barrier _ => (s.teamAt k).arrived = none
  | .wld _ off _ len none => ∀ u, ¬(off / 4096 ≤ u ∧ u * 4096 < off + len ∧ refreshRemaining s.clock (u % 16) ≠ 0)
  | .wld _ _ _ _ (some held) => held = []
  | .array .. => True

theorem completable_of_happened {s : State} {k : Nat} {f : Inflight} (h : Happened s k f.n f.until_) :
    completable s k f = true ∧ reached s f.until_ = [] := by
  unfold completable reached
  cases hu : f.until_ with
  | settlement => rw [hu] at h; exact h.elim
  | ltrap => rw [hu] at h; exact h.elim
  | any =>
    rw [hu] at h
    have h : ∀ o ∈ s.ops, o.team = k → o.ins = f.n → o.awaited = false := h
    refine ⟨?_, rfl⟩
    simp only [Bool.not_eq_true', List.any_eq_false, Bool.and_eq_true, beq_iff_eq, not_and, Bool.not_eq_true]
    exact fun o ho hk => h o ho hk.1 hk.2
  | barrier slot =>
    rw [hu] at h
    have h : (s.teamAt k).arrived = none := h
    exact ⟨by rw [h]; rfl, rfl⟩
  | wld uid off dst len held =>
    rw [hu] at h
    cases held with
    | none => exact ⟨rfl, List.eq_nil_iff_forall_not_mem.mpr fun u hu => h u (mem_heldPieces.mp hu)⟩
    | some held =>
      have h : held = [] := h
      exact ⟨by rw [h]; rfl, rfl⟩
  | array cores r => exact ⟨rfl, rfl⟩

/-- Freeing arrays touches nothing else. -/
theorem State.freeArrays_eq (s : State) (cs : List Nat) :
    let t := cs.foldl (fun s c => s.setCoreAt c { s.coreAt c with arrayBusy := none }) s
    t = { s with cores := t.cores } ∧ ∀ c, (c ∈ cs ∨ (s.coreAt c).arrayBusy = none) → (t.coreAt c).arrayBusy = none := by
  induction cs generalizing s with
  | nil => exact ⟨rfl, fun c h => h.resolve_left List.not_mem_nil⟩
  | cons x rest ih =>
    obtain ⟨eq, busy⟩ := ih (s.setCoreAt x { s.coreAt x with arrayBusy := none })
    refine ⟨eq.trans rfl, fun c h => busy c ?_⟩
    by_cases hc : c = x
    · subst hc; exact .inr (by simp)
    · rw [State.coreAt_setCoreAt_other _ _ hc]
      exact h.imp_left fun h => (List.mem_cons.mp h).resolve_left hc

theorem State.dropLocks_gone (s : State) (uid c : Nat) : ∀ e ∈ ((s.dropLocks uid).coreAt c).locks, e.2.uid ≠ uid := by
  intro e he
  rw [State.dropLocks, State.coreAt_mapVals s (fun c => { c with locks := c.locks.filter (fun e => e.2.uid != uid) }) rfl] at he
  simpa using (List.mem_filter.mp he).2

theorem completeUnit_frame (s : State) (k : Nat) (u : Until) :
    completeUnit s k u = { s with blocks := (completeUnit s k u).blocks, cores := (completeUnit s k u).cores } := by
  unfold completeUnit
  split
  · rfl
  · next cores _ =>
    have h := (s.freeArrays_eq cores).1
    generalize cores.foldl (fun s c => s.setCoreAt c { s.coreAt c with arrayBusy := none }) s = t at h ⊢
    rw [h]
  · rfl

/-- A fill writes the bytes of the weight store into the weight buffer of its share. -/
theorem completeUnit_fills {s : State} {k uid off dst len key : Nat} {h : Option (List Nat)}
    (stored : storeKey (s.ctxAt (teamCtx k)) off len = some key) (mine : s.shareIdx k < (s.blockAt (teamBlock k)).shares.length)
    (wf : MemoriesWf s) (b : Nat) :
    Memory.read (((completeUnit s k (.wld uid off dst len h)).blockAt (teamBlock k)).share (s.shareIdx k)).wbuf b =
      if dst ≤ b ∧ b < dst + len then Memory.read s.wstore (key + (b - dst))
      else Memory.read ((s.blockAt (teamBlock k)).share (s.shareIdx k)).wbuf b := by
  have block : (completeUnit s k (.wld uid off dst len h)).blockAt (teamBlock k) = { s.blockAt (teamBlock k) with
      shares := listUpd (s.blockAt (teamBlock k)).shares (s.shareIdx k)
        (fun x => { x with wbuf := x.wbuf.writeBytes dst (s.wstore.slice ((storeKey (s.ctxAt (teamCtx k)) off len).getD 0) len) }) } :=
    State.blockAt_setBlockAt_same s (teamBlock k) _
  rw [block, stored]
  simp only [Block.share, listUpd_getD, mine, and_true, if_true, Option.getD_some]
  exact Memory.read_writeBytes_slice _ wf.store ..

/-- A completing fill gives up its range locks on every core. -/
theorem completeUnit_locks (s : State) (k uid off dst len c : Nat) (h : Option (List Nat)) :
    ∀ e ∈ ((completeUnit s k (.wld uid off dst len h)).coreAt c).locks, e.2.uid ≠ uid :=
  State.dropLocks_gone _ uid c

/-- A completing matrix operation frees its arrays. -/
theorem completeUnit_arrays (s : State) (k : Nat) (cs : List Nat) (rs : List (Nat × Nat)) {c : Nat} (hc : c ∈ cs) :
    ((completeUnit s k (.array cs rs)).coreAt c).arrayBusy = none :=
  (s.freeArrays_eq cs).2 c (.inl hc)

/-- An unfinished instruction completes once what it awaits has happened. -/
theorem instructionCompletion_completes {s : State} {k n : Nat} {f : Inflight}
    (found : (s.teamAt k).inflight.find? (fun x => x.n == n) = some f) (live : (s.ctxAt (teamCtx k)).failed = false)
    (happened : Happened s k n f.until_) :
    ∃ t, exec (.instructionCompletion k n) s = .next t ∧ t = { s with teams := t.teams, blocks := t.blocks, cores := t.cores } ∧
      (∀ j, j ≠ k → t.teamAt j = s.teamAt j) ∧ t.teamAt k = (s.teamAt k).complete f ∧
      t.blocks = (completeUnit s k f.until_).blocks ∧ t.cores = (completeUnit s k f.until_).cores := by
  have number : f.n = n := by simpa using List.find?_some found
  obtain ⟨due, through⟩ := completable_of_happened (number.symm ▸ happened)
  have frame := completeUnit_frame s k f.until_
  have e : exec (.instructionCompletion k n) s = .next
      ((completeUnit s k f.until_).setTeamAt k (((completeUnit s k f.until_).teamAt k).complete f)) := by
    show execInstructionCompletion k n s = _
    simp [execInstructionCompletion, found, due, live, through]
  generalize completeUnit s k f.until_ = v at frame e ⊢
  refine ⟨_, e, by rw [frame]; rfl, fun j hj => ?_, ?_, rfl, rfl⟩
  · rw [State.teamAt_setTeamAt_other _ _ hj, frame]; rfl
  · rw [State.teamAt_setTeamAt_same, frame]; rfl

end Sys2Proof.Machine
end

section
/-! SUPPORT. The end of a team (R44): once it has ended, or its block has left the machine, nothing brings it back. -/

namespace Sys2Proof.Machine

/-! ### No team appears -/

/-- Every team of `t` is in the machine in `s` too. -/
def TeamsWithin (s t : State) : Prop := ∀ k, Table.find? s.teams k = none → Table.find? t.teams k = none

theorem TeamsWithin.refl (s : State) : TeamsWithin s s := fun _ h => h
theorem TeamsWithin.of_eq {s t : State} (h : t.teams = s.teams) : TeamsWithin s t := fun k hk => by rw [h]; exact hk
theorem TeamsWithin.trans {s t u : State} (h : TeamsWithin s t) (k : TeamsWithin t u) : TeamsWithin s u := fun j hj => k j (h j hj)
theorem TeamsWithin.foldl {β : Type} {f : State → β → State} (h : ∀ s x, TeamsWithin s (f s x)) (xs : List β) (s : State) :
    TeamsWithin s (xs.foldl f s) := by
  induction xs generalizing s with
  | nil => exact .refl s
  | cons x r ih => exact (h s x).trans (ih _)
theorem TeamsWithin.ite {s t u : State} {p : Prop} [Decidable p] (h : TeamsWithin s t) (k : TeamsWithin s u) :
    TeamsWithin s (if p then t else u) := by
  split <;> assumption
theorem Acted.teamsWithin {s t : State} (h : Acted s t) : TeamsWithin s t := .of_eq h.teams
theorem Served.teamsWithin {s t : State} (h : Served s t) : TeamsWithin s t := h.acted.teamsWithin
theorem Wrote.teamsWithin {s t : State} (h : Wrote s t) : TeamsWithin s t := h.acted.teamsWithin
theorem OnlyArrayOrders.teamsWithin {s t : State} (h : OnlyArrayOrders s t) : TeamsWithin s t := .of_eq (by rw [h.rest])

theorem Table.find?_filter_none {α : Type} {t : Table α} {k : Nat} (p : Nat × α → Bool)
    (h : Table.find? t k = none ∨ ∀ x, p (k, x) = false) :
    Table.find? (t.filter p) k = none := by
  induction t with
  | nil => rfl
  | cons e rest ih =>
    obtain ⟨j, x⟩ := e
    have tail : Table.find? (rest.filter p) k = none := ih (h.imp_left fun h => by
      rw [Table.find?] at h; split at h
      · cases h
      · exact h)
    rw [List.filter_cons]
    split
    · next hp =>
      have hj : j ≠ k := by
        rintro rfl
        rcases h with h | h
        · simp [Table.find?] at h
        · rw [h x] at hp; cases hp
      rw [Table.find?, if_neg hj, tail]
    · exact tail

theorem TeamsWithin.of_filter {s t : State} {p : Nat × Team → Bool} (h : t.teams = s.teams.filter p) : TeamsWithin s t :=
  fun _ hk => by rw [h]; exact Table.find?_filter_none p (.inl hk)
theorem TeamsWithin.of_mapVals {s t : State} {f : Nat → Team → Team} (h : t.teams = s.teams.mapVals f) : TeamsWithin s t :=
  fun k hk => by rw [h, Table.find?_mapVals, hk]; rfl
theorem TeamsWithin.setTeamAt {s : State} {k : Nat} (present : Table.find? s.teams k ≠ none) (x : Team) : TeamsWithin s (s.setTeamAt k x) :=
  fun j h => (Table.find?_set_other s.teams x (by rintro rfl; exact present h)).trans h

/-! ### Waits, contexts and accesses -/

theorem State.waitDone_teamsWithin (s : State) (k : Nat) : TeamsWithin s (s.waitDone k) := by
  unfold State.waitDone
  split
  · exact .refl s
  · next z waits =>
    have present : Table.find? s.teams k ≠ none := by
      intro absent
      have : s.teamAt k = default := by simp only [State.teamAt, Table.get, absent, Option.getD_none]
      rw [this] at waits
      cases waits
    exact fun j hj => TeamsWithin.setTeamAt present _ j hj

theorem State.blockWaits_teamsWithin (s : State) (b : Nat) : TeamsWithin s (s.blockWaits b) := by
  simp only [State.blockWaits]
  refine TeamsWithin.trans ?_ (.foldl (fun s k => s.waitDone_teamsWithin k) _ _)
  refine .foldl ?_ _ s
  exact fun s w => .of_eq rfl

theorem State.endContext_teamsWithin (s : State) (c : Nat) : TeamsWithin s (s.endContext c) := by
  simp only [State.endContext]
  refine TeamsWithin.trans ?_ (State.served_setCtxAt _ _ _).teamsWithin
  refine TeamsWithin.trans ?_ (State.promotePairs_onlyArrayOrders _).teamsWithin
  exact TeamsWithin.trans (.foldl (fun s b => s.blockWaits_teamsWithin b) _ s) (.of_filter rfl)

theorem State.diverge_teamsWithin (s : State) (c : Nat) : TeamsWithin s (s.diverge c) :=
  (s.endContext_teamsWithin c).trans (State.wrote_post _ _ _).teamsWithin

theorem LaneOp.run_teamsWithin (o : LaneOp) (s : State) : TeamsWithin s (o.run s).1 := by
  cases h : o.spad with
  | none => exact (o.wrote_run s h).teamsWithin
  | some d =>
    refine .of_eq ?_
    simp only [LaneOp.run, h]
    split
    · rfl
    · exact (Wrote.foldl (fun s k => State.wrote_gwriteNat s _ _ _) _ _).acted.teams
    · simp only [scratchAtom]; split <;> rfl

theorem State.performOp_teamsWithin {s t : State} {o : LaneOp} {ws : List LaneWrite} (h : s.performOp o = .ok t ws) : TeamsWithin s t := by
  simp only [State.performOp] at h
  split at h
  · cases h
  · cases h
  · next hr =>
    cases h
    exact (State.served_requestOp hr).teamsWithin.trans (o.run_teamsWithin _)

theorem State.landOp_teamsWithin (s : State) (o : LaneOp) (ws : List LaneWrite) : TeamsWithin s (s.landOp o ws) :=
  .of_mapVals (by simp only [State.landOp]; rfl)

theorem State.performEach_teamsWithin (s : State) (os : List LaneOp) : TeamsWithin s (s.performEach os) := by
  refine .foldl (fun s o => .ite (.refl s) ?_) os s
  split
  · next h => exact (State.performOp_teamsWithin h).trans (State.landOp_teamsWithin _ _ _)
  · exact .refl s
  · next h => rw [State.performOp_diverged h]; exact s.diverge_teamsWithin _

/-! ### Launches and blocks -/

theorem State.rewalkCtx_teamsWithin (s : State) (c : Nat) : TeamsWithin s (s.rewalkCtx c) :=
  .of_mapVals (by simp only [State.rewalkCtx, State.rewalkWhere]; rfl)

theorem State.retract_teamsWithin (s : State) (c : Nat) (al : Alloc) : TeamsWithin s (s.retract c al) := by
  simp only [State.retract]
  refine TeamsWithin.trans ?_ (State.served_poolReturn _ _ _).teamsWithin
  refine TeamsWithin.trans ?_ (State.served_setCtxAt _ _ _).teamsWithin
  refine TeamsWithin.trans ?_ (State.rewalkCtx_teamsWithin _ _)
  exact (Wrote.foldl (fun s i => State.wrote_unmapPage s _ _) _ _).teamsWithin.trans (State.served_shootRange _ _ _ _ _).teamsWithin

theorem State.launchLeaves_teamsWithin (s : State) (l : Nat) : TeamsWithin s (s.launchLeaves l) := by
  simp only [State.launchLeaves]
  refine TeamsWithin.trans (.foldl (fun s al => ?_) _ _) (State.served_setCtxAt _ _ _).teamsWithin
  exact .ite (State.served_setCtxAt _ _ _).teamsWithin (s.retract_teamsWithin _ al)

theorem State.launchCheck_teamsWithin (s : State) (l : Nat) : TeamsWithin s (s.launchCheck l) := by
  refine .ite ?_ (.refl s)
  simp only [State.launchDone]
  refine TeamsWithin.trans ?_ (State.counted_graphMember _ _ _ _ _).served.teamsWithin
  refine TeamsWithin.trans ?_ (State.launchLeaves_teamsWithin _ _)
  exact (s.performEach_teamsWithin _).trans (State.acted_setLaunchAt _ _ _).teamsWithin

/-- The teams of a block that is removed leave the machine. -/
theorem State.removeBlock_gone (s : State) {b k : Nat} (h : teamBlock k = b) : Table.find? (s.removeBlock b).teams k = none := by
  simp only [State.removeBlock]
  exact (State.promotePairs_onlyArrayOrders _).teamsWithin k (Table.find?_filter_none _ (.inr fun x => by simp [h]))

theorem State.endBlock_gone (s : State) {b k : Nat} (h : teamBlock k = b) (bad : Bool) : Table.find? (s.endBlock b bad).teams k = none :=
  State.launchCheck_teamsWithin _ _ k (s.removeBlock_gone h)

/-! ### The end of a team -/

theorem State.foldl_depart (f : Nat → Nat) (k : Nat) (is : List Nat) (s : State) (h : (s.teamAt k).ended = true) :
    ((is.foldl (fun s i => s.setTeamAt (f i) { s.teamAt (f i) with arrived := none }) s).teamAt k).ended = true := by
  induction is generalizing s with
  | nil => exact h
  | cons i rest ih =>
    refine ih _ ?_
    beta_reduce
    by_cases hk : k = f i
    · rw [← hk, State.teamAt_setTeamAt_same]; exact h
    · rw [State.teamAt_setTeamAt_other _ _ hk]; exact h

theorem State.barrierCheck_ended (s : State) (b slot k : Nat) (h : (s.teamAt k).ended = true) : ((s.barrierCheck b slot).teamAt k).ended = true := by
  unfold State.barrierCheck
  split
  · exact State.foldl_depart (teamKey b) k _ _ h
  · exact h

theorem State.barrierChecks_ended (b k : Nat) (slots : List Nat) (s : State) (h : (s.teamAt k).ended = true) :
    ((slots.foldl (fun s i => s.barrierCheck b i) s).teamAt k).ended = true := by
  induction slots generalizing s with
  | nil => exact h
  | cons slot rest ih => exact ih _ (s.barrierCheck_ended b slot k h)

/-- A team that ends has ended, or has left the machine with its block. -/
theorem State.endTeam_teamEnded (s : State) (k : Nat) : TeamEnded (s.endTeam k) k := by
  have finished : (((s.waitDone k).freeDatapath k).setTeamAt k (((s.waitDone k).freeDatapath k).teamAt k).finish |>.teamAt k).ended = true := by
    rw [State.teamAt_setTeamAt_same]; rfl
  have ended := State.barrierChecks_ended (teamBlock k) k (List.range 8) _ finished
  simp only [State.endTeam]
  split
  · exact .inr ended
  · split
    · exact .inl (State.endBlock_gone _ rfl _)
    · exact .inr ended

end Sys2Proof.Machine
end

section
/-! SUPPORT. Taking a trap of a team that need not be the current one (R384), and the settlement at a boundary (R43, R44). -/

namespace Sys2Proof.Machine

/-! ### Entering the handler -/

/-- A team that has entered its handler for a trap (R84, R384). -/
def Team.entered (t : Team) (tr : Trap) (base spc resume : Word64) (aside : List RunEntry) (progress : Word64) : Team :=
  { t with
    trapInfo := trapInfoWord tr, trapAddr := tr.addr
    trapRet := some { mask := t.mask, spc := spc, resume := resume, aside := aside, cmd := tr.cmd }
    mask := if tr.scalar then t.mask else tr.lanes
    sup := true, runs := [], active := none, spc := base, ltrap := none, heldTrap := none, gated := false, held := false
    hold := none, holdTrap := none, polling := false, progress := progress }

/-- What taking a trap does where nothing stands in its way. -/
theorem takeTrap_enters {s : State} {k : Nat} (can : CanTrapAt s k) {tr : Trap} (hard : tr.cause ≠ 0x10) (spc resume : Word64)
    (aside : List RunEntry) :
    (∃ progress, (takeTrap s k tr spc resume aside).teamAt k =
      (s.teamAt k).entered tr (s.ctxAt (teamCtx k)).trapBase spc resume aside progress) ∧
    ∀ j, j ≠ k → (takeTrap s k tr spc resume aside).teamAt j = s.teamAt j := by
  obtain ⟨user, handler, confirmed, first⟩ := can
  have due := State.trapVoid_false first tr.cause
  have serves : ((s.ctxAt (teamCtx k)).trapBase == 0) = false := by simpa using handler
  have soft : (tr.cause == 0x10) = false := by simpa using hard
  have counted : (if tr.cause = 0x06 then s.count (s.teamAt k).core (teamVf k) 10 1 else s).teams = s.teams := by split <;> rfl
  unfold takeTrap deliverTrap
  simp only [confirmed, due, user, serves, soft, Bool.or_self, Bool.false_eq_true, if_false]
  generalize (if tr.cause = 0x06 then s.count (s.teamAt k).core (teamVf k) 10 1 else s) = v at counted ⊢
  constructor
  · refine ⟨((s.teamAt k).unhold v.clock v.clock.toNat).progress, ?_⟩
    rw [State.teamAt_setTeamAt_same, Team.unhold_eq]
    rfl
  · intro j hj
    rw [State.teamAt_setTeamAt_other _ _ hj]
    simp only [State.teamAt, State.freeDatapath, State.setCoreAt, counted]

/-- Two teams with the same mask, scalar registers, mask stack and mode: all that a handler finds as it was. -/
structure Team.SameRegs (u t : Team) : Prop where
  mask : u.mask = t.mask
  sregs : u.sregs = t.sregs
  qregs : u.qregs = t.qregs
  stack : u.stack = t.stack
  sup : u.sup = t.sup

/-- The trap of a team that has been brought to its boundary, with its registers, mask and stack as they were. -/
theorem takeTrap_handlerAt {s : State} {k : Nat} (can : CanTrapAt s k) {u : Team} {tr : Trap} (hard : tr.cause ≠ 0x10)
    (kept : u.SameRegs (s.teamAt k)) (spc resume : Word64) (aside : List RunEntry) :
    let t := takeTrap (s.setTeamAt k u) k tr spc resume aside
    HandlerAt s t k { tr with lanes := if tr.scalar then (s.teamAt k).mask else tr.lanes } spc resume aside ∧
      ∃ progress, t.teamAt k = u.entered tr (s.ctxAt (teamCtx k)).trapBase spc resume aside progress := by
  obtain ⟨mask, sregs, qregs, stack, sup⟩ := kept
  obtain ⟨user, handler, confirmed, first⟩ := can
  have can : CanTrapAt (s.setTeamAt k u) k := ⟨by rw [State.teamAt_setTeamAt_same, sup]; exact user, handler, confirmed, first⟩
  obtain ⟨⟨progress, entered⟩, others⟩ := takeTrap_enters can hard spc resume aside
  rw [State.teamAt_setTeamAt_same] at entered
  refine ⟨?_, progress, entered⟩
  refine ⟨?_, ?_, ?_, ?_, ?_, ?_, fun j hj => (others j hj).trans (State.teamAt_setTeamAt_other _ _ hj)⟩ <;> rw [entered]
  · exact ⟨rfl, rfl, by rw [← mask]; rfl⟩
  · exact ⟨rfl, rfl⟩
  · rw [← mask]; rfl
  · rfl
  · rfl
  · exact ⟨sregs, qregs, stack⟩

/-- The same of a trap of the lane stream, whose lanes the handler gets. -/
theorem takeTrap_laneHandlerAt {s : State} {k : Nat} (can : CanTrapAt s k) {u : Team} {tr : Trap} (hard : tr.cause ≠ 0x10)
    (lane : tr.scalar = false) (kept : u.SameRegs (s.teamAt k)) (spc resume : Word64) (aside : List RunEntry) :
    let t := takeTrap (s.setTeamAt k u) k tr spc resume aside
    HandlerAt s t k tr spc resume aside ∧
      ∃ progress, t.teamAt k = u.entered tr (s.ctxAt (teamCtx k)).trapBase spc resume aside progress := by
  obtain ⟨handler, entered⟩ := takeTrap_handlerAt can hard kept spc resume aside
  rw [if_neg (by simp [lane])] at handler
  exact ⟨handler, entered⟩

/-! ### Tokens that a boundary lowers -/

theorem Team.foldl_lower_eq (fs : List Inflight) (t : Team) : fs.foldl (fun t f => t.lower f.tok) t = { t with
    t1 := (fs.foldl (fun t f => t.lower f.tok) t).t1, t2 := (fs.foldl (fun t f => t.lower f.tok) t).t2
    t3 := (fs.foldl (fun t f => t.lower f.tok) t).t3 } := by
  induction fs generalizing t with
  | nil => rfl
  | cons f rest ih =>
    rw [List.foldl_cons, ih, Team.lower_eq]

theorem Team.endSettle_eq (t : Team) : t.endSettle = { t with
    settling := none, inflight := t.inflight.filter (fun f => f.until_ != .settlement)
    t1 := t.endSettle.t1, t2 := t.endSettle.t2, t3 := t.endSettle.t3 } := by
  have lowered := Team.foldl_lower_eq (t.inflight.filter (fun f => f.until_ == .settlement)) t
  simp only [Team.endSettle]
  generalize (t.inflight.filter (fun f => f.until_ == .settlement)).foldl (fun t f => t.lower f.tok) t = u at lowered ⊢
  rw [lowered]

theorem Team.endLtrap_eq (t : Team) : t.endLtrap = { t with
    ltrap := none, inflight := t.inflight.filter (fun f => f.until_ != .ltrap)
    t1 := t.endLtrap.t1, t2 := t.endLtrap.t2, t3 := t.endLtrap.t3 } := by
  have lowered := Team.foldl_lower_eq (t.inflight.filter (fun f => f.until_ == .ltrap)) t
  simp only [Team.endLtrap]
  generalize (t.inflight.filter (fun f => f.until_ == .ltrap)).foldl (fun t f => t.lower f.tok) t = u at lowered ⊢
  rw [lowered]

theorem Team.token_endLtrap {t : Team} {f : Inflight} (one : t.inflight.filter (fun f => f.until_ == .ltrap) = [f]) (j : Nat) :
    t.endLtrap.token j = t.token j - (if j = f.tok ∧ 1 ≤ j ∧ j ≤ 3 then 1 else 0) := by
  have lowered : t.endLtrap.token j = (t.lower f.tok).token j := by rw [Team.endLtrap, one]; rfl
  rw [lowered, Team.token_lower]

/-! ### The settlement -/

theorem settleTeam_eq (t : Team) (z : Settle) (room : Nat) : (settleTeam t z room).1 = { t with
    lanes := (settleTeam t z room).1.lanes, nlive := (settleTeam t z room).1.nlive, mask := (settleTeam t z room).1.mask
    yard := (settleTeam t z room).1.yard } := by
  simp only [settleTeam]
  split <;> rfl

/-- The traps of a settlement are traps of the lane stream. -/
theorem settleTrap_lane {t : Team} {z : Settle} {room yard : Nat} {tr : Trap} (h : settleTrap t z room yard = some tr) :
    tr.scalar = false ∧ tr.cause ≠ 0x10 := by
  simp only [settleTrap] at h
  split at h
  · cases h; exact ⟨rfl, by simp⟩
  · split at h
    · cases h; exact ⟨rfl, by simp⟩
    · split at h
      · cases h; exact ⟨rfl, by simp⟩
      · split at h
        · cases h; exact ⟨rfl, by simp⟩
        · cases h

/-- The settlement `z` of team `k` is due: its run has retired, every earlier instruction has completed, and nothing of its block or
context comes before it (R43, R394). -/
structure SettlementDue (s : State) (k : Nat) (z : Settle) : Prop where
  settling : (s.teamAt k).settling = some z
  retired : (s.teamAt k).active = none
  held : (s.teamAt k).heldTrap = none
  escalated : (s.teamAt k).escalated = none
  completed : ∀ f ∈ (s.teamAt k).inflight, f.until_ = .settlement
  squash : (s.blockAt (teamBlock k)).squashDue = false
  running : (s.blockAt (teamBlock k)).st = .running
  live : (s.ctxAt (teamCtx k)).failed = false
  ordered : s.orderedPending k = false

theorem SettlementDue.traps {s : State} {k : Nat} {z : Settle} (h : SettlementDue s k z) (can : CanTrapAt s k) {tr : Trap}
    (check : settleTrap (s.teamAt k) z (s.launchAt (teamLaunch k)).kernel.lanes (s.launchAt (teamLaunch k)).kernel.yard = some tr) :
    ∃ t, exec (.settlement k) s = .next t ∧ HandlerAt s t k tr (s.teamAt k).spc z.run.addr (z.run :: (s.teamAt k).runs) ∧
      (t.teamAt k).lanes = (s.teamAt k).lanes ∧ (t.teamAt k).yard = (s.teamAt k).yard := by
  obtain ⟨settling, retired, held, escalated, completed, squash, running, live, ordered⟩ := h
  have e : exec (.settlement k) s =
      .next (takeTrap (s.setTeamAt k (s.teamAt k).endSettle) k tr (s.teamAt k).spc z.run.addr (z.run :: (s.teamAt k).runs)) := by
    show execSettlement k s = _
    have : (s.teamAt k).inflight.any (fun f => f.until_ != .settlement) = false := by simpa using completed
    simp [execSettlement, settling, retired, held, escalated, this, squash, running, live, ordered, check, can.confirmed]
  obtain ⟨lane, hard⟩ := settleTrap_lane check
  have settled := Team.endSettle_eq (s.teamAt k)
  generalize (s.teamAt k).endSettle = u at e settled
  obtain ⟨handler, progress, entered⟩ := takeTrap_laneHandlerAt can hard lane (u := u) (by rw [settled]; exact ⟨rfl, rfl, rfl, rfl, rfl⟩)
    (s.teamAt k).spc z.run.addr (z.run :: (s.teamAt k).runs)
  refine ⟨_, e, handler, ?_, ?_⟩ <;> rw [entered, settled] <;> rfl

/-- The team that a settlement leaves. -/
def Team.settled (t : Team) (z : Settle) (room : Nat) : Team := (settleTeam t z room).1.endSettle

theorem Team.settled_eq {t : Team} (completed : ∀ f ∈ t.inflight, f.until_ = .settlement) (z : Settle) (room : Nat) :
    t.settled z room = { (settleTeam t z room).1 with
      settling := none, inflight := [], t1 := (t.settled z room).t1, t2 := (t.settled z room).t2, t3 := (t.settled z room).t3 } := by
  have inflight : (settleTeam t z room).1.inflight.filter (fun f => f.until_ != .settlement) = [] := by
    rw [settleTeam_eq]; simpa using completed
  have := Team.endSettle_eq (settleTeam t z room).1
  rw [inflight] at this
  exact this

theorem SettlementDue.settles {s : State} {k : Nat} {z : Settle} (h : SettlementDue s k z)
    (check : settleTrap (s.teamAt k) z (s.launchAt (teamLaunch k)).kernel.lanes (s.launchAt (teamLaunch k)).kernel.yard = none) :
    let room := (s.launchAt (teamLaunch k)).kernel.lanes
    let u := (settleTeam (s.teamAt k) z room).1
    ∃ t, exec (.settlement k) s = .next t ∧
      (u.nlive = 0 → u.yard = [] → (s.teamAt k).keep = false → TeamEnded t k) ∧
      ((u.nlive ≠ 0 ∨ u.yard ≠ [] ∨ (s.teamAt k).keep = true) →
        t = { s with teams := t.teams, perf := t.perf } ∧ (∀ j, j ≠ k → t.teamAt j = s.teamAt j) ∧
        t.teamAt k = (s.teamAt k).settled z room) := by
  intro room u
  obtain ⟨settling, retired, held, escalated, completed, squash, running, live, ordered⟩ := h
  have eq := Team.settled_eq completed z room
  let v := ((s.count (s.teamAt k).core (teamVf k) 6 (settleTeam (s.teamAt k) z room).2.1).count (s.teamAt k).core (teamVf k) 7
    (settleTeam (s.teamAt k) z room).2.2).setTeamAt k ((s.teamAt k).settled z room)
  have last : (((s.teamAt k).settled z room).nlive == 0 && ((s.teamAt k).settled z room).yard.isEmpty && !((s.teamAt k).settled z room).keep)
      = (u.nlive == 0 && u.yard.isEmpty && !(s.teamAt k).keep) := by
    rw [eq]
    have : (settleTeam (s.teamAt k) z room).1.keep = (s.teamAt k).keep := by rw [settleTeam_eq]
    rw [this]
  have e : exec (.settlement k) s = .next (if u.nlive == 0 && u.yard.isEmpty && !(s.teamAt k).keep then v.endTeam k else v) := by
    rw [← last]
    show execSettlement k s = _
    have : (s.teamAt k).inflight.any (fun f => f.until_ != .settlement) = false := by simpa using completed
    simp [execSettlement, settling, retired, held, escalated, this, squash, running, live, ordered, check]
    rfl
  refine ⟨_, e, fun none_live no_yard not_kept => ?_, fun stays => ?_⟩
  · rw [if_pos (by simp [none_live, no_yard, not_kept])]
    exact v.endTeam_teamEnded k
  · rw [if_neg (by simpa [or_iff_not_imp_left] using stays)]
    exact ⟨rfl, fun j hj => State.teamAt_setTeamAt_other _ _ hj, State.teamAt_setTeamAt_same _ _ _⟩

end Sys2Proof.Machine
end

section
/-! SUPPORT. The trap of an `LTRAP` at its boundary (R378), accesses held on a migrating page (R166), and the steps of the streams. -/

namespace Sys2Proof.Machine

/-! ### `LTRAP` at its boundary -/

/-- The trap of an `LTRAP` is entered behind its run, and the instruction completes with it. -/
theorem trapEntry_enters {s : State} {k : Nat} {tr : Trap} (raised : (s.teamAt k).ltrap = some tr) (lane : tr.scalar = false)
    (cause : tr.cause = 0x0C) (retired : (s.teamAt k).active = none) (escalated : (s.teamAt k).escalated = none)
    (alive : (s.teamAt k).ended = false) (running : (s.blockAt (teamBlock k)).st = .running)
    (live : (s.ctxAt (teamCtx k)).failed = false) (can : CanTrapAt s k) :
    ∃ t, exec (.trapEntry k) s = .next t ∧ HandlerAt s t k tr (s.teamAt k).spc ((s.teamAt k).runs.headD {}).addr (s.teamAt k).runs ∧
      (t.teamAt k).ltrap = none ∧ (t.teamAt k).inflight = (s.teamAt k).inflight.filter (fun f => f.until_ != .ltrap) ∧
      ∀ j, (t.teamAt k).token j = (s.teamAt k).endLtrap.token j := by
  have e : exec (.trapEntry k) s = .next (takeTrap (s.setTeamAt k (s.teamAt k).endLtrap) k tr (s.teamAt k).spc
      ((s.teamAt k).runs.headD {}).addr (s.teamAt k).runs) := by
    show execTrapEntry k s = _
    simp [execTrapEntry, raised, retired, escalated, alive, running, live, can.confirmed]
  have completed := Team.endLtrap_eq (s.teamAt k)
  generalize (s.teamAt k).endLtrap = u at e completed ⊢
  obtain ⟨handler, progress, entered⟩ := takeTrap_laneHandlerAt can (u := u) (by rw [cause]; decide) lane
    (by rw [completed]; exact ⟨rfl, rfl, rfl, rfl, rfl⟩) (s.teamAt k).spc ((s.teamAt k).runs.headD {}).addr (s.teamAt k).runs
  refine ⟨_, e, handler, ?_, ?_, fun j => ?_⟩ <;> rw [entered]
  · rfl
  · rw [completed]; rfl
  · rfl

/-! ### Holds on migrating pages -/

/-- A held access may walk again after 65,536 cycles. -/
theorem heldAccessRewalk_walks {s : State} {k : Nat} {z : Word64} (held : (s.teamAt k).hold = some z) (long : 65536 ≤ (s.clock - z).toNat) :
    ∃ t, exec (.heldAccessRewalk k) s = .next t ∧ t = { s with teams := t.teams, blocks := t.blocks } ∧
      t.teamAt k = { s.teamAt k with rewalk := true } ∧ ∀ j, j ≠ k → t.teamAt j = s.teamAt j := by
  have due : rewalkTime s.clock (s.teamAt k).hold = true := by rw [held]; exact decide_eq_true long
  have e : exec (.heldAccessRewalk k) s = .next ((s.setTeamAt k { s.teamAt k with rewalk := true }).setBlockAt (teamBlock k)
      (rewalkTeam (s.blockAt (teamBlock k)) k)) := by
    show execHeldAccessRewalk k s = _
    rw [execHeldAccessRewalk, due]
    rfl
  exact ⟨_, e, rfl, State.teamAt_setTeamAt_same s k _, fun j hj => State.teamAt_setTeamAt_other s _ hj⟩

section
variable {s : State} {k : Nat} {z : Word64} (held : (s.teamAt k).hold = some z)
  (past : migrateLimit s (teamVf k) z < (s.clock - z).toNat)
include held past

/-- Past the migration limit, the read of an image walks once more. -/
theorem migrationLimit_walks (image : (s.teamAt k).holdTrap = none) :
    exec (.migrationLimit k) s = .next (s.setTeamAt k { s.teamAt k with rewalk := true }) := by
  have due : s.pastLimit (teamVf k) z = true := decide_eq_true past
  show execMigrationLimit k s = _
  simp only [execMigrationLimit, held, image, due, if_true]

variable {tr : Trap} (trap : (s.teamAt k).holdTrap = some tr) (can : CanTrapAt s k) (hard : tr.cause ≠ 0x10)
include trap can hard

/-- Past the migration limit, a held access of the lane stream traps. -/
theorem migrationLimit_lane {a : Active} (lane : tr.scalar = false) (granted : (s.teamAt k).active = some a) :
    ∃ t, exec (.migrationLimit k) s = .next t ∧
      HandlerAt s t k tr (s.teamAt k).spc a.lpc ({ a.run with addr := a.lpc, done := a.count } :: (s.teamAt k).runs.tail) := by
  have due : s.pastLimit (teamVf k) z = true := decide_eq_true past
  have landed := Team.landAll_eq (s.teamAt k)
  have free := Team.unhold_eq (s.teamAt k).landAll s.clock (migrateLimit s (teamVf k) z)
  have e : exec (.migrationLimit k) s = .next (takeTrap
      (s.setTeamAt k { (s.teamAt k).landAll.unhold s.clock (migrateLimit s (teamVf k) z) with held := false }) k tr
      ((s.teamAt k).landAll.unhold s.clock (migrateLimit s (teamVf k) z)).spc a.lpc
      (a.remainder :: ((s.teamAt k).landAll.unhold s.clock (migrateLimit s (teamVf k) z)).runs.tail)) := by
    show execMigrationLimit k s = _
    simp [execMigrationLimit, held, trap, due, lane, granted]
  generalize (s.teamAt k).landAll.unhold s.clock (migrateLimit s (teamVf k) z) = u at e free
  rw [landed] at free
  have spc : u.spc = (s.teamAt k).spc := by rw [free]
  have runs : u.runs = (s.teamAt k).runs := by rw [free]
  obtain ⟨handler, -⟩ := takeTrap_laneHandlerAt can hard lane (u := { u with held := false })
    (by rw [free]; exact ⟨rfl, rfl, rfl, rfl, rfl⟩) (s.teamAt k).spc a.lpc (a.remainder :: (s.teamAt k).runs.tail)
  rw [spc, runs] at e
  exact ⟨_, e, handler⟩

/-- Past the migration limit, a held access of the scalar stream traps once the runs before it have retired. -/
theorem migrationLimit_scalar (scalar : tr.scalar = true) (ready : (s.teamAt k).trapReady = true) :
    ∃ t, exec (.migrationLimit k) s = .next t ∧
      HandlerAt s t k { tr with lanes := (s.teamAt k).mask } (s.teamAt k).spc (s.teamAt k).spc [] := by
  have due : s.pastLimit (teamVf k) z = true := decide_eq_true past
  have free := Team.unhold_eq (s.teamAt k) s.clock (migrateLimit s (teamVf k) z)
  have e : exec (.migrationLimit k) s = .next (takeTrap
      (s.setTeamAt k ((s.teamAt k).unhold s.clock (migrateLimit s (teamVf k) z))) k tr (s.teamAt k).spc (s.teamAt k).spc []) := by
    show execMigrationLimit k s = _
    simp [execMigrationLimit, held, trap, due, scalar, ready]
  obtain ⟨handler, -⟩ := takeTrap_handlerAt can hard (u := (s.teamAt k).unhold s.clock (migrateLimit s (teamVf k) z))
    (by rw [free]; exact ⟨rfl, rfl, rfl, rfl, rfl⟩) (s.teamAt k).spc (s.teamAt k).spc []
  rw [if_pos scalar] at handler
  exact ⟨_, e, handler⟩
end

/-! ### The steps of the streams -/

/-- Settles O45, clause by clause: a grant, the end of a run, a held fill, a completion, a settlement, an `LTRAP`, a second walk, and the
two ends of a hold past its limit. -/
theorem streamsAdvanceByTheirSteps : Obligations.StreamsAdvanceByTheirSteps := by
  intro s k core dp n t0 live ki blk inWindow
  refine ⟨fun hdp free rising ready first => runGrant_grants hdp free rising ready first,
    fun a granted finished alive => runRetire_retires granted finished alive,
    fun f uid off dst len found fill alive meets => instructionCompletion_holds found fill alive meets, ?_, ?_, ?_,
    fun z held long => heldAccessRewalk_walks held long, fun z held image past => migrationLimit_walks held past image, ?_⟩
  · intro f found alive happened
    have happened : Happened s k n f.until_ := happened
    obtain ⟨t, e, rest, others, team, blocks, cores⟩ := instructionCompletion_completes found alive happened
    have completed := Team.complete_eq t0 f
    rw [show f.n = n by simpa using List.find?_some found] at completed
    refine ⟨t, e, rest, others, by rw [team]; exact completed, fun j => by rw [team]; exact Team.token_complete t0 f j, ?_, ?_⟩
    · intro uid off dst len h key fill stored
      rw [fill] at blocks cores
      refine ⟨fun c => ?_, fun mine wf b => ?_⟩
      · rw [State.coreAt, cores]; exact completeUnit_locks s k uid off dst len c h
      · rw [State.blockAt, blocks]; exact completeUnit_fills stored mine wf b
    · intro cs rs array c hc
      rw [array] at cores
      rw [State.coreAt, cores]
      exact completeUnit_arrays s k cs rs hc
  · intro z settling retired held escalated completed squash running alive ordered
    have due : SettlementDue s k z := ⟨settling, retired, held, escalated, completed, squash, running, alive, ordered⟩
    refine ⟨fun check => ?_, fun tr check can => due.traps can check⟩
    obtain ⟨t, e, ends, stays⟩ := due.settles check
    refine ⟨t, e, ends, fun h => ?_⟩
    obtain ⟨rest, others, team⟩ := stays h
    refine ⟨rest, others, ?_⟩
    rw [team]
    exact Team.settled_eq completed z ki.lanes
  · intro tr raised lane cause retired escalated ended running alive can
    obtain ⟨t, e, handler, ltrap, inflight, token⟩ := trapEntry_enters raised lane cause retired escalated ended running alive can
    exact ⟨t, e, handler, ltrap, inflight, fun f one j => (token j).trans (Team.token_endLtrap one j)⟩
  · intro z tr held trap past can hard
    refine ⟨fun a lane granted => migrationLimit_lane held past trap can hard lane granted, fun scalar runs retired settling ltrap => ?_⟩
    have ready : t0.trapReady = true := by simp [Team.trapReady, Team.runsRetired, runs, retired, settling, ltrap]
    exact migrationLimit_scalar held past trap can hard scalar ready

end Sys2Proof.Machine
end

section
/-! SUPPORT. How a scalar instruction whose meaning is one of the shared ends completes, waits or traps, and what performing the
accesses before it leaves of the teams (R84, R198, R205, R268). -/

namespace Sys2Proof.Machine

/-! ### The ends of a scalar instruction -/

section
variable {i : Instr} {s : State}

theorem GivesTeam.of_done {u : Team} (e : exec i s = scalarDone s u) (h : u.spc = s.team.spc) : GivesTeam i s u := by
  obtain ⟨t, done, completed⟩ := scalarDone_completed s u h
  exact ⟨t, e.trans done, completed⟩

theorem GivesSreg.of_done {d : SReg} {v : Word64} (e : exec i s = scalarDone s (s.team.setSreg d v)) : GivesSreg i s d v := by
  obtain ⟨t, done, wrote⟩ := scalarDone_sreg s d v
  exact ⟨t, e.trans done, wrote⟩

theorem Traps.of_trap {cause detail : Nat} {addr : Word64} (e : exec i s = scalarTrap s cause detail addr) (can : CanTrap s)
    (h : cause ≠ 0x06 := by decide) (h' : cause ≠ 0x10 := by decide) : Traps i s cause detail addr := by
  obtain ⟨t, trap, entered⟩ := scalarTrap_enters s can cause detail h h' addr
  exact ⟨t, e.trans trap, entered⟩

end

/-! ### What performing accesses leaves of the teams -/

/-- Every team of `t` is that of `s`, but for what its lane instructions in flight have been returned. -/
def OnlyInflight (s t : State) : Prop := ∀ k, t.teamAt k = { s.teamAt k with inflight := (t.teamAt k).inflight }

theorem OnlyInflight.refl (s : State) : OnlyInflight s s := fun _ => rfl
theorem OnlyInflight.of_eq {s t : State} (h : t.teams = s.teams) : OnlyInflight s t := fun k => by simp only [State.teamAt, h]
theorem OnlyInflight.trans {s t u : State} (h : OnlyInflight s t) (k : OnlyInflight t u) : OnlyInflight s u :=
  fun j => by rw [k j, h j]
theorem OnlyInflight.nlive {s t : State} (h : OnlyInflight s t) (k : Nat) : (t.teamAt k).nlive = (s.teamAt k).nlive := by rw [h k]

theorem LaneOp.run_teams (o : LaneOp) (s : State) : (o.run s).1.teams = s.teams := by
  cases h : o.spad with
  | none => exact (o.wrote_run s h).acted.teams
  | some d =>
    simp only [LaneOp.run, h]
    split
    · rfl
    · exact (Wrote.foldl (fun s k => State.wrote_gwriteNat s _ _ _) _ _).acted.teams
    · simp only [scratchAtom]; split <;> rfl

theorem State.performOp_teams {s t : State} {o : LaneOp} {ws : List LaneWrite} (h : s.performOp o = .ok t ws) : t.teams = s.teams := by
  simp only [State.performOp] at h
  split at h
  · cases h
  · cases h
  · next served =>
    cases h
    exact (o.run_teams _).trans (State.served_requestOp served).acted.teams

theorem State.landOp_onlyInflight (s : State) (o : LaneOp) (ws : List LaneWrite) : OnlyInflight s (s.landOp o ws) := by
  intro k
  simp only [State.teamAt, State.landOp, Table.get, Table.find?_mapVals]
  cases Table.find? s.teams k with
  | none => rfl
  | some u => simp only [Option.map_some, Option.getD_some]; split <;> rfl

theorem performOps_onlyInflight (os : List LaneOp) : ∀ {s t : State}, performOps os s = .ok t → OnlyInflight s t := by
  induction os with
  | nil => intro s t h; cases h; exact .refl s
  | cons o rest ih =>
    intro s t h
    simp only [performOps] at h
    split at h
    · exact ih h
    · split at h
      · cases h
      · split at h
        · next performed => exact (OnlyInflight.of_eq (State.performOp_teams performed)).trans ((State.landOp_onlyInflight _ o _).trans (ih h))
        · cases h
        · cases h

theorem State.drainOps_nlive {s s1 : State} {k : Nat} (h : s.drainOps k = .ok s1) : s1.team.nlive = s.team.nlive := by
  have ended : Ended s (s.drainOps k).state := ended_performOps (s.priorOps k) s
  rw [h] at ended
  have cur : s1.cur = s.cur := ended.cur
  rw [State.team, cur]
  exact (performOps_onlyInflight _ h).nlive s.cur

end Sys2Proof.Machine
end

section
/-! SUPPORT. The mask instructions (R32, R69, R205, R280). -/

namespace Sys2Proof.Machine

/-! ### Masks -/

theorem getLsbD_foldl_twoPow (ps : List Nat) (m : MaskBits) (i : Nat) :
    (ps.foldl (fun m i => m ||| BitVec.twoPow 1024 i) m).getLsbD i = (m.getLsbD i || (decide (i < 1024) && decide (i ∈ ps))) := by
  induction ps generalizing m with
  | nil => simp
  | cons p rest ih =>
    rw [List.foldl_cons, ih, BitVec.getLsbD_or, BitVec.getLsbD_twoPow]
    rcases eq_or_ne p i with rfl | hp
    · by_cases hp : p < 1024 <;> simp [hp]
    · simp [hp, hp.symm]

@[simp] theorem maskOf_getLsbD (ps : List Nat) (i : Nat) : (maskOf ps).getLsbD i = (decide (i < 1024) && decide (i ∈ ps)) := by
  simp only [maskOf, getLsbD_foldl_twoPow, BitVec.ofNat_eq_ofNat, BitVec.getLsbD_zero, Bool.false_or]

@[simp] theorem maskBelow_getLsbD (n i : Nat) : (maskBelow n).getLsbD i = (decide (i < n) && decide (i < 1024)) := by
  rw [maskBelow, BitVec.getLsbD_ofNat, Nat.testBit_two_pow_sub_one, Bool.and_comm]

@[simp] theorem Team.predMask_getLsbD (t : Team) (p : PSrc) (i : Nat) :
    (t.predMask p).getLsbD i = (decide (i < t.nlive) && decide (i < 1024) && (t.lane i).pred p) := by
  rw [Team.predMask, maskOf_getLsbD]
  by_cases h : i < 1024 <;> simp [h, List.mem_filter, List.mem_range]

/-- No position at or above NLIVE satisfies a predicate. -/
theorem Team.predMask_and_below (t : Team) (p : PSrc) : t.predMask p &&& maskBelow t.nlive = t.predMask p := by
  refine BitVec.eq_of_getLsbD_eq fun i _ => ?_
  rw [BitVec.getLsbD_and, Team.predMask_getLsbD, maskBelow_getLsbD, Bool.and_right_comm, Bool.and_self]

/-! ### The instructions -/

theorem exec_mpush (p : PSrc) (s : State) : exec (.mpush p) s = execMpush p s := rfl
theorem exec_melse (s : State) : exec .melse s = execMelse s := rfl
theorem exec_mpop (s : State) : exec .mpop s = execMpop s := rfl

theorem execMpush_done {p : PSrc} {s : State} (drained : s.team.drained = true) (room : s.team.stack.length < 16) :
    execMpush p s = scalarDone s { s.team with
      stack := (s.team.mask, s.team.mask &&& ~~~ s.team.predMask p) :: s.team.stack, mask := s.team.mask &&& s.team.predMask p } := by
  simp only [execMpush, drained, Nat.not_le.mpr room, Team.withMask, BitVec.and_assoc, Team.predMask_and_below, Bool.not_true,
    Bool.false_eq_true, if_false]

theorem execMelse_done {s : State} {sv el : MaskBits} {rest : List (MaskBits × MaskBits)} (drained : s.team.drained = true)
    (top : s.team.stack = (sv, el) :: rest) :
    execMelse s = scalarDone s { s.team with mask := el &&& maskBelow s.team.nlive, stack := (sv, 0) :: rest } := by
  simp only [execMelse, drained, top, Team.withMask, Bool.not_true, Bool.false_eq_true, if_false]

theorem execMpop_drains {s : State} {sv el : MaskBits} {rest : List (MaskBits × MaskBits)} (drained : s.team.drained = true)
    (top : s.team.stack = (sv, el) :: rest) :
    execMpop s = withDrained s (fun s => scalarDone s { s.team.withMask sv with stack := rest }) := by
  simp only [execMpop, drained, top, Bool.not_true, Bool.false_eq_true, if_false]

/-- Settles O4: each mask instruction waits until the team has drained, traps at its end of the stack, and otherwise moves the top
entry; `MPOP` goes on from the state that `drainOps` leaves, in which NLIVE has not changed. -/
theorem maskInstructionsMoveTheStack : Obligations.MaskInstructionsMoveTheStack := by
  intro p s s1 pred live sv el rest hpred hlive
  have pred_eq : s.team.predMask p = pred := BitVec.eq_of_getLsbD_eq fun i _ => by rw [Team.predMask_getLsbD, hpred]
  have live_eq : maskBelow s.team.nlive = live := BitVec.eq_of_getLsbD_eq fun i _ => by rw [maskBelow_getLsbD, hlive]
  refine ⟨fun busy => ⟨?_, ?_, ?_⟩, fun drained => ⟨fun room => ?_, fun top => ⟨?_, fun performed => ?_, fun waits => ?_⟩,
    fun can => ⟨fun full => .of_trap ?_ can, fun empty => ⟨.of_trap ?_ can, .of_trap ?_ can⟩⟩⟩⟩
  · simp only [exec_mpush, execMpush, busy, scalarWait, Bool.not_false, if_true]
  · simp only [exec_melse, execMelse, busy, scalarWait, Bool.not_false, if_true]
  · simp only [exec_mpop, execMpop, busy, scalarWait, Bool.not_false, if_true]
  · rw [← pred_eq]
    exact .of_done (execMpush_done drained room) rfl
  · rw [← live_eq]
    exact .of_done (execMelse_done drained top) rfl
  · rw [← live_eq, ← State.drainOps_nlive performed, exec_mpop, execMpop_drains drained top, withDrained, performed]
    exact scalarDone_completed s1 { s1.team.withMask sv with stack := rest } rfl
  · rw [exec_mpop, execMpop_drains drained top, withDrained, waits]
  · simp only [exec_mpush, execMpush, drained, full, Bool.not_true, Bool.false_eq_true, if_false, if_true]
  · simp only [exec_melse, execMelse, drained, empty, Bool.not_true, Bool.false_eq_true, if_false]
  · simp only [exec_mpop, execMpop, drained, empty, Bool.not_true, Bool.false_eq_true, if_false]

end Sys2Proof.Machine
end

section
/-! SUPPORT. The special registers: the words of `WSREF` and `MODE` field by field, and what `SRD` and `SWR` do (R76 to R84, R98, R205,
R295). -/

namespace Sys2Proof.Machine

/-! ### Fields of a word -/

theorem Word64.field_toNat (v : Word64) (start len : Nat) : (v.extractLsb' start len).toNat = v.toNat / 2 ^ start % 2 ^ len := by
  rw [BitVec.extractLsb'_toNat, Nat.shiftRight_eq_div_pow]

theorem Word64.flag_eq {v : Word64} {i : Nat} {b : Bool} (h : v.toNat / 2 ^ i % 2 = b.toNat) : v.getLsbD i = b := by
  rw [BitVec.getLsbD, Nat.testBit_eq_decide_div_mod_eq, h]
  cases b <;> rfl

/-! ### WSREF (R80, R98) -/

theorem refreshPhase_eq (clock : Word64) {g : Nat} (h : g < 16) : (refreshPhase clock g : Int) = ((clock.toNat : Int) - 3600 * g) % 57600 := by
  unfold refreshPhase
  omega

theorem refreshRemaining_eq (clock : Word64) {g : Nat} (h : g < 16) :
    (refreshRemaining clock g : Int) =
      if ((clock.toNat : Int) - 3600 * g) % 57600 < 460 then 460 - ((clock.toNat : Int) - 3600 * g) % 57600 else 0 := by
  rw [← refreshPhase_eq clock h, refreshRemaining]
  split <;> split <;> omega

theorem refreshUntil_eq (clock : Word64) {g : Nat} (h : g < 16) :
    (refreshUntil clock g : Int) =
      if ((clock.toNat : Int) - 3600 * g) % 57600 < 460 then 0 else 57600 - ((clock.toNat : Int) - 3600 * g) % 57600 := by
  have bound : refreshPhase clock g < 57600 := Nat.mod_lt _ (by decide)
  rw [← refreshPhase_eq clock h, refreshUntil]
  split <;> split <;> omega

theorem refreshRemaining_lt (clock : Word64) (g : Nat) : refreshRemaining clock g < 65536 := by
  unfold refreshRemaining
  dsimp only
  split <;> omega

theorem refreshUntil_lt (clock : Word64) (g : Nat) : refreshUntil clock g < 65536 := by
  unfold refreshUntil
  dsimp only
  split <;> omega

theorem wsrefWord_toNat (clock : Word64) (sel : BitVec 4) : (wsrefWord clock sel).toNat =
    sel.toNat * 4294967296 + refreshRemaining clock sel.toNat * 65536 + refreshUntil clock sel.toNat := by
  have := refreshRemaining_lt clock sel.toNat
  have := refreshUntil_lt clock sel.toNat
  have := sel.isLt
  rw [wsrefWord, BitVec.toNat_ofNat, Nat.mod_eq_of_lt (by omega)]
  rfl

theorem wsrefWord_fields (clock : Word64) (sel : BitVec 4) :
    (wsrefWord clock sel).extractLsb' 36 28 = 0 ∧ (wsrefWord clock sel).extractLsb' 32 4 = sel ∧
      ((wsrefWord clock sel).extractLsb' 16 16).toNat = refreshRemaining clock sel.toNat ∧
      ((wsrefWord clock sel).extractLsb' 0 16).toNat = refreshUntil clock sel.toNat := by
  have remaining := refreshRemaining_lt clock sel.toNat
  have next := refreshUntil_lt clock sel.toNat
  have group := sel.isLt
  refine ⟨BitVec.eq_of_toNat_eq ?_, BitVec.eq_of_toNat_eq ?_, ?_, ?_⟩ <;>
    simp only [Word64.field_toNat, wsrefWord_toNat, BitVec.ofNat_eq_ofNat, BitVec.toNat_ofNat] <;> omega

/-! ### MODE (R82) -/

/-- The two bits of `MODE` that give the context's mode. -/
def CtxMode.bits : CtxMode → BitVec 2
  | .free => 0
  | .record => 1
  | .replay => 2

section
variable (t : Team) (m : CtxMode)

theorem modeWord_toNat : (modeWord t m).toNat = t.sup.toNat * 2147483648 + m.bits.toNat * 536870912 + t.keep.toNat * 2 + t.stallchk.toNat := by
  have flag : ∀ (b : Bool) (x : Nat), (if b = true then x else 0) = b.toNat * x := by rintro (_ | _) x <;> simp
  have word : modeWord t m =
      BitVec.ofNat 64 (t.sup.toNat * 2147483648 + m.bits.toNat * 536870912 + t.keep.toNat * 2 + t.stallchk.toNat) := by
    cases m <;> simp [modeWord, CtxMode.bits, flag]
  have := Bool.toNat_le t.sup
  have := Bool.toNat_le t.keep
  have := Bool.toNat_le t.stallchk
  have := m.bits.isLt
  rw [word, BitVec.toNat_ofNat, Nat.mod_eq_of_lt (by omega)]

theorem modeWord_fields : (modeWord t m).extractLsb' 32 32 = 0 ∧ (modeWord t m).getLsbD 31 = t.sup ∧
    (modeWord t m).extractLsb' 29 2 = m.bits ∧ (modeWord t m).extractLsb' 2 27 = 0 ∧ (modeWord t m).getLsbD 1 = t.keep ∧
    (modeWord t m).getLsbD 0 = t.stallchk := by
  have sup := Bool.toNat_le t.sup
  have keep := Bool.toNat_le t.keep
  have stallchk := Bool.toNat_le t.stallchk
  have mode := m.bits.isLt
  refine ⟨BitVec.eq_of_toNat_eq ?_, Word64.flag_eq ?_, BitVec.eq_of_toNat_eq ?_, BitVec.eq_of_toNat_eq ?_, Word64.flag_eq ?_,
    Word64.flag_eq ?_⟩ <;> simp only [Word64.field_toNat, modeWord_toNat, BitVec.ofNat_eq_ofNat, BitVec.toNat_ofNat] <;> omega

end

/-! ### SRD (R76 to R84, R295) -/

theorem exec_srd (d : SReg) (n : BitVec 13) (s : State) : exec (.srd d n) s = execSrd d n s := rfl

section
variable {d : SReg} {n : BitVec 13} {s : State}

/-- A special register below the write pointers is read at once, or once the team has drained. -/
theorem srd_gives {waits : Bool} {x : Word64} (read : specialRead s n.toNat = .ok (waits, x)) (below : n.toNat < 0x20)
    (drained : waits = true → s.team.drained = true) : GivesSreg (.srd d n) s d x := by
  refine .of_done ?_
  have go : (waits && !s.team.drained) = false := by cases waits <;> simp_all
  simp only [exec_srd, execSrd, read, go, Nat.not_le.mpr below, Bool.false_eq_true, if_false]

theorem srd_waits {x : Word64} (read : specialRead s n.toNat = .ok (true, x)) (busy : s.team.drained = false) :
    exec (.srd d n) s = .next s := by
  simp only [exec_srd, execSrd, read, busy, Bool.not_false, Bool.and_self, if_true, scalarWait]

theorem srd_traps {detail : Nat} (read : specialRead s n.toNat = .error detail) (can : CanTrap s) :
    Traps (.srd d n) s 0x01 detail 0 := by
  refine .of_trap ?_ can
  simp only [exec_srd, execSrd, read]

/-- The numbers from 0x00F on are write pointers from 0x020 to 0x02F, and unassigned elsewhere. -/
theorem specialRead_high (s : State) {n : Nat} (h : 0x00F ≤ n) : specialRead s n =
    if 0x020 ≤ n ∧ n < 0x030 then
      if n - 0x020 < s.kernel.chans then .ok (false, ((s.block.share (s.shareIdx s.cur)).chans.getD (n - 0x020) {}).wptr) else .error 0x5C
    else .error 0x04 := by
  unfold specialRead
  split
  case h_16 => rfl
  all_goals omega

theorem toNat_pointerNumber {c : Nat} (h : c < 16) : (BitVec.ofNat 13 (0x20 + c)).toNat = 0x20 + c := by
  rw [BitVec.toNat_ofNat, Nat.mod_eq_of_lt (by omega)]

theorem specialRead_pointer (s : State) {c : Nat} (h : c < 16) : specialRead s (0x20 + c) =
    if c < s.kernel.chans then .ok (false, ((s.block.share (s.shareIdx s.cur)).chans.getD c {}).wptr) else .error 0x5C := by
  rw [specialRead_high s (by omega), if_pos (by omega), Nat.add_sub_cancel_left]

/-- The write pointer of a declared channel goes to its register in the state in which the accesses before the read have performed. -/
theorem exec_srd_pointer (d : SReg) {c : Nat} (h : c < 16) (declared : c < s.kernel.chans) :
    exec (.srd d (BitVec.ofNat 13 (0x20 + c))) s = withDrained s (fun s1 =>
      scalarDone s1 (s1.team.setSreg d ((s.block.share (s.shareIdx s.cur)).chans.getD c {}).wptr)) := by
  simp only [exec_srd, execSrd, toNat_pointerNumber h, specialRead_pointer s h, declared, Nat.le_add_right, if_true, Bool.false_and,
    Bool.false_eq_true, if_false]

theorem Team.laneZero_key_low (t : Team) : t.laneZero (fun l => (l.key.extractLsb' 0 32).setWidth 64) =
    if t.nlive = 0 then 0 else BitVec.ofNat 64 ((t.lane 0).key.toNat % 2 ^ 32) := by
  unfold Team.laneZero
  congr 1
  apply BitVec.eq_of_toNat_eq
  rw [BitVec.toNat_setWidth, Word64.field_toNat, BitVec.toNat_ofNat, pow_zero, Nat.div_one]

theorem Team.laneZero_key_high (t : Team) : t.laneZero (fun l => (l.key.extractLsb' 32 32).setWidth 64) =
    if t.nlive = 0 then 0 else BitVec.ofNat 64 ((t.lane 0).key.toNat / 2 ^ 32) := by
  unfold Team.laneZero
  congr 1
  apply BitVec.eq_of_toNat_eq
  rw [BitVec.toNat_setWidth, Word64.field_toNat, BitVec.toNat_ofNat]
  have := (t.lane 0).key.isLt
  omega

end

/-! ### SWR (R77, R295) -/

theorem exec_swr (n : BitVec 13) (a : SReg) (s : State) : exec (.swr n a) s = execSwr n a s := rfl

/-- `t` is `s` after a completed scalar instruction that leaves the context of the current team as `y`, and no other part but the team. -/
def WroteCtx (s t : State) (y : Ctx) : Prop :=
  t = { s with ctxs := t.ctxs, teams := t.teams } ∧ (∀ c, c ≠ teamCtx s.cur → Table.find? t.ctxs c = Table.find? s.ctxs c) ∧ t.ctx = y ∧
    (∀ j, j ≠ s.cur → Table.find? t.teams j = Table.find? s.teams j) ∧
    t.team = { s.team.goneOn true with spc := s.team.spc + 4, progress := s.clock }

theorem scalarDone_setCtx (s : State) (y : Ctx) : ∃ t, scalarDone (s.setCtx y) s.team = .next t ∧ WroteCtx s t y := by
  refine ⟨_, rfl, rfl, fun c hc => Table.find?_set_other _ _ hc, ?_, fun j hj => Table.find?_set_other _ _ hj, ?_⟩
  · rw [State.setTeam_ctx]; exact State.ctxAt_setCtxAt_same _ _ _
  · rw [State.team_setTeam, Team.proceed_done]; rfl

section
variable {a : SReg} {n : BitVec 13} {s : State}

theorem writeAccess_illegal {n : Nat} (h : n < 0x009 ∨ 0x00E < n) : writeAccess n = 0 := by
  unfold writeAccess
  split
  case h_7 => rfl
  all_goals omega

theorem swr_illegal (h : n.toNat < 0x009 ∨ 0x00E < n.toNat) (can : CanTrap s) : Traps (.swr n a) s 0x01 0x04 0 := by
  refine .of_trap ?_ can
  simp only [exec_swr, execSwr, writeAccess_illegal h, if_true]

theorem swr_badFtv (h : 2 < (s.team.sreg a).toNat) (can : CanTrap s) : Traps (.swr 0x00A a) s 0x01 0x43 0 := by
  refine .of_trap ?_ can
  simp [exec_swr, execSwr, writeAccess, h]

/-- A register that supervisor state alone writes, written in user state with a value that is legal. -/
theorem swr_privileged (access : writeAccess n.toNat = 2) (legal : n.toNat = 0x00A → (s.team.sreg a).toNat ≤ 2) (can : CanTrap s) :
    Traps (.swr n a) s 0x03 0x01 0 := by
  refine .of_trap ?_ can
  have value : ¬(n.toNat = 0x00A ∧ 2 < (s.team.sreg a).toNat) := fun ⟨ftv, large⟩ => by have := legal ftv; omega
  simp [exec_swr, execSwr, access, value, can.user]

theorem swr_ftv (sup : s.team.sup = true) (h : (s.team.sreg a).toNat ≤ 2) :
    exec (.swr 0x00A a) s = scalarDone (s.setCtx { s.ctx with ftv := (s.team.sreg a).extractLsb' 0 32 }) s.team := by
  simp [exec_swr, execSwr, writeAccess, sup, Nat.not_lt.mpr h]

theorem swr_trapInfo (sup : s.team.sup = true) : GivesTeam (.swr 0x00C a) s { s.team with trapInfo := s.team.sreg a &&& 0xFFFFFF00FF } := by
  refine .of_done ?_ rfl
  simp [exec_swr, execSwr, writeAccess, sup]

theorem swr_trapAddr (sup : s.team.sup = true) : GivesTeam (.swr 0x00D a) s { s.team with trapAddr := s.team.sreg a } := by
  refine .of_done ?_ rfl
  simp [exec_swr, execSwr, writeAccess, sup]

theorem swr_trapBase (sup : s.team.sup = true) :
    exec (.swr 0x00E a) s = scalarDone (s.setCtx { s.ctx with trapBase := s.team.sreg a }) s.team := by
  simp [exec_swr, execSwr, writeAccess, sup]

theorem swr_mode (drained : s.team.drained = true) :
    GivesTeam (.swr 0x00B a) s { s.team with stallchk := (s.team.sreg a).getLsbD 0, keep := (s.team.sreg a).getLsbD 1 } := by
  refine .of_done ?_ rfl
  simp [exec_swr, execSwr, writeAccess, drained]

theorem swr_mode_waits (busy : s.team.drained = false) : exec (.swr 0x00B a) s = .next s := by
  simp [exec_swr, execSwr, writeAccess, busy, scalarWait]

end

/-- What `SWR` keeps of a value for `TRAPINFO`: the fields of R84, and none of the reserved bits. -/
theorem trapInfo_fields (x : Word64) :
    (x &&& 0xFFFFFF00FF).extractLsb' 0 8 = x.extractLsb' 0 8 ∧ (x &&& 0xFFFFFF00FF).extractLsb' 16 24 = x.extractLsb' 16 24 ∧
      (x &&& 0xFFFFFF00FF).extractLsb' 8 8 = 0 ∧ (x &&& 0xFFFFFF00FF).extractLsb' 40 24 = 0 := by
  have cause : (0xFFFFFF00FF : Word64).extractLsb' 0 8 = BitVec.allOnes 8 := by decide
  have fields : (0xFFFFFF00FF : Word64).extractLsb' 16 24 = BitVec.allOnes 24 := by decide
  have low : (0xFFFFFF00FF : Word64).extractLsb' 8 8 = 0#8 := by decide
  have high : (0xFFFFFF00FF : Word64).extractLsb' 40 24 = 0#24 := by decide
  exact ⟨by rw [BitVec.extractLsb'_and, cause, BitVec.and_allOnes], by rw [BitVec.extractLsb'_and, fields, BitVec.and_allOnes],
    by rw [BitVec.extractLsb'_and, low, BitVec.and_zero]; rfl, by rw [BitVec.extractLsb'_and, high, BitVec.and_zero]; rfl⟩

/-! ### The obligation -/

/-- Settles O14, register by register: `SRD` by what `specialRead` answers for the number, `SWR` by its three checks and its write. -/
theorem specialRegistersAreReadAndWritten : Obligations.SpecialRegistersAreReadAndWritten := by
  refine ⟨fun d s => ?_, fun a s => ?_⟩
  · have now {n : BitVec 13} {x : Word64} (read : specialRead s n.toNat = .ok (false, x)) (below : n.toNat < 0x20) :
        GivesSreg (.srd d n) s d x := srd_gives read below nofun
    refine ⟨now rfl (by decide), fun busy n hn => ?_, fun drained => ?_, now rfl (by decide), now rfl (by decide), now rfl (by decide),
      ?_, now rfl (by decide), ⟨_, now rfl (by decide), modeWord_fields _ _⟩, now rfl (by decide), now rfl (by decide),
      now rfl (by decide), fun c hc => ?_, fun n can high => ?_⟩
    · simp only [List.mem_cons, List.not_mem_nil, or_false] at hn
      rcases hn with rfl | rfl | rfl | rfl | rfl <;> exact srd_waits rfl busy
    · have after {n : BitVec 13} {x : Word64} (read : specialRead s n.toNat = .ok (true, x)) (below : n.toNat < 0x20) :
          GivesSreg (.srd d n) s d x := srd_gives read below fun _ => drained
      exact ⟨after rfl (by decide), after rfl (by decide), after (congrArg (fun x => Except.ok (true, x)) s.team.laneZero_key_low) (by decide),
        after (congrArg (fun x => Except.ok (true, x)) s.team.laneZero_key_high) (by decide), after rfl (by decide)⟩
    · obtain ⟨reserved, sel, remaining, next⟩ := wsrefWord_fields s.clock s.team.wsSel
      exact ⟨_, now rfl (by decide), reserved, sel, by rw [remaining, refreshRemaining_eq _ s.team.wsSel.isLt],
        by rw [next, refreshUntil_eq _ s.team.wsSel.isLt]⟩
    · refine ⟨fun declared => ⟨fun s1 waits => ?_, fun s1 performed => ?_⟩, fun undeclared can => srd_traps ?_ can⟩
      · rw [exec_srd_pointer d hc declared, withDrained, waits]
      · rw [exec_srd_pointer d hc declared, withDrained, performed]
        exact scalarDone_sreg s1 d _
      · rw [toNat_pointerNumber hc, specialRead_pointer s hc, if_neg (Nat.not_lt.mpr undeclared)]
    · exact srd_traps (by rw [specialRead_high s (by omega), if_neg (by omega)]) can
  · have inCtx {n : BitVec 13} {y : Ctx} (e : exec (.swr n a) s = scalarDone (s.setCtx y) s.team) :
        ∃ t, exec (.swr n a) s = .next t ∧ WroteCtx s t y := by rw [e]; exact scalarDone_setCtx s y
    refine ⟨.of_done rfl rfl, swr_mode_waits, swr_mode, fun sup => ⟨fun legal => inCtx (swr_ftv sup legal),
      ⟨_, swr_trapInfo sup, trapInfo_fields _⟩, swr_trapAddr sup, inCtx (swr_trapBase sup)⟩, fun can => ?_⟩
    exact ⟨fun legal => swr_privileged rfl (fun _ => legal) can, fun large => swr_badFtv large can, swr_privileged rfl nofun can,
      swr_privileged rfl nofun can, swr_privileged rfl nofun can, fun n out => swr_illegal out can⟩

end Sys2Proof.Machine
end

section
/-! SUPPORT. The codes of the operands and modifiers of a word: reading undoes writing (R251 to R264). -/

namespace Sys2Proof

/-! ### Words and their fields -/

theorem unpackScalar_packScalar (f : ScalarFields) : unpackScalar (packScalar f) = f := by
  obtain ⟨op, d, a, b, fn⟩ := f
  simp [unpackScalar, packScalar, BitVec.extractLsb'_append_eq_of_le (v := 25) (w := 7), BitVec.extractLsb'_append_eq_of_le (v := 19) (w := 6),
    BitVec.extractLsb'_append_eq_of_le (v := 13) (w := 6), BitVec.extractLsb'_append_eq_left (w := 7) (w' := 6),
    BitVec.extractLsb'_append_eq_right (w := 7) (w' := 6), BitVec.extractLsb'_append_eq_right (w := 13) (w' := 6),
    BitVec.extractLsb'_append_eq_right (w := 19) (w' := 6), BitVec.extractLsb'_append_eq_right (w := 25) (w' := 7)]

theorem unpackLane_packLane (f : LaneFields) : unpackLane (packLane f) = f := by
  obtain ⟨bnd, wait, set, stall, hint, g1, g0, e, c, b, a, d, var, op⟩ := f
  simp [unpackLane, packLane, BitVec.extractLsb'_append_eq_of_le (v := 87) (w := 9), BitVec.extractLsb'_append_eq_of_le (v := 83) (w := 4),
    BitVec.extractLsb'_append_eq_of_le (v := 72) (w := 11), BitVec.extractLsb'_append_eq_of_le (v := 61) (w := 11),
    BitVec.extractLsb'_append_eq_of_le (v := 50) (w := 11), BitVec.extractLsb'_append_eq_of_le (v := 39) (w := 11),
    BitVec.extractLsb'_append_eq_of_le (v := 28) (w := 11), BitVec.extractLsb'_append_eq_of_le (v := 20) (w := 8),
    BitVec.extractLsb'_append_eq_of_le (v := 12) (w := 8), BitVec.extractLsb'_append_eq_of_le (v := 10) (w := 2),
    BitVec.extractLsb'_append_eq_of_le (v := 6) (w := 4), BitVec.extractLsb'_append_eq_of_le (v := 4) (w := 2),
    BitVec.extractLsb'_append_eq_left (w := 1) (w' := 3), BitVec.extractLsb'_append_eq_right (w := 1) (w' := 3),
    BitVec.extractLsb'_append_eq_right (w := 4) (w' := 2), BitVec.extractLsb'_append_eq_right (w := 6) (w' := 4),
    BitVec.extractLsb'_append_eq_right (w := 10) (w' := 2), BitVec.extractLsb'_append_eq_right (w := 12) (w' := 8),
    BitVec.extractLsb'_append_eq_right (w := 20) (w' := 8), BitVec.extractLsb'_append_eq_right (w := 28) (w' := 11),
    BitVec.extractLsb'_append_eq_right (w := 39) (w' := 11), BitVec.extractLsb'_append_eq_right (w := 50) (w' := 11),
    BitVec.extractLsb'_append_eq_right (w := 61) (w' := 11), BitVec.extractLsb'_append_eq_right (w := 72) (w' := 11),
    BitVec.extractLsb'_append_eq_right (w := 83) (w' := 4), BitVec.extractLsb'_append_eq_right (w := 87) (w' := 9)]

/-! ### Codes of operands -/

theorem toNat_srcCode {s : Src} (h : s.wf = true) : (srcCode s).toNat = match s with
    | .v n => n
    | .s r => 1536 + r.val
    | .special .bandw => 1600
    | .special .laneid => 1601
    | .special .ord => 1602
    | .special .keylo => 1603
    | .special .keyhi => 1604
    | .int i => (i + 1760).toNat
    | .const k => 1888 + k
    | .zero => 2047 := by
  cases s with
  | v n => simp [Src.wf] at h; simp [srcCode]; omega
  | s r => simp [srcCode]; omega
  | special x => cases x <;> rfl
  | int i => simp [Src.wf] at h; simp [srcCode]; omega
  | const k => simp [Src.wf] at h; simp [srcCode]; omega
  | zero => rfl

@[simp] theorem srcOf_srcCode {s : Src} (h : s.wf = true) : srcOf (srcCode s) = s := by
  rw [srcOf, toNat_srcCode h]
  cases s with
  | v n => simp [Src.wf] at h; simp [h]
  | s r => simp [show 1536 + r.val < 1600 by omega]
  | special x => cases x <;> rfl
  | int i => simp [Src.wf] at h; grind
  | const k => simp [Src.wf] at h; grind
  | zero => rfl

theorem toNat_dstCode {d : Dst} (h : d.wf = true) : (dstCode d).toNat = match d with
    | .v n => n
    | .discard => 2047 := by
  cases d with
  | v n => simp [Dst.wf] at h; simp [dstCode]; omega
  | discard => rfl

@[simp] theorem dstOf_dstCode {d : Dst} (h : d.wf = true) : dstOf (dstCode d) = d := by
  rw [dstOf, toNat_dstCode h]
  cases d with
  | v n => simp [Dst.wf] at h ⊢; omega
  | discard => rfl

theorem toNat_pdstCode {d : PDst} (h : d.wf = true) : (pdstCode d).toNat = match d with
    | .p n => n
    | .discard => 127 := by
  cases d with
  | p n => simp [PDst.wf] at h; simp [pdstCode]; omega
  | discard => rfl

@[simp] theorem pdstOf_pdstCode {d : PDst} (h : d.wf = true) : pdstOf (pdstCode d) = d := by
  rw [pdstOf, toNat_pdstCode h]
  cases d with
  | p n => simp [PDst.wf] at h ⊢; omega
  | discard => rfl

theorem toNat_append_add {m n : Nat} (x : BitVec m) (y : BitVec n) : (x ++ y).toNat = 2 ^ n * x.toNat + y.toNat := by
  rw [BitVec.toNat_append, Nat.shiftLeft_eq, Nat.mul_comm, Nat.two_pow_add_eq_or_of_lt y.isLt]

theorem PSrc.idx_lt {p : PSrc} (h : p.wf = true) : p.idx < 128 := by
  simp [PSrc.wf] at h; omega

theorem toNat_psrcCode {p : PSrc} (h : p.wf = true) : (psrcCode p).toNat = 128 * p.neg.toNat + p.idx := by
  refine (toNat_append_add (bit1 p.neg) (BitVec.ofNat 7 p.idx)).trans ?_
  have := PSrc.idx_lt h
  simp [bit1, Nat.mod_eq_of_lt this]

@[simp] theorem psrcOf_psrcCode {p : PSrc} (h : p.wf = true) : psrcOf (psrcCode p) = p := by
  have := PSrc.idx_lt h
  have neg : (psrcCode p).getLsbD 7 = p.neg := by
    rw [BitVec.getLsbD, toNat_psrcCode h, Nat.testBit_eq_decide_div_mod_eq]
    cases p.neg <;> simp <;> omega
  rw [psrcOf, neg, toNat_psrcCode h]
  simp [Nat.mod_eq_of_lt this]

@[simp] theorem psrcOf11_psrcCode11 {p : PSrc} (h : p.wf = true) : psrcOf11 (psrcCode11 p) = p := by
  rw [psrcOf11]
  exact (congrArg _ BitVec.extractLsb'_append_eq_right).trans (psrcOf_psrcCode h)

@[simp] theorem ctlOf_mk {c : Ctl} (hc : c.wf = true) (hint e x b a d var op) :
    ctlOf ⟨bit1 c.boundary, BitVec.ofNat 3 c.wait, BitVec.ofNat 2 c.set, BitVec.ofNat 4 c.stall, hint, psrcCode c.g1, psrcCode c.g0,
      e, x, b, a, d, var, op⟩ = c := by
  obtain ⟨g0, g1, stall, set, wait, bnd⟩ := c
  simp [Ctl.wf, and_assoc] at hc
  obtain ⟨h0, h1, h2, h3, h4⟩ := hc
  simp [ctlOf, psrcOf_psrcCode, Nat.mod_eq_of_lt, *]
  cases bnd <;> rfl

/-! ### Codes of modifiers (R254, R259 to R264) -/

@[simp] theorem bit1_getElem (x : Bool) : (bit1 x)[0] = x := by cases x <;> rfl
@[simp] theorem bit1_toNat (x : Bool) : (bit1 x).toNat = x.toNat := by cases x <;> rfl

@[simp] theorem intTyOf_append (x : BitVec 2) (ty : IntTy) : intTyOf (x ++ intTyCode ty) = ty := by
  rw [intTyOf, BitVec.extractLsb'_append_eq_right]; cases ty <;> rfl
@[simp] theorem rmOf_append (x : BitVec 2) (md : Rm) : rmOf (x ++ rmCode md) = md := by
  rw [rmOf, BitVec.extractLsb'_append_eq_right]; cases md <;> rfl
@[simp] theorem widthOf_append (x : BitVec 2) (w : Width) : widthOf (x ++ widthCode w) = w := by
  rw [widthOf, BitVec.extractLsb'_append_eq_right]; cases w <;> rfl
@[simp] theorem shflModeOf_append (x : BitVec 2) (m : ShflMode) : shflModeOf (x ++ shflModeCode m) = m := by
  rw [shflModeOf, BitVec.extractLsb'_append_eq_right]; cases m <;> rfl
@[simp] theorem portOf_append (x : BitVec 3) (pt : Port) : portOf (x ++ portCode pt) = pt := by
  rw [portOf, BitVec.getLsbD_append (n := 3) (m := 1)]; cases pt <;> rfl
@[simp] theorem elemWOf_append (x : BitVec 1) (w : ElemW) (y : BitVec 1) : elemWOf (x ++ elemWCode w ++ y) = w := by
  rw [elemWOf, BitVec.extractLsb'_append_eq_of_le (v := 3) (w := 1) (by decide), BitVec.extractLsb'_append_eq_right]; cases w <;> rfl
@[simp] theorem wideCode_getElem (x : BitVec 2) (wide : Bool) : (x ++ wideCode wide)[0] = wide := by
  rw [BitVec.getElem_append (n := 2) (m := 2)]; cases wide <;> rfl
@[simp] theorem condOf_condCode (cd : Cond) : condOf (condCode cd).toNat = cd := by cases cd <;> rfl
@[simp] theorem orderOf_orderCode (o : Order) : orderOf (orderCode o).toNat = o := by cases o <;> rfl
@[simp] theorem scopeOf_scopeCode (sc : Scope) : scopeOf (scopeCode sc).toNat = sc := by cases sc <;> rfl
@[simp] theorem hintOf_hintCode (h : Hint) : hintOf (hintCode h) = h := by cases h <;> rfl
@[simp] theorem redOpOf_redOpCode (op : RedOp) : redOpOf (redOpCode op).toNat = op := by cases op <;> rfl
@[simp] theorem bandOpOf_bandOpCode (op : BandOp) : bandOpOf (bandOpCode op).toNat = op := by
  cases op with
  | int o => cases o <;> rfl
  | fadd | fmin | fmax => rfl
@[simp] theorem atomOpOf_atomOpCode (op : AtomOp) : atomOpOf (atomOpCode op).toNat = op := by cases op <;> rfl
@[simp] theorem cvtTyOf_cvtTyCode (ty : CvtTy) : cvtTyOf (cvtTyCode ty).toNat = ty := by cases ty <;> rfl
@[simp] theorem sregOf_sregCode (r : SReg) : sregOf (sregCode r) = r := by
  apply Fin.ext
  have : (sregCode r).toNat = 1536 + r.val := by simp [sregCode]; omega
  simp only [sregOf, this, Fin.ofNat]
  omega
@[simp] theorem toNat_tileNo {t : Nat} (h : t < 32) : (tileNo t).toNat = t := by simp [tileNo]; omega

@[simp] theorem memOrder_memModCode (op : BitVec 4) (mc : Bool) (sc : Scope) (o : Order) : memOrder (memModCode op mc sc o) = (orderCode o).toNat := by
  rw [memOrder, memModCode, BitVec.extractLsb'_append_eq_right]
@[simp] theorem memScope_memModCode (op : BitVec 4) (mc : Bool) (sc : Scope) (o : Order) : memScope (memModCode op mc sc o) = (scopeCode sc).toNat := by
  rw [memScope, memModCode, BitVec.extractLsb'_append_eq_of_le (v := 8) (w := 3) (by decide), BitVec.extractLsb'_append_eq_right]
@[simp] theorem memMc_memModCode (op : BitVec 4) (mc : Bool) (sc : Scope) (o : Order) : memMc (memModCode op mc sc o) = mc := by
  rw [memMc, memModCode, BitVec.getLsbD_append (n := 8) (m := 3), BitVec.getLsbD_append (n := 5) (m := 3), BitVec.getLsbD_append (n := 4) (m := 1)]
  cases mc <;> rfl
@[simp] theorem memOp_memModCode (op : BitVec 4) (mc : Bool) (sc : Scope) (o : Order) : memOp (memModCode op mc sc o) = op.toNat := by
  rw [memOp, memModCode, BitVec.extractLsb'_append_eq_of_le (v := 8) (w := 3) (by decide),
    BitVec.extractLsb'_append_eq_of_le (v := 5) (w := 3) (by decide), BitVec.extractLsb'_append_eq_of_le (v := 4) (w := 1) (by decide)]
  simp
@[simp] theorem swizzleOf_swizzleCode {x : Swizzle} (h : x.wf = true) : swizzleOf (swizzleCode x) = x := by
  obtain ⟨b, m, k⟩ := x
  rw [swizzleOf, swizzleCode, BitVec.extractLsb'_append_eq_of_le (v := 8) (w := 3) (by decide), BitVec.extractLsb'_append_eq_left,
    BitVec.extractLsb'_append_eq_of_le (v := 8) (w := 3) (by decide), BitVec.extractLsb'_append_eq_right, BitVec.extractLsb'_append_eq_right]
  simp [Swizzle.wf] at h
  simp
  grind

/-! ### Fields within a field -/

@[simp] theorem getElem_three_append_1_1_2 (x y : BitVec 1) (lo : BitVec 2) : (x ++ y ++ lo)[3] = x[0] := by
  rw [BitVec.getElem_append (n := 2) (m := 2), dif_neg (by decide), BitVec.getElem_append (n := 1) (m := 1), dif_neg (by decide)]
@[simp] theorem getElem_two_append_1_1_2 (x y : BitVec 1) (lo : BitVec 2) : (x ++ y ++ lo)[2] = y[0] := by
  rw [BitVec.getElem_append (n := 2) (m := 2), dif_neg (by decide), BitVec.getElem_append (n := 1) (m := 1), dif_pos (by decide)]
@[simp] theorem getElem_two_append_1_1_1_1 (x y z w : BitVec 1) : (x ++ y ++ z ++ w)[2] = y[0] := by
  rw [BitVec.getElem_append (n := 3) (m := 1), dif_neg (by decide), BitVec.getElem_append (n := 2) (m := 1), dif_neg (by decide),
    BitVec.getElem_append (n := 1) (m := 1), dif_pos (by decide)]
@[simp] theorem getElem_one_append_2_1_1 (x : BitVec 2) (y z : BitVec 1) : (x ++ y ++ z)[1] = y[0] := by
  rw [BitVec.getElem_append (n := 3) (m := 1), dif_neg (by decide), BitVec.getElem_append (n := 2) (m := 1), dif_pos (by decide)]
@[simp] theorem getElem_zero_append_3_1 (x : BitVec 3) (y : BitVec 1) : (x ++ y)[0] = y[0] := by
  rw [BitVec.getElem_append (n := 3) (m := 1), dif_pos (by decide)]

@[simp] theorem cvt_to (x : BitVec 1) (y z : BitVec 5) : (x ++ y ++ z).extractLsb' 0 5 = z := BitVec.extractLsb'_append_eq_right
@[simp] theorem cvt_from (x : BitVec 1) (y z : BitVec 5) : (x ++ y ++ z).extractLsb' 5 5 = y := by
  rw [BitVec.extractLsb'_append_eq_of_le (v := 6) (w := 5) (by decide), BitVec.extractLsb'_append_eq_right]
@[simp] theorem xfer_channel (x : BitVec 4) (y : BitVec 7) : (x ++ y).extractLsb' 7 4 = x := BitVec.extractLsb'_append_eq_left
@[simp] theorem xfer_bytes (x : BitVec 4) (y : BitVec 7) : (x ++ y).extractLsb' 0 7 = y := BitVec.extractLsb'_append_eq_right
@[simp] theorem prune_k (x : BitVec 2) (y : BitVec 6) (z : BitVec 3) : (x ++ y ++ z).extractLsb' 3 6 = y := by
  rw [BitVec.extractLsb'_append_eq_of_le (v := 8) (w := 3) (by decide), BitVec.extractLsb'_append_eq_right]
@[simp] theorem prune_lg (x : BitVec 2) (y : BitVec 6) (z : BitVec 3) : (x ++ y ++ z).extractLsb' 0 3 = z := BitVec.extractLsb'_append_eq_right

/-- Fields b, c and e of a b operand that may be an immediate (R255). -/
def immFieldB : SrcImm → BitVec 11
  | .code s => srcCode s
  | .imm x => x.extractLsb' 0 11
def immFieldC : SrcImm → BitVec 11
  | .code _ => 0
  | .imm x => x.extractLsb' 11 11
def immFieldE : SrcImm → BitVec 11
  | .code _ => 0
  | .imm x => (0#1) ++ x.extractLsb' 22 10

theorem fieldsDab_eq (c : Ctl) (op : BitVec 9) (v2 : BitVec 1) (lo : BitVec 2) (d : Dst) (a : Src) (y : SrcImm) :
    fieldsDab c op v2 lo d a y = fieldsD c op (immBit y ++ v2 ++ lo) (dstCode d) (srcCode a) (immFieldB y) (immFieldC y) (immFieldE y) := by
  cases y <;> rfl

/-- The three parts of an immediate are the immediate. -/
theorem imm_parts (x : Word32) :
    (((0#1 ++ x.extractLsb' 22 10 : BitVec 11).extractLsb' 0 10 ++ x.extractLsb' 11 11 : BitVec 21) ++ x.extractLsb' 0 11 : BitVec 32) = x := by
  rw [BitVec.extractLsb'_append_eq_right (w := 1) (w' := 10),
    BitVec.extractLsb'_append_extractLsb'_eq_extractLsb' (start₂ := 22) (start₁ := 11) (len₂ := 10) (by decide),
    BitVec.extractLsb'_append_extractLsb'_eq_extractLsb' (start₂ := 11) (start₁ := 0) (len₂ := 21) (by decide)]
  simp

@[simp] theorem srcImmOf_mk {y : SrcImm} (h : y.wf = true) (bnd wait set stall hint g1 g0 a d) (v2 : BitVec 1) (lo : BitVec 2) (op) :
    srcImmOf ⟨bnd, wait, set, stall, hint, g1, g0, immFieldE y, immFieldC y, immFieldB y, a, d, immBit y ++ v2 ++ lo, op⟩ = y := by
  cases y with
  | code s => simp [srcImmOf, immFieldB, srcOf_srcCode (s := s) h, immBit]
  | imm x =>
    rw [srcImmOf, if_pos (by simp [immBit])]
    exact congrArg SrcImm.imm (imm_parts x)

end Sys2Proof
end

section
/-! SUPPORT. A lane word: the instruction and the defects that its fields show (R253 to R266). -/

namespace Sys2Proof

theorem cmp_of_not_cas {op : AtomOp} {cmp : Src} (h : cmpWf op cmp = true) (other : op ≠ .cas) : cmp = .v 0 := by
  cases op
  case cas => contradiction
  all_goals simpa [cmpWf] using h

theorem cmpWf_wf {op : AtomOp} {cmp : Src} (h : cmpWf op cmp = true) : cmp.wf = true := by
  by_cases cas : op = .cas
  · subst cas; exact h
  · rw [cmp_of_not_cas h cas]; rfl

/-! ### The instruction that the fields stand for -/

theorem buildLane_fieldsOf {i : Instr} {f : LaneFields} (wf : wellFormed i = true) (h : fieldsOf i = some f) : buildLane f = i := by
  cases i
  case iadd | isub | imul | imulh | imad | idiv | irem | imin | imax | iabs | ineg | land | lor | lxor | lnot | shl | shr | sar | rol | popc
      | clz | brev | bfe | bfi | mov | sel | icmp | fadd | fsub | fmul | ffma | fmin | fmax | fabs | fneg | fcmp | frint =>
    cases h
    simp [wellFormed, and_assoc] at wf
    simp [fieldsDab_eq, buildLane, buildInt, buildFloat, fieldsD, baseFields, wf]
  case dadd | dsub | dmul | dfma | dmin | dmax | dabs | dneg | dcmp | cvt | rcp | rsq | sqrt | exp2 | log2 | sin | cos | rand
      | pand | por | pxor | pandn | shfl | reduce | scan | sample | msplit | isect =>
    cases h
    simp [wellFormed, and_assoc] at wf
    simp [buildLane, buildDouble, buildFunc, buildCross, fieldsD, baseFields, wf]
  case vote c m p =>
    cases m <;> (cases h; simp [wellFormed, and_assoc] at wf; simp [buildLane, buildCross, fieldsD, baseFields, wf])
  case atos c _ op _ _ d a x cmp | gatom c _ _ op _ _ d a x cmp =>
    cases h
    simp [wellFormed, and_assoc] at wf
    simp [buildLane, buildMem, fieldsD, baseFields, wf, cmpWf_wf wf.2.2.2.2]
  case lds | sts | gld | gst | gred | xfer | fence | tld | tst | tmov | tzero | wld | mma | mmaPair | emit | nop =>
    cases h
    simp [wellFormed, and_assoc] at wf
    simp [buildLane, buildMem, buildTile, buildMulti, fieldsD, baseFields, wf]
  case prune c w k lg d a =>
    cases h
    simp [wellFormed, and_assoc] at wf
    simp [buildLane, buildTile, fieldsD, baseFields, wf, Nat.mod_eq_of_lt (show lg < 8 by omega)]
  case become | bar | barn =>
    cases h
    simp [wellFormed, and_assoc] at wf
    simp [buildLane, buildMulti, fieldsD, baseFields, wf.1, wf.2.1]
    omega
  case ltrap =>
    cases h
    simp [wellFormed, and_assoc] at wf
    simp [buildLane, buildMulti, fieldsD, baseFields, wf.1, wf.2.1]
  all_goals nomatch h

/-! ### Defects -/

/-- A code that a field of the given kind may hold: details 0x03, 0x05 and 0x07 do not apply to it (R266). -/
def Kind.Fits (k : Kind) (x : BitVec 11) : Prop :=
  codeBad k x = false ∧ (k = .p ∨ k = .pd → badIndex x.toNat = false) ∧ (k = .none → x = 0)

theorem badIndex_of_wf {p : PSrc} (h : p.wf = true) : badIndex (psrcCode p).toNat = false := by
  rw [toNat_psrcCode h, badIndex]
  simp [PSrc.wf] at h ⊢
  omega

@[simp] theorem Src.fits {s : Src} (h : s.wf = true) : Kind.Fits .v (srcCode s) := by
  refine ⟨?_, nofun, nofun⟩
  rw [codeBad, toNat_srcCode h]
  cases s with
  | v n => simp [Src.wf] at h; grind
  | s r => have := r.isLt; grind
  | special x => cases x <;> rfl
  | int i => simp [Src.wf] at h; grind
  | const k => simp [Src.wf] at h; grind
  | zero => rfl
@[simp] theorem Src.fits_uniform {s : Src} (h : s.wf = true) (u : s.uniform = true) : Kind.Fits .uni (srcCode s) := by
  refine ⟨?_, nofun, nofun⟩
  rw [codeBad, toNat_srcCode h]
  cases s with
  | v n => nomatch u
  | s r => have := r.isLt; grind
  | special x => nomatch u
  | int i => simp [Src.wf] at h; grind
  | const k => nomatch u
  | zero => rfl
@[simp] theorem Dst.fits {d : Dst} (h : d.wf = true) : Kind.Fits .vd (dstCode d) := by
  refine ⟨?_, nofun, nofun⟩
  rw [codeBad, toNat_dstCode h]
  cases d with
  | v n => simp [Dst.wf] at h; grind
  | discard => rfl
@[simp] theorem PDst.fits {d : PDst} (h : d.wf = true) : Kind.Fits .pd (pdstCode d) := by
  refine ⟨?_, fun _ => ?_, nofun⟩ <;> simp only [codeBad, badIndex, toNat_pdstCode h] <;> cases d with
  | p n => simp [PDst.wf] at h ⊢; omega
  | discard => rfl
@[simp] theorem PSrc.fits {p : PSrc} (h : p.wf = true) : Kind.Fits .p (psrcCode11 p) := by
  have e : (psrcCode11 p).toNat = (psrcCode p).toNat := (toNat_append_add (0#3) (psrcCode p)).trans (by simp)
  exact ⟨by simp [codeBad, e, (psrcCode p).isLt], fun _ => by rw [e, badIndex_of_wf h], nofun⟩
@[simp] theorem tileNo_fits {t : Nat} (h : t < 32) : Kind.Fits .t (tileNo t) :=
  ⟨by simp [codeBad, toNat_tileNo h, h], nofun, nofun⟩
@[simp] theorem sregCode_fits (r : SReg) : Kind.Fits .sreg (sregCode r) := by
  have : (sregCode r).toNat = 1536 + r.val := by simp [sregCode]; omega
  refine ⟨?_, nofun, nofun⟩
  simp [codeBad, this]
  omega
@[simp] theorem Kind.fits_num (x : BitVec 11) : Kind.Fits .num x := ⟨rfl, nofun, nofun⟩
@[simp] theorem Kind.fits_none : Kind.Fits .none 0#11 := ⟨rfl, nofun, fun _ => rfl⟩
theorem atomOpCode_eq_cas (op : AtomOp) : (atomOpCode op).toNat = 12 ↔ op = .cas := by cases op <;> decide
@[simp] theorem cmp_fits {op : AtomOp} {cmp : Src} (h : cmpWf op cmp = true) :
    Kind.Fits (if (atomOpCode op).toNat = 12 then .v else .none) (srcCode cmp) := by
  by_cases cas : op = .cas
  · rw [if_pos ((atomOpCode_eq_cas op).mpr cas)]
    exact Src.fits (cmpWf_wf h)
  · rw [if_neg (mt (atomOpCode_eq_cas op).mp cas), cmp_of_not_cas h cas]
    exact Kind.fits_none
@[simp] theorem register_fits {n : Nat} (h : n < 1536) : Kind.Fits .l (BitVec.ofNat 11 n) :=
  ⟨by simp [codeBad]; omega, nofun, nofun⟩

/-- What the row of a lane word without an immediate asks of its fields (R254 to R266). -/
structure Row.Allows (r : Row) (f : LaneFields) : Prop where
  noImm : immForm r.var f.var = false
  variant : varOk r.var f = true
  d : r.d.Fits f.d
  a : r.a.Fits f.a
  b : r.b.Fits f.b
  c : r.c.Fits f.c
  e : r.e.Fits f.e
  cvt : r.md = .cvt → f.e[10] = false
  hint : r.hint = true ∨ f.hint = 0
  modifier : modOk r f = true
  ends : endsRun r f = true → f.bnd = 1

theorem Row.allows_iff (r : Row) (f : LaneFields) : r.Allows f ↔ immForm r.var f.var = false ∧ varOk r.var f = true ∧ r.d.Fits f.d ∧ r.a.Fits f.a ∧
    r.b.Fits f.b ∧ r.c.Fits f.c ∧ r.e.Fits f.e ∧ (r.md = .cvt → f.e[10] = false) ∧ (r.hint = true ∨ f.hint = 0) ∧ modOk r f = true ∧
    (endsRun r f = true → f.bnd = 1) :=
  ⟨fun ⟨h0, h1, h2, h3, h4, h5, h6, h7, h8, h9, h10⟩ => ⟨h0, h1, h2, h3, h4, h5, h6, h7, h8, h9, h10⟩,
    fun ⟨h0, h1, h2, h3, h4, h5, h6, h7, h8, h9, h10⟩ => ⟨h0, h1, h2, h3, h4, h5, h6, h7, h8, h9, h10⟩⟩

/-- Both guards of the word exist (R65). -/
def LaneFields.GuardsOk (f : LaneFields) : Prop := badIndex f.g0.toNat = false ∧ badIndex f.g1.toNat = false

theorem guardsOk_of_wf {c : Ctl} (hc : c.wf = true) {f : LaneFields} (h0 : f.g0 = psrcCode c.g0) (h1 : f.g1 = psrcCode c.g1) : f.GuardsOk := by
  simp [Ctl.wf, and_assoc] at hc
  exact ⟨by rw [h0, badIndex_of_wf hc.1], by rw [h1, badIndex_of_wf hc.2.1]⟩

/-- A lane word whose guards exist and whose row allows its fields has no static defect (R266). -/
theorem laneDefect_none {f : LaneFields} (guards : f.GuardsOk) (row : ∃ r, rowOf f = some r ∧ r.Allows f) : laneDefect f = none := by
  obtain ⟨r, row, imm, variant, ⟨hd, pd, nd⟩, ⟨ha, pa, na⟩, ⟨hb, pb, nb⟩, ⟨hx, px, nx⟩, ⟨he, pe, ne⟩, cvt, hint, md, ends⟩ := row
  obtain ⟨g0, g1⟩ := guards
  have unused : unusedSet r f = false := by
    simp [unusedSet, imm]
    grind
  have codes : codesBad r f = false := by
    simp [codesBad, *]
  have preds : predsBad r f = false := by
    simp [predsBad, g0, g1]
    grind
  rw [laneDefect, row]
  simp [variant, unused, md, codes, preds]
  exact ends

/-! ### What the rows ask of variants and modifiers -/

@[simp] theorem getElem_three_zeros_append (lo : BitVec 2) : (0#2 ++ lo)[3] = false := by
  rw [BitVec.getElem_append (n := 2) (m := 2), dif_neg (by decide)]; rfl
@[simp] theorem getElem_two_zeros_append (lo : BitVec 2) : (0#2 ++ lo)[2] = false := by
  rw [BitVec.getElem_append (n := 2) (m := 2), dif_neg (by decide)]; rfl
@[simp] theorem getElem_three_append_1_1_1_1 (x y z w : BitVec 1) : (x ++ y ++ z ++ w)[3] = x[0] := by
  rw [BitVec.getElem_append (n := 3) (m := 1), dif_neg (by decide), BitVec.getElem_append (n := 2) (m := 1), dif_neg (by decide),
    BitVec.getElem_append (n := 1) (m := 1), dif_neg (by decide)]
@[simp] theorem getElem_three_append_1_2_1 (x w : BitVec 1) (y : BitVec 2) : (x ++ y ++ w)[3] = x[0] := by
  rw [BitVec.getElem_append (n := 3) (m := 1), dif_neg (by decide), BitVec.getElem_append (n := 1) (m := 2), dif_neg (by decide)]
@[simp] theorem getElem_zero_append_1_2_1 (x w : BitVec 1) (y : BitVec 2) : (x ++ y ++ w)[0] = w[0] := by
  rw [BitVec.getElem_append (n := 3) (m := 1), dif_pos (by decide)]
@[simp] theorem toNat_zeros_append_1 (y : BitVec 1) : (0#3 ++ y).toNat = y.toNat := (toNat_append_add (0#3) y).trans (by simp)
@[simp] theorem condCode_le (cd : Cond) : (condCode cd).toNat ≤ 7 := by cases cd <;> decide
@[simp] theorem condCode_le_of_int {cd : Cond} (h : cd.intWf = true) : (condCode cd).toNat ≤ 5 := by
  cases cd with
  | num | nan => nomatch h
  | eq | ne | lt | le | gt | ge => decide
@[simp] theorem bit1_true : bit1 true = 1#1 := rfl
@[simp] theorem prune_lt (y : BitVec 6) (z : BitVec 3) : (0#2 ++ y ++ z).toNat < 512 := by
  have e : (0#2 ++ y ++ z).toNat = 8 * (0#2 ++ y).toNat + z.toNat := toNat_append_add (0#2 ++ y) z
  have e2 : (0#2 ++ y).toNat = y.toNat := (toNat_append_add (0#2) y).trans (by simp)
  rw [e, e2]
  omega
@[simp] theorem bool_toNat_le_one (x : Bool) : x.toNat ≤ 1 := Bool.toNat_le x
@[simp] theorem portCode_le (x : Port) : (portCode x).toNat ≤ 1 := by omega
@[simp] theorem bandOpCode_lt (op : BandOp) : (bandOpCode op).toNat < 11 := by
  cases op with
  | int o => cases o <;> decide
  | fadd | fmin | fmax => decide
@[simp] theorem cvtTyCode_lt (ty : CvtTy) : (cvtTyCode ty).toNat < 16 := by cases ty <;> decide
theorem cvtTyCode_isFloat (ty : CvtTy) : ty.isFloat = decide (8 ≤ (cvtTyCode ty).toNat) := by cases ty <;> rfl
theorem cvtSat_legal {sat : Bool} {dt st : CvtTy} (h : cvtSatWf sat dt st = true) : sat = false ∨ (cvtTyCode st).toNat < 8 ∨ 8 ≤ (cvtTyCode dt).toNat := by
  cases sat with
  | false => exact .inl rfl
  | true => simp [cvtSatWf, cvtTyCode_isFloat] at h; omega
@[simp] theorem cvt_top (x : BitVec 1) (y z : BitVec 5) : (x ++ y ++ z)[10] = x[0] := by
  rw [BitVec.getElem_append (n := 6) (m := 5), dif_neg (by decide), BitVec.getElem_append (n := 1) (m := 5), dif_neg (by decide)]

@[simp] theorem scopeCode_le (sc : Scope) : (scopeCode sc).toNat ≤ 4 := by cases sc <;> decide
@[simp] theorem atomOpCode_lt (op : AtomOp) : (atomOpCode op).toNat < 13 := by cases op <;> decide
@[simp] theorem orderCode_legal (o : Order) : (orderCode o).toNat = 0 ∨ (orderCode o).toNat = 1 ∨ (orderCode o).toNat = 2 ∨ (orderCode o).toNat = 3 ∨
    (orderCode o).toNat = 4 := by cases o <;> decide
@[simp] theorem Order.loadWf_code {o : Order} (h : o.loadWf = true) : (orderCode o).toNat = 0 ∨ (orderCode o).toNat = 1 ∨ (orderCode o).toNat = 4 := by
  cases o with
  | rlx | acq | sc => decide
  | rel | ar => nomatch h
@[simp] theorem Order.storeWf_code {o : Order} (h : o.storeWf = true) : (orderCode o).toNat = 0 ∨ (orderCode o).toNat = 2 ∨ (orderCode o).toNat = 4 := by
  cases o with
  | rlx | rel | sc => decide
  | acq | ar => nomatch h
@[simp] theorem Order.fenceWf_code {o : Order} (h : o.fenceWf = true) :
    (orderCode o).toNat = 1 ∨ (orderCode o).toNat = 2 ∨ (orderCode o).toNat = 3 ∨ (orderCode o).toNat = 4 := by
  cases o with
  | rlx => nomatch h
  | acq | rel | ar | sc => decide
theorem fenceEnds_code {c : Ctl} {o : Order} (h : fenceEnds c o = true) (sc : (orderCode o).toNat = 4) : c.boundary = true := by
  cases o with
  | sc => exact h
  | rlx | acq | rel | ar => nomatch sc
@[simp] theorem widthCode_legal (w : Width) : (widthCode w).toNat = 0 ∨ (widthCode w).toNat = 1 ∨ (widthCode w).toNat = 2 ∨ (widthCode w).toNat = 3 := by
  cases w <;> decide
@[simp] theorem wideCode_legal (wide : Bool) : (wideCode wide).toNat = 2 ∨ (wideCode wide).toNat = 3 := by cases wide <;> decide
@[simp] theorem Width.sxWf_code {w : Width} {sx : Bool} (h : w.sxWf sx = true) : sx = false ∨ (widthCode w).toNat ≤ 1 := by
  cases w with
  | b1 | b2 => exact .inr (by decide)
  | b4 | b8 => exact .inl (by simpa [Width.sxWf] using h)
@[simp] theorem mcWf_code {mc : Bool} {sc : Scope} (h : mcWf mc sc = true) : mc = false ∨ 3 ≤ (scopeCode sc).toNat := by
  cases sc with
  | dom | sys => exact .inr (by decide)
  | team | block | dev => exact .inl (by simpa [mcWf] using h)
@[simp] theorem AtomOp.gredWf_code {op : AtomOp} (h : op.gredWf = true) : (atomOpCode op).toNat < 11 := by
  cases op
  case swap | cas => nomatch h
  all_goals decide
@[simp] theorem extractLsb'_zero_append_2_2 (x lo : BitVec 2) : (x ++ lo).extractLsb' 0 2 = lo := BitVec.extractLsb'_append_eq_right

@[simp] theorem immBit_getElem (y : SrcImm) : (immBit y)[0] = match y with | .code _ => false | .imm _ => true := by
  cases y <;> simp [immBit]

@[simp] theorem immFieldE_top (y : SrcImm) : (immFieldE y)[10] = false := by
  cases y with
  | code s => simp [immFieldE]
  | imm x => exact (BitVec.getElem_append (n := 1) (m := 10) (by decide)).trans rfl

/-! ### Words without a defect -/

/-- The same for the rows that take b as a code or as an immediate (R255). -/
theorem laneDefect_none_of_imm {c : Ctl} (hc : c.wf = true) {op : BitVec 9} {v2 : BitVec 1} {lo : BitVec 2} {d : Dst} {a : BitVec 11} {y : SrcImm}
    (hd : d.wf = true) (hy : y.wf = true) {f : LaneFields}
    (hf : f = fieldsD c op (immBit y ++ v2 ++ lo) (dstCode d) a (immFieldB y) (immFieldC y) (immFieldE y))
    (row : ∃ k ka, rowOf f = some { var := k, d := .vd, a := ka, b := .v } ∧ (∀ x : BitVec 4, immForm k x = x[3]) ∧ varOk k f = true ∧ ka.Fits a)
    (low : op.toNat ≠ 0x148) : laneDefect f = none := by
  obtain ⟨k, ka, row, imm, variant, ha⟩ := row
  have ends : endsRun { var := k, d := .vd, a := ka, b := .v } f = false := by
    subst hf
    simp [endsRun, fieldsD, baseFields, low]
  cases y with
  | code s =>
    refine laneDefect_none (guardsOk_of_wf hc (by rw [hf]; rfl) (by rw [hf]; rfl)) ⟨_, row, ?_⟩
    subst hf
    exact ⟨by simp [imm, fieldsD, baseFields], variant, Dst.fits hd, ha, Src.fits hy, Kind.fits_none, Kind.fits_none, nofun, .inr rfl, rfl, by simp [ends]⟩
  | imm x =>
    subst hf
    obtain ⟨hd, pd, nd⟩ := Dst.fits hd
    obtain ⟨ha, pa, na⟩ := ha
    simp [Ctl.wf, and_assoc] at hc
    obtain ⟨g0, g1, -⟩ := hc
    rw [laneDefect, row]
    simp [variant, ends, unusedSet, modOk, codesBad, predsBad]
    simp [fieldsD, baseFields, imm, hd, ha, badIndex_of_wf, g0, g1]
    grind

theorem laneDefect_arithmetic {i : Instr} {f : LaneFields} (wf : wellFormed i = true) (h : fieldsOf i = some f) (low : f.op.toNat < 0x100) :
    laneDefect f = none := by
  cases i
  case iadd | isub | imul | imulh | idiv | irem | imin | imax | land | lor | lxor | shl | shr | sar | rol
      | fadd | fsub | fmul | fmin | fmax =>
    cases h
    simp [wellFormed, and_assoc] at wf
    rw [fieldsDab_eq]
    refine laneDefect_none_of_imm wf.1 wf.2.1 wf.2.2.2 rfl ?_ (by decide)
    simp [rowOf, rowInt, rowFloat, immForm, varOk, fieldsD, baseFields, wf]
  case mov =>
    cases h
    simp [wellFormed, and_assoc] at wf
    rw [fieldsDab_eq]
    refine laneDefect_none_of_imm wf.1 wf.2.1 wf.2.2 rfl ?_ (by simp [baseFields])
    simp [rowOf, rowInt, immForm, varOk, fieldsD, baseFields]
  case imad | iabs | ineg | lnot | popc | clz | brev | bfe | bfi | sel | icmp | ffma | fabs | fneg | fcmp | frint
      | dadd | dsub | dmul | dfma | dmin | dmax | dabs | dneg | dcmp | rcp | rsq | sqrt | exp2 | log2 | sin | cos | rand =>
    cases h
    simp [wellFormed, and_assoc] at wf
    refine laneDefect_none (guardsOk_of_wf wf.1 rfl rfl) ?_
    simp [rowOf, rowInt, rowFloat, rowDouble, rowFunc, Row.allows_iff, immForm, varOk, modOk, endsRun, fieldsD, baseFields, wf]
  case cvt =>
    cases h
    simp [wellFormed, and_assoc] at wf
    refine laneDefect_none (guardsOk_of_wf wf.1 rfl rfl) ?_
    simp [rowOf, rowDouble, Row.allows_iff, immForm, varOk, modOk, endsRun, fieldsD, baseFields, wf]
    rcases cvtSat_legal wf.2.2.2 with h | h | h <;> simp [h]
  case vote c m p => cases m <;> (cases h; simp [fieldsD, baseFields] at low)
  all_goals cases h
  all_goals simp [fieldsD, baseFields] at low

theorem laneDefect_others {i : Instr} {f : LaneFields} (wf : wellFormed i = true) (h : fieldsOf i = some f) (high : 0x100 ≤ f.op.toNat) :
    laneDefect f = none := by
  cases i
  case vote c m p =>
    cases m <;>
    · cases h
      simp [wellFormed, and_assoc] at wf
      refine laneDefect_none (guardsOk_of_wf wf.1 rfl rfl) ?_
      simp [rowOf, rowCross, Row.allows_iff, immForm, varOk, modOk, endsRun, fieldsD, baseFields, wf]
  case pand | por | pxor | pandn | shfl | reduce | scan | sample | msplit | isect | lds | sts | gld | gst | gred | atos | gatom | xfer
      | tld | tst | tmov | tzero | wld | mma | mmaPair | emit | ltrap =>
    cases h
    simp [wellFormed, and_assoc] at wf
    refine laneDefect_none (guardsOk_of_wf wf.1 rfl rfl) ?_
    simp [rowOf, rowCross, rowMem, rowTile, rowMulti, Row.allows_iff, immForm, varOk, modOk, endsRun, fieldsD, baseFields, wf]
  case fence =>
    cases h
    simp [wellFormed, and_assoc] at wf
    refine laneDefect_none (guardsOk_of_wf wf.1 rfl rfl) ?_
    simp [rowOf, rowMem, Row.allows_iff, immForm, varOk, modOk, endsRun, fieldsD, baseFields, wf]
    exact fun h => by rw [fenceEnds_code wf.2.2 h]; rfl
  case prune | become | bar | barn =>
    cases h
    simp [wellFormed, and_assoc] at wf
    refine laneDefect_none (guardsOk_of_wf wf.1 rfl rfl) ?_
    simp [rowOf, rowTile, rowMulti, Row.allows_iff, immForm, varOk, modOk, endsRun, fieldsD, baseFields, wf]
    omega
  case nop =>
    cases h
    refine laneDefect_none (guardsOk_of_wf wf rfl rfl) ?_
    simp [rowOf, rowMulti, Row.allows_iff, immForm, varOk, modOk, endsRun, baseFields]
  all_goals cases h
  all_goals simp [fieldsDab_eq, fieldsD, baseFields] at high

theorem laneDefect_fieldsOf {i : Instr} {f : LaneFields} (wf : wellFormed i = true) (h : fieldsOf i = some f) : laneDefect f = none := by
  by_cases low : f.op.toNat < 0x100
  · exact laneDefect_arithmetic wf h low
  · exact laneDefect_others wf h (Nat.not_lt.mp low)

end Sys2Proof
end

section
/-! SUPPORT. A scalar word: the instruction that its fields show (R251, R252, R264). -/

namespace Sys2Proof

@[simp] theorem sregField_sF (r : SReg) : sregField (sF r) = r := by
  apply Fin.ext
  simp [sregField, sF]
@[simp] theorem toNat_qF (q : QReg) : (qF q).toNat = q.val := by simp [qF]; omega
@[simp] theorem qregField_qF (q : QReg) : qregField (qF q) = q := by
  apply Fin.ext
  simp [qregField]
@[simp] theorem qBad_qF (q : QReg) : qBad (qF q) = false := by simp [qBad]
@[simp] theorem qreg4_ofNat (q : QReg) : qreg4 (BitVec.ofNat 4 q.val) = q := by
  apply Fin.ext
  simp [qreg4]
@[simp] theorem qreg4_toFin (q : QReg) : qreg4 ⟨q⟩ = q := rfl

/-! ### The four formats (R251) -/

section
variable (op : BitVec 7) (d a b : BitVec 6) (fn : BitVec 7) (i : BitVec 13) (j : BitVec 19) (q : QReg) (neg : Bool) (off : BitVec 20)

@[simp] theorem fmtSR_op : (fmtSR op d a b fn).op = op := rfl
@[simp] theorem fmtSR_d : (fmtSR op d a b fn).d = d := rfl
@[simp] theorem fmtSR_a : (fmtSR op d a b fn).a = a := rfl
@[simp] theorem fmtSR_b : (fmtSR op d a b fn).b = b := rfl
@[simp] theorem fmtSR_fn : (fmtSR op d a b fn).fn = fn := rfl
@[simp] theorem fmtSR_imm13 : (fmtSR op d a 0#6 0#7).imm13 = 0#13 := by simp [ScalarFields.imm13, fmtSR]
@[simp] theorem fmtSI_op : (fmtSI op d a i).op = op := rfl
@[simp] theorem fmtSI_d : (fmtSI op d a i).d = d := rfl
@[simp] theorem fmtSI_a : (fmtSI op d a i).a = a := rfl
@[simp] theorem fmtSI_imm13 : (fmtSI op d a i).imm13 = i := BitVec.extractLsb'_append_extractLsb'
@[simp] theorem fmtSL_op : (fmtSL op d j).op = op := rfl
@[simp] theorem fmtSL_d : (fmtSL op d j).d = d := rfl
@[simp] theorem fmtSL_imm19 : (fmtSL op d j).imm19 = j := by
  rw [ScalarFields.imm19, fmtSL, BitVec.extractLsb'_append_extractLsb'_eq_extractLsb' (start₂ := 13) (start₁ := 7) (by decide)]
  exact BitVec.extractLsb'_append_extractLsb' (w := 12) (len := 7)
@[simp] theorem fmtSB_op : (fmtSB op q neg off).op = op := rfl
@[simp] theorem fmtSB_sbq : qreg4 (fmtSB op q neg off).sbq = q := by
  rw [ScalarFields.sbq, fmtSB, BitVec.extractLsb'_append_eq_of_le (v := 5) (w := 1) (by decide), BitVec.extractLsb'_append_eq_left]
  exact qreg4_ofNat q
@[simp] theorem fmtSB_sbneg : (fmtSB op q neg off).sbneg = neg := by
  rw [ScalarFields.sbneg, fmtSB, BitVec.getLsbD_append (n := 5) (m := 1), if_neg (by decide), BitVec.getLsbD_append (n := 4) (m := 1), if_pos (by decide)]
  cases neg <;> rfl
@[simp] theorem fmtSB_off : (fmtSB op q neg off).off = off := by
  rw [ScalarFields.off, fmtSB, BitVec.extractLsb'_append_eq_right (w := 5) (w' := 1),
    BitVec.extractLsb'_append_extractLsb'_eq_extractLsb' (start₂ := 19) (start₁ := 13) (by decide),
    BitVec.extractLsb'_append_extractLsb'_eq_extractLsb' (start₂ := 13) (start₁ := 7) (by decide)]
  exact BitVec.extractLsb'_append_extractLsb' (w := 13) (len := 7)

end

/-! ### Fields within a field -/

section
variable (x : BitVec 4) (y : BitVec 3)

@[simp] theorem fn_low : (x ++ y).extractLsb' 0 3 = y := BitVec.extractLsb'_append_eq_right
@[simp] theorem fn_zeros_toNat : (0#4 ++ y).toNat = y.toNat := (toNat_append_add (0#4) y).trans (by simp)
@[simp] theorem imm_low (x : BitVec 10) : (x ++ y).extractLsb' 0 3 = y := BitVec.extractLsb'_append_eq_right
@[simp] theorem imm_zeros_toNat : (0#10 ++ y).toNat = y.toNat := (toNat_append_add (0#10) y).trans (by simp)
theorem fn_getElem {k : Nat} (h : k < 4) : (x ++ y)[k + 3]'(by omega) = x[k] := by
  rw [BitVec.getElem_append (n := 4) (m := 3), dif_neg (by omega)]
  simp
@[simp] theorem fn_six : (x ++ y)[6] = x[3] := fn_getElem x y (by decide)
@[simp] theorem fn_five : (x ++ y)[5] = x[2] := fn_getElem x y (by decide)
@[simp] theorem fn_three : (x ++ y)[3] = x[0] := fn_getElem x y (by decide)
@[simp] theorem fn_form : (x ++ y).extractLsb' 3 2 = x.extractLsb' 0 2 := BitVec.extractLsb'_append_eq_of_le (v := 4) (w := 3) (by decide)
@[simp] theorem fn_cond : (x ++ y).extractLsb' 4 2 = x.extractLsb' 1 2 := BitVec.extractLsb'_append_eq_of_le (v := 4) (w := 3) (by decide)

end

@[simp] theorem swait_cond (x z : BitVec 1) (y : BitVec 2) : (x ++ y ++ z).extractLsb' 1 2 = y := by
  rw [BitVec.extractLsb'_append_eq_of_le (v := 3) (w := 1) (by decide), BitVec.extractLsb'_append_eq_right]
@[simp] theorem ssel_q (x : BitVec 3) (q : BitVec 4) : (x ++ q).extractLsb' 0 4 = q := BitVec.extractLsb'_append_eq_right
@[simp] theorem ssel_neg (x : BitVec 2) (y : BitVec 1) (q : BitVec 4) : (x ++ y ++ q)[4] = y[0] := by
  rw [BitVec.getElem_append (n := 3) (m := 4), dif_neg (by decide), BitVec.getElem_append (n := 2) (m := 1), dif_pos (by decide)]
@[simp] theorem ssel_lt (y : BitVec 1) (q : BitVec 4) : (0#2 ++ y ++ q).toNat < 32 := by
  have e : (0#2 ++ y ++ q).toNat = 16 * (0#2 ++ y).toNat + q.toNat := toNat_append_add (0#2 ++ y) q
  have e2 : (0#2 ++ y).toNat = y.toNat := (toNat_append_add (0#2) y).trans (by simp)
  omega
@[simp] theorem sred_register (x : BitVec 3) (y : BitVec 5) (z : BitVec 11) : (x ++ y ++ z).extractLsb' 0 11 = z := BitVec.extractLsb'_append_eq_right
@[simp] theorem sred_zeros (x : BitVec 3) (y : BitVec 5) (z : BitVec 11) : (x ++ y ++ z).extractLsb' 11 5 = y := by
  rw [BitVec.extractLsb'_append_eq_of_le (v := 8) (w := 11) (by decide), BitVec.extractLsb'_append_eq_right]
@[simp] theorem sred_op (x : BitVec 3) (y : BitVec 5) (z : BitVec 11) : (x ++ y ++ z).extractLsb' 16 3 = x := by
  rw [BitVec.extractLsb'_append_eq_of_le (v := 8) (w := 11) (by decide), BitVec.extractLsb'_append_eq_left]

@[simp] theorem scondCode_low (c : SCond) : scondOf ((scondCode c).toNat % 8) = c := by cases c <;> rfl
theorem scondCode_le (c : SCond) : (scondCode c).toNat ≤ 5 := by cases c <;> decide
@[simp] theorem waitCondOf_waitCondCode (c : WaitCond) : waitCondOf (waitCondCode c).toNat = c := by cases c <;> rfl
@[simp] theorem levelOf_levelCode (lv : LevelKind) : levelOf (levelCode lv).toNat = lv := by cases lv <;> rfl
theorem levelCode_lt (lv : LevelKind) : (levelCode lv).toNat < 4 := by cases lv <;> decide
theorem Scope.tlbWf_code {sc : Scope} (h : sc.tlbWf = true) : 2 ≤ (scopeCode sc).toNat := by
  cases sc with
  | team | block => nomatch h
  | dev | dom | sys => decide
@[simp] theorem toNat_sF (r : SReg) : (sF r).toNat = r.val := by simp [sF]

section
variable {f : ScalarFields} {p : PSrc}

theorem predHigh_predImm (e : f.imm13 = predImm p) : f.predHigh = false := by
  have : (predImm p).toNat = (psrcCode p).toNat := (toNat_append_add (0#5) (psrcCode p)).trans (by simp)
  rw [ScalarFields.predHigh, e, this]
  simp
  omega
theorem predBad_predImm (h : p.wf = true) (e : f.imm13 = predImm p) : f.predBad = false := by
  rw [ScalarFields.predBad, e]
  exact (congrArg (fun x : BitVec 8 => badIndex x.toNat) BitVec.extractLsb'_append_eq_right).trans (badIndex_of_wf h)
theorem pred_predImm (h : p.wf = true) (e : f.imm13 = predImm p) : f.pred = p := by
  rw [ScalarFields.pred, e]
  exact (congrArg psrcOf BitVec.extractLsb'_append_eq_right).trans (psrcOf_psrcCode h)

end

theorem decode_scalarFieldsOf {i : Instr} {f : ScalarFields} (wf : wellFormed i = true) (h : scalarFieldsOf i = some f) : decodeScalarFields f = .ok i := by
  cases i
  case aluAdd | aluSub | aluAnd | aluOr | aluXor | aluSll | aluSrl | aluSra | aluMul | aluMulh | aluMulhu | aluMin | aluMax | aluMinu | aluMaxu =>
    cases h
    simp [decodeScalarFields, scalarChecked, aluOf]
  case addi | andi | ori | xori | lui | ssel | qand | qor | qxor | qandn | b | call | jr | callr | run | melse | mpop
      | ldk | ldkN32 | sldN8 | sldN16 | sldN32 | sldB64 | sstN8 | sstN16 | sstN32 | sstB64 | swait
      | launch | galloc | gfree | srd | swr | trap | tret | exit | isync | tlbsync | ptfence | rngreg =>
    cases h
    simp [decodeScalarFields, scalarChecked]
  case slli _ _ k | srli _ _ k | srai _ _ k =>
    cases h
    have wf : k < 64 := of_decide_eq_true wf
    simp [decodeScalarFields, scalarChecked, Nat.mod_eq_of_lt (show k < 8192 by omega), Nat.le_of_lt_succ wf]
  case bwait _ k | flush _ _ k | sred _ _ k =>
    cases h
    simp [wellFormed] at wf
    simp [decodeScalarFields, scalarChecked, Nat.mod_eq_of_lt (show k < 8192 by omega), Nat.mod_eq_of_lt (show k < 2048 by omega), wf]
  case cpy =>
    cases h
    simp [wellFormed] at wf
    simp [decodeScalarFields, scalarChecked, wf]
  case scmp c d a b =>
    cases h
    have := scondCode_le c
    simp [decodeScalarFields, scalarChecked, show ¬8 ≤ (scondCode c).toNat by omega, show ¬5 < (scondCode c).toNat % 8 by omega]
  case lwait lv _ _ | lstat lv _ _ | lcancel lv _ =>
    cases h
    simp [decodeScalarFields, scalarChecked, Nat.not_le.mpr (levelCode_lt lv)]
  case mpush p | sany _ p | sall _ p | spop _ p | sfind _ p =>
    cases h
    have wf : p.wf = true := wf
    simp [decodeScalarFields, scalarChecked, predHigh_predImm (p := p), predBad_predImm wf, pred_predImm wf]
  case bseal sc | icinv _ _ sc =>
    cases h
    have := scopeCode_le sc
    simp [decodeScalarFields, scalarChecked, show ¬8 ≤ (scopeCode sc).toNat by omega, show ¬4 < (scopeCode sc).toNat by omega]
  case tlbinv d a b glob sc | tlbinvAsid d glob sc | tlbinvVf sc =>
    cases h
    have : 1 < (scopeCode sc).toNat := Scope.tlbWf_code (sc := sc) wf
    simp [decodeScalarFields, scalarChecked, tlbOf, this]
  all_goals nomatch h

end Sys2Proof
end

section
/-! SUPPORT. The packed lane stream, and the round trip of every word (R108, R249 to R267). -/

namespace Sys2Proof

open Machine

/-! ### The packed stream (R108) -/

/-- The bytes that the packed stream keeps of a word, and the header that it puts before them. -/
def keptBytes (bs : List Byte) : List Byte := bs.filter (· ≠ 0)
def packedHeader (bs : List Byte) : Nat := presence bs + 4096 * (keptBytes bs).length

theorem packedBytes_eq (w : BitVec 96) : packedBytes w = leBytes 2 (packedHeader (laneWordBytes w)) ++ keptBytes (laneWordBytes w) := rfl

theorem presence_lt (bs : List Byte) : presence bs < 2 ^ bs.length := by
  induction bs with
  | nil => simp [presence]
  | cons x rest ih => simp only [presence, List.length_cons, Nat.pow_succ]; split <;> omega

theorem presence_cons (x : Byte) (rest : List Byte) (k : Nat) : presence (x :: rest) + 2 ^ (rest.length + 1) * k =
    2 * (presence rest + 2 ^ rest.length * k) + if x = 0 then 0 else 1 := by
  rw [presence, Nat.pow_succ, Nat.mul_comm _ 2, Nat.mul_assoc]
  omega

theorem keptBytes_cons_zero (rest : List Byte) : keptBytes (0 :: rest) = keptBytes rest := rfl

theorem keptBytes_cons {x : Byte} (nonzero : x ≠ 0) (rest : List Byte) : keptBytes (x :: rest) = x :: keptBytes rest :=
  List.filter_cons_of_pos (decide_eq_true nonzero)

theorem presentCount_presence (bs : List Byte) (k : Nat) : presentCount bs.length (presence bs + 2 ^ bs.length * k) = (keptBytes bs).length := by
  induction bs with
  | nil => rfl
  | cons x rest ih =>
    rw [List.length_cons, presentCount, presence_cons, Nat.mul_add_mod, Nat.mul_add_div (by decide)]
    by_cases zero : x = 0
    · rw [if_pos zero, zero, keptBytes_cons_zero, ← ih, Nat.zero_mod, Nat.zero_add]
      rfl
    · rw [if_neg zero, keptBytes_cons zero, List.length_cons, ← ih, Nat.add_comm]
      rfl

theorem spreadBytes_keptBytes (bs : List Byte) (k : Nat) : spreadBytes bs.length (presence bs + 2 ^ bs.length * k) (keptBytes bs) = bs := by
  induction bs with
  | nil => rfl
  | cons x rest ih =>
    rw [List.length_cons, presence_cons, spreadBytes.eq_def]
    dsimp only
    rw [Nat.mul_add_mod, Nat.mul_add_div (by decide)]
    by_cases zero : x = 0
    · rw [if_pos zero, zero, keptBytes_cons_zero, if_neg (by decide)]
      exact congrArg _ ih
    · rw [if_neg zero, keptBytes_cons zero, if_pos (by decide)]
      exact congrArg _ ih

section
variable (w : BitVec 96)

theorem laneWordBytes_length : (laneWordBytes w).length = 12 := leBytes_length ..

theorem keptBytes_length_le : (keptBytes (laneWordBytes w)).length ≤ 12 := laneWordBytes_length w ▸ List.length_filter_le ..

theorem presence_laneWordBytes_lt : presence (laneWordBytes w) < 4096 := by
  have h := presence_lt (laneWordBytes w)
  rwa [laneWordBytes_length] at h

theorem leNat_packedHeader : leNat (leBytes 2 (packedHeader (laneWordBytes w))) = packedHeader (laneWordBytes w) := by
  have count := keptBytes_length_le w
  have low := presence_laneWordBytes_lt w
  rw [leNat_leBytes, Nat.mod_eq_of_lt (by rw [packedHeader]; omega)]

theorem packedHeader_count : packedHeader (laneWordBytes w) / 4096 = (keptBytes (laneWordBytes w)).length := by
  have low := presence_laneWordBytes_lt w
  rw [packedHeader]
  omega

theorem headerOk_packedHeader : headerOk (packedHeader (laneWordBytes w)) = true := by
  have count := keptBytes_length_le w
  have present := presentCount_presence (laneWordBytes w) (keptBytes (laneWordBytes w)).length
  rw [laneWordBytes_length] at present
  rw [headerOk, packedHeader_count, beq_iff_eq, Nat.mod_eq_of_lt (by omega)]
  exact present.symm

theorem leNat_spreadBytes : leNat (spreadBytes 12 (packedHeader (laneWordBytes w)) (keptBytes (laneWordBytes w))) = w.toNat := by
  have spread := spreadBytes_keptBytes (laneWordBytes w) (keptBytes (laneWordBytes w)).length
  rw [laneWordBytes_length] at spread
  refine (congrArg leNat spread).trans ?_
  rw [laneWordBytes, leNat_leBytes]
  exact Nat.mod_eq_of_lt w.isLt

/-- A lane word comes back from the bytes that the packed stream stores. -/
theorem unpackBytes_packed : unpackBytes (packedHeader (laneWordBytes w)) (keptBytes (laneWordBytes w)) = .ok w := by
  have nonzero : (keptBytes (laneWordBytes w)).any (· == 0) = false := by simp [keptBytes]
  rw [unpackBytes, headerOk_packedHeader, nonzero, leNat_spreadBytes, BitVec.ofNat_toNat, BitVec.setWidth_eq]
  rfl

end

/-! ### One word (R251, R265) -/

theorem not_scalar_and_lane (i : Instr) : ((scalarFieldsOf i).isSome && (fieldsOf i).isSome) = false := by
  cases i <;> rfl

theorem ctl?_isSome (i : Instr) : (ctl? i).isSome = (fieldsOf i).isSome := by
  cases i
  case vote c m p => cases m <;> rfl
  all_goals rfl

variable {i : Instr}

theorem decodeScalar_encode (wf : wellFormed i = true) {f : ScalarFields} (h : scalarFieldsOf i = some f) : decodeScalar (packScalar f) = .ok i := by
  rw [decodeScalar, unpackScalar_packScalar, decode_scalarFieldsOf wf h]

theorem decodeLane_encode (wf : wellFormed i = true) {f : LaneFields} (h : fieldsOf i = some f) : decodeLane (packLane f) = .ok i := by
  rw [decodeLane, unpackLane_packLane, laneDefect_fieldsOf wf h, buildLane_fieldsOf wf h]

theorem ofNat_leNat_leBytes (w : BitVec 32) : BitVec.ofNat 32 (leNat (leBytes 4 w.toNat)) = w := by
  rw [leNat_leBytes]
  exact (congrArg (BitVec.ofNat 32) (Nat.mod_eq_of_lt w.isLt)).trans (by simp)

/-- Settles O58, by the fields of the one word that the instruction has: its scalar fields, or else its lane fields with their packed bytes. -/
theorem encodingsRoundTrip : Obligations.EncodingsRoundTrip := by
  intro i wf word
  have one := not_scalar_and_lane i
  cases scalar : scalarFieldsOf i with
  | some f =>
    have lane : fieldsOf i = none := by simpa [scalar] using one
    have encoded : encode i = leBytes 4 (packScalar f).toNat := by simp [encode, encodeScalar, scalar]
    exact .inl ⟨packScalar f, by simp [encodeScalar, scalar], by simp [encodeLane, lane], decodeScalar_encode wf scalar,
      by rw [encoded, ofNat_leNat_leBytes]⟩
  | none =>
    obtain ⟨f, lane⟩ : ∃ f, fieldsOf i = some f := by
      simpa [isStep, encodeScalar, scalar, ← Option.isSome_iff_exists, ← ctl?_isSome, Option.isSome_iff_ne_none] using word
    have encoded : encode i = packedBytes (packLane f) := by simp [encode, encodeScalar, encodeLane, scalar, lane]
    refine .inr ⟨packLane f, by simp [encodeScalar, scalar], by simp [encodeLane, lane], decodeLane_encode wf lane, _, _,
      encoded.trans (packedBytes_eq _), leBytes_length .., ?_, ?_, ?_⟩
    · rw [leNat_packedHeader, headerOk_packedHeader]
    · rw [leNat_packedHeader, packedHeader_count]
    · rw [leNat_packedHeader, unpackBytes_packed]

end Sys2Proof
end

section
/-! SUPPORT. Where the scalar loads and stores of the constant window and the scratchpad lie, and what they load and store (R87 to R89,
R101, R283, R284). -/

namespace Sys2Proof.Machine

/-! ### The bytes of a word -/

/-- A word read from a memory holds its bytes. -/
theorem loaded_readNat (m : Memory) (a n : Nat) : Loaded (BitVec.ofNat 64 (m.readNat a n)) m a n :=
  fun k hk => Memory.readNat_byte m a n k (by omega)

/-- A byte of a word is its quotient by that power of 256. -/
theorem extractLsb'_byte {w : Nat} (v : BitVec w) (k : Nat) : v.extractLsb' (8 * k) 8 = BitVec.ofNat 8 (v.toNat / 256 ^ k) := by
  apply BitVec.eq_of_toNat_eq
  rw [BitVec.extractLsb'_toNat, BitVec.toNat_ofNat, Nat.shiftRight_eq_div_pow, Nat.pow_mul]

/-- Every byte after a store of a word. -/
theorem Memory.read_writeNat_word {w : Nat} (m : Memory) (a n : Nat) (v : BitVec w) (c : Nat) :
    Memory.read (m.writeNat a n v.toNat) c = if a ≤ c ∧ c < a + n then v.extractLsb' (8 * (c - a)) 8 else Memory.read m c := by
  rw [Memory.read_writeNat, extractLsb'_byte]

/-! ### Where an access lies -/

section
variable {s : State} {x : Word64} {n ci off : Nat}

/-- An aligned address names its bytes as the model finds them. -/
theorem scratchSpot_iff : ScratchSpot s x n ci off ↔ x.toNat % n = 0 ∧ s.scratchAt x.toNat n = some (ci, off) := by
  rw [State.scratchAt_iff]
  constructor
  · rintro ⟨aligned, place, field, inside⟩
    exact ⟨aligned, place, field, inside⟩
  · rintro ⟨aligned, place, field, inside⟩
    exact ⟨aligned, place, field, inside⟩

/-- Every address that names bytes is below the 2^32 of the scratchpad's address space. -/
theorem ScratchSpot.below (h : ScratchSpot s x n ci off) : ¬2 ^ 32 ≤ x.toNat := by
  rcases h.place with ⟨place, _⟩ | ⟨place, _, _⟩ <;> have field := h.field <;> omega

theorem scalarTarget_misaligned {w : Bool} (h : x.toNat % n ≠ 0) : scalarTarget s x n w = .error (0x05, 0x00) := if_pos h

theorem scalarTarget_spot {w : Bool} (h : ScratchSpot s x n ci off) (free : s.scratchLock (teamBlock s.cur) ci off n w = none) :
    scalarTarget s x n w = .ok (ci, off) := by
  obtain ⟨aligned, place⟩ := scratchSpot_iff.mp h
  simp only [scalarTarget, aligned, ne_eq, not_true, if_false, h.below, place, free]

theorem scalarTarget_outside {w : Bool} (aligned : x.toNat % n = 0) (h : ∀ ci off, ¬ScratchSpot s x n ci off) :
    scalarTarget s x n w = .error (0x04, 0x00) := by
  have none : s.scratchAt x.toNat n = none :=
    Option.eq_none_iff_forall_ne_some.mpr fun p place => h p.1 p.2 (scratchSpot_iff.mpr ⟨aligned, place⟩)
  simp only [scalarTarget, aligned, ne_eq, not_true, if_false, none, ite_self]

end

/-! ### The window -/

section
variable {j : Instr} {s : State} {d a : SReg} {i : BitVec 13} {n : Nat}

theorem givesSreg_window (e : exec j s = ldkOp n d a i s) (aligned : (scalarAddr s a i).toNat % n = 0)
    (inside : (scalarAddr s a i).toNat + n ≤ 0x10000) :
    ∃ v, GivesSreg j s d v ∧ Loaded v s.launch.window (scalarAddr s a i).toNat n := by
  refine ⟨_, .of_done (e.trans ?_), loaded_readNat _ _ _⟩
  exact (if_neg (not_not_intro aligned)).trans (if_neg (Nat.not_lt.mpr inside))

theorem traps_window_misaligned (e : exec j s = ldkOp n d a i s) (can : CanTrap s) (h : (scalarAddr s a i).toNat % n ≠ 0) :
    Traps j s 0x05 0x00 (scalarAddr s a i) :=
  .of_trap (e.trans (if_pos h)) can

theorem traps_window_outside (e : exec j s = ldkOp n d a i s) (can : CanTrap s) (aligned : (scalarAddr s a i).toNat % n = 0)
    (h : 0x10000 < (scalarAddr s a i).toNat + n) : Traps j s 0x04 0x02 (scalarAddr s a i) :=
  .of_trap (e.trans ((if_neg (not_not_intro aligned)).trans (if_pos h))) can

/-! ### Scratchpad loads -/

theorem givesSreg_scratch {ci off : Nat} (e : exec j s = sldOp n d a i s) (spot : ScratchSpot s (scalarAddr s a i) n ci off)
    (free : s.scratchLock (teamBlock s.cur) ci off n false = none) :
    ∃ v, GivesSreg j s d v ∧ Loaded v (s.block.share ci).scratch off n := by
  refine ⟨_, .of_done (e.trans ?_), loaded_readNat _ _ _⟩
  simp only [sldOp, scalarTarget_spot spot free]
  rfl

theorem traps_load {c k : Nat} (e : exec j s = sldOp n d a i s) (can : CanTrap s)
    (bad : scalarTarget s (scalarAddr s a i) n false = .error (c, k)) (h : c ≠ 0x06) (h' : c ≠ 0x10) :
    Traps j s c k (scalarAddr s a i) :=
  .of_trap (e.trans (by simp only [sldOp, bad])) can h h'

/-! ### Scratchpad stores -/

/-- A completed scalar instruction whose effect on the rest of the machine is one scratchpad write. -/
theorem storedScratch_done {ci off : Nat} (v : Word64) (h : ci < s.block.shares.length) :
    ∃ t, scalarDone (s.scratchWrite (teamBlock s.cur) ci off n v.toNat) s.team = .next t ∧ StoredScratch s t ci off n v := by
  obtain ⟨only, scratch⟩ := State.scratchWrite_spec s ci off n v.toNat h
  obtain ⟨t, done, ⟨rest, others, -⟩, team⟩ := scalarDone_completed (s.scratchWrite (teamBlock s.cur) ci off n v.toNat) s.team rfl
  have blocks : t.blocks = (s.scratchWrite (teamBlock s.cur) ci off n v.toNat).blocks := by rw [rest]
  have block : t.block = (s.scratchWrite (teamBlock s.cur) ci off n v.toNat).block := by rw [rest]; rfl
  refine ⟨t, done, ?_, others, team, ?_, ?_, ?_, ?_⟩
  · rw [rest]; rfl
  · rw [blocks]; exact only.blocks
  · rw [block]; exact only.block
  · rw [block]; exact only.shares
  · intro cj b
    rw [block, scratch cj]
    by_cases hj : cj = ci
    · simp only [hj, if_true, true_and, Memory.read_writeNat_word]
    · simp only [hj, if_false, false_and]

theorem stores_scratch {ci off : Nat} (e : exec j s = sstOp n d a i s) (spot : ScratchSpot s (scalarAddr s a i) n ci off)
    (inBlock : ci < s.block.shares.length) (free : s.scratchLock (teamBlock s.cur) ci off n true = none) :
    ∃ t, exec j s = .next t ∧ StoredScratch s t ci off n (s.team.sreg d) := by
  obtain ⟨t, done, stored⟩ := storedScratch_done (n := n) (off := off) (s.team.sreg d) inBlock
  refine ⟨t, e.trans (Eq.trans ?_ done), stored⟩
  simp only [sstOp, scalarTarget_spot spot free]

theorem traps_store {c k : Nat} (e : exec j s = sstOp n d a i s) (can : CanTrap s)
    (bad : scalarTarget s (scalarAddr s a i) n true = .error (c, k)) (h : c ≠ 0x06) (h' : c ≠ 0x10) :
    Traps j s c k (scalarAddr s a i) :=
  .of_trap (e.trans (by simp only [sstOp, bad])) can h h'

end

/-- Settles O6: the address of each form decides between misalignment, the bounds and the bytes, and the bytes are those of the word read
or written. -/
theorem scalarLoadsAndStores : Obligations.ScalarLoadsAndStores := by
  refine ⟨⟨fun d a i s p hp => ?_, fun d a i s p hp => ?_⟩, fun d a i s p hp => ?_⟩
  · have e : exec p.1 s = ldkOp p.2 d a i s := by
      simp only [List.mem_cons, List.not_mem_nil, or_false] at hp
      rcases hp with rfl | rfl <;> rfl
    exact ⟨givesSreg_window e, traps_window_misaligned e, traps_window_outside e⟩
  · have e : exec p.1 s = sldOp p.2 d a i s := by
      simp only [List.mem_cons, List.not_mem_nil, or_false] at hp
      rcases hp with rfl | rfl | rfl | rfl <;> rfl
    exact ⟨fun _ _ => givesSreg_scratch e,
      fun can h => traps_load e can (scalarTarget_misaligned h) (by decide) (by decide),
      fun can aligned h => traps_load e can (scalarTarget_outside aligned h) (by decide) (by decide)⟩
  · have e : exec p.1 s = sstOp p.2 d a i s := by
      simp only [List.mem_cons, List.not_mem_nil, or_false] at hp
      rcases hp with rfl | rfl | rfl | rfl <;> rfl
    exact ⟨fun _ _ => stores_scratch e,
      fun can h => traps_store e can (scalarTarget_misaligned h) (by decide) (by decide),
      fun can aligned h => traps_store e can (scalarTarget_outside aligned h) (by decide) (by decide)⟩

end Sys2Proof.Machine
end

section
/-! SUPPORT. Scratchpad accesses of lanes: the state that an access begins in, what issuing from it leaves, and the words that pass
between lanes and scratchpads (R91, R205, R208, R335 to R345). -/

namespace Sys2Proof.Machine

/-! ### What performing accesses leaves of blocks and launches -/

/-- Every launch of `t` has the kernel, and every block the cores and the places of its teams, that it has in `s`. -/
structure KeepsPlaces (s t : State) : Prop where
  cur : t.cur = s.cur
  kernel : ∀ l, (t.launchAt l).kernel = (s.launchAt l).kernel
  place : ∀ b, (t.blockAt b).place = (s.blockAt b).place
  cores : ∀ b, (t.blockAt b).shares.length = (s.blockAt b).shares.length

theorem KeepsPlaces.refl (s : State) : KeepsPlaces s s := ⟨rfl, fun _ => rfl, fun _ => rfl, fun _ => rfl⟩
theorem KeepsPlaces.trans {s t u : State} (h : KeepsPlaces s t) (k : KeepsPlaces t u) : KeepsPlaces s u :=
  ⟨k.cur.trans h.cur, fun l => (k.kernel l).trans (h.kernel l), fun b => (k.place b).trans (h.place b), fun b => (k.cores b).trans (h.cores b)⟩

theorem Served.keepsPlaces {s t : State} (h : Served s t) : KeepsPlaces s t where
  cur := h.acted.cur
  kernel l := by rw [h.shapes.launchAt l]
  place b := by simp only [State.blockAt, h.acted.blocks]
  cores b := by simp only [State.blockAt, h.acted.blocks]

theorem State.keepsPlaces_scratchWrite (s : State) (b ci off n x : Nat) : KeepsPlaces s (s.scratchWrite b ci off n x) where
  cur := rfl
  kernel _ := rfl
  place c := by
    by_cases h : c = b
    · subst h; simp [State.scratchWrite, State.updShare]
    · simp only [State.scratchWrite, State.updShare, State.blockAt_setBlockAt_other _ _ h]
  cores c := by
    by_cases h : c = b
    · subst h; simp [State.scratchWrite, State.updShare, listUpd_length]
    · simp only [State.scratchWrite, State.updShare, State.blockAt_setBlockAt_other _ _ h]

theorem LaneOp.keepsPlaces_run (o : LaneOp) (s : State) : KeepsPlaces s (o.run s).1 := by
  cases spad : o.spad with
  | none => exact (o.wrote_run s spad).served.keepsPlaces
  | some d =>
    simp only [LaneOp.run, spad]
    split
    · exact .refl s
    · exact (Wrote.foldl (fun s k => State.wrote_gwriteNat s _ _ _) _ _).served.keepsPlaces
    · simp only [scratchAtom]
      split
      · exact s.keepsPlaces_scratchWrite ..
      · exact .refl s

theorem State.keepsPlaces_performOp {s t : State} {o : LaneOp} {ws : List LaneWrite} (h : s.performOp o = .ok t ws) : KeepsPlaces s t := by
  simp only [State.performOp] at h
  split at h
  · cases h
  · cases h
  · next served =>
    cases h
    exact (State.served_requestOp served).keepsPlaces.trans (o.keepsPlaces_run _)

theorem State.keepsPlaces_landOp (s : State) (o : LaneOp) (ws : List LaneWrite) : KeepsPlaces s (s.landOp o ws) :=
  ⟨rfl, fun _ => rfl, fun _ => rfl, fun _ => rfl⟩

/-- What holds of every access that performs, and of every access that has, holds of performing several. -/
theorem performOps_induct {R : State → State → Prop} (refl : ∀ s, R s s) (trans : ∀ {s t u}, R s t → R t u → R s u) (os : List LaneOp)
    (one : ∀ o ∈ os, ∀ {s t ws}, s.performOp o = .ok t ws → R s t) (land : ∀ s o ws, R s (s.landOp o ws)) :
    ∀ {s t : State}, performOps os s = .ok t → R s t := by
  induction os with
  | nil => intro s t h; cases h; exact refl s
  | cons o rest ih =>
    have ih := @ih fun o ho => one o (List.mem_cons_of_mem _ ho)
    intro s t h
    simp only [performOps] at h
    split at h
    · exact ih h
    · split at h
      · cases h
      · split at h
        · next performed => exact trans (one o List.mem_cons_self performed) (trans (land _ o _) (ih h))
        · cases h
        · cases h

theorem performOps_keepsPlaces {os : List LaneOp} {s t : State} (h : performOps os s = .ok t) : KeepsPlaces s t :=
  performOps_induct KeepsPlaces.refl KeepsPlaces.trans os (fun _ _ _ _ _ => State.keepsPlaces_performOp) State.keepsPlaces_landOp h

theorem KeepsPlaces.block {s t : State} (h : KeepsPlaces s t) : t.block.shares.length = s.block.shares.length := by
  simp only [State.block, h.cur, h.cores]

theorem KeepsPlaces.scratchAt {s t : State} (h : KeepsPlaces s t) (x n : Nat) : t.scratchAt x n = s.scratchAt x n := by
  have kernel : t.kernel = s.kernel := by simp only [State.kernel, State.launch, h.cur, h.kernel]
  have place : t.shareIdx t.cur = s.shareIdx s.cur := by simp only [State.shareIdx, Block.indexOf, h.cur, h.place]
  unfold State.scratchAt
  rw [kernel, place, h.block]

theorem KeepsPlaces.scratchSpot {s t : State} (h : KeepsPlaces s t) (x n : Nat) : scratchSpot t x n = scratchSpot s x n := by
  simp only [Machine.scratchSpot, h.scratchAt]

theorem ScratchOnly.scratchSpot {s t : State} (h : ScratchOnly s t) (x n : Nat) : scratchSpot t x n = scratchSpot s x n := by
  simp only [Machine.scratchSpot, h.scratchAt]

/-! ### The state that an access begins in -/

/-- The orders with which an access begins only after what comes before it (R205, R208). -/
def Releases (o : Order) : Prop := o = .rel ∨ o = .ar ∨ o = .sc

section
variable {z s2 : State} {o : Order} {ex : List Nat} {f : State → LaneRes}

theorem releaseAfter_releases (h : Releases o) (some : ex ≠ []) : releaseAfter o ex z f = laneDrained z f := by
  rcases h with rfl | rfl | rfl <;> simp [releaseAfter, some]

theorem releaseAfter_at_once (h : ¬(Releases o ∧ ex ≠ [])) : releaseAfter o ex z f = f z := by
  cases o <;> simp_all [releaseAfter, Releases]

/-- An access that begins in `s2` goes on there. -/
theorem releaseAfter_from (h : ReleasesFrom z s2 o ex) : releaseAfter o ex z f = f s2 := by
  by_cases c : Releases o ∧ ex ≠ []
  · have drained : z.drainOps z.cur = .ok s2 := (if_pos c).mp h
    rw [releaseAfter_releases c.1 c.2, laneDrained, drained]
  · rw [releaseAfter_at_once c, (if_neg c).mp h]

/-- An access that waits for what comes before it is held. -/
theorem releaseAfter_waits (h : Releases o) (some : ex ≠ []) (wait : z.drainOps z.cur = .wait s2) : releaseAfter o ex z f = .hold s2 := by
  rw [releaseAfter_releases h some, laneDrained, wait]

/-- What holds of performing accesses that come first holds of what an access begins in. -/
theorem ReleasesFrom.performed {R : State → State → Prop} (refl : ∀ s, R s s)
    (perform : z.drainOps z.cur = .ok s2 → R z s2) (h : ReleasesFrom z s2 o ex) : R z s2 := by
  by_cases c : Releases o ∧ ex ≠ []
  · exact perform ((if_pos c).mp h)
  · rw [(if_neg c).mp h]; exact refl z

theorem ReleasesFrom.keepsPlaces (h : ReleasesFrom z s2 o ex) : KeepsPlaces z s2 := h.performed .refl performOps_keepsPlaces
theorem ReleasesFrom.onlyInflight (h : ReleasesFrom z s2 o ex) : OnlyInflight z s2 := h.performed .refl (performOps_onlyInflight _)
theorem ReleasesFrom.team (h : ReleasesFrom z s2 o ex) : s2.team = { z.team with inflight := s2.team.inflight } := by
  have only := h.onlyInflight z.cur
  rwa [State.team, h.keepsPlaces.cur]

end

/-! ### Issuing from that state -/

/-- The rule of a lane instruction answers `r` for the granted run `a`, whose results that are due have been written. -/
def Answers (i : Instr) (c : Ctl) (s : State) (a : Active) (r : LaneRes) : Prop :=
  ∃ body, exec i s = laneIssue i c body s ∧
    body (s.setTeam (s.team.landDue a)) (s.team.landDue a) a ((s.team.landDue a).execLanes c) = r

theorem Team.putLanes_inflight (t : Team) (ws : List LaneWrite) (fs : List Inflight) :
    Team.putLanes { t with inflight := fs } ws = { t.putLanes ws with inflight := fs } := by
  induction ws generalizing t with
  | nil => rfl
  | cons w rest ih => exact ih { t with lanes := listUpd t.lanes w.pos (fun l => l.put w.reg w.val) }

/-- The results that are due do not depend on what is in flight. -/
theorem Team.landDue_inflight (t : Team) (a : Active) (fs : List Inflight) :
    Team.landDue { t with inflight := fs } a = { t.landDue a with inflight := fs } := by
  unfold Team.landDue Team.land
  generalize sortDue _ = ps
  induction ps generalizing t with
  | nil => rfl
  | cons p rest ih => rw [List.foldl_cons, List.foldl_cons, Team.putLanes_inflight]; exact ih _

/-- An instruction that may issue and whose rule performs it in `s'`. -/
theorem issues_at_once {i : Instr} {c : Ctl} {s s' : State} {a : Active} (h : Issuable i c s a) {ins : Inflight}
    (answers : Answers i c s a (.issued s' ins)) (ht : s'.team = s.team.landDue a) :
    ∃ t, exec i s = .next t ∧ t = s'.setTeam t.team ∧ IssuedFrame s t a ∧ IssuedTeam s t i c a [] (some ins) := by
  obtain ⟨body, e, hb⟩ := answers
  rw [e]
  exact laneIssue_issued h body hb ht

/-- An instruction that may issue and whose rule performs it in `s'` from the state `s2` in which it begins. -/
theorem issues_from {i : Instr} {c : Ctl} {s s2 s' : State} {a : Active} (h : Issuable i c s a) {ins : Inflight}
    (answers : Answers i c s a (.issued s' ins))
    (begins : s2.team = { s.team.landDue a with inflight := s2.team.inflight }) (ht : s'.team = s2.team) :
    ∃ t, exec i s = .next t ∧ t = s'.setTeam t.team ∧ IssuedFrame s t a ∧ IssuedTeam s2 t i c a [] (some ins) := by
  obtain ⟨body, e, hb⟩ := answers
  rw [e, laneIssue_body h body, hb]
  -- the team as it was granted, with what is in flight where the access begins
  have granted : (s.setTeam { s.team with inflight := s2.team.inflight }).team = { s.team with inflight := s2.team.inflight } :=
    State.team_setTeam _ _
  have due : (s.setTeam { s.team with inflight := s2.team.inflight }).team.landDue a = s2.team := by
    rw [granted, Team.landDue_inflight, ← begins]
  have same : s2.team = { s.team with lanes := (s.team.landDue a).lanes, inflight := s2.team.inflight } := by
    conv_lhs => rw [begins, Team.landDue_eq]
  obtain ⟨t, done, eq, ⟨lanes, team, watch⟩, ⟨active, inflight, tokens⟩⟩ :=
    issueDone_issued (s := s.setTeam { s.team with inflight := s2.team.inflight }) (s' := s') (u := s'.team.launchIns { ins with tok := c.set })
      (a := a) (i := i) (c := c) (new := []) (ins := some ins)
      (by rw [launchIns_eq, ht, granted, same]) (by rw [launchIns_eq, ht, due])
      (by rw [launchIns_inflight, ht, granted, same]; rfl)
      (by intro k; rw [launchIns_token, Team.token_raise, ht, granted, same]; simp [Team.token])
  refine ⟨t, done, eq, ⟨?_, ?_, ?_⟩, ⟨?_, ?_, ?_⟩⟩
  · rw [lanes, due, begins]
  · rw [team, granted]; rfl
  · intro hold; rw [watch (by rw [granted]; exact hold), granted]
  · rw [active, granted, same]
  · rw [inflight, granted, same]
  · intro k; rw [tokens k, granted, same]; rfl

/-- An instruction that may issue and waits for what comes before it is held (R205). -/
theorem held_from {i : Instr} {c : Ctl} {s s2 : State} {a : Active} (h : Issuable i c s a)
    (answers : Answers i c s a (.hold s2)) : exec i s = .next (s2.setTeam { s2.team with held := true }) := by
  obtain ⟨body, e, hb⟩ := answers
  rw [e, laneIssue_body h body, hb]

/-- An instruction that may issue and whose lanes fault enters the handler. -/
theorem laneTraps_from {i : Instr} {c : Ctl} {s : State} {a : Active} (h : Issuable i c s a) (can : CanTrapLane s)
    {tr : Trap} (answers : Answers i c s a (.trap tr)) (cause : tr.cause ≠ 0x10) (scalar : tr.scalar = false) (cmd : tr.cmd = none) :
    LaneTraps i s a tr.cause tr.detail tr.addr tr.lanes tr.lane := by
  obtain ⟨body, e, hb⟩ := answers
  rw [LaneTraps, e]
  exact laneIssue_trap h can body hb cause scalar cmd

end Sys2Proof.Machine
end

section
/-! SUPPORT. The scratchpad loads and stores of lanes (R91, R337, R338, R341, R342). -/

namespace Sys2Proof.Machine

/-! ### Words between lanes and scratchpads -/

/-- A data operand as a number and as a word (R335). -/
theorem dataOf_eq (t : Team) (a : Active) (p : Nat) (wide float : Bool) (x : Src) :
    dataOf t a p wide float x = (dataWord t a p wide float x).toNat := by
  cases wide
  · simp only [dataOf, dataWord, Bool.false_eq_true, if_false, BitVec.toNat_setWidth]
    exact (Nat.mod_eq_of_lt (Nat.lt_of_lt_of_le (BitVec.isLt _) (by decide))).symm
  · rfl

/-- The bits read as a signed number. -/
theorem readInt_signed {w : Nat} (x : BitVec w) : readInt true w x.toNat = x.toInt := by
  rw [BitVec.toInt_eq_msb_cond, BitVec.msb_eq_decide]
  simp [readInt]

theorem ofNat_wrapInt (z : Int) : BitVec.ofNat 64 (wrapInt 64 z) = BitVec.ofInt 64 z := by
  apply BitVec.eq_of_toNat_eq
  rw [BitVec.toNat_ofNat, BitVec.toNat_ofInt, wrapInt]
  exact Nat.mod_eq_of_lt (by omega)

theorem toNat_ofNat_of_lt {w x : Nat} (h : x < 2 ^ w) : (BitVec.ofNat w x).toNat = x := by
  rw [BitVec.toNat_ofNat, Nat.mod_eq_of_lt h]

/-- The low bits of a number, sign-extended. -/
theorem ofInt_readInt {n x : Nat} (h : x < 2 ^ n) (hn : n ≤ 64) :
    BitVec.ofInt 64 (readInt true n x) = ((BitVec.ofNat 64 x).setWidth n).signExtend 64 := by
  have low : (BitVec.ofNat 64 x).setWidth n = BitVec.ofNat n x := by
    rw [BitVec.setWidth_ofNat_of_le hn]
  have number : readInt true n x = (BitVec.ofNat n x).toInt := by rw [← readInt_signed, toNat_ofNat_of_lt h]
  rw [low, number]
  rfl

/-- A value on its way to a destination (R335). -/
theorem writeData_eq (p : Nat) (d : Dst) (wide : Bool) (x : Nat) :
    writeData p d wide x = laneWord wide p d (BitVec.ofNat 32 x) (BitVec.ofNat 64 x) := rfl

theorem laneWord_setWidth (p : Nat) (d : Dst) (wide : Bool) (x : Nat) :
    laneWord wide p d ((BitVec.ofNat 64 x).setWidth 32) (BitVec.ofNat 64 x) = writeData p d wide x := by
  rw [writeData_eq, BitVec.setWidth_ofNat_of_le (by decide)]

/-- What `LDS` makes of the `n` bytes that it has read: they are extended to a word (R341). -/
def loadedWord (n : Nat) (signed : Bool) (v : Word64) : Word64 := if signed = true then (v.setWidth (8 * n)).signExtend 64 else v

theorem writeData_loaded (p : Nat) (d : Dst) (w : Width) (signed : Bool) {x : Nat} (h : x < 256 ^ w.bytes) :
    writeData p d w.wide (if signed then wrapInt 64 (readInt true (8 * w.bytes) x) else x) =
      laneWord w.wide p d ((loadedWord w.bytes signed (BitVec.ofNat 64 x)).setWidth 32) (loadedWord w.bytes signed (BitVec.ofNat 64 x)) := by
  cases signed
  · exact (laneWord_setWidth ..).symm
  · have low : x < 2 ^ (8 * w.bytes) := by rwa [Nat.pow_mul]
    have word : loadedWord w.bytes true (BitVec.ofNat 64 x) = BitVec.ofNat 64 (wrapInt 64 (readInt true (8 * w.bytes) x)) := by
      rw [ofNat_wrapInt, ofInt_readInt low (by cases w <;> decide)]; rfl
    rw [word, laneWord_setWidth]; rfl

/-! ### Checks -/

section
variable {s : State} {n : Nat} {write : Bool} {ex : List Nat} {va : Nat → Nat}

theorem scratchCheck_setTeam (s : State) (u : Team) (x n : Nat) (w : Bool) : scratchCheck (s.setTeam u) x n w = scratchCheck s x n w := rfl
theorem scratchSpot_setTeam (s : State) (u : Team) (x n : Nat) : scratchSpot (s.setTeam u) x n = scratchSpot s x n := rfl

section
variable (s : State) (reqs : List (Nat × List (Nat × Nat)))

theorem scratchSpot_countReplay (x n : Nat) : scratchSpot (s.countReplay reqs) x n = scratchSpot s x n :=
  State.countReplay_cases s reqs (fun t => scratchSpot t x n = scratchSpot s x n) fun _ => rfl
theorem State.countReplay_cur : (s.countReplay reqs).cur = s.cur := State.countReplay_cases s reqs (fun t => t.cur = s.cur) fun _ => rfl
theorem State.countReplay_team : (s.countReplay reqs).team = s.team := State.countReplay_cases s reqs (fun t => t.team = s.team) fun _ => rfl
theorem State.countReplay_block : (s.countReplay reqs).block = s.block := State.countReplay_cases s reqs (fun t => t.block = s.block) fun _ => rfl
theorem State.countReplay_scratchRead (b ci off n : Nat) : (s.countReplay reqs).scratchRead b ci off n = s.scratchRead b ci off n :=
  State.countReplay_cases s reqs (fun t => t.scratchRead b ci off n = s.scratchRead b ci off n) fun _ => rfl

end

/-- Where every lane passes its checks no lane faults, and its bytes lie where the checks found them. -/
theorem laneFaults_scratch {ci off : Nat → Nat} (below : ∀ p, va p < 2 ^ 64) (h : ∀ p ∈ ex, ScratchOk s (va p) n write (ci p) (off p)) :
    laneFaults (ex.map (fun p => (p, scratchCheck s (va p) n write))) = none ∧ ∀ p ∈ ex, scratchSpot s (va p) n = (ci p, off p) :=
  ⟨laneFaults_none ex _ fun p hp => (scratchCheck_ok (below p) (h p hp)).1, fun p hp => (scratchCheck_ok (below p) (h p hp)).2⟩

/-- The trap of the lowest lane, where it is misaligned and every other lane is misaligned or passes. -/
theorem laneFaults_misaligned {p : Nat} {rest : List Nat} (below : ∀ p, va p < 2 ^ 64) (first : va p % n ≠ 0)
    (others : ∀ q ∈ rest, va q % n ≠ 0 ∨ ∃ ci off, ScratchOk s (va q) n write ci off) :
    laneFaults ((p :: rest).map (fun p => (p, scratchCheck s (va p) n write))) =
      some { cause := 0x05, detail := 0x00, addr := BitVec.ofNat 64 (va p), lane := p
             lanes := maskOf ((p :: rest).filter (fun q => decide (va q % n ≠ 0))) } := by
  have bad : scratchCheck s (va p) n write = .bad 0x05 0x00 (BitVec.ofNat 64 (va p)) := scratchCheck_mis first
  have cause : ∀ q ∈ p :: rest, ((scratchCheck s (va q) n write).cause == 0x05) = decide (va q % n ≠ 0) := by
    intro q hq
    have known : va q % n ≠ 0 ∨ ∃ ci off, ScratchOk s (va q) n write ci off := by
      rcases List.mem_cons.mp hq with rfl | hq
      · exact .inl first
      · exact others q hq
    by_cases mis : va q % n ≠ 0
    · rw [scratchCheck_mis mis, decide_eq_true mis]; rfl
    · obtain ⟨ci, off, ok⟩ := known.resolve_left mis
      rw [(scratchCheck_ok (below q) ok).1, decide_eq_false mis]; rfl
  have lanes : (((p :: rest).map (fun p => (p, scratchCheck s (va p) n write))).filter (fun x => x.2.cause == 0x05)).map (·.1) =
      (p :: rest).filter (fun q => decide (va q % n ≠ 0)) := by
    rw [List.filter_map, List.map_map]
    exact (List.map_id' _).trans (List.filter_congr cause)
  unfold laneFaults
  rw [← lanes, List.map_cons, List.find?_cons_of_pos (by rw [bad]; rfl), bad]

end

theorem scratchVa_below (t : Team) (r : Active) (x y : Src) (p : Nat) : scratchVa t r p x y < 2 ^ 64 :=
  Nat.lt_of_lt_of_le (BitVec.isLt _) (by decide)

/-! ### `LDS` -/

section
variable {c : Ctl} {w : Width} {signed : Bool} {o : Order} {sc : Scope} {d : Dst} {x y z : Src} {s s2 : State} {a : Active}
  {ci off : Nat → Nat}

theorem exec_lds : exec (.lds c w signed o sc d x y) s = execLds c w signed o sc d x y s := rfl

theorem lds_faults {tr : Trap}
    (h : laneFaults (((s.team.landDue a).execLanes c).map (fun p =>
      (p, scratchCheck s (scratchVa (s.team.landDue a) a p x y) w.bytes false))) = some tr) :
    Answers (.lds c w signed o sc d x y) c s a (.trap tr) := by
  refine ⟨_, exec_lds.trans rfl, ?_⟩
  simp only [scratchCheck_setTeam, h]

/-- `LDS` whose lanes pass their checks performs, with the words of its lanes on their way. -/
theorem lds_answers (ok : ∀ p ∈ (s.team.landDue a).execLanes c, ScratchOk s (scratchVa (s.team.landDue a) a p x y) w.bytes false (ci p) (off p)) :
    ∃ reqs, Answers (.lds c w signed o sc d x y) c s a (.issued ((s.setTeam (s.team.landDue a)).countReplay reqs)
      { n := 0, dsts := laneWrites (.lds c w signed o sc d x y)
        writes := ((s.team.landDue a).execLanes c).flatMap (fun p =>
          let v := loadedWord w.bytes signed (BitVec.ofNat 64 ((s.block.share (ci p)).scratch.readNat (off p) w.bytes))
          laneWord w.wide p d (v.setWidth 32) v) }) := by
  obtain ⟨passes, spots⟩ := laneFaults_scratch (scratchVa_below _ a x y) ok
  refine ⟨((s.team.landDue a).execLanes c).map fun p =>
    (p, wordsOf (scratchSpot s (scratchVa (s.team.landDue a) a p x y) w.bytes) w.bytes), _, exec_lds.trans rfl, ?_⟩
  simp only [scratchCheck_setTeam, scratchSpot_setTeam, passes, LaneRes.issued.injEq, Inflight.mk.injEq, true_and, and_true]
  refine List.flatMap_congr fun p hp => ?_
  simp only [scratchSpot_countReplay, State.countReplay_cur, State.countReplay_scratchRead, scratchSpot_setTeam, spots p hp]
  exact writeData_loaded p d w signed (Memory.readNat_lt (s.block.share (ci p)).scratch (off p) w.bytes)

theorem lds_issues (can : Issuable (.lds c w signed o sc d x y) c s a)
    (ok : ∀ p ∈ (s.team.landDue a).execLanes c, ScratchOk s (scratchVa (s.team.landDue a) a p x y) w.bytes false (ci p) (off p)) :
    ∃ t, ∃ val : Nat → Word64, exec (.lds c w signed o sc d x y) s = .next t ∧ IssuedOnly s t ∧ IssuedFrame s t a ∧
      IssuedTeam s t (.lds c w signed o sc d x y) c a []
        (some { n := 0, dsts := laneWrites (.lds c w signed o sc d x y)
                writes := ((s.team.landDue a).execLanes c).flatMap (fun p => laneWord w.wide p d ((val p).setWidth 32) (val p)) }) ∧
      ∀ p ∈ (s.team.landDue a).execLanes c, ∃ v, Loaded v (s.block.share (ci p)).scratch (off p) w.bytes ∧
        val p = loadedWord w.bytes signed v := by
  obtain ⟨reqs, answers⟩ := lds_answers (signed := signed) (o := o) (sc := sc) (d := d) ok
  obtain ⟨t, done, eq, frame, issued⟩ := issues_at_once can answers ((State.countReplay_team _ _).trans (State.team_setTeam _ _))
  refine ⟨t, fun p => loadedWord w.bytes signed (BitVec.ofNat 64 ((s.block.share (ci p)).scratch.readNat (off p) w.bytes)), done,
    ⟨?_, fun j hj => ?_⟩, frame, issued, fun p _ => ⟨_, loaded_readNat _ _ _, rfl⟩⟩
  · rw [eq]
    exact State.countReplay_cases _ reqs (fun z => z.setTeam t.team = { s with teams := (z.setTeam t.team).teams, perf := (z.setTeam t.team).perf })
      fun _ => rfl
  · rw [eq]
    exact State.countReplay_cases _ reqs (fun z => Table.find? (z.setTeam t.team).teams j = Table.find? s.teams j)
      fun _ => (Table.find?_set_other _ _ hj).trans (Table.find?_set_other _ _ hj)

theorem lds_traps (can : Issuable (.lds c w signed o sc d x y) c s a) (enter : CanTrapLane s) {p : Nat} {rest : List Nat}
    (lanes : (s.team.landDue a).execLanes c = p :: rest) (first : scratchVa (s.team.landDue a) a p x y % w.bytes ≠ 0)
    (others : ∀ q ∈ rest, scratchVa (s.team.landDue a) a q x y % w.bytes ≠ 0 ∨
      ∃ ci off, ScratchOk s (scratchVa (s.team.landDue a) a q x y) w.bytes false ci off) :
    LaneTraps (.lds c w signed o sc d x y) s a 0x05 0x00 (BitVec.ofNat 64 (scratchVa (s.team.landDue a) a p x y))
      (maskOf (((s.team.landDue a).execLanes c).filter (fun q => decide (scratchVa (s.team.landDue a) a q x y % w.bytes ≠ 0)))) p := by
  have faults := laneFaults_misaligned (scratchVa_below _ a x y) first others
  rw [← lanes] at faults
  exact laneTraps_from can enter (lds_faults faults) (show 0x05 ≠ 0x10 by decide) rfl rfl

end

/-! ### Stores of lanes -/

/-- What issuing a scratchpad access leaves of the state `s2` that it begins in: the scratchpads of the block, the team and the count of
the replays differ, and nothing else. -/
theorem ScratchOnly.issued {s2 r t : State} {q : Table Word64} (only : ScratchOnly { s2 with perf := q } r) (eq : t = r.setTeam t.team) :
    t = { s2 with blocks := t.blocks, teams := t.teams, perf := t.perf } ∧
    (∀ j, j ≠ s2.cur → Table.find? t.teams j = Table.find? s2.teams j) ∧
    (∀ j, j ≠ teamBlock s2.cur → Table.find? t.blocks j = Table.find? s2.blocks j) ∧
    t.block = { s2.block with shares := t.block.shares } ∧
    ∀ cj, t.block.share cj = { s2.block.share cj with scratch := (t.block.share cj).scratch } := by
  have block : t.block = r.block := by rw [eq]; rfl
  refine ⟨?_, fun j hj => ?_, fun j hj => ?_, ?_, fun cj => ?_⟩
  · rw [eq, only.rest]; rfl
  · rw [eq, only.rest]; exact Table.find?_set_other _ _ hj
  · have blocks : t.blocks = r.blocks := by rw [eq]; rfl
    rw [blocks]; exact only.blocks j hj
  · rw [block]; exact only.block
  · rw [block]; exact only.shares cj

theorem ScratchOnly.team {s t : State} (h : ScratchOnly s t) : t.team = s.team := by rw [h.rest]; rfl

/-- Lane `p` stores at byte `b` of the scratchpad of core index `cj`. -/
def Hits (n : Nat) (ci off : Nat → Nat) (p cj b : Nat) : Prop := ci p = cj ∧ off p ≤ b ∧ b < off p + n

/-- The store of one lane (R342). -/
def storeLane (va : Nat → Nat) (n : Nat) (v : Nat → Word64) (s : State) (p : Nat) : State :=
  s.scratchWrite (teamBlock s.cur) (scratchSpot s (va p) n).1 (scratchSpot s (va p) n).2 n (v p).toNat

section
variable {va : Nat → Nat} {n : Nat} {v : Nat → Word64} {ci off : Nat → Nat}

theorem storeLane_spec (s : State) {p : Nat} (spot : scratchSpot s (va p) n = (ci p, off p)) (core : ci p < s.block.shares.length) :
    ScratchOnly s (storeLane va n v s p) ∧
    (∀ cj b, ¬Hits n ci off p cj b →
      Memory.read ((storeLane va n v s p).block.share cj).scratch b = Memory.read (s.block.share cj).scratch b) ∧
    ∀ b, Hits n ci off p (ci p) b →
      Memory.read ((storeLane va n v s p).block.share (ci p)).scratch b = (v p).extractLsb' (8 * (b - off p)) 8 := by
  obtain ⟨only, scratch⟩ := State.scratchWrite_spec s (ci p) (off p) n (v p).toNat core
  have store : storeLane va n v s p = s.scratchWrite (teamBlock s.cur) (ci p) (off p) n (v p).toNat := by rw [storeLane, spot]
  rw [store]
  refine ⟨only, fun cj b miss => ?_, fun b hit => ?_⟩
  · rw [scratch]
    by_cases mine : cj = ci p
    · rw [if_pos mine, Memory.read_writeNat_word, if_neg fun inside => miss ⟨mine.symm, inside⟩]
    · rw [if_neg mine]
  · rw [scratch, if_pos rfl, Memory.read_writeNat_word, if_pos hit.2]

/-- The stores of lanes in rising order: a byte keeps what it held where no lane stores it, and else holds what the highest lane stores
(R91, R342). -/
theorem storeLanes_spec {ps : List Nat} (rising : ps.Pairwise (· < ·)) : ∀ s : State,
    (∀ p ∈ ps, scratchSpot s (va p) n = (ci p, off p) ∧ ci p < s.block.shares.length) →
    ScratchOnly s (ps.foldl (storeLane va n v) s) ∧
    (∀ cj b, (∀ p ∈ ps, ¬Hits n ci off p cj b) →
      Memory.read ((ps.foldl (storeLane va n v) s).block.share cj).scratch b = Memory.read (s.block.share cj).scratch b) ∧
    ∀ p ∈ ps, ∀ b, Hits n ci off p (ci p) b → (∀ q ∈ ps, p < q → ¬Hits n ci off q (ci p) b) →
      Memory.read ((ps.foldl (storeLane va n v) s).block.share (ci p)).scratch b = (v p).extractLsb' (8 * (b - off p)) 8 := by
  induction ps with
  | nil => exact fun s _ => ⟨.refl s, fun _ _ _ => rfl, nofun⟩
  | cons p rest ih =>
    intro s spots
    obtain ⟨above, rising⟩ := List.pairwise_cons.mp rising
    obtain ⟨spot, core⟩ := spots p List.mem_cons_self
    obtain ⟨only, kept, stored⟩ := storeLane_spec (v := v) s spot core
    obtain ⟨only', kept', stored'⟩ := ih rising (storeLane va n v s p) fun q hq => by
      rw [only.scratchSpot, only.len]; exact spots q (List.mem_cons_of_mem p hq)
    refine ⟨only.trans only', fun cj b miss => ?_, fun q hq b hit last => ?_⟩
    · exact (kept' cj b fun r hr => miss r (List.mem_cons_of_mem p hr)).trans (kept cj b (miss p List.mem_cons_self))
    · rcases List.mem_cons.mp hq with rfl | hq
      · exact (kept' _ b fun r hr => last r (List.mem_cons_of_mem q hr) (above r hr)).trans (stored b hit)
      · exact stored' q hq b hit fun r hr => last r (List.mem_cons_of_mem p hr)

end

/-! ### `STS` -/

section
variable {c : Ctl} {w : Width} {o : Order} {sc : Scope} {x y z : Src} {s s2 : State} {a : Active} {ci off : Nat → Nat}

theorem exec_sts : exec (.sts c w o sc x y z) s = execSts c w o sc x y z s := rfl

/-- The rule of `STS` whose lanes pass their checks. -/
theorem sts_answers {r : LaneRes} (ok : ∀ p ∈ (s.team.landDue a).execLanes c,
      ScratchOk s (scratchVa (s.team.landDue a) a p x y) w.bytes true (ci p) (off p))
    (after : releaseAfter o ((s.team.landDue a).execLanes c) (s.setTeam (s.team.landDue a)) (fun s' =>
      .issued (((s.team.landDue a).execLanes c).foldl
        (storeLane (fun p => scratchVa (s.team.landDue a) a p x y) w.bytes (fun p => dataWord (s.team.landDue a) a p w.wide false z))
        (s'.countReplay (((s.team.landDue a).execLanes c).map (fun p =>
          (p, wordsOf (scratchSpot s' (scratchVa (s.team.landDue a) a p x y) w.bytes) w.bytes))))) { n := 0 }) = r) :
    Answers (.sts c w o sc x y z) c s a r := by
  obtain ⟨passes, -⟩ := laneFaults_scratch (scratchVa_below _ a x y) ok
  refine ⟨_, exec_sts.trans rfl, ?_⟩
  simp only [scratchCheck_setTeam, passes, dataOf_eq]
  exact after

theorem sts_held (can : Issuable (.sts c w o sc x y z) c s a) (ok : ∀ p ∈ (s.team.landDue a).execLanes c,
      ScratchOk s (scratchVa (s.team.landDue a) a p x y) w.bytes true (ci p) (off p))
    (ordered : Releases o) (some : (s.team.landDue a).execLanes c ≠ []) (wait : (s.setTeam (s.team.landDue a)).drainOps s.cur = .wait s2) :
    exec (.sts c w o sc x y z) s = .next (s2.setTeam { s2.team with held := true }) :=
  held_from can (sts_answers ok (releaseAfter_waits ordered some wait))

theorem sts_issues (can : Issuable (.sts c w o sc x y z) c s a) (ok : ∀ p ∈ (s.team.landDue a).execLanes c,
      ScratchOk s (scratchVa (s.team.landDue a) a p x y) w.bytes true (ci p) (off p) ∧ ci p < s.block.shares.length)
    (begins : ReleasesFrom (s.setTeam (s.team.landDue a)) s2 o ((s.team.landDue a).execLanes c)) :
    ∃ q r t, exec (.sts c w o sc x y z) s = .next t ∧ t = r.setTeam t.team ∧ IssuedFrame s t a ∧
      IssuedTeam s2 t (.sts c w o sc x y z) c a [] (some { n := 0 }) ∧ ScratchOnly { s2 with perf := q } r ∧
      (∀ cj b, (∀ p ∈ (s.team.landDue a).execLanes c, ¬Hits w.bytes ci off p cj b) →
        Memory.read (r.block.share cj).scratch b = Memory.read (s2.block.share cj).scratch b) ∧
      ∀ p ∈ (s.team.landDue a).execLanes c, ∀ b, Hits w.bytes ci off p (ci p) b →
        (∀ q ∈ (s.team.landDue a).execLanes c, p < q → ¬Hits w.bytes ci off q (ci p) b) →
        Memory.read (r.block.share (ci p)).scratch b =
          (dataWord (s.team.landDue a) a p w.wide false z).extractLsb' (8 * (b - off p)) 8 := by
  have checks : ∀ p ∈ (s.team.landDue a).execLanes c, ScratchOk s (scratchVa (s.team.landDue a) a p x y) w.bytes true (ci p) (off p) :=
    fun p hp => (ok p hp).1
  have spots := (laneFaults_scratch (scratchVa_below _ a x y) checks).2
  have team : s2.team = { s.team.landDue a with inflight := s2.team.inflight } := by
    have team := begins.team
    rwa [State.team_setTeam] at team
  have answers := sts_answers (sc := sc) (z := z) checks (releaseAfter_from begins)
  obtain ⟨q, counted⟩ : ∃ q, s2.countReplay (((s.team.landDue a).execLanes c).map (fun p =>
      (p, wordsOf (scratchSpot s2 (scratchVa (s.team.landDue a) a p x y) w.bytes) w.bytes))) = { s2 with perf := q } :=
    ⟨_, State.countReplay_eq _ _⟩
  rw [counted] at answers
  obtain ⟨only, kept, stored⟩ := storeLanes_spec (va := fun p => scratchVa (s.team.landDue a) a p x y)
    (v := fun p => dataWord (s.team.landDue a) a p w.wide false z) (execLanes_rising (s.team.landDue a) c) { s2 with perf := q }
    fun p hp => ⟨(begins.keepsPlaces.scratchSpot _ _).trans (spots p hp), begins.keepsPlaces.block.symm ▸ (ok p hp).2⟩
  obtain ⟨t, done, eq, frame, issued⟩ := issues_from can answers team only.team
  exact ⟨q, _, t, done, eq, frame, issued, only, kept, stored⟩

end

/-- Settles O30: the lanes of `LDS` and of `STS` pass their checks, fault or are held, and the stores are folded over the lanes in rising
order. -/
theorem laneScratchLoadsAndStores : Obligations.LaneScratchLoadsAndStores := by
  refine ⟨fun c w sx o sc d x y s a ci off can => ⟨lds_issues can, fun enter p rest lanes first others => ?_⟩,
    fun c w o sc x y z s s2 a ci off can ok => ⟨fun ordered some wait => ?_, fun begins => ?_⟩⟩
  · exact lds_traps can enter lanes first others
  · exact sts_held can (fun p hp => (ok p hp).1) ordered some wait
  · obtain ⟨q, r, t, done, eq, frame, issued, only, kept, stored⟩ := sts_issues can ok begins
    have cur : s2.cur = s.cur := begins.keepsPlaces.cur
    have block : t.block = r.block := by rw [eq]; rfl
    obtain ⟨rest, teams, blocks, placed, shares⟩ := only.issued eq
    rw [cur] at teams blocks
    refine ⟨t, done, rest, teams, blocks, placed, shares, frame, issued, ?_, ?_⟩
    · rw [block]; exact kept
    · rw [block]; exact stored

end Sys2Proof.Machine
end

section
/-! SUPPORT. The scratchpad atomics of lanes (R91, R177, R343, R345). -/

namespace Sys2Proof.Machine

/-! ### Atomic operations on words -/

/-- The lesser of two signed words, as the operation picks it. -/
theorem min_signed {w : Nat} (x y : BitVec w) :
    (if readInt true w y.toNat < readInt true w x.toNat then y.toNat else x.toNat) = (BitVec.ofInt w (min x.toInt y.toInt)).toNat := by
  rw [readInt_signed, readInt_signed]
  split
  · next less => rw [min_eq_right (le_of_lt less), BitVec.ofInt_toInt]
  · next less => rw [min_eq_left (not_lt.mp less), BitVec.ofInt_toInt]

theorem max_signed {w : Nat} (x y : BitVec w) :
    (if readInt true w x.toNat < readInt true w y.toNat then y.toNat else x.toNat) = (BitVec.ofInt w (max x.toInt y.toInt)).toNat := by
  rw [readInt_signed, readInt_signed]
  split
  · next less => rw [max_eq_right (le_of_lt less), BitVec.ofInt_toInt]
  · next less => rw [max_eq_left (not_lt.mp less), BitVec.ofInt_toInt]

theorem min_unsigned {w : Nat} (x y : BitVec w) : min x.toNat y.toNat = (BitVec.ofNat w (min x.toNat y.toNat)).toNat :=
  (toNat_ofNat_of_lt (lt_of_le_of_lt (min_le_left ..) x.isLt)).symm
theorem max_unsigned {w : Nat} (x y : BitVec w) : max x.toNat y.toNat = (BitVec.ofNat w (max x.toNat y.toNat)).toNat :=
  (toNat_ofNat_of_lt (max_lt x.isLt y.isLt)).symm

theorem swap_if_equal {w : Nat} (x y z : BitVec w) :
    (if x.toNat = z.toNat then some y.toNat else none) = (if x = z then some y else none).map BitVec.toNat := by
  by_cases h : x = z
  · rw [if_pos h, if_pos (congrArg BitVec.toNat h)]; rfl
  · rw [if_neg h, if_neg fun e => h (BitVec.eq_of_toNat_eq e)]; rfl

/-- The operation on numbers is that on words of 64 bits (R343). -/
theorem atomNew_wide (op : AtomOp) (x y z : BitVec 64) :
    atomNew op true x.toNat y.toNat z.toNat = (atomicResult (addF64 .rn) minF64 maxF64 op x y z).map BitVec.toNat := by
  cases op
  case add => exact congrArg some (BitVec.toNat_add x y).symm
  case min => exact congrArg some (min_signed x y)
  case max => exact congrArg some (max_signed x y)
  case minu => exact congrArg some (min_unsigned x y)
  case maxu => exact congrArg some (max_unsigned x y)
  case cas => exact swap_if_equal x y z
  case and => exact congrArg some (BitVec.toNat_and x y).symm
  case or => exact congrArg some (BitVec.toNat_or x y).symm
  case xor => exact congrArg some (BitVec.toNat_xor x y).symm
  case swap => rfl
  all_goals simp only [atomNew, atomicResult, if_true, BitVec.ofNat_toNat, BitVec.setWidth_eq, Option.map_some]

/-- The operation on numbers is that on words of 32 bits (R343). -/
theorem atomNew_narrow (op : AtomOp) (x y z : BitVec 32) :
    atomNew op false x.toNat y.toNat z.toNat = (atomicResult (addF32 .rn) minF32 maxF32 op x y z).map BitVec.toNat := by
  cases op
  case add => exact congrArg some (BitVec.toNat_add x y).symm
  case min => exact congrArg some (min_signed x y)
  case max => exact congrArg some (max_signed x y)
  case minu => exact congrArg some (min_unsigned x y)
  case maxu => exact congrArg some (max_unsigned x y)
  case cas => exact swap_if_equal x y z
  case and => exact congrArg some (BitVec.toNat_and x y).symm
  case or => exact congrArg some (BitVec.toNat_or x y).symm
  case xor => exact congrArg some (BitVec.toNat_xor x y).symm
  case swap => rfl
  all_goals simp only [atomNew, atomicResult, Bool.false_eq_true, if_false, BitVec.ofNat_toNat, BitVec.setWidth_eq, Option.map_some]

/-- The bytes and the bits of an atomic operation. -/
def atomBytes (wide : Bool) : Nat := if wide = true then 8 else 4

/-- What an atomic operation answers of the bytes of a memory: what it leaves of them, written over them (R343). -/
theorem atomicAt_eq (op : AtomOp) (wide : Bool) (m : Memory) (k : Nat) (dat cmp : Word64) :
    ((atomNew op wide (m.readNat k (atomBytes wide)) (dat.toNat % (if wide then 2 ^ 64 else 2 ^ 32))
      (cmp.toNat % (if wide then 2 ^ 64 else 2 ^ 32))).map (m.writeNat k (atomBytes wide))).getD m = atomicAt op wide k dat cmp m := by
  cases wide
  · have old : (BitVec.ofNat 32 (m.readNat k 4)).toNat = m.readNat k 4 := toNat_ofNat_of_lt (Memory.readNat_lt m k 4)
    have new := atomNew_narrow op (BitVec.ofNat 32 (m.readNat k 4)) (dat.setWidth 32) (cmp.setWidth 32)
    rw [old, BitVec.toNat_setWidth, BitVec.toNat_setWidth] at new
    simp only [atomBytes, atomicAt, Bool.false_eq_true, if_false, new]
    cases atomicResult (addF32 .rn) minF32 maxF32 op _ _ _ <;> rfl
  · have old : (BitVec.ofNat 64 (m.readNat k 8)).toNat = m.readNat k 8 := toNat_ofNat_of_lt (Memory.readNat_lt m k 8)
    have new := atomNew_wide op (BitVec.ofNat 64 (m.readNat k 8)) dat cmp
    rw [old] at new
    simp only [atomBytes, atomicAt, if_true, Nat.mod_eq_of_lt dat.isLt, Nat.mod_eq_of_lt cmp.isLt, new]
    cases atomicResult (addF64 .rn) minF64 maxF64 op _ _ _ <;> rfl

/-- One atomic operation in a scratchpad of the current block (R345). -/
theorem scratchAtom_spec {z : State} {ci : Nat} (op : AtomOp) (wide : Bool) (off : Nat) (dat cmp : Word64)
    (core : ci < z.block.shares.length) {r : State} {old : Nat}
    (h : scratchAtom z op wide (teamBlock z.cur) ci off (dat.toNat % (if wide then 2 ^ 64 else 2 ^ 32))
      (cmp.toNat % (if wide then 2 ^ 64 else 2 ^ 32)) = (r, old)) :
    ScratchOnly z r ∧ old = (z.block.share ci).scratch.readNat off (atomBytes wide) ∧
    ∀ cj, (r.block.share cj).scratch =
      if cj = ci then atomicAt op wide off dat cmp (z.block.share cj).scratch else (z.block.share cj).scratch := by
  have at_ := atomicAt_eq op wide (z.block.share ci).scratch off dat cmp
  unfold scratchAtom at h
  simp only [show z.scratchRead (teamBlock z.cur) ci off (if wide = true then 8 else 4) =
    (z.block.share ci).scratch.readNat off (atomBytes wide) from rfl] at h
  split at h
  · next v new =>
    cases h
    rw [new] at at_
    obtain ⟨only, scratch⟩ := State.scratchWrite_spec z ci off (atomBytes wide) v core
    refine ⟨only, rfl, fun cj => (scratch cj).trans ?_⟩
    by_cases mine : cj = ci
    · rw [if_pos mine, if_pos mine, mine, ← at_]; rfl
    · rw [if_neg mine, if_neg mine]
  · next new =>
    cases h
    rw [new] at at_
    refine ⟨.refl z, rfl, fun cj => ?_⟩
    by_cases mine : cj = ci
    · rw [if_pos mine, mine, ← at_]; rfl
    · rw [if_neg mine]

/-! ### Ordered requests in free mode -/

/-- A context that keeps no log serves every request at once (R58, R177). -/
theorem State.requestOp_free {s : State} {o : LaneOp} (free : (s.ctxAt (teamCtx o.team)).mode = .free) : s.requestOp o = .serve s := by
  have ordered (kind region unit : Nat) : s.ordered o.team kind region unit = .serve s := by simp only [State.ordered, free, if_true]
  unfold State.requestOp
  split
  · exact ordered ..
  · unfold State.request
    split
    · rfl
    · exact ordered ..

theorem State.performOp_free {s : State} {o : LaneOp} (free : (s.ctxAt (teamCtx o.team)).mode = .free) :
    s.performOp o = .ok (o.run s).1 (o.run s).2 := by
  simp only [State.performOp, State.requestOp_free free]

theorem Wrote.kept {s t : State} (h : Wrote s t) : t.ctxs = s.ctxs ∧ t.ops = s.ops := ⟨by rw [h.rest], by rw [h.rest]⟩

/-- An access changes no context, and no access that has not performed. -/
theorem LaneOp.run_kept (o : LaneOp) (s : State) : (o.run s).1.ctxs = s.ctxs ∧ (o.run s).1.ops = s.ops := by
  cases spad : o.spad with
  | none =>
    exact (o.wrote_run s spad).kept
  | some d =>
    simp only [LaneOp.run, spad]
    split
    · exact ⟨rfl, rfl⟩
    · exact (Wrote.foldl (fun s k => State.wrote_gwriteNat s _ _ _) _ _).kept
    · unfold scratchAtom
      dsimp only
      split <;> exact ⟨rfl, rfl⟩

/-- No access of the team that holds back what follows is outstanding, and its context keeps no log. -/
structure Unheld (s : State) (k : Nat) : Prop where
  free : (s.ctxAt (teamCtx k)).mode = .free
  weak : ∀ o ∈ s.ops, o.team = k → o.strong = false

theorem Unheld.of_eq {s t : State} {k : Nat} (h : Unheld s k) (ctxs : t.ctxs = s.ctxs) (ops : ∀ o ∈ t.ops, o ∈ s.ops) : Unheld t k :=
  ⟨by rw [State.ctxAt, ctxs]; exact h.free, fun o ho => h.weak o (ops o ho)⟩

theorem Unheld.blockedOp {s : State} {o : LaneOp} (h : Unheld s o.team) (keys : o.keys = []) : s.blockedOp o = false := by
  have meets (p : LaneOp) : p.meets o = false := by simp [LaneOp.meets, keys]
  have older : s.olderOps o = [] := by simp [State.olderOps, meets]
  have strong : (s.ops.takeWhile (fun p => !o.sameLane p)).any (fun p => p.team == o.team && p.strong) = false := by
    rw [List.any_eq_false]
    intro p hp
    simp only [Bool.and_eq_true, beq_iff_eq, not_and, Bool.not_eq_true]
    exact h.weak p (List.takeWhile_subset _ hp)
  simp [State.blockedOp, older, strong]

/-- Performing the accesses that come before what a team does next leaves it unheld. -/
theorem Unheld.performed {s t : State} {k : Nat} (h : Unheld s k) (drained : s.drainOps k = .ok t) : Unheld t k := by
  refine performOps_induct (R := fun s t => Unheld s k → Unheld t k) (fun _ => id) (fun f g => g ∘ f) (s.priorOps k) ?_ ?_ drained h
  · intro o ho s t ws performed unheld
    have ctx : teamCtx o.team = teamCtx k := by
      obtain ⟨-, prior⟩ := List.mem_filter.mp ho
      simp only [LaneOp.priorTo, Bool.or_eq_true, beq_iff_eq, Bool.and_eq_true] at prior
      rcases prior with same | ⟨-, same⟩
      · rw [same]
      · simp only [teamCtx, teamLaunch, same]
    rw [State.performOp_free (by rw [ctx]; exact unheld.free)] at performed
    obtain ⟨ctxs, ops⟩ := o.run_kept s
    cases performed
    exact unheld.of_eq ctxs fun p hp => ops ▸ hp
  · exact fun s o ws unheld => unheld.of_eq rfl fun p hp => List.mem_of_mem_filter hp

theorem ReleasesFrom.unheld {z s2 : State} {o : Order} {ex : List Nat} (h : ReleasesFrom z s2 o ex) (unheld : Unheld z z.cur) :
    Unheld s2 z.cur :=
  h.performed (R := fun z s2 => Unheld z z.cur → Unheld s2 z.cur) (fun _ => id) (fun drained unheld => unheld.performed drained) unheld

/-! ### The lanes of `ATOS` -/

section
variable (op : AtomOp) (wide : Bool) (d : Dst) (ci off : Nat → Nat) (x y : Nat → Word64)

/-- The scratchpad of each core after the operation of one lane. -/
def atomLane (m : Nat → Memory) (p : Nat) : Nat → Memory := fun cj =>
  if cj = ci p then atomicAt op wide (off p) (x p) (y p) (m cj) else m cj

/-- What one lane finds. -/
def foundLane (m : Nat → Memory) (p : Nat) : List LaneWrite :=
  laneWord wide p d (BitVec.ofNat 32 ((m (ci p)).readNat (off p) 4)) (BitVec.ofNat 64 ((m (ci p)).readNat (off p) 8))

/-- What the lanes find, each after those before it. -/
def foundLanes (m : Nat → Memory) (ps : List Nat) : List LaneWrite :=
  ps.zipIdx.flatMap fun e => foundLane wide d ci off ((ps.take e.2).foldl (atomLane op wide ci off x y) m) e.1

theorem foundLanes_cons (m : Nat → Memory) (p : Nat) (ps : List Nat) :
    foundLanes op wide d ci off x y m (p :: ps) =
      foundLane wide d ci off m p ++ foundLanes op wide d ci off x y (atomLane op wide ci off x y m p) ps := by
  simp only [foundLanes, List.zipIdx_cons', List.flatMap_cons, List.flatMap_map, Prod.map, id, List.take_succ_cons, List.foldl_cons,
    List.take_zero, List.foldl_nil]

theorem atomLanes_succ (m : Nat → Memory) {ps : List Nat} {k p : Nat} (h : ps[k]? = some p) :
    (ps.take (k + 1)).foldl (atomLane op wide ci off x y) m =
      atomLane op wide ci off x y ((ps.take k).foldl (atomLane op wide ci off x y) m) p := by
  rw [List.take_add_one, h, List.foldl_append]; rfl

end

section
variable {c : Ctl} {wide : Bool} {op : AtomOp} {o : Order} {sc : Scope} {d : Dst} {x y z : Src} {s s2 : State} {a : Active}
  {ci off : Nat → Nat}

/-- One lane's operation performs as it issues (R345). -/
theorem atosOp_performs {s0 z : State} {at_ p : Nat} (u v : Nat → Word64) (unheld : Unheld z z.cur) (cur : s0.cur = z.cur)
    (spot : scratchSpot s0 at_ (atomBytes wide) = (ci p, off p)) (core : ci p < z.block.shares.length) :
    ∃ r, z.performOp (atosOp s0 wide op d at_ p (u p).toNat (v p).toNat) =
        .ok r (foundLane wide d ci off (fun cj => (z.block.share cj).scratch) p) ∧
      ScratchOnly z r ∧ r.ops = z.ops ∧ r.ctxs = z.ctxs ∧
      (fun cj => (r.block.share cj).scratch) = atomLane op wide ci off u v (fun cj => (z.block.share cj).scratch) p := by
  generalize action : atosOp s0 wide op d at_ p (u p).toNat (v p).toNat = l
  have team : l.team = z.cur := by rw [← action, ← cur]; rfl
  have spad : l.spad = some (ci p, off p) := by rw [← action, ← spot]; rfl
  have act : l.act = .atom op (u p).toNat (v p).toNat d := by rw [← action]; rfl
  have bytes : (l.bytes == 8) = wide := by rw [← action]; cases wide <;> rfl
  have pos : l.pos = p := by rw [← action]; rfl
  obtain ⟨ctxs, ops⟩ := l.run_kept z
  rw [State.performOp_free (by rw [team]; exact unheld.free)]
  simp only [LaneOp.run, act, spad, bytes, team, pos] at ctxs ops ⊢
  generalize atom : scratchAtom z op wide (teamBlock z.cur) (ci p) (off p) _ _ = done at ctxs ops ⊢
  obtain ⟨r, old⟩ := done
  obtain ⟨only, found, scratch⟩ := scratchAtom_spec op wide (off p) (u p) (v p) core atom
  refine ⟨r, ?_, only, ops, ctxs, funext scratch⟩
  rw [found, writeData_eq]
  cases wide <;> simp only [foundLane, laneWord, atomBytes, Bool.false_eq_true, if_false, if_true]

/-- The lanes perform one after the other (R91, R345). -/
theorem issueOps_atos {s0 : State} {at_ : Nat → Nat} (u v : Nat → Word64) (ps : List Nat) : ∀ (z : State) (ws : List LaneWrite),
    Unheld z z.cur → s0.cur = z.cur →
    (∀ p ∈ ps, scratchSpot s0 (at_ p) (atomBytes wide) = (ci p, off p) ∧ ci p < z.block.shares.length) →
    ∃ r, issueOps (ps.map fun p => atosOp s0 wide op d (at_ p) p (u p).toNat (v p).toNat) z ws =
        .ok r (ws ++ foundLanes op wide d ci off u v (fun cj => (z.block.share cj).scratch) ps) ∧
      ScratchOnly z r ∧ ∀ cj, (r.block.share cj).scratch =
        ps.foldl (atomLane op wide ci off u v) (fun cj => (z.block.share cj).scratch) cj := by
  induction ps with
  | nil => exact fun z ws _ _ _ => ⟨z, by simp [issueOps, foundLanes], .refl z, fun _ => rfl⟩
  | cons p rest ih =>
    intro z ws unheld cur spots
    obtain ⟨spot, core⟩ := spots p List.mem_cons_self
    obtain ⟨z1, performed, only, ops, ctxs, scratch⟩ := atosOp_performs (op := op) (d := d) u v unheld cur spot core
    have blocked : z.blockedOp (atosOp s0 wide op d (at_ p) p (u p).toNat (v p).toNat) = false :=
      Unheld.blockedOp (by rw [show (atosOp s0 wide op d (at_ p) p (u p).toNat (v p).toNat).team = z.cur from cur]; exact unheld) rfl
    obtain ⟨r, rest_issued, only', scratch'⟩ := ih z1 (ws ++ foundLane wide d ci off (fun cj => (z.block.share cj).scratch) p)
      (by rw [only.cur]; exact unheld.of_eq ctxs fun _ h => ops ▸ h) (cur.trans only.cur.symm)
      fun q hq => only.len.symm ▸ spots q (List.mem_cons_of_mem p hq)
    refine ⟨r, ?_, only.trans only', fun cj => ?_⟩
    · rw [List.map_cons, issueOps]
      simp only [show (atosOp s0 wide op d (at_ p) p (u p).toNat (v p).toNat).strong = true from rfl, Bool.not_true, Bool.false_and, blocked,
        Bool.or_self, Bool.false_eq_true, if_false, performed]
      rw [rest_issued, scratch, foundLanes_cons, List.append_assoc]
    · rw [scratch' cj, scratch, List.foldl_cons]

theorem exec_atos : exec (.atos c wide op o sc d x y z) s = execAtos c wide op o sc d x y z s := rfl

/-- The rule of `ATOS` whose lanes pass their checks. -/
theorem atos_answers {r : LaneRes} (ok : ∀ p ∈ (s.team.landDue a).execLanes c,
      ScratchOk s (src32 (s.team.landDue a) a p x).toNat (atomBytes wide) true (ci p) (off p))
    (after : releaseAfter o ((s.team.landDue a).execLanes c) (s.setTeam (s.team.landDue a)) (fun s' =>
      let s0 := s'.countReplay (((s.team.landDue a).execLanes c).map (fun p =>
        (p, wordsOf (scratchSpot s' (src32 (s.team.landDue a) a p x).toNat (atomBytes wide)) (atomBytes wide))))
      perfRes s0 (laneWrites (.atos c wide op o sc d x y z)) (issueOps (((s.team.landDue a).execLanes c).map fun p =>
        atosOp s0 wide op d (src32 (s.team.landDue a) a p x).toNat p (dataWord (s.team.landDue a) a p wide (readsFloat op) y).toNat
          (dataWord (s.team.landDue a) a p wide false z).toNat) s0 [])) = r) :
    Answers (.atos c wide op o sc d x y z) c s a r := by
  obtain ⟨passes, -⟩ := laneFaults_scratch (fun p => Nat.lt_of_lt_of_le (BitVec.isLt (src32 (s.team.landDue a) a p x)) (by decide)) ok
  have float : atomFloat op = readsFloat op := by cases op <;> rfl
  refine ⟨_, exec_atos.trans rfl, ?_⟩
  unfold atomBytes at passes after
  simp only [scratchCheck_setTeam, passes, dataOf_eq, float]
  exact after

theorem atos_issues (can : Issuable (.atos c wide op o sc d x y z) c s a) (unheld : Unheld s s.cur)
    (ok : ∀ p ∈ (s.team.landDue a).execLanes c,
      ScratchOk s (src32 (s.team.landDue a) a p x).toNat (atomBytes wide) true (ci p) (off p) ∧ ci p < s.block.shares.length)
    (begins : ReleasesFrom (s.setTeam (s.team.landDue a)) s2 o ((s.team.landDue a).execLanes c)) :
    let u (p : Nat) : Word64 := dataWord (s.team.landDue a) a p wide (readsFloat op) y
    let v (p : Nat) : Word64 := dataWord (s.team.landDue a) a p wide false z
    let m0 (cj : Nat) : Memory := (s2.block.share cj).scratch
    ∃ q r t, exec (.atos c wide op o sc d x y z) s = .next t ∧ t = r.setTeam t.team ∧ ScratchOnly { s2 with perf := q } r ∧
      (∀ cj, (r.block.share cj).scratch = ((s.team.landDue a).execLanes c).foldl (atomLane op wide ci off u v) m0 cj) ∧
      IssuedFrame s t a ∧ IssuedTeam s2 t (.atos c wide op o sc d x y z) c a []
        (some { n := 0, dsts := laneWrites (.atos c wide op o sc d x y z)
                writes := foundLanes op wide d ci off u v m0 ((s.team.landDue a).execLanes c) }) := by
  intro u v m0
  have checks : ∀ p ∈ (s.team.landDue a).execLanes c,
      ScratchOk s (src32 (s.team.landDue a) a p x).toNat (atomBytes wide) true (ci p) (off p) := fun p hp => (ok p hp).1
  have spots := (laneFaults_scratch (fun p => Nat.lt_of_lt_of_le (BitVec.isLt (src32 (s.team.landDue a) a p x)) (by decide)) checks).2
  have team : s2.team = { s.team.landDue a with inflight := s2.team.inflight } := by
    have team := begins.team
    rwa [State.team_setTeam] at team
  have cur : s2.cur = s.cur := begins.keepsPlaces.cur
  have unheld2 : Unheld s2 s2.cur := by rw [cur]; exact begins.unheld (unheld.of_eq rfl fun _ => id)
  have answers := atos_answers (op := op) (sc := sc) (d := d) (y := y) (z := z) checks (releaseAfter_from begins)
  obtain ⟨q, counted⟩ : ∃ q, s2.countReplay (((s.team.landDue a).execLanes c).map (fun p =>
      (p, wordsOf (scratchSpot s2 (src32 (s.team.landDue a) a p x).toNat (atomBytes wide)) (atomBytes wide)))) = { s2 with perf := q } :=
    ⟨_, State.countReplay_eq _ _⟩
  obtain ⟨r, issues, only, scratch⟩ := issueOps_atos (s0 := { s2 with perf := q }) (at_ := fun p => (src32 (s.team.landDue a) a p x).toNat)
    (op := op) (d := d) u v ((s.team.landDue a).execLanes c) { s2 with perf := q } [] (unheld2.of_eq rfl fun _ => id) rfl
    fun p hp => ⟨(begins.keepsPlaces.scratchSpot _ _).trans (spots p hp), begins.keepsPlaces.block.symm ▸ (ok p hp).2⟩
  dsimp only [u, v] at issues
  simp only [counted, issues, perfRes] at answers
  obtain ⟨t, done, eq, frame, issued⟩ := issues_from can answers team only.team
  exact ⟨q, r, t, done, eq, only, scratch, frame, issued⟩

theorem atos_held (can : Issuable (.atos c wide op o sc d x y z) c s a) (ok : ∀ p ∈ (s.team.landDue a).execLanes c,
      ScratchOk s (src32 (s.team.landDue a) a p x).toNat (atomBytes wide) true (ci p) (off p))
    (ordered : Releases o) (some : (s.team.landDue a).execLanes c ≠ []) (wait : (s.setTeam (s.team.landDue a)).drainOps s.cur = .wait s2) :
    exec (.atos c wide op o sc d x y z) s = .next (s2.setTeam { s2.team with held := true }) :=
  held_from can (atos_answers ok (releaseAfter_waits ordered some wait))

end

theorem unheld_of {s : State} (free : s.ctx.mode = .free) (weak : s.strongPending s.cur = false) : Unheld s s.cur where
  free := free
  weak o ho team := by
    have none := List.any_eq_false.mp weak o ho
    simpa [team] using none

/-- Settles O31: the lanes pass their checks and perform one after the other from the state that the instruction begins in, or it is
held. `m k` is the scratchpad of each core after the operations of the first `k` lanes. -/
theorem laneScratchAtomics : Obligations.LaneScratchAtomics := by
  intro c wide op o sc d x y z s s2 a ci off i n u ex can free weak ok
  refine ⟨fun ordered some wait => atos_held can (fun p hp => (ok p hp).1) ordered some wait, fun begins => ?_⟩
  obtain ⟨q, r, t, done, eq, only, scratch, frame, issued⟩ := atos_issues can (unheld_of free weak) ok begins
  have block : t.block = r.block := by rw [eq]; rfl
  obtain ⟨rest, teams, blocks, placed, shares⟩ := only.issued eq
  rw [show s2.cur = s.cur from begins.keepsPlaces.cur] at teams blocks
  refine ⟨t, fun k => (ex.take k).foldl (atomLane op wide ci off (fun p => dataWord u a p wide (readsFloat op) y)
    (fun p => dataWord u a p wide false z)) (fun cj => (s2.block.share cj).scratch), done, rest, teams, blocks, placed, fun cj => ?_,
    fun _ => rfl, fun k p lane cj => ?_, frame, issued⟩
  · rw [shares cj, block, scratch cj]
    simp only [List.take_length]
    rfl
  · exact congrFun (atomLanes_succ _ _ _ _ _ _ _ lane) cj

end Sys2Proof.Machine
end

section
/-! SUPPORT. Instruction caches, TLB shoot-downs and `PTFENCE` (R109, R168, R213, R214, R222, R299, R300). -/

namespace Sys2Proof.Machine

/-! ### Tables and ranges -/

/-- An entry of a mapped table is the mapped entry, or there is none. -/
theorem Table.get_mapVals {α : Type} [Inhabited α] (t : Table α) (f : Nat → α → α) (k : Nat) :
    (t.mapVals f).get k = f k (t.get k) ∨ (t.mapVals f).get k = t.get k := by
  simp only [Table.get, Table.find?_mapVals]
  cases Table.find? t k with
  | none => exact .inr rfl
  | some x => exact .inl rfl

/-- Two ranges overlap where they share a byte. -/
theorem overlaps_iff (a b c d : Nat) : overlaps a b c d = true ↔ ∃ x, a ≤ x ∧ x < b ∧ c ≤ x ∧ x < d := by
  simp only [overlaps, decide_eq_true_eq]
  constructor
  · exact fun h => ⟨max a c, by omega⟩
  · rintro ⟨x, h⟩; omega

/-! ### The devices of a scope -/

/-- The scopes that reach the other devices of the domain (R203, R214, R299). -/
def FarScope (sc : Scope) : Prop := sc = .dom ∨ sc = .sys

theorem State.mem_otherDevices (s : State) (x : Nat) :
    x ∈ s.otherDevices ↔ x < s.routes.length ∧ x ≠ s.ownDevice ∧ x ∉ s.fenced ∧ s.isolated = false := by
  simp [State.otherDevices, List.mem_filter, and_assoc]

theorem State.mem_invDevices (s : State) (sc : Scope) (x : Nat) :
    x ∈ s.invDevices sc ↔ FarScope sc ∧ x < s.routes.length ∧ x ≠ s.ownDevice ∧ x ∉ s.fenced ∧ s.isolated = false := by
  cases sc <;> simp [State.invDevices, FarScope, State.mem_otherDevices]

theorem State.mem_shootDevices (s : State) (sc : Scope) (x : Nat) :
    x ∈ s.shootDevices sc ↔ x = s.ownDevice ∨ (FarScope sc ∧ x < s.routes.length ∧ x ∉ s.fenced ∧ s.isolated = false) := by
  by_cases own : x = s.ownDevice
  · cases sc <;> simp [State.shootDevices, own]
  · cases sc <;> simp [State.shootDevices, FarScope, State.mem_otherDevices, own]

/-- The cores of a scope on this device (R299). -/
def Reached (s : State) (sc : Scope) (c : Nat) : Prop :=
  match sc with
  | .team | .block => ∃ h ∈ s.block.shares, h.core = c
  | _ => c < s.nCores

theorem contains_invCores (s : State) (sc : Scope) (c : Nat) : (invCores s sc).contains c = true ↔ Reached s sc c := by
  cases sc <;> simp [invCores, Reached]

/-! ### Discarding code -/

/-- `t` is `s` after the cores `cs` have given up the granules that share a byte with `lo` to `hi - 1`, which their teams may hold
expanded, and no field of the device, of a team or of a core differs else. -/
structure Discarded (s t : State) (cs : Nat → Prop) (lo hi : Nat) : Prop where
  rest : t = { s with cores := t.cores, teams := t.teams }
  teams : ∀ j, t.teamAt j = { s.teamAt j with expanded := (t.teamAt j).expanded }
  cores : ∀ c, t.coreAt c = { s.coreAt c with icache := (t.coreAt c).icache }
  granules : ∀ c g, g ∈ (t.coreAt c).icache ↔ g ∈ (s.coreAt c).icache ∧ ¬(cs c ∧ ∃ x, g.va ≤ x ∧ x < g.va + 64 ∧ lo ≤ x ∧ x < hi)

theorem State.discardCode_coreAt (s : State) (cs : List Nat) (lo n c : Nat) :
    (s.discardCode cs lo n).coreAt c =
      if cs.contains c then { s.coreAt c with icache := (s.coreAt c).icache.filter (fun g => !g.hit lo n) } else s.coreAt c := by
  simp only [State.coreAt, State.discardCode, Table.get, Table.find?_mapVals]
  cases Table.find? s.cores c with
  | none => split <;> rfl
  | some x => rfl

theorem State.discardCode_discards (s : State) (sc : Scope) (lo n : Nat) :
    Discarded s (s.discardCode (invCores s sc) lo n) (Reached s sc) lo (lo + n) where
  rest := rfl
  teams j := by
    rcases Table.get_mapVals s.teams _ j with team | team
    all_goals rw [State.teamAt, State.discardCode, team]; rfl
  cores c := by rw [State.discardCode_coreAt]; split <;> rfl
  granules c g := by
    have hit : g.hit lo n = true ↔ ∃ x, g.va ≤ x ∧ x < g.va + 64 ∧ lo ≤ x ∧ x < lo + n := overlaps_iff ..
    rw [State.discardCode_coreAt, ← contains_invCores, ← hit]
    split
    · next reached => simp only [List.mem_filter, reached, true_and, Bool.not_eq_true', Bool.not_eq_true]
    · next missed => simp only [missed, Bool.false_eq_true, false_and, not_false_eq_true, and_true]

/-- `ICINV` completes with the code of its scope discarded (R299). -/
theorem Discarded.done {s r : State} {cs : Nat → Prop} {lo hi : Nat} (h : Discarded s r cs lo hi) :
    ∃ t, scalarDone r { r.team with icinv := none } = .next t ∧ t = { s with cores := t.cores, teams := t.teams } ∧
      t.team = { s.team.goneOn true with expanded := t.team.expanded, icinv := none, spc := s.team.spc + 4, progress := s.clock } ∧
      (∀ j, j ≠ s.cur → t.teamAt j = { s.teamAt j with expanded := (t.teamAt j).expanded }) ∧
      (∀ c, t.coreAt c = { s.coreAt c with icache := (t.coreAt c).icache }) ∧
      ∀ c g, g ∈ (t.coreAt c).icache ↔ g ∈ (s.coreAt c).icache ∧ ¬(cs c ∧ ∃ x, g.va ≤ x ∧ x < g.va + 64 ∧ lo ≤ x ∧ x < hi) := by
  have cur : r.cur = s.cur := by rw [h.rest]
  have clock : r.clock = s.clock := by rw [h.rest]
  have mine : r.team = { s.team with expanded := r.team.expanded } := by
    simp only [State.team, cur]
    exact h.teams s.cur
  obtain ⟨t, done, ⟨rest, others, -⟩, team⟩ := scalarDone_completed r { r.team with icinv := none } rfl
  have cores : t.cores = r.cores := by rw [rest]
  refine ⟨t, done, ?_, ?_, fun j hj => ?_, fun c => ?_, fun c g => ?_⟩
  · rw [rest, h.rest]
  · rw [team, mine, clock]; rfl
  · have same : t.teamAt j = r.teamAt j := by rw [State.teamAt, Table.get, others j (by rw [cur]; exact hj)]; rfl
    rw [same]; exact h.teams j
  · rw [State.coreAt, cores]; exact h.cores c
  · rw [State.coreAt, cores]; exact h.granules c g

/-! ### `ISYNC` and `ICINV` -/

section
variable {s : State} {a y : SReg} {sc : Scope}

theorem exec_isync : exec .isync s = execIsync s := rfl
theorem exec_icinv : exec (.icinv a y sc) s = execIcinv a y sc s := rfl

theorem isync_waits (busy : s.settled = false) : exec .isync s = .next s := by
  simp only [exec_isync, execIsync, busy, Bool.not_false, if_true, scalarWait]

theorem isync_done (settled : s.settled = true) : GivesTeam .isync s { s.team with expanded := [] } :=
  .of_done (by simp only [exec_isync, execIsync, settled, Bool.not_true, Bool.false_eq_true, if_false]) rfl

theorem icinv_waits (busy : s.settled = false) : exec (.icinv a y sc) s = .next s := by
  simp only [exec_icinv, execIcinv, busy, Bool.not_false, if_true, scalarWait]

theorem icinv_answered {x : Shoot} (settled : s.settled = true) (asked : s.team.icinv = some x) (none_left : x.await = []) :
    exec (.icinv a y sc) s = scalarDone (s.discardCode (invCores s sc) (s.team.sreg a).toNat (s.team.sreg y).toNat)
      { (s.discardCode (invCores s sc) (s.team.sreg a).toNat (s.team.sreg y).toNat).team with icinv := none } := by
  simp only [exec_icinv, execIcinv, settled, asked, none_left, Bool.not_true, Bool.false_eq_true, if_false, List.isEmpty_nil, if_true]

theorem icinv_asking {x : Shoot} (settled : s.settled = true) (asked : s.team.icinv = some x) (left : x.await ≠ []) :
    exec (.icinv a y sc) s = .next s := by
  have some_left : x.await.isEmpty = false := by simpa using left
  simp only [exec_icinv, execIcinv, settled, asked, some_left, Bool.not_true, Bool.false_eq_true, if_false, scalarWait]

theorem Team.icinv_none {u : Team} (h : u.icinv = none) : { u with icinv := none } = u := by rw [← h]

theorem icinv_local (settled : s.settled = true) (fresh : s.team.icinv = none) (alone : s.invDevices sc = []) :
    exec (.icinv a y sc) s = scalarDone (s.discardCode (invCores s sc) (s.team.sreg a).toNat (s.team.sreg y).toNat)
      { (s.discardCode (invCores s sc) (s.team.sreg a).toNat (s.team.sreg y).toNat).team with icinv := none } := by
  have none_left : (s.discardCode (invCores s sc) (s.team.sreg a).toNat (s.team.sreg y).toNat).team.icinv = none := by
    have team := (s.discardCode_discards sc (s.team.sreg a).toNat (s.team.sreg y).toNat).teams s.cur
    exact (congrArg Team.icinv team).trans fresh
  rw [Team.icinv_none none_left]
  simp only [exec_icinv, execIcinv, settled, fresh, alone, Bool.not_true, Bool.false_eq_true, if_false, List.isEmpty_nil, if_true]

theorem icinv_asks (settled : s.settled = true) (fresh : s.team.icinv = none) (others : s.invDevices sc ≠ []) :
    exec (.icinv a y sc) s = .next (State.setTeam { s with uids := s.uids + 1 }
      { s.team with icinv := some { uid := s.uids, await := s.invDevices sc, since := s.clock } }) := by
  have some_left : (s.invDevices sc).isEmpty = false := by simpa using others
  simp only [exec_icinv, execIcinv, settled, fresh, some_left, Bool.not_true, Bool.false_eq_true, if_false]
  rfl

end

/-! ### Shoot-downs -/

section
variable {s : State} {sc : Scope} {i : Instr} {form asid lo hi : Nat} {glob : Bool}

theorem sendShoot_traps (e : exec i s = sendShoot s sc form asid lo hi glob) (can : CanTrap s) : Traps i s 0x03 0x02 0 :=
  .of_trap (e.trans (by simp only [sendShoot, can.user, Bool.not_false, if_true])) can

theorem sendShoot_waits (e : exec i s = sendShoot s sc form asid lo hi glob) (sup : s.team.sup = true) (busy : s.settled = false) :
    exec i s = .next s :=
  e.trans (by simp only [sendShoot, sup, busy, Bool.not_true, Bool.not_false, Bool.false_eq_true, if_false, if_true, scalarWait])

/-- A shoot-down is sent to the devices of its scope (R168, R214). -/
theorem sendShoot_sends (e : exec i s = sendShoot s sc form asid lo hi glob) (sup : s.team.sup = true) (settled : s.settled = true) :
    ∃ t, exec i s = .next t ∧
      t = { s with
        uids := s.uids + 1
        tlbinvs := s.tlbinvs ++
          [{ uid := s.uids, team := s.cur, vf := teamVf s.cur, form := form, asid := asid, lo := lo, hi := hi, glob := glob
             devs := s.shootDevices sc, waiting := false }]
        teams := t.teams } ∧
      (∀ j, j ≠ s.cur → Table.find? t.teams j = Table.find? s.teams j) ∧
      t.team = { s.team.goneOn true with
        shoots := s.team.shoots ++ [{ uid := s.uids, await := s.shootDevices sc, since := s.clock }]
        spc := s.team.spc + 4, progress := s.clock } := by
  generalize sent : ({ s with
    uids := s.uids + 1
    tlbinvs := s.tlbinvs ++
      [{ uid := s.uids, team := s.cur, vf := teamVf s.cur, form := form, asid := asid, lo := lo, hi := hi, glob := glob
         devs := s.shootDevices sc, waiting := false }] } : State) = r
  have done : exec i s = scalarDone r
      { s.team with shoots := s.team.shoots ++ [{ uid := s.uids, await := s.shootDevices sc, since := s.clock }] } := by
    rw [e, ← sent]
    simp only [sendShoot, sup, settled, Bool.not_true, Bool.false_eq_true, if_false]
    rfl
  obtain ⟨t, next, ⟨rest, others, -⟩, team⟩ := scalarDone_completed r
    { s.team with shoots := s.team.shoots ++ [{ uid := s.uids, await := s.shootDevices sc, since := s.clock }] } (by rw [← sent]; rfl)
  subst sent
  exact ⟨t, done.trans next, rest, others, team⟩

theorem exec_tlbsync : exec .tlbsync s = execTlbsync s := rfl

theorem tlbsync_traps (can : CanTrap s) : Traps .tlbsync s 0x03 0x02 0 :=
  .of_trap (by simp only [exec_tlbsync, execTlbsync, can.user, Bool.not_false, if_true]) can

theorem tlbsync_done (sup : s.team.sup = true) (settled : s.settled = true) (acknowledged : ∀ x ∈ s.team.shoots, x.await = []) :
    GivesTeam .tlbsync s { s.team with shoots := [] } := by
  have all : s.team.shoots.all (fun x => x.await.isEmpty) = true := List.all_eq_true.mpr fun x hx => by simp [acknowledged x hx]
  exact .of_done (by simp only [exec_tlbsync, execTlbsync, sup, settled, all, Bool.not_true, Bool.false_eq_true, if_false, if_true]) rfl

theorem tlbsync_waits (sup : s.team.sup = true) (h : s.settled = false ∨ ∃ x ∈ s.team.shoots, x.await ≠ []) :
    exec .tlbsync s = .next s := by
  rcases h with busy | ⟨x, hx, left⟩
  · simp only [exec_tlbsync, execTlbsync, sup, busy, Bool.not_true, Bool.not_false, Bool.false_eq_true, if_false, if_true, scalarWait]
  · have some_left : s.team.shoots.all (fun x => x.await.isEmpty) = false :=
      List.all_eq_false.mpr ⟨x, hx, by simpa using left⟩
    simp only [exec_tlbsync, execTlbsync, sup, some_left, Bool.not_true, Bool.false_eq_true, if_false, scalarWait, ite_self]

end

/-! ### `PTFENCE` -/

/-- What `rewalkCtx` does to each team, launch and block (R166). -/
theorem State.rewalkCtx_rest (s : State) (c : Nat) :
    s.rewalkCtx c = { s with teams := (s.rewalkCtx c).teams, launches := (s.rewalkCtx c).launches, blocks := (s.rewalkCtx c).blocks } := rfl

theorem State.rewalkCtx_teamAt (s : State) (c j : Nat) :
    (s.rewalkCtx c).teamAt j = { s.teamAt j with rewalk := (s.teamAt j).rewalk || ((s.rewalkCtx c).teamAt j).rewalk } := by
  simp only [State.rewalkCtx, State.rewalkWhere, State.teamAt]
  rcases Table.get_mapVals s.teams (fun k t => if (teamCtx k == c) = true then { t with rewalk := true } else t) j with team | team
  · rw [team]; split <;> simp
  · rw [team]; simp

theorem State.rewalkCtx_own (s : State) (j : Nat) : (s.rewalkCtx (teamCtx j)).teamAt j = { s.teamAt j with rewalk := true } := by
  simp only [State.rewalkCtx, State.rewalkWhere, State.teamAt, Table.get, Table.find?_mapVals, BEq.rfl, if_true]
  cases Table.find? s.teams j <;> rfl

theorem State.rewalkCtx_launchAt (s : State) (c l : Nat) :
    (s.rewalkCtx c).launchAt l = { s.launchAt l with rewalk := (s.launchAt l).rewalk || ((s.rewalkCtx c).launchAt l).rewalk } := by
  simp only [State.rewalkCtx, State.rewalkWhere, State.launchAt]
  rcases Table.get_mapVals s.launches (fun l x => if (launchCtx l == c) = true then { x with rewalk := true } else x) l with launch | launch
  · rw [launch]; split <;> simp
  · rw [launch]; simp

theorem Block.mapChans_share (b : Block) (f : Chan → Chan) (ci : Nat) :
    (b.mapChans f).share ci = { b.share ci with chans := ((b.mapChans f).share ci).chans } := by
  simp only [Block.share, Block.mapChans, List.getD_eq_getElem?_getD, List.getElem?_map]
  cases b.shares[ci]? <;> rfl

theorem State.rewalkCtx_blockAt (s : State) (c b ci : Nat) :
    (s.rewalkCtx c).blockAt b = { s.blockAt b with shares := ((s.rewalkCtx c).blockAt b).shares } ∧
    ((s.rewalkCtx c).blockAt b).share ci = { (s.blockAt b).share ci with chans := (((s.rewalkCtx c).blockAt b).share ci).chans } := by
  simp only [State.rewalkCtx, State.rewalkWhere, State.blockAt]
  rcases Table.get_mapVals s.blocks (fun b x => if (launchCtx (blockLaunch b) == c) = true then
    x.mapChans (fun n => n.mapIssued (fun i => { i with rewalk := true })) else x) b with block | block
  · rw [block]
    split
    · exact ⟨rfl, Block.mapChans_share ..⟩
    · exact ⟨rfl, rfl⟩
  · rw [block]; exact ⟨rfl, rfl⟩

section
variable {s : State}

theorem exec_ptfence : exec .ptfence s = execPtfence s := rfl

theorem ptfence_waits (busy : s.settled = false) : exec .ptfence s = .next s := by
  simp only [exec_ptfence, execPtfence, busy, Bool.not_false, if_true, scalarWait]

theorem ptfence_done (settled : s.settled = true) :
    ∃ t, exec .ptfence s = .next t ∧ t = { s with launches := t.launches, blocks := t.blocks, teams := t.teams } ∧
      t.team = { s.team.goneOn true with rewalk := true, spc := s.team.spc + 4, progress := s.clock } ∧
      (∀ j, j ≠ s.cur → t.teamAt j = { s.teamAt j with rewalk := (s.teamAt j).rewalk || (t.teamAt j).rewalk }) ∧
      (∀ l, t.launchAt l = { s.launchAt l with rewalk := (s.launchAt l).rewalk || (t.launchAt l).rewalk }) ∧
      ∀ x ci, t.blockAt x = { s.blockAt x with shares := (t.blockAt x).shares } ∧
        (t.blockAt x).share ci = { (s.blockAt x).share ci with chans := ((t.blockAt x).share ci).chans } := by
  generalize walked : s.rewalkCtx (teamCtx s.cur) = r
  have rest : r = { s with teams := r.teams, launches := r.launches, blocks := r.blocks } := by rw [← walked]; rfl
  have cur : r.cur = s.cur := by rw [rest]
  have clock : r.clock = s.clock := by rw [rest]
  have mine : r.team = { s.team with rewalk := true } := by rw [State.team, cur, ← walked]; exact s.rewalkCtx_own s.cur
  have done : exec .ptfence s = scalarDone r r.team := by
    simp only [exec_ptfence, execPtfence, settled, Bool.not_true, Bool.false_eq_true, if_false, walked]
  obtain ⟨t, next, ⟨same, others, -⟩, team⟩ := scalarDone_completed r r.team rfl
  have launches : t.launches = r.launches := by rw [same]
  have blocks : t.blocks = r.blocks := by rw [same]
  refine ⟨t, done.trans next, ?_, ?_, fun j hj => ?_, fun l => ?_, fun x ci => ?_⟩
  · rw [same, rest]
  · rw [team, mine, clock]; rfl
  · have kept : t.teamAt j = r.teamAt j := by rw [State.teamAt, Table.get, others j (by rw [cur]; exact hj)]; rfl
    rw [kept, ← walked]; exact s.rewalkCtx_teamAt _ j
  · rw [State.launchAt, launches, ← walked]; exact s.rewalkCtx_launchAt _ l
  · rw [State.blockAt, blocks, ← walked]; exact s.rewalkCtx_blockAt _ x ci

end

/-- Settles O17, instruction by instruction: each waits to drain, and then discards, sends, completes or lets walk again. -/
theorem cachesAndShootDowns : Obligations.CachesAndShootDowns := by
  refine ⟨fun a y sc s => ⟨fun busy => ⟨isync_waits busy, icinv_waits busy⟩,
      fun settled => ⟨isync_done settled, fun x asked => ?_, fun fresh => ?_⟩⟩,
    fun d a y glob sc s => ⟨fun p hp => ?_, tlbsync_traps, fun sup => ⟨tlbsync_done sup, tlbsync_waits sup⟩, ptfence_waits, ptfence_done⟩⟩
  · refine ⟨fun none_left => ?_, icinv_asking settled asked⟩
    rw [icinv_answered settled asked none_left]
    exact (s.discardCode_discards sc _ _).done
  · refine ⟨s.invDevices sc, s.mem_invDevices sc, fun alone => ?_, fun others => ?_⟩
    · rw [icinv_local settled fresh alone]
      exact (s.discardCode_discards sc _ _).done
    · exact ⟨_, icinv_asks settled fresh others, rfl, State.team_setTeam _ _, fun j hj => State.teamAt_setTeamAt_other _ _ hj⟩
  · obtain ⟨i, form, asid, lo, hi, glob⟩ := p
    have e : exec i s = sendShoot s sc form asid lo hi glob := by
      simp only [List.mem_cons, List.not_mem_nil, or_false, Prod.mk.injEq] at hp
      rcases hp with ⟨rfl, rfl, rfl, rfl, rfl, rfl⟩ | ⟨rfl, rfl, rfl, rfl, rfl, rfl⟩ | ⟨rfl, rfl, rfl, rfl, rfl, rfl⟩ <;> rfl
    refine ⟨sendShoot_traps e, fun sup => ⟨sendShoot_waits e sup, fun settled => ?_⟩⟩
    obtain ⟨t, next, rest, others, team⟩ := sendShoot_sends e sup settled
    exact ⟨t, s.shootDevices sc, next, s.mem_shootDevices sc, rest, others, team⟩

end Sys2Proof.Machine
end

section
/-! SUPPORT. Channels and range locks: where a change of a channel is seen, where a registered entry stands, and what the end of a
command leaves (R136, R139, R171, R174). -/

namespace Sys2Proof.Machine

/-! ### Channels -/

/-- The block has the core and the core the channel. -/
structure HasChan (s : State) (r : ChanRef) : Prop where
  core : r.ci < (s.blockAt r.blk).shares.length
  chan : r.ch < ((s.blockAt r.blk).share r.ci).chans.length

theorem chanRef_hasChan {s : State} {core ch : Nat} {r : ChanRef} (h : chanRef s core ch = some r) : HasChan s r := by
  unfold chanRef at h
  split at h
  · cases h
  · split at h
    · cases h
    · next found =>
      split at h
      · next inside =>
        cases h
        exact ⟨List.mem_range.mp (List.mem_of_find?_eq_some found), inside⟩
      · cases h

/-- What a change of a channel leaves of the channels. -/
theorem State.chan_updChan {s : State} {r : ChanRef} (has : HasChan s r) (f : Chan → Chan) (q : ChanRef) :
    (s.updChan r.blk r.ci r.ch f).chan q = if q = r then f (s.chan r) else s.chan q := by
  obtain ⟨blk, ci, ch⟩ := r
  obtain ⟨blk', ci', ch'⟩ := q
  simp only [State.chan, State.chanAt, State.updChan, State.updShare, ChanRef.mk.injEq]
  by_cases block : blk' = blk
  · subst block
    rw [State.blockAt_setBlockAt_same]
    simp only [Block.share, listUpd_getD, true_and]
    by_cases core : ci' = ci
    · subst core
      rw [if_pos ⟨rfl, has.core⟩, listUpd_getD]
      by_cases chan : ch' = ch
      · subst chan
        rw [if_pos ⟨rfl, has.chan⟩, if_pos ⟨rfl, rfl⟩]
      · rw [if_neg fun h => chan h.1, if_neg fun h => chan h.2]
    · rw [if_neg fun h => core h.1, if_neg fun h => core h.1]
  · rw [State.blockAt_setBlockAt_other _ _ block, if_neg fun h => block h.1]

theorem HasChan.updChan {s : State} {r q : ChanRef} (has : HasChan s r) (f : Chan → Chan) : HasChan (s.updChan q.blk q.ci q.ch f) r := by
  obtain ⟨core, chan⟩ := has
  by_cases block : r.blk = q.blk
  · constructor
    · rw [State.updChan, State.updShare, block, State.blockAt_setBlockAt_same, listUpd_length, ← block]; exact core
    · rw [State.updChan, State.updShare, block, State.blockAt_setBlockAt_same]
      simp only [Block.share, listUpd_getD]
      rw [block] at chan
      split
      · rw [listUpd_length]; exact chan
      · exact chan
  · constructor
    · rw [State.updChan, State.updShare, State.blockAt_setBlockAt_other _ _ block]; exact core
    · rw [State.updChan, State.updShare, State.blockAt_setBlockAt_other _ _ block]; exact chan

theorem HasChan.of_eq {s t : State} {r : ChanRef} (has : HasChan s r) (h : t.blocks = s.blocks) : HasChan t r := by
  have block : t.blockAt r.blk = s.blockAt r.blk := by simp only [State.blockAt, h]
  exact ⟨by rw [block]; exact has.core, by rw [block]; exact has.chan⟩

theorem State.chan_of_eq {s t : State} (h : t.blocks = s.blocks) (q : ChanRef) : t.chan q = s.chan q := by
  simp only [State.chan, State.chanAt, State.blockAt, h]

/-! ### Registering entries -/

theorem State.addLocks_rest (ls : List (Nat × Lock)) : ∀ s : State, s.addLocks ls = { s with cores := (s.addLocks ls).cores } := by
  induction ls with
  | nil => exact fun _ => rfl
  | cons e rest ih =>
    intro s
    obtain ⟨c, l⟩ := e
    simp only [State.addLocks]
    split
    · exact ih s
    · exact ih _

/-- Registering entries moves none that stands. -/
theorem State.addLocks_keeps (ls : List (Nat × Lock)) : ∀ (s : State) (c n : Nat) (l : Lock),
    Table.find? (s.coreAt c).locks n = some l → Table.find? ((s.addLocks ls).coreAt c).locks n = some l := by
  induction ls with
  | nil => exact fun _ _ _ _ h => h
  | cons e rest ih =>
    intro s c n l stands
    obtain ⟨c', l'⟩ := e
    simp only [State.addLocks]
    split
    · exact ih s c n l stands
    · next i free =>
      have empty : Table.find? (s.coreAt c').locks i = none := by
        have := List.find?_some free
        rw [← Table.has_eq_false_iff]; simpa using this
      refine ih _ c n l ?_
      by_cases core : c = c'
      · subst core
        rw [State.coreAt_setCoreAt_same, Table.find?_set_other _ _ (fun h => by rw [h, empty] at stands; cases stands)]
        exact stands
      · rw [State.coreAt_setCoreAt_other _ _ core]; exact stands

/-- Where each core has the room, every entry is registered (R171). -/
theorem State.addLocks_registers (ls : List (Nat × Lock)) : ∀ s : State,
    (∀ e ∈ ls, (s.coreAt e.1).locks.length + (ls.filter (fun x => x.1 == e.1)).length ≤ 64) →
    ∀ e ∈ ls, ∃ n, Table.find? ((s.addLocks ls).coreAt e.1).locks n = some e.2 := by
  induction ls with
  | nil => exact fun _ _ _ h => absurd h List.not_mem_nil
  | cons d rest ih =>
    intro s room e he
    obtain ⟨c, l⟩ := d
    have own := room (c, l) List.mem_cons_self
    simp only [BEq.rfl, List.filter_cons_of_pos, List.length_cons] at own
    obtain ⟨i, free, empty⟩ := freeLock_some (s.coreAt c).locks (by omega)
    simp only [State.addLocks, free]
    rcases List.mem_cons.mp he with rfl | he
    · exact ⟨i, State.addLocks_keeps rest _ c i l (by rw [State.coreAt_setCoreAt_same]; exact Table.find?_set_same _ _ _)⟩
    · refine ih _ (fun x hx => ?_) e he
      have old := room x (List.mem_cons_of_mem _ hx)
      by_cases core : x.1 = c
      · simp only [core, BEq.rfl, List.filter_cons_of_pos, List.length_cons] at old
        rw [core, State.coreAt_setCoreAt_same]
        have grown := Table.length_set_le (s.coreAt c).locks i l
        simp only
        omega
      · rw [State.coreAt_setCoreAt_other _ _ core]
        rwa [List.filter_cons_of_neg (by simpa using fun h => core h.symm)] at old

theorem State.locksFit_room {s : State} {new : List (Nat × Lock)} (h : s.locksFit new = true) :
    ∀ e ∈ new, (s.coreAt e.1).locks.length + (new.filter (fun x => x.1 == e.1)).length ≤ 64 := by
  simp only [State.locksFit, Bool.and_eq_true, List.all_eq_true, decide_eq_true_eq] at h
  exact h.2

/-! ### Issuing the head command -/

theorem exec_channelIssue (core ch : Nat) (s : State) : exec (.channelIssue core ch) s = execChannelIssue core ch s := rfl

/-- The progress of a command as it issues. -/
def headIssue (s : State) (r : ChanRef) (c : Cmd) : Issue :=
  { index := cmdIndex s r c, dec := { table := cmdTable s r c }, since := s.clock }

/-- The wait of a channel at issue ends, and its cycles are counted (R172, R194). -/
def State.endWait (s : State) (core vf : Nat) (h : Chan) : State :=
  match h.waiting with
  | some z => s.count core vf 9 (s.clock - z).toNat
  | none => s

theorem State.endWait_rest (s : State) (core vf : Nat) (h : Chan) : s.endWait core vf h = { s with perf := (s.endWait core vf h).perf } := by
  unfold State.endWait
  split <;> rfl

section
variable {s : State} {core ch : Nat} {r : ChanRef} {c : Cmd} {rest : List Cmd}

/-- Nothing that comes before the head command is left (R139, R172). -/
structure HeadReady (s : State) (core ch : Nat) (r : ChanRef) (c : Cmd) (rest : List Cmd) : Prop where
  chan : chanRef s core ch = some r
  head : (s.chan r).queue = c :: rest
  live : engineLive s r = true
  early : s.cmdEarly c (issueLocks s r c (cmdIndex s r c)) = false
  gated : s.cmdGated r c (cmdIndex s r c) = false

theorem HeadReady.issues (ready : HeadReady s core ch r c rest) (fit : s.locksFit (issueLocks s r c (cmdIndex s r c)) = true) :
    ∃ t i, exec (.channelIssue core ch) s = .next t ∧ t = { s with blocks := t.blocks, cores := t.cores, perf := t.perf } ∧
      (t.chan r = { s.chan r with queue := rest, issued := (s.chan r).issued ++ [(c, i)], waiting := none } ∧
        ∀ q, q ≠ r → t.chan q = s.chan q) ∧ i.done = 0 ∧ i.held = none ∧
      ∀ e ∈ issueLocks s r c (cmdIndex s r c), ∃ n, Table.find? (t.coreAt e.1).locks n = some e.2 := by
  have has := chanRef_hasChan ready.chan
  have locked := State.addLocks_registers _ s (State.locksFit_room fit)
  have frame := State.addLocks_rest (issueLocks s r c (cmdIndex s r c)) s
  generalize ended : (s.addLocks (issueLocks s r c (cmdIndex s r c))).endWait core (ctxVf (refCtx r)) (s.chan r) = w
  have counted : w = { s.addLocks (issueLocks s r c (cmdIndex s r c)) with perf := w.perf } := by rw [← ended]; exact State.endWait_rest ..
  have e : exec (.channelIssue core ch) s =
      .next (w.updChan r.blk r.ci r.ch (fun h => { h with queue := rest, issued := h.issued ++ [(c, headIssue s r c)], waiting := none })) := by
    simp only [exec_channelIssue, execChannelIssue, ready.chan, ready.head, ready.live, ready.early, ready.gated, fit, Bool.not_true,
      Bool.or_self, Bool.false_eq_true, if_false, if_true, ← ended] <;> rfl
  have blocks : w.blocks = s.blocks := by rw [counted, frame]
  have chans := State.chan_updChan (has.of_eq blocks) (fun h => { h with queue := rest, issued := h.issued ++ [(c, headIssue s r c)], waiting := none })
  refine ⟨_, headIssue s r c, e, ?_, ⟨?_, fun q hq => ?_⟩, rfl, rfl, ?_⟩
  · rw [counted, frame]; rfl
  · rw [chans, if_pos rfl, State.chan_of_eq blocks]
  · rw [chans, if_neg hq, State.chan_of_eq blocks]
  · rw [counted]; exact locked

theorem HeadReady.waits (ready : HeadReady s core ch r c rest) (unfit : s.locksFit (issueLocks s r c (cmdIndex s r c)) = false)
    (first : (s.chan r).waiting = none) :
    ∃ t, exec (.channelIssue core ch) s = .next t ∧ t = { s with blocks := t.blocks, perf := t.perf } ∧
      t.chan r = { s.chan r with waiting := some s.clock } ∧ ∀ q, q ≠ r → t.chan q = s.chan q := by
  have has := chanRef_hasChan ready.chan
  have e : exec (.channelIssue core ch) s =
      .next ((s.count core (ctxVf (refCtx r)) 8 1).updChan r.blk r.ci r.ch (fun h => { h with waiting := some s.clock })) := by
    simp only [exec_channelIssue, execChannelIssue, ready.chan, ready.head, ready.live, ready.early, ready.gated, unfit, first, Bool.not_true,
      Bool.or_self, Bool.false_eq_true, if_false, Option.isSome_none]
  have chans := State.chan_updChan (s := s.count core (ctxVf (refCtx r)) 8 1) (has.of_eq rfl) (fun h => { h with waiting := some s.clock })
  exact ⟨_, e, rfl, (chans r).trans (if_pos rfl), fun q hq => (chans q).trans (if_neg hq)⟩

end

end Sys2Proof.Machine
end

section
/-! SUPPORT. The ends of collective sends, the landing of pieces, and the ends of refresh windows (R98, R136, R141, R154 to R156). -/

namespace Sys2Proof.Machine

/-! ### The end of a command -/

theorem finishBatches_cmds (n : Nat) : ∀ t : Team, (finishBatches n t).cmds = t.cmds := by
  induction n with
  | zero => exact fun _ => rfl
  | succ n ih =>
    intro t
    simp only [finishBatches]
    split
    · rfl
    · split
      · rfl
      · rw [ih]

theorem Team.finishAll_cmds (t : Team) : t.finishAll.cmds = t.cmds := finishBatches_cmds _ t

/-- The ends of commands keep every reduction, and register no entry of a range lock. -/
structure EndsCommands (s t : State) : Prop where
  reductions : t.reductions = s.reductions
  locks : ∀ k, ∀ e ∈ (t.coreAt k).locks, e ∈ (s.coreAt k).locks

theorem EndsCommands.refl (s : State) : EndsCommands s s := ⟨rfl, fun _ _ h => h⟩
theorem EndsCommands.trans {s t u : State} (h : EndsCommands s t) (k : EndsCommands t u) : EndsCommands s u :=
  ⟨k.reductions.trans h.reductions, fun c e he => h.locks c e (k.locks c e he)⟩
theorem EndsCommands.of_eq {s t : State} (reductions : t.reductions = s.reductions) (cores : t.cores = s.cores) : EndsCommands s t :=
  ⟨reductions, fun c e he => by rw [State.coreAt, cores] at he; exact he⟩

theorem State.endsCommands_dropLocks (s : State) (uid : Nat) : EndsCommands s (s.dropLocks uid) where
  reductions := rfl
  locks c e he := by
    rw [State.dropLocks, State.coreAt_mapVals s (fun c => { c with locks := c.locks.filter (fun e => e.2.uid != uid) }) rfl] at he
    exact List.mem_of_mem_filter he

theorem endsCommands_endCmd (s : State) (r : ChanRef) (c : Cmd) (st : Nat) : EndsCommands s (endCmd s r c st) :=
  (s.endsCommands_dropLocks c.uid).trans (.of_eq rfl rfl)

theorem endsCommands_failSend (s : State) (r : ChanRef) (c : Cmd) (x : CopyCmd) (i : Issue) (st : Nat) :
    EndsCommands s (failSend s r c x i st) := by
  refine EndsCommands.trans ?_ (endsCommands_endCmd ..)
  split <;> exact .of_eq rfl rfl

theorem State.endsCommands_endSends (ends : List (Nat × Nat)) : ∀ s : State, EndsCommands s (s.endSends ends) := by
  induction ends with
  | nil => exact .refl
  | cons e rest ih =>
    intro s
    refine EndsCommands.trans ?_ (ih _)
    dsimp only
    split
    · exact .refl s
    · split
      · split
        · refine EndsCommands.trans ?_ (endsCommands_endCmd ..)
          exact .of_eq rfl rfl
        · exact endsCommands_failSend ..
      · exact .refl s

/-! ### A send that fails -/

section
variable {s : State} {r : ChanRef} {c : Cmd}

theorem endCmd_locks (s : State) (r : ChanRef) (c : Cmd) (st k : Nat) : ∀ e ∈ ((endCmd s r c st).coreAt k).locks, e.2.uid ≠ c.uid :=
  s.dropLocks_gone c.uid k

theorem endCmd_cmds (s : State) (r : ChanRef) (c : Cmd) (st : Nat) :
    ((endCmd s r c st).teamAt c.team).cmds = (s.teamAt c.team).cmds.filter (fun j => j != c.id) := by
  simp only [endCmd, State.teamAt_setTeamAt_same, Team.finishAll_cmds]
  rfl

theorem endCmd_chan (has : HasChan s r) (c : Cmd) (st : Nat) : (endCmd s r c st).chan r = (s.chan r).advance s.clock := by
  have done := State.chan_updChan (s := s.dropLocks c.uid) (has.of_eq rfl) (fun h => h.advance s.clock) r
  rw [if_pos rfl] at done
  exact done

theorem failSend_locks (s : State) (r : ChanRef) (c : Cmd) (x : CopyCmd) (i : Issue) (st k : Nat) :
    ∀ e ∈ ((failSend s r c x i st).coreAt k).locks, e.2.uid ≠ c.uid := endCmd_locks _ r c st k

theorem failSend_cmds (s : State) (r : ChanRef) (c : Cmd) (x : CopyCmd) (i : Issue) (st : Nat) :
    ((failSend s r c x i st).teamAt c.team).cmds = (s.teamAt c.team).cmds.filter (fun j => j != c.id) := by
  refine (endCmd_cmds ..).trans ?_
  split <;> rfl

/-- A send that fails leaves its channel, which its remaining bytes advance. -/
theorem failSend_chan (has : HasChan s r) (c : Cmd) (x : CopyCmd) (i : Issue) (st : Nat) :
    (failSend s r c x i st).chan r =
      ({ s.chan r with wptr := (s.chan r).wptr + BitVec.ofNat 64 (x.unsent i) } : Chan).advance s.clock := by
  unfold failSend failCmd
  dsimp only
  generalize landed : (if x.dev = (s.dropLanded _).ownDevice then s.dropLanded _ else _) = z
  have blocks : z.blocks = s.blocks := by rw [← landed]; split <;> rfl
  have clock : z.clock = s.clock := by rw [← landed]; split <;> rfl
  have grown := State.chan_updChan (has.of_eq blocks) (fun h => { h with wptr := h.wptr + BitVec.ofNat 64 (x.unsent i) }) r
  rw [if_pos rfl, State.chan_of_eq blocks] at grown
  rw [endCmd_chan ((has.of_eq blocks).updChan _), grown]
  exact congrArg _ clock

theorem Chan.advance_issued (h : Chan) (now : Word64) : (h.advance now).issued.map (·.1) = h.issued.tail.map (·.1) := by
  unfold Chan.advance
  cases h.issued.tail <;> rfl

end

/-! ### A collective that stalls (R156) -/

section
variable {s : State} {core ch : Nat} {r : ChanRef} {c : Cmd} {i : Issue} {more : List (Cmd × Issue)} {w0 w1 w2 w3 : Word64}

theorem exec_collectiveStall (core ch : Nat) (s : State) : exec (.collectiveStall core ch) s = execCollectiveStall core ch s := rfl

/-- The reduction that a collective of a channel is part of on this device. -/
def partOf (s : State) (r : ChanRef) (x : CopyCmd) (y : Reduction) : Bool :=
  x.op != 0 && x.dev == s.ownDevice && y.isAt (ctxVf (refCtx r)) (ctxAsid (refCtx r)) (BitVec.ofNat 64 x.dst) x.len

theorem partOf_iff (s : State) (r : ChanRef) (x : CopyCmd) (y : Reduction) : partOf s r x y = true ↔
    x.op ≠ 0 ∧ x.dev = s.ownDevice ∧ y.isAt (ctxVf (refCtx r)) (ctxAsid (refCtx r)) (BitVec.ofNat 64 x.dst) x.len = true := by
  simp [partOf, and_assoc]

/-- A collective that leads its channel has had no piece accepted for the stall time. -/
structure Stalled (s : State) (core ch : Nat) (r : ChanRef) (c : Cmd) (i : Issue) (more : List (Cmd × Issue)) (w0 w1 w2 w3 : Word64) :
    Prop where
  chan : chanRef s core ch = some r
  live : engineLive s r = true
  lead : (s.chan r).issued = (c, i) :: more
  body : c.body = .copy w0 w1 w2 w3
  send : (copyOf w0 w1 w2 w3).kind = 5
  long : 1800 * (s.setSince (ctxVf (refCtx r)) i.since).stall ≤ (s.clock - i.since).toNat

theorem Stalled.fails (h : Stalled s core ch r c i more w0 w1 w2 w3) : ∃ ends, exec (.collectiveStall core ch) s =
    .next (((failSend s r c (copyOf w0 w1 w2 w3) i 1).stallReductions (partOf s r (copyOf w0 w1 w2 w3))).1.endSends ends) ∧
    (∀ e ∈ ends, e ∈ ((failSend s r c (copyOf w0 w1 w2 w3) i 1).stallReductions (partOf s r (copyOf w0 w1 w2 w3))).2) := by
  have lead : (s.chan r).lead = some (c, i) := by rw [Chan.lead, h.lead]; rfl
  have due : ¬((copyOf w0 w1 w2 w3).kind ≠ 5 ∨ (s.clock - i.since).toNat < 1800 * (s.setSince (ctxVf (refCtx r)) i.since).stall ∨
      (!engineLive s r) = true) := by
    rw [h.send, h.live]
    have long := h.long
    simp only [ne_eq, not_true, Bool.not_true, Bool.false_eq_true, or_false, false_or, not_lt]
    exact long
  refine ⟨((failSend s r c (copyOf w0 w1 w2 w3) i 1).stallReductions (partOf s r (copyOf w0 w1 w2 w3))).2.filter (fun e => e.1 != c.uid), ?_,
    fun e he => List.mem_of_mem_filter he⟩
  simp only [exec_collectiveStall, execCollectiveStall, h.chan, lead, h.body, if_neg due]
  rfl

theorem State.tellFar_reductions (s : State) (y : Reduction) (st : Nat) : EndsCommands s (s.tellFar y st) := by
  unfold State.tellFar
  dsimp only
  split <;> exact .of_eq rfl rfl

theorem State.stallReductions_spec (s : State) (hit : Reduction → Bool) :
    (s.stallReductions hit).1.reductions = s.reductions.filter (fun y => !hit y) ∧
    ∀ k, ∀ e ∈ ((s.stallReductions hit).1.coreAt k).locks, e ∈ (s.coreAt k).locks := by
  refine ⟨rfl, ?_⟩
  have told (ys : List Reduction) : ∀ s : State, EndsCommands s (ys.foldl (fun s y => s.tellFar y 1) s) := by
    induction ys with
    | nil => exact .refl
    | cons y rest ih => exact fun s => (s.tellFar_reductions y 1).trans (ih _)
  exact (told (s.reductions.filter hit) s).locks

theorem State.stallReductions_none {s : State} {hit : Reduction → Bool} (h : ∀ y ∈ s.reductions, ¬hit y = true) :
    s.stallReductions hit = (s, []) := by
  have none_hit : s.reductions.filter hit = [] := List.filter_eq_nil_iff.mpr h
  have kept : s.reductions.filter (fun y => !hit y) = s.reductions := List.filter_eq_self.mpr fun y hy => by simpa using h y hy
  unfold State.stallReductions
  rw [none_hit, kept]
  rfl

theorem Stalled.ends (h : Stalled s core ch r c i more w0 w1 w2 w3) :
    ∃ t, exec (.collectiveStall core ch) s = .next t ∧ (∀ k, ∀ e ∈ (t.coreAt k).locks, e.2.uid ≠ c.uid) ∧
      (∀ y, y ∈ t.reductions ↔ y ∈ s.reductions ∧ ¬partOf s r (copyOf w0 w1 w2 w3) y = true) ∧
      ((∀ y ∈ s.reductions, ¬partOf s r (copyOf w0 w1 w2 w3) y = true) →
        (t.chan r).queue = (s.chan r).queue ∧ (t.chan r).issued.map (·.1) = more.map (·.1) ∧
        (t.teamAt c.team).cmds = (s.teamAt c.team).cmds.filter (fun j => j != c.id)) := by
  obtain ⟨ends, e, told⟩ := h.fails
  have failed := endsCommands_failSend s r c (copyOf w0 w1 w2 w3) i 1
  obtain ⟨forgotten, locks⟩ := (failSend s r c (copyOf w0 w1 w2 w3) i 1).stallReductions_spec (partOf s r (copyOf w0 w1 w2 w3))
  have sends := State.endsCommands_endSends ends
    ((failSend s r c (copyOf w0 w1 w2 w3) i 1).stallReductions (partOf s r (copyOf w0 w1 w2 w3))).1
  refine ⟨_, e, fun k x hx => failSend_locks s r c _ i 1 k x (locks k x (sends.locks k x hx)), fun y => ?_, fun alone => ?_⟩
  · rw [sends.reductions, forgotten, failed.reductions, List.mem_filter, Bool.not_eq_true', Bool.not_eq_true]
  · have quiet := State.stallReductions_none (s := failSend s r c (copyOf w0 w1 w2 w3) i 1) (hit := partOf s r (copyOf w0 w1 w2 w3))
      (by rw [failed.reductions]; exact alone)
    rw [quiet] at told ⊢
    have no_ends : ends = [] := List.eq_nil_iff_forall_not_mem.mpr fun x hx => absurd (told x hx) List.not_mem_nil
    rw [no_ends]
    show ((failSend s r c (copyOf w0 w1 w2 w3) i 1).chan r).queue = _ ∧ ((failSend s r c (copyOf w0 w1 w2 w3) i 1).chan r).issued.map _ = _ ∧
      ((failSend s r c (copyOf w0 w1 w2 w3) i 1).teamAt c.team).cmds = _
    rw [failSend_chan (chanRef_hasChan h.chan), Chan.advance_issued, failSend_cmds, h.lead]
    exact ⟨rfl, rfl, rfl⟩

end

/-! ### Pieces that land (R136, R154) -/

section
variable {s : State} {p : Piece} {before after : List (Piece × Option Nat)}

theorem step_pieceArrival {rest : List Turn} (h : s.agenda = .pieceArrival p :: rest) :
    step s = .next (State.pieceArrives { s with agenda := rest } p) := by
  simp only [step, nextMove, h]
  rfl

/-- A piece that may come and finds its credits lands. -/
theorem State.pieceArrives_lands {z : State} (ok : z.pieceOk p = true) (reachable : z.reachable p.fromDev = true) (far : p.fromDev ≠ z.ownDevice)
    (credits : z.credits.get (landingKey p.vf p.queue) + pieceCredits p.bytes.length ≤ 256) : z.pieceArrives p = z.land p none := by
  have room : z.creditsFor p = true := decide_eq_true credits
  have other : (p.fromDev != z.ownDevice) = true := by simpa using far
  simp only [State.pieceArrives, ok, reachable, other, room, Bool.and_self, if_true]

theorem exec_collectivePieceAccept (p : Piece) (s : State) : exec (.collectivePieceAccept p) s = execCollectivePieceAccept p s := rfl

theorem sameSend_refl (p : Piece) : sameSend p p = true := by simp [sameSend]

/-- The first piece of its send has landed among others. -/
structure FirstLanded (s : State) (p : Piece) (before after : List (Piece × Option Nat)) : Prop where
  landed : s.landing = before ++ (p, none) :: after
  first : ∀ e ∈ before, sameSend e.1 p = false
  once : ∀ e ∈ after, e ≠ (p, none)

theorem FirstLanded.finds (h : FirstLanded s p before after) : s.landing.find? (fun e => sameSend e.1 p) = some (p, none) := by
  have skipped : before.find? (fun e => sameSend e.1 p) = none := List.find?_eq_none.mpr fun e he => by simp [h.first e he]
  rw [h.landed, List.find?_append, skipped]
  simp only [List.find?_cons, sameSend_refl, Option.none_or]

/-- The landing queues hold `rest` once a piece has left them and its credits have returned (R136). -/
def State.unland (s : State) (p : Piece) (rest : List (Piece × Option Nat)) : State :=
  let k := landingKey p.vf p.queue
  { s with landing := rest, credits := s.credits.set k (s.credits.get k - pieceCredits p.bytes.length) }

theorem FirstLanded.leaves (h : FirstLanded s p before after) : s.dropLanded (fun e => e == (p, none)) = s.unland p (before ++ after) := by
  have other : ∀ e ∈ before ++ after, (e == (p, (none : Option Nat))) = false := by
    intro e he
    rw [beq_eq_false_iff_ne]
    rcases List.mem_append.mp he with he | he
    · rintro rfl; exact absurd (h.first _ he) (by simp [sameSend_refl])
    · exact h.once e he
  have stay : s.landing.filter (fun e => !(e == (p, (none : Option Nat)))) = before ++ after := by
    rw [h.landed, List.filter_append, List.filter_cons_of_neg (by simp), ← List.filter_append]
    exact List.filter_eq_self.mpr fun e he => by simp only [other e he, Bool.not_false]
  have go : s.landing.filter (fun e => e == (p, (none : Option Nat))) = [(p, none)] := by
    rw [h.landed, List.filter_append, List.filter_cons_of_pos (by simp),
      List.filter_eq_nil_iff.mpr fun e he => by simp [other e (List.mem_append_left _ he)],
      List.filter_eq_nil_iff.mpr fun e he => by simp [other e (List.mem_append_right _ he)]]
    rfl
  unfold State.dropLanded
  rw [stay, go]
  rfl

theorem FirstLanded.accepts (h : FirstLanded s p before after) (ok : s.pieceOk p = true) (room : s.stageRoom p = true)
    (held : s.pieceHeld p none = false) {z : State} {ends : List (Nat × Nat)}
    (accepted : (s.unland p (before ++ after)).acceptPiece p none = (z, ends)) :
    exec (.collectivePieceAccept p) s = .next (State.endSends { z with outbox := z.outbox ++ [.accepted p] } ends) := by
  simp only [exec_collectivePieceAccept, execCollectivePieceAccept, h.finds, bne_self_eq_false, ok, room, held, Bool.not_true, Bool.or_self,
    Bool.false_eq_true, if_false, h.leaves, accepted]

/-- The reduction that the first piece of a contribution opens. -/
theorem State.joined_first (new : ∀ y ∈ s.reductions, y.takes p = false) : s.joined p none =
    { newReduction p with pieces := [p], came := [p.rank], far := [(p.fromDev, p.rank)] } := by
  have none_takes : s.reductions.find? (fun y => y.takes p) = none := List.find?_eq_none.mpr fun y hy => by simp [new y hy]
  have agrees : (newReduction p).disagrees p = false := by simp [Reduction.disagrees, newReduction]
  unfold State.joined
  rw [none_takes]
  simp only [Option.getD_none, agrees, Bool.false_eq_true, and_false, if_false]
  simp [newReduction, addOnce]

/-- A rank that has sent one piece of more has not sent every byte. -/
theorem ranks_first {y : Reduction} (pieces : y.pieces = [p]) (short : p.bytes.length < y.len) : y.ranks = [] := by
  refine List.filter_eq_nil_iff.mpr fun k _ => ?_
  simp only [pieces, List.any_cons, List.any_nil, Bool.or_false, Bool.and_eq_true, beq_iff_eq, not_and]
  rintro rfl
  simp only [Reduction.sent, pieces, List.filter_cons_of_pos, BEq.rfl, List.filter_nil, List.map_cons, List.map_nil, List.sum_cons,
    List.sum_nil]
  omega

theorem State.putReduction_opens {y : Reduction} (sound : y.failed = 0) (open_ : y.ranks.length ≠ y.parts)
    (new : ∀ x ∈ s.reductions, (x.vf == y.vf && x.asid == y.asid && x.base == y.base && x.len == y.len) = false) :
    s.putReduction y = ({ s with reductions := y :: s.reductions }, []) := by
  have others : s.reductions.filter (fun x => !(x.vf == y.vf && x.asid == y.asid && x.base == y.base && x.len == y.len)) = s.reductions :=
    List.filter_eq_self.mpr fun x hx => by simp only [new x hx, Bool.not_false]
  unfold State.putReduction
  simp only [sound, ne_eq, not_true, if_false, open_, others]

/-- The first piece of a contribution to a new reduction opens it (R155). -/
theorem FirstLanded.opens (h : FirstLanded s p before after) (ok : s.pieceOk p = true) (sum : p.op ≠ 0) (parts : 2 ≤ p.parts)
    (room : s.stageRoom p = true) (short : p.bytes.length < p.len) (new : ∀ y ∈ s.reductions, y.takes p = false) :
    ∃ t y, exec (.collectivePieceAccept p) s = .next t ∧
      t = { s.unland p (before ++ after) with reductions := y :: s.reductions, outbox := s.outbox ++ [.accepted p] } ∧ y.takes p = true ∧
      y.pieces = [p] ∧ y.op = p.op ∧ y.exact = p.exact ∧ y.format = p.format ∧ y.parts = p.parts := by
  have joined := State.joined_first new
  have open_ : (s.joined p none).ranks.length ≠ (s.joined p none).parts := by
    rw [joined, ranks_first rfl short]
    show 0 ≠ p.parts
    omega
  have held : s.pieceHeld p none = false := by
    have waiting : ((s.joined p none).ranks.length == (s.joined p none).parts) = false := by simpa using open_
    simp only [State.pieceHeld, sum, if_false, waiting, Bool.and_false, Bool.false_and]
  have opened : (s.unland p (before ++ after)).putReduction (s.joined p none) =
      ({ s.unland p (before ++ after) with reductions := s.joined p none :: s.reductions }, []) :=
    State.putReduction_opens (by rw [joined]; rfl) open_ (by rw [joined]; exact new)
  have accepted : (s.unland p (before ++ after)).acceptPiece p none =
      ({ s.unland p (before ++ after) with reductions := s.joined p none :: s.reductions }, []) := (if_neg sum).trans opened
  refine ⟨_, s.joined p none, h.accepts ok room held accepted, rfl, ?_⟩
  rw [joined]
  exact ⟨by simp [Reduction.takes, newReduction], rfl, rfl, rfl, rfl, rfl⟩

end

/-! ### The end of a refresh window (R98) -/

theorem exec_refreshWindowEnd (die group : Nat) (s : State) : exec (.refreshWindowEnd die group) s = execRefreshWindowEnd die group s := rfl

/-- A changed channel of a block. -/
theorem Block.mapChans_chan (b : Block) {f : Chan → Chan} (empty : f {} = {}) (ci ch : Nat) :
    ((b.mapChans f).share ci).chans.getD ch {} = f ((b.share ci).chans.getD ch {}) := by
  simp only [Block.share, Block.mapChans, List.getD_eq_getElem?_getD, List.getElem?_map]
  cases b.shares[ci]? with
  | none => exact empty.symm
  | some h =>
    simp only [Option.map_some, Option.getD_some, List.getElem?_map]
    cases h.chans[ch]? with
    | none => exact empty.symm
    | some n => rfl

theorem Table.get_mapVals_of_default {α : Type} [Inhabited α] (t : Table α) {f : Nat → α → α} {k : Nat} (h : f k default = default) :
    (t.mapVals f).get k = f k (t.get k) := by
  simp only [Table.get, Table.find?_mapVals]
  cases Table.find? t k with
  | none => exact h.symm
  | some x => rfl

/-- What the end of a window leaves of a copy's read and of a fill's: a read that the window held is served (R98). -/
def Issue.served (die group : Nat) (i : Issue) : Issue := if i.piece = some (die * 16 + group) then { i with piece := none } else i
def Until.served (die group : Nat) : Until → Until
  | .wld uid a dst len (some held) => .wld uid a dst len (some (held.filter (fun u => decide (¬(u / 2 ^ 17 % 4 = die ∧ u % 16 = group)))))
  | u => u
def Team.served (die group : Nat) (t : Team) : Team :=
  { t with inflight := t.inflight.map (fun f => { f with until_ := f.until_.served die group }) }

theorem refreshWindowEnd_serves {s : State} {die group : Nat} (ended : refreshRemaining s.clock group = 0) :
    exec (.refreshWindowEnd die group) s = .next { s with
      teams := s.teams.mapVals (fun _ t => t.served die group)
      blocks := s.blocks.mapVals (fun _ b => b.mapChans (fun n => n.mapIssued (Issue.served die group))) } := by
  have past : (refreshRemaining s.clock group != 0) = false := by simp [ended]
  have same (p : Nat) : (!(bitsOf p 17 2 == die && p % 16 == group)) = decide (¬(p / 2 ^ 17 % 4 = die ∧ p % 16 = group)) := by
    simp [bitsOf, Bool.beq_eq_decide_eq]
  simp only [exec_refreshWindowEnd, execRefreshWindowEnd, past, Bool.false_eq_true, if_false, same]
  rfl

theorem refreshWindowEnd_chans {s : State} {die group : Nat} (ended : refreshRemaining s.clock group = 0) :
    ∃ t, exec (.refreshWindowEnd die group) s = .next t ∧ t = { s with teams := t.teams, blocks := t.blocks } ∧
      (∀ q, t.chan q = (s.chan q).mapIssued (Issue.served die group)) ∧
      ∀ j, t.teamAt j = (s.teamAt j).served die group := by
  have team (j : Nat) : (s.teams.mapVals (fun _ t => t.served die group)).get j = (s.teams.get j).served die group :=
    Table.get_mapVals_of_default _ rfl
  refine ⟨_, refreshWindowEnd_serves ended, rfl, fun q => ?_, team⟩
  have block : Table.get (s.blocks.mapVals (fun _ b => b.mapChans (fun n => n.mapIssued (Issue.served die group)))) q.blk =
      (s.blocks.get q.blk).mapChans (fun n => n.mapIssued (Issue.served die group)) := Table.get_mapVals_of_default _ rfl
  simp only [State.chan, State.chanAt, State.blockAt, block]
  exact Block.mapChans_chan _ rfl _ _

/-- Settles O46: the head command issues or waits, a stalled collective ends with the reduction that it is part of, a piece lands and is
accepted, and the end of a refresh window serves what it held. -/
theorem copyEnginesAdvance : Obligations.CopyEnginesAdvance := by
  intro s core ch die group r c rest p h team at_ k credits
  refine ⟨fun chan head live new eq early gated => ?_, fun i more w0 w1 w2 w3 chan live lead body send long => ?_,
    fun turns arrives ok reachable far room => ?_, fun before after landed first once ok => ⟨fun plain held => ?_,
      fun sum parts room short fresh => ?_⟩, fun ended => ?_⟩
  · have eq : new = issueLocks s r c (cmdIndex s r c) := by rw [eq, issueLocks]; cases c.body <;> rfl
    subst eq
    have ready : HeadReady s core ch r c rest := ⟨chan, head, live, early, gated⟩
    exact ⟨ready.issues, ready.waits⟩
  · obtain ⟨t, e, locks, reductions, alone⟩ := Stalled.ends ⟨chan, live, lead, body, send, long⟩
    simp only [partOf_iff] at reductions alone
    exact ⟨t, e, locks, reductions, alone⟩
  · rw [step_pieceArrival arrives, State.pieceArrives_lands (z := { s with agenda := turns }) ok reachable far room]
    rfl
  · have accepted : (s.unland p (before ++ after)).acceptPiece p none =
        ((s.unland p (before ++ after)).ctxWrite (ctxKey p.vf p.asid) ((p.base.toNat + p.off) % 2 ^ 64) p.bytes, []) := if_pos plain
    exact FirstLanded.accepts ⟨landed, first, once⟩ ok (by simp [State.stageRoom, plain]) held accepted
  · exact FirstLanded.opens ⟨landed, first, once⟩ ok sum parts room short fresh
  · obtain ⟨t, e, rest, chans, teams⟩ := refreshWindowEnd_chans (die := die) ended
    exact ⟨t, e, rest, chans, fun j => (teams j).trans rfl⟩

end Sys2Proof.Machine
end

section
/-! SUPPORT. The turns of hosts and of other devices (R111, R136, R168, R197, R212, R214, R220, R299, R404, R420). -/

namespace Sys2Proof.Machine

section
variable {s : State} {rest : List Turn}

/-- A turn that runs no instruction is one step. -/
theorem step_turn {y : Turn} (h : s.agenda = y :: rest)
    (quiet : turnMove y { s with agenda := rest } = .out (.next (State.turn { s with agenda := rest } y))) :
    step s = .next (State.turn { s with agenda := rest } y) := by
  simp only [step, nextMove, h, quiet]

/-! ### Memory -/

theorem State.hostWrites_read (s : State) (port addr : Nat) (bs : List Byte) (y : Nat) :
    Memory.read (s.hostWrites port addr bs).mem y =
      if hostBase port + addr % 2 ^ 64 ≤ y ∧ y < hostBase port + addr % 2 ^ 64 + bs.length then bs.getD (y - (hostBase port + addr % 2 ^ 64)) 0
      else Memory.read s.mem y :=
  Memory.read_writeBytes ..

/-- A device that writes its own memory is another one, and the bytes lie in it (R212). -/
theorem State.peerWrites_none {dev addr : Nat} {bs : List Byte} (h : dev = s.ownDevice ∨ 2 ^ 39 < addr + bs.length) :
    s.peerWrites dev addr bs = s := if_pos h

theorem State.peerWrites_read {dev addr : Nat} {bs : List Byte} (other : dev ≠ s.ownDevice) (inside : addr + bs.length ≤ 2 ^ 39) (y : Nat) :
    Memory.read (s.peerWrites dev addr bs).mem y =
      if 2 ^ 50 * (1 + dev) + addr ≤ y ∧ y < 2 ^ 50 * (1 + dev) + addr + bs.length then bs.getD (y - (2 ^ 50 * (1 + dev) + addr)) 0
      else Memory.read s.mem y := by
  have writes : s.peerWrites dev addr bs = s.gwrite (physKey s 0 addr 1 dev) bs := if_neg (by rw [localSize]; omega)
  have key : physKey s 0 addr 1 dev = 2 ^ 50 * (1 + dev) + addr := (if_neg other).trans (Nat.add_comm ..)
  rw [writes, key]
  exact Memory.read_writeBytes ..

theorem State.peerWrites_rest (s : State) (dev addr : Nat) (bs : List Byte) :
    s.peerWrites dev addr bs = { s with mem := (s.peerWrites dev addr bs).mem, launches := (s.peerWrites dev addr bs).launches } := by
  unfold State.peerWrites
  split <;> rfl

/-! ### Shoot-downs and `ICINV` -/

theorem State.peerIcinv_discards {dev uid addr len : Nat} (reachable : s.reachable dev = true) (other : dev ≠ s.ownDevice) :
    s.peerIcinv dev uid addr len =
      { s.discardCode (List.range s.nCores) addr len with outbox := s.outbox ++ [.discarded dev uid] } := by
  have far : (dev != s.ownDevice) = true := by simpa using other
  simp only [State.peerIcinv, reachable, far, Bool.and_self, if_true]
  rfl

/-- The team once a device has answered its `ICINV` of that number (R299). -/
def Team.answered (dev uid : Nat) (t : Team) : Team :=
  { t with icinv := t.icinv.map (fun y => if y.uid = uid then { y with await := y.await.filter (fun d => decide (d ≠ dev)) } else y) }

theorem State.icinvAnswer_teamAt {dev uid : Nat} (reachable : s.reachable dev = true) (j : Nat) :
    (s.icinvAnswer dev uid).teamAt j = (s.teamAt j).answered dev uid := by
  have same (y : Shoot) : y.without dev = { y with await := y.await.filter (fun d => decide (d ≠ dev)) } := by
    simp [Shoot.without, bne, Bool.beq_eq_decide_eq]
  have teams : (s.icinvAnswer dev uid).teams = s.teams.mapVals (fun _ t => t.answered dev uid) := by
    simp only [State.icinvAnswer, reachable, if_true, same]
    rfl
  rw [State.teamAt, teams]
  exact Table.get_mapVals_of_default _ rfl

theorem State.icinvAnswer_rest (s : State) (dev uid : Nat) : s.icinvAnswer dev uid = { s with teams := (s.icinvAnswer dev uid).teams } := by
  unfold State.icinvAnswer
  split <;> rfl

/-! ### Rejected copies (R220) -/

/-- What is left of an access whose target may reject one copy of it. -/
theorem LaneOp.doomAt_eq (o : LaneOp) (bad : Nat → Bool) : o.doomAt bad =
    if o.act.reads = false ∧ o.keys.any bad = true then
      { o with keys := o.keys.filter bad, doomed := true } ::
        (if o.keys.all bad = true then [] else [{ o with keys := o.keys.filter (fun y => !bad y) }])
    else [o] := by
  unfold LaneOp.doomAt
  cases o.act.reads <;> cases o.keys.any bad <;> rfl

theorem State.rejectOp_eq (s : State) (team ins pos copy : Nat) : s.rejectOp team ins pos copy = { s with ops := s.ops.flatMap (fun o =>
    let bad (y : Nat) : Bool := decide (o.keys[copy]? = some y ∧ 2 ^ 39 ≤ y)
    if (o.team = team ∧ o.ins = ins ∧ o.pos = pos) ∧ o.act.reads = false ∧ o.keys.any bad = true then
      { o with keys := o.keys.filter bad, doomed := true } ::
        (if o.keys.all bad = true then [] else [{ o with keys := o.keys.filter (fun y => !bad y) }])
    else [o]) } := by
  have bad (o : LaneOp) : (fun y => o.keys[copy]? == some y && decide (localSize ≤ y)) =
      fun y => decide (o.keys[copy]? = some y ∧ 2 ^ 39 ≤ y) := by
    funext y
    rw [Bool.decide_and, Bool.beq_eq_decide_eq]
    rfl
  unfold State.rejectOp
  congr 1
  refine List.flatMap_congr fun o _ => ?_
  rw [bad, LaneOp.doomAt_eq]
  by_cases named : o.team = team ∧ o.ins = ins ∧ o.pos = pos
  · simp only [named, and_self, if_true, true_and]
  · simp only [named, if_false, false_and]

/-! ### Devices that have been reset (R420) -/

theorem State.peerReset_returned (s : State) (dev d : Nat) :
    d ∈ (s.peerReset dev).returned ↔ d ∈ s.returned ∨ (d = dev ∧ dev ∈ s.fenced) := by
  by_cases fenced : dev ∈ s.fenced
  · simp [State.peerReset, fenced]
  · simp [State.peerReset, fenced]

theorem find?_farKey_none {α : Type} (t : Table α) {dev q : Nat} (h : q < 256) :
    Table.find? (t.filter (fun e => e.1 / 256 != dev)) (dev * 256 + q) = none := by
  have key : (dev * 256 + q) / 256 = dev := by omega
  by_contra present
  obtain ⟨e, he, eq⟩ := List.mem_map.mp (Table.mem_keys_of_find? _ _ present)
  have other := (List.mem_filter.mp he).2
  rw [eq, key] at other
  simp at other

end

/-- Settles O52, turn by turn. -/
theorem otherAgentsTakeTurns : Obligations.OtherAgentsTakeTurns := by
  intro s rest k port addr dev uid len n pos copy bs x u turns
  refine ⟨fun h => ?_, fun h => step_turn h rfl, fun h => step_turn h rfl, fun h => ?_, fun h reachable other => ?_, fun h reachable => ?_,
    fun h => ?_, fun h => ?_, fun h => ?_⟩
  · exact ⟨_, step_turn h rfl, rfl, State.hostWrites_read u port addr bs⟩
  · rw [step_turn h rfl]
    show Host.Outcome.next (u.peerShoot x) = _
    simp only [State.peerShoot, Bool.and_eq_true, bne_iff_ne] <;> rfl
  · refine ⟨_, (step_turn h rfl).trans (congrArg Host.Outcome.next (State.peerIcinv_discards (s := u) reachable other)), rfl, fun c hc => ?_⟩
    show ((u.discardCode (List.range u.nCores) addr len).coreAt c).icache = _
    rw [State.discardCode_coreAt, if_pos (by simpa using (show c < u.nCores from hc))]
    rfl
  · exact ⟨_, step_turn h rfl, u.icinvAnswer_rest dev uid, State.icinvAnswer_teamAt (s := u) reachable⟩
  · rw [step_turn h rfl]
    show Host.Outcome.next (u.rejectOp k n pos copy) = _
    rw [State.rejectOp_eq]
  · exact ⟨_, step_turn h rfl, u.peerWrites_rest dev addr bs, State.peerWrites_none (s := u), State.peerWrites_read (s := u)⟩
  · exact ⟨_, step_turn h rfl, rfl, u.peerReset_returned dev, fun q hq => ⟨find?_farKey_none _ hq, find?_farKey_none _ hq⟩⟩

end Sys2Proof.Machine
end

section
/-! SUPPORT. Number formats: the values of encodings in their order, and one rounding (R112 to R114, R122, R123). -/

namespace Sys2Proof.Machine

/-! ### Magnitudes of encodings -/

/-- The exponent of the least subnormal of a format. -/
def Fmt.least (f : Fmt) : Int := 1 - (f.bias : Int) - f.fb

/-- The magnitude of the encoding with mantissa `c` in the binade `k` from the subnormals up; at 2^(fb + 1) it is the next binade's first. -/
theorem Fmt.magnitude_enc (f : Fmt) {c k : Nat} (low : k = 0 ∨ 2 ^ f.fb ≤ c) (high : c ≤ 2 ^ (f.fb + 1)) :
    f.magnitude (c + k * 2 ^ f.fb) = c * 2 ^ (f.least + k) := by
  have pos : 0 < 2 ^ f.fb := Nat.two_pow_pos _
  have posQ : (2 : ℚ) ^ f.fb ≠ 0 := by positivity
  have unit (z : Int) : (2 : ℚ) ^ (z - f.fb) = 2 ^ z / 2 ^ f.fb := by rw [zpow_sub₀ two_ne_zero, zpow_natCast]
  rw [pow_succ] at high
  have binade : f.least + k = (1 + k - (f.bias : Int)) - f.fb := by rw [Fmt.least]; ring
  rw [binade, unit]
  unfold Fmt.magnitude
  rcases Nat.lt_or_ge c (2 ^ f.fb) with small | big
  · obtain rfl : k = 0 := low.resolve_right (by omega)
    simp only [Nat.zero_mul, small, if_true, Nat.cast_zero, add_zero]
    ring
  · have normal : ¬ c + k * 2 ^ f.fb < 2 ^ f.fb := by nlinarith
    rw [if_neg normal, Nat.add_mul_mod_self_right, Nat.add_mul_div_right _ _ pos]
    rcases Nat.lt_or_ge c (2 * 2 ^ f.fb) with inside | top
    · have quot : c / 2 ^ f.fb = 1 := Nat.div_eq_of_lt_le (by omega) (by omega)
      have rest : c % 2 ^ f.fb = c - 2 ^ f.fb := by rw [Nat.mod_eq_sub_mod big, Nat.mod_eq_of_lt (by omega)]
      rw [quot, rest, Nat.cast_sub big]
      push_cast
      field_simp
      ring
    · obtain rfl : c = 2 ^ f.fb * 2 := by omega
      have quot : 2 ^ f.fb * 2 / 2 ^ f.fb = 2 := Nat.mul_div_cancel_left _ pos
      have next : ((2 + k : Nat) : Int) - f.bias = (1 + k - f.bias) + 1 := by push_cast; ring
      rw [quot, Nat.mul_mod_right, next, zpow_add_one₀ two_ne_zero]
      push_cast
      field_simp
      ring

/-- Every encoding is a mantissa in a binade. -/
theorem Fmt.enc_split (f : Fmt) (x : Nat) :
    ∃ c k, x = c + k * 2 ^ f.fb ∧ (k = 0 ∨ 2 ^ f.fb ≤ c) ∧ c < 2 ^ (f.fb + 1) := by
  have split := Nat.div_add_mod x (2 ^ f.fb)
  have rest := Nat.mod_lt x (Nat.two_pow_pos f.fb)
  rcases Nat.eq_zero_or_eq_succ_pred (x / 2 ^ f.fb) with zero | succ
  · rw [zero] at split
    exact ⟨x, 0, by simp, Or.inl rfl, by rw [pow_succ]; omega⟩
  · rw [succ, Nat.mul_succ] at split
    refine ⟨x % 2 ^ f.fb + 2 ^ f.fb, (x / 2 ^ f.fb).pred, ?_, Or.inr (by omega), by rw [pow_succ]; omega⟩
    rw [Nat.mul_comm]; omega

theorem Fmt.magnitude_strictMono (f : Fmt) : StrictMono f.magnitude := by
  refine strictMono_nat_of_lt_succ fun x => ?_
  obtain ⟨c, k, rfl, low, high⟩ := f.enc_split x
  rw [f.magnitude_enc low high.le, show c + k * 2 ^ f.fb + 1 = (c + 1) + k * 2 ^ f.fb by ring,
    f.magnitude_enc (low.imp_right (·.trans (Nat.le_succ c))) high]
  have : (0 : ℚ) < 2 ^ (f.least + k) := by positivity
  push_cast
  linarith

theorem Fmt.magnitude_zero (f : Fmt) : f.magnitude 0 = 0 := by
  simp [Fmt.magnitude]

theorem Fmt.magnitude_nonneg (f : Fmt) (x : Nat) : 0 ≤ f.magnitude x := by
  rw [← f.magnitude_zero]
  exact f.magnitude_strictMono.monotone (Nat.zero_le x)

theorem Fmt.magnitude_eq_zero (f : Fmt) {x : Nat} : f.magnitude x = 0 ↔ x = 0 := by
  rw [← f.magnitude_zero, f.magnitude_strictMono.injective.eq_iff]

/-! ### Rounding to whole numbers -/

/-- The whole number `n` to which the magnitude `r` rounds in a direction (R114). -/
structure RoundedWhole (way : Toward) (r : ℚ) (n : Nat) : Prop where
  nearest : way = .nearest → (2 * r ≤ 2 * n + 1 ∧ (2 * r = 2 * n + 1 → n % 2 = 0)) ∧ (2 * n ≤ 2 * r + 1 ∧ (2 * n = 2 * r + 1 → n % 2 = 0))
  zero : way = .zero → n ≤ r ∧ r < n + 1
  away : way = .away → r ≤ n ∧ n < r + 1

theorem RoundedWhole.self (way : Toward) (n : Nat) : RoundedWhole way n n :=
  ⟨fun _ => ⟨⟨by linarith, fun h => by linarith⟩, ⟨by linarith, fun h => by linarith⟩⟩, fun _ => ⟨le_rfl, by linarith⟩,
    fun _ => ⟨le_rfl, by linarith⟩⟩

/-- A rounding passes no whole number. -/
theorem RoundedWhole.le_of_le {way : Toward} {r : ℚ} {n b : Nat} (h : RoundedWhole way r n) (le : r ≤ b) : n ≤ b := by
  by_contra above
  have step : (b : ℚ) + 1 ≤ n := by exact_mod_cast Nat.lt_of_not_le above
  cases way with
  | nearest => have := (h.nearest rfl).2.1; linarith
  | zero => have := (h.zero rfl).1; linarith
  | away => have := (h.away rfl).2; linarith

theorem RoundedWhole.ge_of_ge {way : Toward} {r : ℚ} {n b : Nat} (h : RoundedWhole way r n) (le : b ≤ r) : b ≤ n := by
  by_contra below
  have step : (n : ℚ) + 1 ≤ b := by exact_mod_cast Nat.lt_of_not_le below
  cases way with
  | nearest => have := (h.nearest rfl).1.1; linarith
  | zero => have := (h.zero rfl).2; linarith
  | away => have := (h.away rfl).1; linarith

/-- Which way the increment of a mode goes. -/
theorem roundsUp_eq (md : Rm) (neg odd inexact : Bool) (half : Ordering) : roundsUp md neg odd half inexact =
    match towardOf md neg with
    | .nearest => half == .gt || (half == .eq && odd)
    | .zero => false
    | .away => inexact := by
  cases md <;> cases neg <;> cases inexact <;> rfl

/-- Far below one half the quotient is 0 and the remainder all of the mantissa, so that both branches round alike. -/
theorem shiftRound_pos (md : Rm) (neg : Bool) (m : Nat) {s : Nat} (hs : 0 < s) :
    shiftRound md neg m s =
      m / 2 ^ s + (if roundsUp md neg (m / 2 ^ s % 2 == 1) (compare (m % 2 ^ s) (2 ^ (s - 1))) (m % 2 ^ s != 0) = true then 1 else 0) := by
  unfold shiftRound
  rw [if_neg hs.ne']
  split
  next tiny =>
    have small : m < 2 ^ (s - 1) := Nat.lt_log2_self.trans_le (Nat.pow_le_pow_right two_pos (by omega))
    have small' : m < 2 ^ s := small.trans_le (Nat.pow_le_pow_right two_pos (by omega))
    rw [Nat.div_eq_of_lt small', Nat.mod_eq_of_lt small', Nat.compare_eq_lt.mpr small, Nat.zero_add]
    rfl
  next =>
    dsimp only
    split <;> rfl

/-- Dividing a mantissa by 2^s rounds the quotient once. -/
theorem roundedWhole_shiftRound (md : Rm) (neg : Bool) (m s : Nat) :
    RoundedWhole (towardOf md neg) ((m : ℚ) / 2 ^ s) (shiftRound md neg m s) := by
  rcases Nat.eq_zero_or_pos s with rfl | hs
  · simpa [shiftRound] using RoundedWhole.self (towardOf md neg) m
  rw [shiftRound_pos md neg m hs, roundsUp_eq]
  have posN : 0 < 2 ^ (s - 1) := Nat.two_pow_pos _
  have double : 2 ^ s = 2 * 2 ^ (s - 1) := by rw [← pow_succ', Nat.sub_add_cancel hs]
  have rest : m % 2 ^ s < 2 * 2 ^ (s - 1) := (Nat.mod_lt m (Nat.two_pow_pos s)).trans_eq double
  have split : (m : ℚ) / 2 ^ s = (m / 2 ^ s : Nat) + (m % 2 ^ s : Nat) / (2 * 2 ^ (s - 1) : Nat) := by
    have := congrArg (Nat.cast (R := ℚ)) (Nat.div_add_mod m (2 ^ s))
    rw [← double]
    push_cast at this ⊢
    rw [← this]
    field_simp
  rw [split]
  generalize m / 2 ^ s = q at *
  generalize m % 2 ^ s = r at *
  generalize 2 ^ (s - 1) = h at *
  have posQ : (0 : ℚ) < (2 * h : Nat) := by exact_mod_cast (by omega : 0 < 2 * h)
  have frac_nonneg : (0 : ℚ) ≤ (r : ℚ) / (2 * h : Nat) := by positivity
  have frac_lt : (r : ℚ) / (2 * h : Nat) < 1 := (div_lt_one posQ).mpr (by exact_mod_cast rest)
  have half_lt : (2 * ((r : ℚ) / (2 * h : Nat)) < 1 ↔ r < h) := by
    rw [← mul_div_assoc, div_lt_one posQ]; norm_cast; omega
  have half_gt : (1 < 2 * ((r : ℚ) / (2 * h : Nat)) ↔ h < r) := by
    rw [← mul_div_assoc, one_lt_div posQ]; norm_cast; omega
  have frac_zero : (r : ℚ) / (2 * h : Nat) = 0 ↔ r = 0 := by
    rw [div_eq_zero_iff, or_iff_left posQ.ne', Nat.cast_eq_zero]
  generalize (r : ℚ) / (2 * h : Nat) = t at *
  cases towardOf md neg with
  | nearest =>
    refine ⟨fun _ => ?_, fun h => (nomatch h), fun h => (nomatch h)⟩
    rcases lt_trichotomy r h with lt | eq | gt
    · have := half_lt.mpr lt
      simp only [Nat.compare_eq_lt.mpr lt]
      norm_num
      refine ⟨⟨by linarith, fun e => by linarith⟩, by linarith, fun e => by linarith⟩
    · have tie : 2 * t = 1 := le_antisymm (not_lt.mp fun e => by have := half_gt.mp e; omega) (not_lt.mp fun e => by have := half_lt.mp e; omega)
      simp only [Nat.compare_eq_eq.mpr eq]
      rcases Nat.mod_two_eq_zero_or_one q with even | odd
      · norm_num [even]
        exact ⟨by linarith, by linarith⟩
      · norm_num [odd]
        exact ⟨⟨by linarith, fun _ => by omega⟩, by linarith, fun _ => by omega⟩
    · have := half_gt.mpr gt
      simp only [Nat.compare_eq_gt.mpr gt]
      norm_num
      refine ⟨⟨by linarith, fun e => by linarith⟩, by linarith, fun e => by linarith⟩
  | zero =>
    refine ⟨fun h => (nomatch h), fun _ => ?_, fun h => (nomatch h)⟩
    simpa using ⟨frac_nonneg, frac_lt⟩
  | away =>
    refine ⟨fun h => (nomatch h), fun h => (nomatch h), fun _ => ?_⟩
    rcases Nat.eq_zero_or_pos r with zero | pos
    · simp [frac_zero.mpr zero, zero]
    · have : 0 < t := lt_of_le_of_ne frac_nonneg fun e => pos.ne' (frac_zero.mp e.symm)
      simp only [bne_iff_ne, ne_eq, pos.ne', not_false_eq_true, if_true]
      push_cast
      exact ⟨by linarith, by linarith⟩

/-! ### Rounding to encodings -/

/-- `x` is the encoding to which the magnitude `q` rounds where a format has no greatest exponent. -/
structure RoundedFree (f : Fmt) (way : Toward) (q : ℚ) (x : Nat) : Prop where
  nearest : way = .nearest →
    (x ≠ 0 → f.magnitude (x - 1) + f.magnitude x ≤ 2 * q ∧ (f.magnitude (x - 1) + f.magnitude x = 2 * q → x % 2 = 0)) ∧
    (2 * q ≤ f.magnitude x + f.magnitude (x + 1) ∧ (2 * q = f.magnitude x + f.magnitude (x + 1) → x % 2 = 0))
  zero : way = .zero → f.magnitude x ≤ q ∧ q < f.magnitude (x + 1)
  away : way = .away → q ≤ f.magnitude x ∧ (x ≠ 0 → f.magnitude (x - 1) < q)

/-- The neighbours of an encoding: the next above is a quantum away or two, the next below a quantum or half of one. -/
theorem Fmt.magnitude_succ (f : Fmt) {c k : Nat} (low : k = 0 ∨ 2 ^ f.fb ≤ c) (high : c ≤ 2 ^ (f.fb + 1)) :
    f.magnitude (c + k * 2 ^ f.fb + 1) = (c + 1) * 2 ^ (f.least + k) ∨ f.magnitude (c + k * 2 ^ f.fb + 1) = (c + 2) * 2 ^ (f.least + k) := by
  rcases Nat.lt_or_eq_of_le high with inside | rfl
  · left
    rw [show c + k * 2 ^ f.fb + 1 = (c + 1) + k * 2 ^ f.fb by ring, f.magnitude_enc (low.imp_right (·.trans (Nat.le_succ c))) inside]
    push_cast; rfl
  · right
    have pos : 1 ≤ 2 ^ f.fb := Nat.one_le_two_pow
    rw [show 2 ^ (f.fb + 1) + k * 2 ^ f.fb + 1 = (2 ^ f.fb + 1) + (k + 1) * 2 ^ f.fb by ring,
      f.magnitude_enc (Or.inr (Nat.le_succ _)) (by rw [pow_succ]; omega), show f.least + ((k + 1 : Nat) : Int) = f.least + k + 1 by push_cast; ring,
      zpow_add_one₀ two_ne_zero]
    push_cast; ring

theorem Fmt.magnitude_pred (f : Fmt) {c k : Nat} (low : k = 0 ∨ 2 ^ f.fb ≤ c) (high : c ≤ 2 ^ (f.fb + 1)) (ne : c + k * 2 ^ f.fb ≠ 0) :
    f.magnitude (c + k * 2 ^ f.fb - 1) = (c - 1) * 2 ^ (f.least + k) ∨
      (k ≠ 0 ∧ c = 2 ^ f.fb ∧ f.magnitude (c + k * 2 ^ f.fb - 1) = (c - 1 / 2) * 2 ^ (f.least + k)) := by
  by_cases first : k ≠ 0 ∧ c = 2 ^ f.fb
  · right
    obtain ⟨hk, rfl⟩ := first
    obtain ⟨j, rfl⟩ := Nat.exists_eq_succ_of_ne_zero hk
    have pos : 1 ≤ 2 ^ f.fb := Nat.one_le_two_pow
    refine ⟨hk, rfl, ?_⟩
    rw [show 2 ^ f.fb + j.succ * 2 ^ f.fb - 1 = (2 ^ (f.fb + 1) - 1) + j * 2 ^ f.fb by rw [Nat.succ_mul, pow_succ]; omega,
      f.magnitude_enc (Or.inr (by rw [pow_succ]; omega)) (Nat.sub_le _ _), Nat.cast_sub Nat.one_le_two_pow,
      show f.least + ((j.succ : Nat) : Int) = f.least + j + 1 by push_cast; ring, zpow_add_one₀ two_ne_zero]
    push_cast; ring
  · left
    have one : 1 ≤ c := by
      by_contra none
      obtain rfl : c = 0 := by omega
      rcases low with rfl | le
      · simp at ne
      · exact absurd le (by have := Nat.two_pow_pos f.fb; omega)
    rw [show c + k * 2 ^ f.fb - 1 = (c - 1) + k * 2 ^ f.fb by omega, f.magnitude_enc (by omega) (by omega), Nat.cast_sub one]
    push_cast; rfl

/-- A magnitude in a binade rounds to the encoding of its mantissa rounded to a whole number. -/
theorem RoundedWhole.roundedFree {f : Fmt} (hf : 0 < f.fb) {way : Toward} {r : ℚ} {c k : Nat} (h : RoundedWhole way r c)
    (low : k = 0 ∨ (2 ^ f.fb : Nat) ≤ r) (high : r ≤ (2 ^ (f.fb + 1) : Nat)) :
    RoundedFree f way (r * 2 ^ (f.least + k)) (c + k * 2 ^ f.fb) := by
  have lowN : k = 0 ∨ 2 ^ f.fb ≤ c := low.imp_right h.ge_of_ge
  have highN := h.le_of_le high
  have unit : (0 : ℚ) < 2 ^ (f.least + k) := by positivity
  have here := f.magnitude_enc lowN highN
  have above := f.magnitude_succ lowN highN
  have below (ne : c + k * 2 ^ f.fb ≠ 0) : f.magnitude (c + k * 2 ^ f.fb - 1) = (c - 1) * 2 ^ (f.least + k) ∨
      (c : ℚ) ≤ r ∧ f.magnitude (c + k * 2 ^ f.fb - 1) = (c - 1 / 2) * 2 ^ (f.least + k) :=
    (f.magnitude_pred lowN highN ne).imp_right fun ⟨hk, hc, half⟩ => ⟨hc ▸ low.resolve_left hk, half⟩
  have parity : (c + k * 2 ^ f.fb) % 2 = c % 2 := by
    obtain ⟨b, hb⟩ := Nat.exists_eq_succ_of_ne_zero hf.ne'
    rw [hb, pow_succ, ← Nat.mul_assoc, Nat.add_mul_mod_self_right]
  generalize (2 : ℚ) ^ (f.least + k) = u at *
  have le {a b : ℚ} (h : a ≤ b) : a * u ≤ b * u := mul_le_mul_of_nonneg_right h unit.le
  have lt {a b : ℚ} (h : a < b) : a * u < b * u := mul_lt_mul_of_pos_right h unit
  constructor
  · intro hw
    obtain ⟨⟨up, tieUp⟩, down, tieDown⟩ := h.nearest hw
    rw [here, parity]
    refine ⟨fun ne => ?_, ?_⟩
    · rcases below ne with eq | ⟨hc, eq⟩
      · rw [eq]
        refine ⟨by linarith [le down], fun e => tieDown (mul_right_cancel₀ unit.ne' ?_)⟩
        linarith
      · rw [eq]
        exact ⟨by linarith [le hc], fun e => by linarith [le hc]⟩
    · rcases above with eq | eq
      · rw [eq]
        refine ⟨by linarith [le up], fun e => tieUp (mul_right_cancel₀ unit.ne' ?_)⟩
        linarith
      · rw [eq]
        exact ⟨by linarith [le up], fun e => by linarith [le up]⟩
  · intro hw
    obtain ⟨down, up⟩ := h.zero hw
    rw [here]
    refine ⟨le down, ?_⟩
    rcases above with eq | eq <;> rw [eq] <;> linarith [lt up]
  · intro hw
    obtain ⟨up, down⟩ := h.away hw
    rw [here]
    refine ⟨le up, fun ne => ?_⟩
    rcases below ne with eq | ⟨hc, eq⟩ <;> rw [eq]
    · linarith [lt down]
    · linarith [le hc]

/-! ### The one rounding of the model -/

/-- The exponent that a value's mantissa is cut to: at most fb + 1 bits remain, and none below the least subnormal (R122). -/
def Fmt.quantum (f : Fmt) (m : Nat) (e : Int) : Int := max ((m.log2 : Int) + e - f.fb) f.least

/-- The mantissa rounded at that exponent. -/
def Fmt.mantissa (f : Fmt) (md : Rm) (neg : Bool) (m : Nat) (e : Int) : Nat :=
  if f.quantum m e ≤ e then m * 2 ^ (e - f.quantum m e).toNat else shiftRound md neg m (f.quantum m e - e).toNat

/-- The encoding, without its sign, to which a value rounds where the exponents have no end. -/
def Fmt.freeEnc (f : Fmt) (md : Rm) (neg : Bool) (m : Nat) (e : Int) : Nat :=
  f.mantissa md neg m e + (f.quantum m e - f.least).toNat * 2 ^ f.fb

/-- The rounding of the model is that encoding, or what overflow leaves of it. -/
theorem Fmt.round_fin (f : Fmt) (md : Rm) (sat neg : Bool) {m : Nat} (hm : m ≠ 0) (e : Int) :
    f.round md sat (.fin neg m e) =
      if f.freeEnc md neg m e ≤ f.maxFin then f.signBit neg + f.freeEnc md neg m e
      else if overflowInf md neg = true then f.infinite sat neg
      else f.signBit neg + f.maxFin :=
  if_neg hm

theorem Fmt.round_zero (f : Fmt) (md : Rm) (sat neg : Bool) (e : Int) : f.round md sat (.fin neg 0 e) = f.signBit neg := rfl

theorem Fmt.least_le_quantum (f : Fmt) (m : Nat) (e : Int) : f.least ≤ f.quantum m e := le_max_right ..

theorem two_zpow_split (a b : Int) : (2 : ℚ) ^ a = 2 ^ (a - b) * 2 ^ b := by
  rw [← zpow_add₀ two_ne_zero, sub_add_cancel]

/-- The mantissa is the value in quanta, rounded to a whole number. -/
theorem Fmt.roundedWhole_mantissa (f : Fmt) (md : Rm) (neg : Bool) (m : Nat) (e : Int) :
    RoundedWhole (towardOf md neg) (m * 2 ^ (e - f.quantum m e)) (f.mantissa md neg m e) := by
  unfold Fmt.mantissa
  split
  next fine =>
    have whole : (m : ℚ) * 2 ^ (e - f.quantum m e) = (m * 2 ^ (e - f.quantum m e).toNat : Nat) := by
      conv_lhs => rw [← Int.toNat_of_nonneg (sub_nonneg.mpr fine), zpow_natCast]
      push_cast; rfl
    rw [whole]
    exact RoundedWhole.self ..
  next coarse =>
    have quotient : (m : ℚ) * 2 ^ (e - f.quantum m e) = m / 2 ^ (f.quantum m e - e).toNat := by
      rw [← neg_sub, zpow_neg, ← zpow_natCast, Int.toNat_of_nonneg (sub_nonneg.mpr (not_le.mp coarse).le), div_eq_mul_inv]
    rw [quotient]
    exact roundedWhole_shiftRound ..

/-- A mantissa lies between the powers of two that its highest bit names. -/
theorem log2_bounds {m : Nat} (hm : m ≠ 0) : (2 : ℚ) ^ (m.log2 : Int) ≤ m ∧ (m : ℚ) < 2 ^ ((m.log2 : Int) + 1) := by
  refine ⟨?_, ?_⟩
  · rw [zpow_natCast]; exact_mod_cast Nat.log2_self_le hm
  · rw [show (m.log2 : Int) + 1 = ((m.log2 + 1 : Nat) : Int) from rfl, zpow_natCast]
    exact_mod_cast Nat.lt_log2_self (n := m)

/-- The value in quanta lies in the range of a mantissa. -/
theorem Fmt.quanta_lt (f : Fmt) {m : Nat} (hm : m ≠ 0) (e : Int) : (m : ℚ) * 2 ^ (e - f.quantum m e) < (2 ^ (f.fb + 1) : Nat) := by
  have exponent : (m.log2 : Int) + 1 + (e - f.quantum m e) ≤ (f.fb + 1 : Nat) := by
    have := le_max_left ((m.log2 : Int) + e - f.fb) f.least
    rw [← Fmt.quantum] at this
    push_cast; omega
  calc (m : ℚ) * 2 ^ (e - f.quantum m e) < 2 ^ ((m.log2 : Int) + 1) * 2 ^ (e - f.quantum m e) :=
        mul_lt_mul_of_pos_right (log2_bounds hm).2 (by positivity)
    _ = 2 ^ ((m.log2 : Int) + 1 + (e - f.quantum m e)) := (zpow_add₀ two_ne_zero _ _).symm
    _ ≤ 2 ^ ((f.fb + 1 : Nat) : Int) := zpow_le_zpow_right₀ one_le_two exponent
    _ = (2 ^ (f.fb + 1) : Nat) := by rw [zpow_natCast]; norm_cast

theorem Fmt.quanta_ge (f : Fmt) {m : Nat} (hm : m ≠ 0) (e : Int) :
    (f.quantum m e - f.least).toNat = 0 ∨ (2 ^ f.fb : Nat) ≤ (m : ℚ) * 2 ^ (e - f.quantum m e) := by
  rcases max_choice ((m.log2 : Int) + e - f.fb) f.least with normal | subnormal
  · right
    rw [← Fmt.quantum] at normal
    calc ((2 ^ f.fb : Nat) : ℚ) = 2 ^ (f.fb : Int) := by rw [zpow_natCast]; norm_cast
      _ = 2 ^ (m.log2 : Int) * 2 ^ (e - f.quantum m e) := by rw [← zpow_add₀ two_ne_zero, normal]; congr 1; ring
      _ ≤ m * 2 ^ (e - f.quantum m e) := mul_le_mul_of_nonneg_right (log2_bounds hm).1 (by positivity)
  · left
    rw [← Fmt.quantum] at subnormal
    rw [subnormal, sub_self, Int.toNat_zero]

/-- The free encoding of a value is its rounding. -/
theorem Fmt.roundedFree_freeEnc {f : Fmt} (hf : 0 < f.fb) (md : Rm) (neg : Bool) {m : Nat} (hm : m ≠ 0) (e : Int) :
    RoundedFree f (towardOf md neg) (m * 2 ^ e) (f.freeEnc md neg m e) := by
  have rounded := (f.roundedWhole_mantissa md neg m e).roundedFree hf (f.quanta_ge hm e) (f.quanta_lt hm e).le
  have exponent : f.least + (f.quantum m e - f.least).toNat = f.quantum m e := by
    rw [Int.toNat_of_nonneg (sub_nonneg.mpr (f.least_le_quantum m e))]; ring
  rwa [exponent, mul_assoc, ← two_zpow_split] at rounded

/-! ### Overflow -/

/-- A rounding beyond the greatest finite encoding counts as the one above it. -/
theorem RoundedFree.roundedTo_beyond {f : Fmt} {way : Toward} {q : ℚ} {x : Nat} (h : RoundedFree f way q x) (past : f.top < x)
    (goes : way ≠ .zero) : RoundedTo f way q (f.top + 1) := by
  have mono := f.magnitude_strictMono
  have last : f.magnitude f.top ≤ f.magnitude (x - 1) := mono.monotone (by omega)
  refine ⟨le_rfl, fun hw => ⟨fun _ => ?_, fun le => absurd le (by omega)⟩, fun hw => absurd hw goes,
    fun hw => ⟨fun le => absurd le (by omega), fun _ => ?_⟩⟩
  · obtain ⟨down, tie⟩ := (h.nearest hw).1 (by omega)
    rcases Nat.eq_or_lt_of_le past with rfl | more
    · exact ⟨down, tie⟩
    · have more' : f.magnitude (f.top + 1) < f.magnitude x := mono more
      simp only [Nat.add_sub_cancel]
      exact ⟨by linarith, fun e => by linarith⟩
  · exact last.trans_lt ((h.away hw).2 (by omega))

/-- Toward zero it counts as the greatest finite encoding. -/
theorem RoundedFree.roundedTo_top {f : Fmt} {q : ℚ} {x : Nat} (h : RoundedFree f .zero q x) (past : f.top < x) :
    RoundedTo f .zero q f.top :=
  ⟨Nat.le_succ _, fun hw => (nomatch hw),
    fun _ => ⟨le_rfl, (f.magnitude_strictMono past).le.trans (h.zero rfl).1, fun lt => absurd lt (lt_irrefl _)⟩, fun hw => (nomatch hw)⟩

theorem RoundedFree.roundedTo {f : Fmt} {way : Toward} {q : ℚ} {x : Nat} (h : RoundedFree f way q x) (inside : x ≤ f.top) :
    RoundedTo f way q x :=
  ⟨inside.trans (Nat.le_succ _), fun hw => ⟨(h.nearest hw).1, fun _ => (h.nearest hw).2⟩,
    fun hw => ⟨inside, (h.zero hw).1, fun _ => (h.zero hw).2⟩, fun hw => ⟨fun _ => (h.away hw).1, (h.away hw).2⟩⟩

theorem Fmt.maxFin_eq_top (f : Fmt) : f.maxFin = f.top := by
  obtain ⟨eb, fb, bias, family⟩ := f
  cases family <;> rfl

theorem overflowInf_iff (md : Rm) (neg : Bool) : overflowInf md neg = true ↔ towardOf md neg ≠ .zero := by
  cases md <;> cases neg <;> decide

/-- What holds of each format of R112: there are fraction bits, and encodings above the least. -/
structure Fmt.Proper (f : Fmt) : Prop where
  fraction : 0 < f.fb
  exponent : 0 < f.eb

theorem Fmt.Proper.infEnc_pos {f : Fmt} (hf : f.Proper) : 0 < f.infEnc := by
  have : 1 < 2 ^ f.eb := Nat.one_lt_two_pow hf.exponent.ne'
  exact Nat.mul_pos (by omega) (Nat.two_pow_pos _)

theorem Fmt.Proper.infinite_eq_beyond {f : Fmt} (hf : f.Proper) (sat neg : Bool) : f.infinite sat neg = f.beyond sat neg := by
  have pos := hf.infEnc_pos
  have wide : 2 ≤ 2 ^ (f.eb + f.fb) := Nat.le_self_pow (by have := hf.exponent; omega) 2
  unfold Fmt.infinite Fmt.beyond Fmt.nan
  rw [f.maxFin_eq_top]
  unfold Fmt.top
  cases f.family with
  | ieee => simp only [Nat.sub_add_cancel pos]
  | oneNan =>
    cases sat
    · simp only [Bool.false_eq_true, if_false]; omega
    · rfl
  | allFinite => rfl

theorem Num.toRat_zero (neg : Bool) (e : Int) : Num.toRat (.fin neg 0 e) = 0 := by
  simp [Num.toRat]

theorem Num.toRat_fin (neg : Bool) (m : Nat) (e : Int) : Num.toRat (.fin neg m e) = (if neg = true then -1 else 1) * (m * 2 ^ e) := by
  rw [Num.toRat, mul_assoc]

theorem Num.toRat_fin_eq_zero {neg : Bool} {m : Nat} {e : Int} : Num.toRat (.fin neg m e) = 0 ↔ m = 0 := by
  rw [Num.toRat_fin]
  have := (zpow_pos (two_pos (α := ℚ)) e).ne'
  cases neg <;> simp [this]

theorem Num.toRat_fin_neg {neg : Bool} {m : Nat} (hm : m ≠ 0) (e : Int) : decide (Num.toRat (.fin neg m e) < 0) = neg := by
  have pos : (0 : ℚ) < m * 2 ^ e := by have := Nat.pos_of_ne_zero hm; positivity
  rw [Num.toRat_fin]
  cases neg
  · simpa using pos.le
  · simpa using pos

theorem Num.abs_toRat_fin (neg : Bool) (m : Nat) (e : Int) : |Num.toRat (.fin neg m e)| = m * 2 ^ e := by
  have nonneg : (0 : ℚ) ≤ m * 2 ^ e := by positivity
  rw [Num.toRat_fin]
  cases neg
  · simp [abs_of_nonneg nonneg]
  · simp [abs_of_nonneg nonneg]

/-- The model's rounding converts every finite value as R122 and R123 say. -/
theorem Fmt.Proper.convertsNumber {f : Fmt} (hf : f.Proper) (md : Rm) (sat neg : Bool) (m : Nat) (e : Int) :
    ConvertsNumber f md sat (Num.toRat (.fin neg m e)) neg (f.round md sat (.fin neg m e)) := by
  unfold ConvertsNumber
  by_cases hm : m = 0
  · simp only [hm, Num.toRat_zero, if_true, Fmt.round_zero]
  rw [if_neg (mt Num.toRat_fin_eq_zero.mp hm), Num.toRat_fin_neg hm, Num.abs_toRat_fin, f.round_fin md sat neg hm e, f.maxFin_eq_top,
    hf.infinite_eq_beyond]
  have rounded := Fmt.roundedFree_freeEnc hf.fraction md neg hm e
  by_cases inside : f.freeEnc md neg m e ≤ f.top
  · exact ⟨_, rounded.roundedTo inside, by rw [if_pos inside, if_neg inside.not_gt]⟩
  rw [if_neg inside]
  have past := not_le.mp inside
  by_cases goes : towardOf md neg = .zero
  · rw [if_neg (fun h => (overflowInf_iff md neg).mp h goes)]
    rw [goes] at rounded ⊢
    exact ⟨f.top, rounded.roundedTo_top past, by rw [if_neg (lt_irrefl _)]⟩
  · rw [if_pos ((overflowInf_iff md neg).mpr goes)]
    exact ⟨f.top + 1, rounded.roundedTo_beyond past goes, by rw [if_pos (Nat.lt_succ_self _)]⟩

/-- In an IEEE format the encoding above the greatest finite one is infinity. -/
theorem Fmt.Proper.top_succ {f : Fmt} (hf : f.Proper) (ieee : f.family = .ieee) : f.top + 1 = f.infEnc := by
  unfold Fmt.top
  rw [ieee]
  exact Nat.sub_add_cancel hf.infEnc_pos

theorem RoundedTo.rounded {f : Fmt} (hf : f.Proper) (ieee : f.family = .ieee) {way : Toward} {q : ℚ} {x : Nat} (h : RoundedTo f way q x) :
    Rounded f way q x := by
  have top := hf.top_succ ieee
  refine ⟨top ▸ h.encoding, fun hw => ?_, fun hw => ?_, fun hw => ?_⟩
  · obtain ⟨below, above⟩ := h.nearest hw
    exact ⟨below, fun lt => above (by omega)⟩
  · obtain ⟨le, down, up⟩ := h.zero hw
    exact ⟨by omega, down, fun lt => up (by omega)⟩
  · obtain ⟨up, down⟩ := h.away hw
    exact ⟨fun lt => up (by omega), down⟩

theorem ConvertsNumber.roundsOnce {f : Fmt} (hf : f.Proper) (ieee : f.family = .ieee) {md : Rm} {q : ℚ} {zneg : Bool} {r : Nat}
    (h : ConvertsNumber f md false q zneg r) : RoundsOnce f md q zneg r := by
  unfold ConvertsNumber at h
  unfold RoundsOnce
  split
  next zero => simpa only [zero, if_true] using h
  next nonzero =>
    simp only [nonzero, if_false] at h
    obtain ⟨x, rounded, rfl⟩ := h
    refine ⟨x, ?_, rounded.rounded hf ieee⟩
    split
    next =>
      have := rounded.encoding
      simp only [Fmt.beyond, ieee, Bool.false_eq_true, if_false]
      omega
    next => rfl

/-- The model's rounding of a finite value into an IEEE format. -/
theorem Fmt.Proper.roundsOnce {f : Fmt} (hf : f.Proper) (ieee : f.family = .ieee) (md : Rm) (neg : Bool) (m : Nat) (e : Int) :
    RoundsOnce f md (Num.toRat (.fin neg m e)) neg (f.round md false (.fin neg m e)) :=
  (hf.convertsNumber md false neg m e).roundsOnce hf ieee

/-! ### Exact sums and products -/

theorem scaled_toRat (neg : Bool) (m : Nat) {e e0 : Int} (h : e0 ≤ e) : (scaled neg m e e0 : ℚ) * 2 ^ e0 = Num.toRat (.fin neg m e) := by
  have shift : ((m * 2 ^ (e - e0).toNat : Nat) : ℚ) * 2 ^ e0 = m * 2 ^ e := by
    have power : (2 : ℚ) ^ (e - e0) = 2 ^ (e - e0).toNat := by
      conv_lhs => rw [← Int.toNat_of_nonneg (sub_nonneg.mpr h), zpow_natCast]
    rw [two_zpow_split e e0, power]
    push_cast; ring
  rw [Num.toRat_fin, ← shift, scaled]
  cases neg <;> simp

/-- An integer times a power of two as a value: its sign is that of the integer, or the one given for zero. -/
theorem numOf_eq (z e : Int) (zneg : Bool) : numOf z e zneg = .fin (if z = 0 then zneg else decide (z < 0)) z.natAbs e := by
  unfold numOf
  split
  next h => rw [h]; rfl
  next => rfl

theorem numOf_toRat (z e : Int) (zneg : Bool) : (numOf z e zneg).toRat = z * 2 ^ e := by
  rw [numOf_eq, Num.toRat_fin]
  rcases lt_trichotomy z 0 with neg | rfl | pos
  · simp [neg, neg.ne, abs_of_neg]
  · simp
  · simp [pos.ne', pos.le, abs_of_pos pos]

/-- The exact sum of finite values, and the sign of a zero sum (R114). -/
theorem Num.add_fin (md : Rm) (na nb : Bool) (ma mb : Nat) (ea eb : Int) :
    ∃ z e, (Num.fin na ma ea).add md (.fin nb mb eb) = numOf z e (if na = nb then na else md == .rm) ∧
      (z : ℚ) * 2 ^ e = Num.toRat (.fin na ma ea) + Num.toRat (.fin nb mb eb) := by
  refine ⟨_, _, rfl, ?_⟩
  rw [← scaled_toRat na ma (min_le_left ea eb), ← scaled_toRat nb mb (min_le_right ea eb)]
  push_cast; ring

theorem Num.toRat_neg (x : Num) : x.neg.toRat = -x.toRat := by
  rcases x with _ | _ | ⟨neg, m, e⟩
  · simp [Num.neg, Num.toRat]
  · simp [Num.neg, Num.toRat]
  · rw [Num.neg, Num.toRat_fin, Num.toRat_fin]; cases neg <;> simp

theorem Num.mul_fin_toRat (na nb : Bool) (ma mb : Nat) (ea eb : Int) :
    Num.toRat (.fin (na != nb) (ma * mb) (ea + eb)) = Num.toRat (.fin na ma ea) * Num.toRat (.fin nb mb eb) := by
  rw [Num.toRat_fin, Num.toRat_fin, Num.toRat_fin, zpow_add₀ two_ne_zero]
  cases na <;> cases nb <;> push_cast <;> simp <;> ring

/-- Rounding an integer times a power of two. -/
theorem Fmt.Proper.roundsOnce_numOf {f : Fmt} (hf : f.Proper) (ieee : f.family = .ieee) (md : Rm) (z e : Int) (zneg : Bool) :
    RoundsOnce f md (z * 2 ^ e) zneg (f.round md false (numOf z e zneg)) := by
  by_cases zero : z = 0
  · simp only [zero, Int.cast_zero, zero_mul, RoundsOnce, if_true, numOf, Fmt.round_zero]
  · have nonzero : (z : ℚ) * 2 ^ e ≠ 0 := mul_ne_zero (by exact_mod_cast zero) (by positivity)
    have rounded := hf.roundsOnce ieee md (decide (z < 0)) z.natAbs e
    rw [← if_neg (c := z = 0) zero (t := zneg) (e := decide (z < 0)), ← numOf_eq, numOf_toRat] at rounded
    simpa only [RoundsOnce, nonzero, if_false] using rounded

end Sys2Proof.Machine
end

section
/-! SUPPORT. What the words of the IEEE formats stand for, and the F32 and F64 operations on them (R114, R317 to R322). -/

namespace Sys2Proof.Machine

/-! ### The value of an encoding -/

/-- The mantissa and the exponent of a finite encoding without its sign. -/
def Fmt.mantOf (f : Fmt) (mag : Nat) : Nat := if mag / 2 ^ f.fb = 0 then mag % 2 ^ f.fb else 2 ^ f.fb + mag % 2 ^ f.fb
def Fmt.expOf (f : Fmt) (mag : Nat) : Int :=
  if mag / 2 ^ f.fb = 0 then 1 - (f.bias : Int) - f.fb else ((mag / 2 ^ f.fb : Nat) : Int) - f.bias - f.fb

theorem Fmt.mantOf_expOf (f : Fmt) (mag : Nat) : (f.mantOf mag : ℚ) * 2 ^ f.expOf mag = f.magnitude mag := by
  have pos : (0 : ℚ) < 2 ^ f.fb := by positivity
  have sub (z : Int) : (2 : ℚ) ^ (z - f.fb) = 2 ^ z / 2 ^ f.fb := by rw [zpow_sub₀ two_ne_zero, zpow_natCast]
  unfold Fmt.mantOf Fmt.expOf Fmt.magnitude
  have binade : mag / 2 ^ f.fb = 0 ↔ mag < 2 ^ f.fb := Nat.div_eq_zero_iff_lt (Nat.two_pow_pos f.fb)
  simp only [binade]
  split
  next h =>
    rw [sub, Nat.mod_eq_of_lt h]
    ring
  next h =>
    rw [sub]
    push_cast
    field_simp

theorem Fmt.mantOf_lt (f : Fmt) (mag : Nat) : f.mantOf mag < 2 ^ (f.fb + 1) := by
  have := Nat.mod_lt mag (Nat.two_pow_pos f.fb)
  rw [Fmt.mantOf, pow_succ]
  split <;> omega

theorem Fmt.least_le_expOf (f : Fmt) (mag : Nat) : f.least ≤ f.expOf mag := by
  rw [Fmt.expOf, Fmt.least]
  generalize mag / 2 ^ f.fb = q
  split <;> omega

theorem Fmt.mantOf_eq_zero (f : Fmt) {mag : Nat} : f.mantOf mag = 0 ↔ mag = 0 := by
  rw [← f.magnitude_eq_zero (x := mag), ← f.mantOf_expOf, mul_eq_zero, Nat.cast_eq_zero, or_iff_left (zpow_pos two_pos _).ne']

theorem Fmt.Proper.maxFin_lt {f : Fmt} (hf : f.Proper) (ieee : f.family = .ieee) : f.maxFin < f.infEnc := by
  have := hf.top_succ ieee
  rw [f.maxFin_eq_top]; omega

/-- An encoding up to the greatest finite one is finite (R112, R113). -/
theorem Fmt.Proper.value_fin {f : Fmt} (hf : f.Proper) {x : Nat} (h : x % 2 ^ (f.eb + f.fb) ≤ f.top) :
    f.value x = .fin (bitsOf x (f.eb + f.fb) 1 == 1) (f.mantOf (x % 2 ^ (f.eb + f.fb))) (f.expOf (x % 2 ^ (f.eb + f.fb))) := by
  rw [← f.maxFin_eq_top] at h
  have low : bitsOf x 0 (f.eb + f.fb) = x % 2 ^ (f.eb + f.fb) := by rw [bitsOf, pow_zero, Nat.div_one]
  have finite : ¬(f.family = .ieee ∧ f.infEnc ≤ x % 2 ^ (f.eb + f.fb)) := fun ⟨ieee, le⟩ => by have := hf.maxFin_lt ieee; omega
  have number : ¬(f.family = .oneNan ∧ f.maxFin < x % 2 ^ (f.eb + f.fb)) := fun ⟨_, lt⟩ => by omega
  simp only [Fmt.value, low, finite, number, if_false, Fmt.mantOf, Fmt.expOf]
  split <;> rfl

theorem Fmt.value_inf {f : Fmt} (ieee : f.family = .ieee) {x : Nat} (h : x % 2 ^ (f.eb + f.fb) = f.infEnc) :
    f.value x = .inf (bitsOf x (f.eb + f.fb) 1 == 1) := by
  have low : bitsOf x 0 (f.eb + f.fb) = f.infEnc := by rw [bitsOf, pow_zero, Nat.div_one, h]
  simp only [Fmt.value, low, ieee, le_refl, and_self, if_true]

/-- The other encodings are NaNs. -/
theorem Fmt.Proper.value_nan {f : Fmt} (hf : f.Proper) {x : Nat} (h : f.top < x % 2 ^ (f.eb + f.fb))
    (h' : ¬(f.family = .ieee ∧ x % 2 ^ (f.eb + f.fb) = f.infEnc)) : f.value x = .nan := by
  have low : bitsOf x 0 (f.eb + f.fb) = x % 2 ^ (f.eb + f.fb) := by rw [bitsOf, pow_zero, Nat.div_one]
  have bound := Nat.mod_lt x (Nat.two_pow_pos (f.eb + f.fb))
  simp only [Fmt.value, low]
  cases hfam : f.family with
  | ieee =>
    have := hf.top_succ hfam
    rw [if_pos ⟨rfl, by omega⟩, if_neg fun e => h' ⟨hfam, e⟩]
  | oneNan => rw [if_neg (by simp), if_pos ⟨rfl, f.maxFin_eq_top ▸ h⟩]
  | allFinite =>
    exfalso
    simp only [Fmt.top, hfam] at h
    omega

/-! ### Words -/

/-- An IEEE format whose words have `w` bits. -/
structure Fmt.Ieee (f : Fmt) (w : Nat) : Prop extends Fmt.Proper f where
  family : f.family = .ieee
  width : w = f.eb + f.fb + 1

theorem fmtF32_ieee : fmtF32.Ieee 32 := ⟨⟨by decide, by decide⟩, rfl, rfl⟩
theorem fmtF64_ieee : fmtF64.Ieee 64 := ⟨⟨by decide, by decide⟩, rfl, rfl⟩

/-- The word of a rounded value; `encF32` and `encF64` are those of their formats. -/
def Fmt.encode (f : Fmt) (w : Nat) (md : Rm) (x : Num) : BitVec w := BitVec.ofNat w (f.round md false x)

theorem encF32_eq (md : Rm) (x : Num) : encF32 md x = fmtF32.encode 32 md x := rfl
theorem encF64_eq (md : Rm) (x : Num) : encF64 md x = fmtF64.encode 64 md x := rfl

section
variable {f : Fmt} {w : Nat} (hf : f.Ieee w)
include hf

omit hf in
theorem Fmt.infEnc_add (f : Fmt) : f.infEnc + 2 ^ f.fb = 2 ^ (f.eb + f.fb) := by
  have : 1 ≤ 2 ^ f.eb := Nat.one_le_two_pow
  rw [Fmt.infEnc, pow_add, Nat.sub_mul, Nat.one_mul, Nat.sub_add_cancel (Nat.le_mul_of_pos_left _ (by omega))]

theorem Fmt.Ieee.top_lt {x : Nat} : f.top < x ↔ f.infEnc ≤ x := by
  rw [← hf.top_succ hf.family]; exact Iff.rfl

theorem Fmt.Ieee.signBit_add_lt (neg : Bool) {mag : Nat} (h : mag < 2 ^ (f.eb + f.fb)) : f.signBit neg + mag < 2 ^ w := by
  rw [hf.width, pow_succ, Fmt.signBit]
  split <;> omega

theorem Fmt.Ieee.pred_width : w - 1 = f.eb + f.fb := by rw [hf.width, Nat.add_sub_cancel]

/-- A word is its sign and its magnitude bits. -/
theorem Fmt.Ieee.toNat_eq (x : BitVec w) : x.toNat = f.signBit x.msb + magBits x := by
  have bound : x.toNat < 2 ^ (f.eb + f.fb) * 2 := by rw [← pow_succ, ← hf.width]; exact x.isLt
  rw [BitVec.msb_eq_decide, magBits, hf.pred_width, Fmt.signBit]
  by_cases h : 2 ^ (f.eb + f.fb) ≤ x.toNat
  · rw [Nat.mod_eq_sub_mod h, Nat.mod_eq_of_lt (by omega)]
    simp only [h, decide_true, if_true]; omega
  · rw [Nat.mod_eq_of_lt (not_le.mp h)]
    simp [h]

theorem Fmt.Ieee.magBits_lt (x : BitVec w) : magBits x < 2 ^ (f.eb + f.fb) := by
  rw [magBits, hf.pred_width]
  exact Nat.mod_lt _ (Nat.two_pow_pos _)

theorem Fmt.Ieee.magBits_eq (x : BitVec w) : x.toNat % 2 ^ (f.eb + f.fb) = magBits x := by
  rw [magBits, hf.pred_width]

theorem Fmt.Ieee.sign_eq (x : BitVec w) : (bitsOf x.toNat (f.eb + f.fb) 1 == 1) = x.msb := by
  have bound := hf.magBits_lt x
  rw [bitsOf, hf.toNat_eq x, Fmt.signBit]
  cases x.msb
  · simp [Nat.div_eq_of_lt bound]
  · simp [Nat.div_eq_of_lt bound, Nat.add_div_left]

/-- The word of a sign and magnitude bits, and back. -/
theorem Fmt.Ieee.toNat_ofNat (neg : Bool) {mag : Nat} (h : mag < 2 ^ (f.eb + f.fb)) :
    (BitVec.ofNat w (f.signBit neg + mag)).toNat = f.signBit neg + mag := by
  rw [BitVec.toNat_ofNat, Nat.mod_eq_of_lt (hf.signBit_add_lt neg h)]

theorem Fmt.Ieee.ext_iff {x : BitVec w} (neg : Bool) {mag : Nat} (h : mag < 2 ^ (f.eb + f.fb)) :
    x = BitVec.ofNat w (f.signBit neg + mag) ↔ x.msb = neg ∧ magBits x = mag := by
  have bound := hf.magBits_lt x
  rw [← BitVec.toNat_inj, hf.toNat_ofNat neg h, hf.toNat_eq x, Fmt.signBit, Fmt.signBit]
  cases x.msb <;> cases neg <;> simp <;> omega

/-! ### What a word stands for -/

theorem Fmt.Ieee.value_of_nan {x : BitVec w} (h : IsNan f x) : f.value x.toNat = .nan := by
  unfold IsNan at h
  refine hf.value_nan ?_ fun ⟨_, e⟩ => ?_
  · rw [hf.magBits_eq, hf.top_lt]; exact h.le
  · rw [hf.magBits_eq] at e; omega

theorem Fmt.Ieee.value_of_inf {x : BitVec w} (h : IsInf f x) : f.value x.toNat = .inf x.msb := by
  rw [Fmt.value_inf hf.family (by rw [hf.magBits_eq]; exact h), hf.sign_eq]

theorem Fmt.Ieee.value_of_fin {x : BitVec w} (h : IsFin f x) :
    f.value x.toNat = .fin x.msb (f.mantOf (magBits x)) (f.expOf (magBits x)) := by
  have inside : x.toNat % 2 ^ (f.eb + f.fb) ≤ f.top := by
    rw [hf.magBits_eq]; exact not_lt.mp fun e => not_le.mpr h (hf.top_lt.mp e)
  rw [hf.value_fin inside, hf.sign_eq, hf.magBits_eq]

omit hf in
theorem toRat_word (f : Fmt) (x : BitVec w) : Num.toRat (.fin x.msb (f.mantOf (magBits x)) (f.expOf (magBits x))) = floatVal f x := by
  rw [Num.toRat_fin, f.mantOf_expOf, floatVal]

omit hf in
theorem floatVal_eq_zero {x : BitVec w} : floatVal f x = 0 ↔ magBits x = 0 := by
  rw [← toRat_word, Num.toRat_fin_eq_zero, f.mantOf_eq_zero]

theorem Fmt.Ieee.isFin_of_zero {x : BitVec w} (h : floatVal f x = 0) : IsFin f x := by
  rw [IsFin, floatVal_eq_zero.mp h]
  exact hf.infEnc_pos

omit hf in
theorem word_cases (f : Fmt) (x : BitVec w) : IsNan f x ∨ IsInf f x ∨ IsFin f x := by
  unfold IsNan IsInf IsFin; omega

theorem Fmt.Ieee.value_eq_nan {x : BitVec w} : f.value x.toNat = .nan ↔ IsNan f x := by
  refine ⟨fun h => ?_, hf.value_of_nan⟩
  rcases word_cases f x with nan | inf | fin
  · exact nan
  · rw [hf.value_of_inf inf] at h; exact absurd h (by simp)
  · rw [hf.value_of_fin fin] at h; exact absurd h (by simp)

/-! ### What a value is written as -/

theorem Fmt.Ieee.encode_inf (md : Rm) (neg : Bool) : f.encode w md (.inf neg) = infWord f w neg := by
  simp only [Fmt.encode, Fmt.round, Fmt.infinite, hf.family, Bool.false_eq_true, if_false, infWord]

omit hf in
theorem Fmt.encode_nan (f : Fmt) (w : Nat) (md : Rm) : f.encode w md .nan = BitVec.ofNat w f.nan := rfl

omit hf in
theorem Fmt.infEnc_lt (f : Fmt) : f.infEnc < 2 ^ (f.eb + f.fb) := by
  have := f.infEnc_add
  have := Nat.two_pow_pos f.fb
  omega

theorem Fmt.Ieee.eq_infWord {x : BitVec w} (h : IsInf f x) : x = infWord f w x.msb :=
  (hf.ext_iff x.msb f.infEnc_lt).mpr ⟨rfl, h⟩

theorem Fmt.Ieee.infWord_eq {x : BitVec w} (h : IsInf f x) {neg : Bool} (hn : x.msb = neg) : infWord f w neg = x := by
  subst hn; exact (hf.eq_infWord h).symm

theorem Fmt.Ieee.roundsOnce_lt {md : Rm} {q : ℚ} {zneg : Bool} {r : Nat} (h : RoundsOnce f md q zneg r) : r < 2 ^ w := by
  unfold RoundsOnce at h
  split at h
  · rw [h]; simpa using hf.signBit_add_lt zneg (Nat.two_pow_pos _)
  · obtain ⟨x, rfl, rounded⟩ := h
    exact hf.signBit_add_lt _ (rounded.encoding.trans_lt f.infEnc_lt)

theorem Fmt.Ieee.encode_roundsOnce {md : Rm} {x : Num} {q : ℚ} {zneg : Bool} (h : RoundsOnce f md q zneg (f.round md false x)) :
    RoundsOnce f md q zneg (f.encode w md x).toNat := by
  rwa [Fmt.encode, BitVec.toNat_ofNat, Nat.mod_eq_of_lt (hf.roundsOnce_lt h)]

/-- The sum of two finite values, rounded once. -/
theorem Fmt.Ieee.encode_add (md : Rm) (na nb : Bool) (ma mb : Nat) (ea eb : Int) :
    RoundsOnce f md (Num.toRat (.fin na ma ea) + Num.toRat (.fin nb mb eb)) (if na = nb then na else md == .rm)
      (f.encode w md ((Num.fin na ma ea).add md (.fin nb mb eb))).toNat := by
  obtain ⟨z, e, sum, exact⟩ := Num.add_fin md na nb ma mb ea eb
  rw [sum, ← exact]
  exact hf.encode_roundsOnce (hf.roundsOnce_numOf hf.family md z e _)

end

/-! ### Sums and products that are not finite -/

@[simp] theorem Num.nan_add (md : Rm) (y : Num) : Num.nan.add md y = .nan := rfl
@[simp] theorem Num.add_nan (md : Rm) (x : Num) : x.add md .nan = .nan := by cases x <;> rfl
@[simp] theorem Num.inf_add_inf (md : Rm) (a b : Bool) : (Num.inf a).add md (.inf b) = if a = b then .inf a else .nan := rfl
@[simp] theorem Num.inf_add_fin (md : Rm) (a b : Bool) (m : Nat) (e : Int) : (Num.inf a).add md (.fin b m e) = .inf a := rfl
@[simp] theorem Num.fin_add_inf (md : Rm) (a b : Bool) (m : Nat) (e : Int) : (Num.fin a m e).add md (.inf b) = .inf b := rfl
@[simp] theorem Num.nan_mul (y : Num) : Num.nan.mul y = .nan := rfl
@[simp] theorem Num.mul_nan (x : Num) : x.mul .nan = .nan := by cases x <;> rfl
@[simp] theorem Num.inf_mul_inf (a b : Bool) : (Num.inf a).mul (.inf b) = .inf (a != b) := rfl
@[simp] theorem Num.inf_mul_fin (a b : Bool) (m : Nat) (e : Int) : (Num.inf a).mul (.fin b m e) = if m = 0 then .nan else .inf (a != b) := rfl
@[simp] theorem Num.fin_mul_inf (a b : Bool) (m : Nat) (e : Int) : (Num.fin a m e).mul (.inf b) = if m = 0 then .nan else .inf (a != b) := rfl
@[simp] theorem Num.fin_mul_fin (a b : Bool) (ma mb : Nat) (ea eb : Int) :
    (Num.fin a ma ea).mul (.fin b mb eb) = .fin (a != b) (ma * mb) (ea + eb) := rfl
@[simp] theorem Num.neg_nan : Num.nan.neg = .nan := rfl
@[simp] theorem Num.neg_inf (a : Bool) : (Num.inf a).neg = .inf !a := rfl
@[simp] theorem Num.neg_fin (a : Bool) (m : Nat) (e : Int) : (Num.fin a m e).neg = .fin (!a) m e := rfl

/-! ### The arithmetic of a format -/

section
variable {f : Fmt} {w : Nat} (hf : f.Ieee w)
include hf

omit hf in
theorem mantOf_magBits_eq_zero {x : BitVec w} : f.mantOf (magBits x) = 0 ↔ floatVal f x = 0 := by
  rw [f.mantOf_eq_zero, floatVal_eq_zero]

/-- An infinity times a word that is no NaN and no zero. -/
theorem Fmt.Ieee.inf_mul_value (neg : Bool) {x : BitVec w} (number : ¬IsNan f x) (nonzero : floatVal f x ≠ 0) :
    (Num.inf neg).mul (f.value x.toNat) = .inf (neg != x.msb) ∧ (f.value x.toNat).mul (.inf neg) = .inf (x.msb != neg) := by
  rcases word_cases f x with nan | inf | fin
  · exact absurd nan number
  · simp [hf.value_of_inf inf]
  · simp [hf.value_of_fin fin, mantOf_magBits_eq_zero, nonzero]

/-- Sums, differences, products and fused multiply-adds of words, each as a value rounded once (R114, R317, R322). -/
theorem Fmt.Ieee.arithOf (md : Rm) :
    ArithOf f md (BitVec.ofNat w f.nan)
      (fun a b => f.encode w md ((f.value a.toNat).add md (f.value b.toNat)))
      (fun a b => f.encode w md ((f.value a.toNat).add md (f.value b.toNat).neg))
      (fun a b => f.encode w md ((f.value a.toNat).mul (f.value b.toNat)))
      (fun a b c => f.encode w md (((f.value a.toNat).mul (f.value b.toNat)).add md (f.value c.toNat))) where
  add_fin a b ha hb := by
    simp only [hf.value_of_fin ha, hf.value_of_fin hb]
    rw [← toRat_word, ← toRat_word]
    exact hf.encode_add ..
  sub_fin a b ha hb := by
    simp only [hf.value_of_fin ha, hf.value_of_fin hb]
    rw [← toRat_word f a, ← toRat_word f b, sub_eq_add_neg, ← Num.toRat_neg]
    have sum := hf.encode_add md a.msb (!b.msb) (f.mantOf (magBits a)) (f.mantOf (magBits b)) (f.expOf (magBits a)) (f.expOf (magBits b))
    simp only [Bool.eq_not] at sum
    exact sum
  mul_fin a b ha hb := by
    simp only [hf.value_of_fin ha, hf.value_of_fin hb]
    rw [← toRat_word, ← toRat_word, ← Num.mul_fin_toRat]
    exact hf.encode_roundsOnce (hf.roundsOnce hf.family ..)
  fma_fin a b c ha hb hc := by
    simp only [hf.value_of_fin ha, hf.value_of_fin hb, hf.value_of_fin hc]
    rw [← toRat_word f a, ← toRat_word f b, ← toRat_word f c, ← Num.mul_fin_toRat]
    have sum := hf.encode_add md (a.msb != b.msb) c.msb (f.mantOf (magBits a) * f.mantOf (magBits b)) (f.mantOf (magBits c))
      (f.expOf (magBits a) + f.expOf (magBits b)) (f.expOf (magBits c))
    rwa [show (if (a.msb != b.msb) = c.msb then a.msb != b.msb else md == .rm) = if (a.msb != b.msb) = c.msb then c.msb else md == .rm by
      split <;> simp_all] at sum
  nan_op a b h := by
    rcases h with nan | nan <;> simp [hf.value_of_nan nan, Fmt.encode_nan]
  nan_fma a b c h := by
    rcases h with nan | nan | nan <;> simp [hf.value_of_nan nan, Fmt.encode_nan]
  inf_inf a b ha hb := by
    simp only [hf.value_of_inf ha, hf.value_of_inf hb, Num.inf_add_inf, Num.neg_inf, Num.inf_mul_inf, Bool.eq_not, hf.encode_inf, and_true]
    constructor <;> split <;> simp [hf.encode_inf, hf.infWord_eq ha, Fmt.encode_nan]
  inf_fin a b ha hb := by
    simp only [hf.value_of_inf ha, hf.value_of_fin hb, Num.inf_add_fin, Num.fin_add_inf, Num.neg_inf, Num.neg_fin, Num.inf_mul_fin,
      Num.fin_mul_inf, hf.encode_inf, hf.infWord_eq ha rfl, true_and, mantOf_magBits_eq_zero]
    constructor <;> split <;> simp [hf.encode_inf, Fmt.encode_nan, bne_comm]
  zero_inf a b c h := by
    have nan : (f.value a.toNat).mul (f.value b.toNat) = .nan := by
      rcases h with ⟨inf, zero⟩ | ⟨zero, inf⟩ <;>
        simp [hf.value_of_inf inf, hf.value_of_fin (hf.isFin_of_zero zero), mantOf_magBits_eq_zero.mpr zero]
    simp [nan, Fmt.encode_nan]
  fin_inf a b c ha hb hc := by
    simp [hf.value_of_fin ha, hf.value_of_fin hb, hf.value_of_inf hc, hf.encode_inf, hf.infWord_eq hc]
  inf_any a b c h := by
    have inf : (f.value a.toNat).mul (f.value b.toNat) = .inf (a.msb != b.msb) := by
      rcases h with ⟨inf, number, nonzero⟩ | ⟨inf, number, nonzero⟩
      · rw [hf.value_of_inf inf, (hf.inf_mul_value _ number nonzero).1]
      · rw [hf.value_of_inf inf, (hf.inf_mul_value _ number nonzero).2]
    simp only [inf]
    refine ⟨fun hc => ?_, fun hc => ?_⟩
    · rw [hf.value_of_fin hc, Num.inf_add_fin, hf.encode_inf]
    · rw [hf.value_of_inf hc, Num.inf_add_inf]
      split
      next same => rw [hf.encode_inf, same, hf.infWord_eq hc rfl]
      next => rfl

/-! ### Picking an operand -/

theorem Fmt.Ieee.rank_eq (x : BitVec w) : f.rank x.toNat = floatKey x := by
  have low : bitsOf x.toNat 0 (f.eb + f.fb) = magBits x := by rw [bitsOf, pow_zero, Nat.div_one, hf.magBits_eq]
  have sign := hf.sign_eq x
  rw [beq_eq_decide] at sign
  simp only [Fmt.rank, floatKey, low, ← sign, decide_eq_true_eq]

/-- `FMIN` and `FMAX` of a format (R318). -/
theorem Fmt.Ieee.pickOf :
    PickOf f (BitVec.ofNat w f.nan) (fun a b => BitVec.ofNat w (f.pick false a.toNat b.toNat))
      (fun a b => BitVec.ofNat w (f.pick true a.toNat b.toNat)) where
  both a b ha hb := by
    rw [← hf.value_eq_nan] at ha hb
    simp only [Fmt.pick, ha, hb, if_false, if_true, Bool.false_eq_true, hf.rank_eq]
    constructor <;> split <;> simp
  one a b ha hb := by
    rw [← hf.value_eq_nan] at ha hb
    simp [Fmt.pick, ha, hb]
  none a b ha hb := by
    rw [← hf.value_eq_nan] at ha hb
    simp [Fmt.pick, ha, hb]

/-! ### Values that a format holds exactly -/

omit hf in
theorem Fmt.magnitude_freeEnc (f : Fmt) (md : Rm) (neg : Bool) {m : Nat} (hm : m ≠ 0) {e : Int} (fine : f.quantum m e ≤ e) :
    f.magnitude (f.freeEnc md neg m e) = m * 2 ^ e := by
  have whole : (m : ℚ) * 2 ^ (e - f.quantum m e) = (m * 2 ^ (e - f.quantum m e).toNat : Nat) := by
    conv_lhs => rw [← Int.toNat_of_nonneg (sub_nonneg.mpr fine), zpow_natCast]
    push_cast; rfl
  have low := f.quanta_ge hm e
  have high := (f.quanta_lt hm e).le
  have exponent : f.least + (f.quantum m e - f.least).toNat = f.quantum m e := by
    rw [Int.toNat_of_nonneg (sub_nonneg.mpr (f.least_le_quantum m e))]; ring
  rw [Fmt.freeEnc, Fmt.mantissa, if_pos fine]
  rw [whole] at low high
  rw [f.magnitude_enc (low.imp_right fun h => by exact_mod_cast h) (by exact_mod_cast high), exponent, ← whole, mul_assoc, ← two_zpow_split]

/-- A mantissa of at most fb + 1 bits, at an exponent that the format has, is written exactly. -/
theorem Fmt.Ieee.encode_exact (md : Rm) (neg : Bool) {m : Nat} {e : Int} (hm : m < 2 ^ (f.fb + 1)) (he : f.least ≤ e)
    (inside : (m : ℚ) * 2 ^ e < f.magnitude f.infEnc) :
    let y := f.encode w md (.fin neg m e)
    IsFin f y ∧ y.msb = neg ∧ floatVal f y = Num.toRat (.fin neg m e) := by
  have word {mag : Nat} (lt : mag < f.infEnc) (val : f.magnitude mag = m * 2 ^ e) (eq : f.round md false (.fin neg m e) = f.signBit neg + mag) :
      IsFin f (f.encode w md (.fin neg m e)) ∧ (f.encode w md (.fin neg m e)).msb = neg ∧
        floatVal f (f.encode w md (.fin neg m e)) = Num.toRat (.fin neg m e) := by
    obtain ⟨sign, bits⟩ := (hf.ext_iff neg (lt.trans f.infEnc_lt)).mp (congrArg (BitVec.ofNat w) eq)
    rw [Fmt.encode, IsFin, floatVal, sign, bits, val, Num.toRat_fin]
    exact ⟨lt, rfl, rfl⟩
  rcases Nat.eq_zero_or_pos m with rfl | pos
  · exact word hf.infEnc_pos (by rw [f.magnitude_zero]; simp) (by simp [Fmt.round_zero])
  · have bits : m.log2 ≤ f.fb := Nat.le_of_lt_succ ((Nat.log2_lt pos.ne').mpr hm)
    have fine : f.quantum m e ≤ e := max_le (by omega) he
    have val := f.magnitude_freeEnc md neg pos.ne' fine
    have lt : f.freeEnc md neg m e < f.infEnc := f.magnitude_strictMono.lt_iff_lt.mp (val ▸ inside)
    have le : f.freeEnc md neg m e ≤ f.maxFin := by
      rw [f.maxFin_eq_top]; exact not_lt.mp fun h => not_le.mpr lt (hf.top_lt.mp h)
    exact word lt val (by rw [f.round_fin md false neg pos.ne' e, if_pos le])

end

/-! ### Rounding to an integer (R124, R321) -/

/-- A magnitude that rounds to a whole number, with its sign. -/
theorem RoundedWhole.roundsToInt {md : Rm} {neg : Bool} {r : ℚ} {n : Nat} (nonneg : 0 ≤ r) (h : RoundedWhole (towardOf md neg) r n) :
    RoundsToInt md ((if neg = true then -1 else 1) * r) (if neg = true then -(n : Int) else n) := by
  have nonnegN : (0 : ℚ) ≤ n := by positivity
  cases md with
  | rn =>
    obtain ⟨⟨up, tieUp⟩, down, tieDown⟩ := h.nearest rfl
    have near : |r - n| ≤ 1 / 2 := abs_le.mpr ⟨by linarith, by linarith⟩
    have even (tie : |r - n| = 1 / 2) : n % 2 = 0 := by
      rcases eq_or_eq_neg_of_abs_eq tie with e | e
      · exact tieUp (by linarith)
      · exact tieDown (by linarith)
    cases neg
    · simp only [RoundsToInt, Bool.false_eq_true, if_false, one_mul, Int.cast_natCast]
      exact ⟨near, fun tie => by have := even tie; omega⟩
    · have flip : |-1 * r - ((-(n : Int) : Int) : ℚ)| = |r - n| := by rw [← abs_neg]; congr 1; push_cast; ring
      simp only [RoundsToInt, if_true, flip]
      exact ⟨near, fun tie => by have := even tie; omega⟩
  | rz =>
    obtain ⟨down, up⟩ := h.zero (by cases neg <;> rfl)
    have dist : |r - n| < 1 := abs_lt.mpr ⟨by linarith, by linarith⟩
    have sign : 0 ≤ r * n := mul_nonneg nonneg nonnegN
    cases neg
    · simp only [RoundsToInt, Bool.false_eq_true, if_false, one_mul, Int.cast_natCast, abs_of_nonneg nonneg, abs_of_nonneg nonnegN]
      exact ⟨down, dist, sign⟩
    · have flip : |-r - -(n : ℚ)| = |r - n| := by rw [← abs_neg]; congr 1; ring
      simp only [RoundsToInt, if_true, neg_one_mul, flip, abs_neg, Int.cast_neg, Int.cast_natCast, abs_of_nonneg nonneg, abs_of_nonneg nonnegN]
      exact ⟨down, dist, by linarith⟩
  | rp =>
    cases neg
    · obtain ⟨up, down⟩ := h.away rfl
      simpa [RoundsToInt] using ⟨up, down⟩
    · obtain ⟨down, up⟩ := h.zero rfl
      simp only [RoundsToInt, if_true]
      push_cast
      exact ⟨by linarith, by linarith⟩
  | rm =>
    cases neg
    · obtain ⟨down, up⟩ := h.zero rfl
      simpa [RoundsToInt] using ⟨down, up⟩
    · obtain ⟨up, down⟩ := h.away rfl
      simp only [RoundsToInt, if_true]
      push_cast
      exact ⟨by linarith, by linarith⟩

/-- The whole number that `roundInt` gives its sign to. -/
theorem roundInt_eq (md : Rm) (neg : Bool) (m : Nat) (e : Int) : ∃ n : Nat, roundInt md neg m e = (if neg = true then -(n : Int) else n) ∧
    RoundedWhole (towardOf md neg) (m * 2 ^ e) n := by
  refine ⟨_, rfl, ?_⟩
  split
  next fine =>
    have whole : (m : ℚ) * 2 ^ e = (m * 2 ^ e.toNat : Nat) := by
      conv_lhs => rw [← Int.toNat_of_nonneg fine, zpow_natCast]
      push_cast; rfl
    rw [whole]
    exact RoundedWhole.self ..
  next coarse =>
    have quotient : (m : ℚ) * 2 ^ e = m / 2 ^ (-e).toNat := by
      rw [← zpow_natCast, Int.toNat_of_nonneg (by omega), zpow_neg, div_inv_eq_mul]
    rw [quotient]
    exact roundedWhole_shiftRound ..

theorem roundsToInt_roundInt (md : Rm) (neg : Bool) (m : Nat) (e : Int) :
    RoundsToInt md (Num.toRat (.fin neg m e)) (roundInt md neg m e) := by
  obtain ⟨n, eq, rounded⟩ := roundInt_eq md neg m e
  rw [eq, Num.toRat_fin]
  exact rounded.roundsToInt (by positivity)

/-! ### `FRINT` (R321) -/

theorem frintF32_of_inf {md : Rm} {x : Word32} (h : IsInf fmtF32 x) : frintF32 md x = x := by
  rw [frintF32, valF32, fmtF32_ieee.value_of_inf h]

theorem frintF32_of_fin (md : Rm) {x : Word32} (h : IsFin fmtF32 x) : frintF32 md x =
    if 0 ≤ fmtF32.expOf (magBits x) ∨ fmtF32.mantOf (magBits x) = 0 then x
    else encF32 .rz (.fin x.msb (roundInt md x.msb (fmtF32.mantOf (magBits x)) (fmtF32.expOf (magBits x))).natAbs 0) := by
  rw [frintF32, valF32, fmtF32_ieee.value_of_fin h]

theorem roundsToInt_self (md : Rm) (k : Int) : RoundsToInt md k k := by
  cases md <;> simp [RoundsToInt, mul_self_nonneg]

theorem fmtF32_magnitude_infEnc : fmtF32.magnitude fmtF32.infEnc = 2 ^ 128 := by
  norm_num [Fmt.magnitude, Fmt.infEnc, fmtF32]

/-- A mantissa with a fraction bit lies below 2^23. -/
theorem fraction_lt {m : Nat} (hm : m < 2 ^ 24) {e : Int} (he : ¬0 ≤ e) : (m : ℚ) * 2 ^ e < 2 ^ 23 := by
  have half : (2 : ℚ) ^ e ≤ 2 ^ (-1 : Int) := zpow_le_zpow_right₀ one_le_two (by omega)
  have bits : (m : ℚ) < 2 ^ 24 := by exact_mod_cast hm
  calc (m : ℚ) * 2 ^ e ≤ m * 2 ^ (-1 : Int) := mul_le_mul_of_nonneg_left half m.cast_nonneg
    _ < 2 ^ 24 * 2 ^ (-1 : Int) := mul_lt_mul_of_pos_right bits (by positivity)
    _ = 2 ^ 23 := by norm_num

theorem frintOf_frintF32 (md : Rm) (x : Word32) : FrintOf md x (frintF32 md x) where
  nan h := by rw [frintF32, valF32, fmtF32_ieee.value_of_nan h]
  same number h := by
    rcases word_cases fmtF32 x with nan | inf | fin
    · exact absurd nan number
    · exact frintF32_of_inf inf
    rw [frintF32_of_fin md fin, if_pos]
    rcases h with zero | inf | large
    · exact Or.inr (fmtF32.mantOf_eq_zero.mpr zero)
    · exact absurd inf (ne_of_lt fin)
    · left
      by_contra fraction
      rw [← toRat_word, Num.abs_toRat_fin] at large
      exact absurd large (fraction_lt (fmtF32.mantOf_lt _) fraction).not_ge
  whole fin := by
    have val := toRat_word fmtF32 x
    have bits := fmtF32.mantOf_lt (magBits x)
    rw [frintF32_of_fin md fin]
    generalize fmtF32.mantOf (magBits x) = m at *
    generalize fmtF32.expOf (magBits x) = e at *
    split
    next whole =>
      have eq : floatVal fmtF32 x = (((if x.msb = true then -1 else 1) * (m * 2 ^ e.toNat : Nat) : Int) : ℚ) := by
        rw [← val, Num.toRat_fin]
        rcases whole with nonneg | rfl
        · conv_lhs => rw [← Int.toNat_of_nonneg nonneg, zpow_natCast]
          split <;> push_cast <;> rfl
        · simp
      exact ⟨fin, rfl, _, eq, by rw [eq]; exact roundsToInt_self ..⟩
    next h =>
      obtain ⟨fraction, -⟩ := not_or.mp h
      obtain ⟨n, eq, rounded⟩ := roundInt_eq md x.msb m e
      have le : n ≤ 2 ^ 23 := rounded.le_of_le (by exact_mod_cast (fraction_lt bits fraction).le)
      have abs : (roundInt md x.msb m e).natAbs = n := by rw [eq]; split <;> simp
      have inside : (n : ℚ) * 2 ^ (0 : Int) < fmtF32.magnitude fmtF32.infEnc := by
        have : (n : ℚ) ≤ 2 ^ 23 := by exact_mod_cast le
        rw [fmtF32_magnitude_infEnc, zpow_zero, mul_one]
        exact this.trans_lt (by norm_num)
      obtain ⟨fin', sign, value⟩ := fmtF32_ieee.encode_exact .rz x.msb (m := n) (e := 0)
        (le.trans_lt (by decide)) (by decide) inside
      rw [abs, encF32_eq]
      refine ⟨fin', sign, roundInt md x.msb m e, ?_, val ▸ roundsToInt_roundInt md x.msb m e⟩
      rw [value, eq, Num.toRat_fin]
      split <;> simp

/-- Settles O22: the arithmetic and the picks are those of any IEEE format, and `FRINT` writes the rounded integer exactly. -/
theorem floatResultsAreRoundedOnce : Obligations.FloatResultsAreRoundedOnce := fun md =>
  ⟨fmtF32_ieee.arithOf md, fmtF64_ieee.arithOf md, fmtF32_ieee.pickOf, fmtF64_ieee.pickOf, frintOf_frintF32 md⟩

end Sys2Proof.Machine
end

section
/-! SUPPORT. Lane instructions of fixed latency, bands, and the butterflies and prefixes over a band (R30, R39, R127, R128, R327, R330). -/

namespace Sys2Proof.Machine

/-! ### Fixed latency -/

/-- A lane instruction whose meaning is `laneFixed` gives its results where it may issue (R39). -/
theorem laneFixed_gives {i : Instr} {c : Ctl} {s : State} {lat : Nat} {f : Team → Active → Nat → List LaneWrite}
    (exec_eq : exec i s = laneFixed i c lat f s) : LaneGives i c s lat f := by
  intro a issuable
  rw [GivesLane, exec_eq]
  exact laneIssue_results issuable _ rfl

/-! ### Bands (R30, R327) -/

theorem mem_execLanes_lt {t : Team} {c : Ctl} {p : Nat} (h : p ∈ t.execLanes c) : p < 1024 := by
  simp only [Team.execLanes, Team.activeLanes, List.mem_filter] at h
  obtain ⟨⟨-, bit⟩, -⟩ := h
  exact BitVec.lt_of_getLsbD bit

theorem bandOf_eq_mates (t : Team) (c : Ctl) (p : Nat) : bandOf (t.execLanes c) (p / 32) = mates t c p :=
  List.filter_congr fun _ _ => Bool.beq_eq_decide_eq ..

/-- Band by band, the executing lanes come in their order. -/
theorem bands_flatten (t : Team) (c : Ctl) : (List.range 32).flatMap (bandOf (t.execLanes c)) = t.execLanes c := by
  have rising := execLanes_rising t c
  refine List.Pairwise.eq_of_mem_iff (r := (· < ·)) ?_ rising fun p => ?_
  · refine List.pairwise_flatMap.mpr ⟨fun k _ => rising.filter _, List.pairwise_lt_range.imp fun {k j} lt x hx y hy => ?_⟩
    simp only [bandOf, List.mem_filter, beq_iff_eq] at hx hy
    omega
  · simp only [bandOf, List.mem_flatMap, List.mem_range, List.mem_filter, beq_iff_eq]
    refine ⟨fun ⟨_, _, h, _⟩ => h, fun h => ⟨p / 32, ?_, h, rfl⟩⟩
    have := mem_execLanes_lt h
    omega

/-- A cross-lane instruction in which each executing lane `p`, of band `k` with the executing lanes `xs`, has the writes `h k xs p` (R327). -/
theorem bandFixed_gives {i : Instr} {c : Ctl} {s : State} {h : Team → Active → Nat → List Nat → Nat → List LaneWrite}
    {g : Team → Active → Nat → List LaneWrite} (exec_eq : exec i s = bandFixed i c (fun t a k xs => xs.flatMap (h t a k xs)) s)
    (same : ∀ t a p, h t a (p / 32) (mates t c p) p = g t a p) : LaneGives i c s 8 g := by
  intro a issuable
  rw [GivesLane, exec_eq]
  refine laneIssue_results issuable _ (congrArg (LaneRes.results 8) ?_)
  conv_rhs => rw [← bands_flatten, List.flatMap_assoc]
  refine List.flatMap_congr fun k _ => ?_
  dsimp only
  split
  next none => rw [List.isEmpty_iff.mp none]; rfl
  next =>
    refine List.flatMap_congr fun p hp => ?_
    have band : p / 32 = k := by simpa using (List.mem_filter.mp hp).2
    rw [← same, ← bandOf_eq_mates, band]

/-! ### The values of a band -/

theorem bandUnit_eq (op : BandOp) : bandUnit op = identity op := by
  rcases op with (_ | _ | _ | _ | _ | _ | _ | _) | _ | _ | _ <;> rfl

theorem ite_slt_eq (x y : Word32) : (if x.slt y = true then x else y) = BitVec.ofInt 32 (min x.toInt y.toInt) ∧
    (if x.slt y = true then y else x) = BitVec.ofInt 32 (max x.toInt y.toInt) := by
  simp only [BitVec.slt_iff_toInt_lt]
  rcases lt_or_ge x.toInt y.toInt with lt | ge
  · rw [if_pos lt, if_pos lt, min_eq_left lt.le, max_eq_right lt.le, BitVec.ofInt_toInt, BitVec.ofInt_toInt]
    exact ⟨rfl, rfl⟩
  · rw [if_neg ge.not_gt, if_neg ge.not_gt, min_eq_right ge, max_eq_left ge, BitVec.ofInt_toInt, BitVec.ofInt_toInt]
    exact ⟨rfl, rfl⟩

theorem ite_ult_eq (x y : Word32) : (if x.ult y = true then x else y) = BitVec.ofNat 32 (min x.toNat y.toNat) ∧
    (if x.ult y = true then y else x) = BitVec.ofNat 32 (max x.toNat y.toNat) := by
  simp only [BitVec.ult_iff_lt, BitVec.lt_def]
  rcases lt_or_ge x.toNat y.toNat with lt | ge
  · rw [if_pos lt, if_pos lt, min_eq_left lt.le, max_eq_right lt.le, BitVec.ofNat_toNat, BitVec.ofNat_toNat]
    simp
  · rw [if_neg ge.not_gt, if_neg ge.not_gt, min_eq_right ge, max_eq_left ge, BitVec.ofNat_toNat, BitVec.ofNat_toNat]
    simp

/-- The combinations of the model are those of R330. -/
theorem bandStep_eq (op : BandOp) : bandStep op = combine op := by
  funext x y
  cases op with
  | int o =>
    cases o with
    | min => exact (ite_slt_eq x y).1
    | max => exact (ite_slt_eq x y).2
    | minu => exact (ite_ult_eq x y).1
    | maxu => exact (ite_ult_eq x y).2
    | add | and | or | xor => rfl
  | fadd | fmin | fmax => rfl

theorem bandValues_eq (op : BandOp) (t : Team) (a : Active) (c : Ctl) (p : Nat) (x : Src) :
    bandValues (bandUnit op) (p / 32) (mates t c p) (fun q => bandSrc op t a q x) = (List.range 32).map (contributed op t a c p x) := by
  refine List.map_congr_left fun i _ => ?_
  simp only [List.contains_iff_mem, contributed, bandUnit_eq, bandSrc]

/-- Lane `i` of the 32 values of a band. -/
theorem getD_band (v : Nat → Word32) {i : Nat} (hi : i < 32) : ((List.range 32).map v).getD i 0 = v i := by
  simp [List.getD, hi]

/-! ### The butterfly (R127) -/

/-- Step `k` pairs the two blocks of 2^k lanes that make the block of 2^(k + 1) lanes of a lane, the lower block first. -/
theorem butterfly_pair : ∀ k < 5, ∀ i < 32,
    min i (i ^^^ 2 ^ k) < 32 ∧ max i (i ^^^ 2 ^ k) < 32 ∧ min i (i ^^^ 2 ^ k) / 2 ^ k * 2 ^ k = i / 2 ^ (k + 1) * 2 ^ (k + 1) ∧
      max i (i ^^^ 2 ^ k) / 2 ^ k * 2 ^ k = i / 2 ^ (k + 1) * 2 ^ (k + 1) + 2 ^ k := by decide

/-- After `k` steps a lane holds the butterfly of its block; the remaining `n` steps lead to that of the larger blocks. -/
theorem butterfly_eq (f : Word32 → Word32 → Word32) (v : Nat → Word32) (n k : Nat) (h : k + n ≤ 5) :
    butterfly f n k ((List.range 32).map (fun i => butterflyOf f v k (i / 2 ^ k * 2 ^ k))) =
      (List.range 32).map (fun i => butterflyOf f v (k + n) (i / 2 ^ (k + n) * 2 ^ (k + n))) := by
  induction n generalizing k with
  | zero => rfl
  | succ n ih =>
    rw [butterfly, show k + (n + 1) = k + 1 + n by omega, ← ih (k + 1) (by omega)]
    congr 1
    refine List.map_congr_left fun i hi => ?_
    obtain ⟨ltMin, ltMax, lower, upper⟩ := butterfly_pair k (by omega) i (List.mem_range.mp hi)
    simp only [getD_band _ ltMin, getD_band _ ltMax, lower, upper, butterflyOf]

theorem butterfly_band (f : Word32 → Word32 → Word32) (v : Nat → Word32) {i : Nat} (hi : i < 32) :
    (butterfly f 5 0 ((List.range 32).map v)).getD i 0 = butterflyOf f v 5 0 := by
  have steps := butterfly_eq f v 5 0 le_rfl
  simp only [pow_zero, Nat.div_one, Nat.mul_one, Nat.zero_add, butterflyOf.eq_1] at steps
  rw [steps, getD_band _ hi, Nat.div_eq_of_lt (show i < 2 ^ 5 from hi), Nat.zero_mul]

/-! ### The prefixes (R128) -/

theorem prefixes_eq (f : Word32 → Word32 → Word32) (v : Nat → Word32) (n k : Nat) :
    prefixes f n k ((List.range 32).map (scanOf f v k)) = (List.range 32).map (scanOf f v (k + n)) := by
  induction n generalizing k with
  | zero => rfl
  | succ n ih =>
    rw [prefixes, show k + (n + 1) = k + 1 + n by omega, ← ih (k + 1)]
    congr 1
    refine List.map_congr_left fun i hi => ?_
    have lt := List.mem_range.mp hi
    rw [getD_band _ lt, getD_band _ ((Nat.sub_le _ _).trans_lt lt), scanOf]

theorem prefixes_band (f : Word32 → Word32 → Word32) (v : Nat → Word32) {i : Nat} (hi : i < 32) :
    (prefixes f 5 0 ((List.range 32).map v)).getD i 0 = scanOf f v 5 i := by
  rw [show (List.range 32).map v = (List.range 32).map (scanOf f v 0) from rfl, prefixes_eq, getD_band _ hi]

theorem bandAllNan_iff (op : BandOp) (v : Nat → Word32) :
    bandAllNan op ((List.range 32).map v) = true ↔ (op = .fmin ∨ op = .fmax) ∧ ∀ i < 32, IsNan fmtF32 (v i) := by
  simp only [bandAllNan, valF32, Bool.and_eq_true, Bool.or_eq_true, beq_iff_eq, List.all_map, List.all_eq_true, List.mem_range,
    Function.comp_apply, fmtF32_ieee.value_eq_nan]

theorem bandPrefixes_missing {op : BandOp} {v : Nat → Word32} (h : (op = .fmin ∨ op = .fmax) ∧ ∀ i < 32, IsNan fmtF32 (v i)) {i : Nat}
    (hi : i < 32) : (bandPrefixes op ((List.range 32).map v)).getD i 0 = 0x7FC00000 := by
  rw [bandPrefixes, if_pos ((bandAllNan_iff op v).mpr h), List.getD_eq_getElem _ _ (by rwa [List.length_replicate]), List.getElem_replicate]

theorem bandPrefixes_scan {op : BandOp} {v : Nat → Word32} (h : ¬((op = .fmin ∨ op = .fmax) ∧ ∀ i < 32, IsNan fmtF32 (v i))) {i : Nat}
    (hi : i < 32) : (bandPrefixes op ((List.range 32).map v)).getD i 0 = scanOf (combine op) v 5 i := by
  rw [bandPrefixes, if_neg (mt (bandAllNan_iff op v).mp h), bandStep_eq, prefixes_band _ _ hi]

theorem lane_in_band (p : Nat) : p - 32 * (p / 32) = p % 32 ∧ p % 32 < 32 := by omega

/-- `REDUCE` in every executing lane. -/
theorem reduce_gives (c : Ctl) (op : BandOp) (d : Dst) (x : Src) (s : State) :
    LaneGives (.reduce c op d x) c s 8
      (fun t a l => writeReg l d (butterflyOf (combine op) (contributed op t a c l x) 5 0)) := by
  refine bandFixed_gives (i := .reduce c op d x) (s := s)
    (h := fun t r k xs p => writeReg p d
      ((butterfly (bandStep op) 5 0 (bandValues (bandUnit op) k xs (fun q => bandSrc op t r q x))).getD (p - 32 * k) 0))
    rfl fun t a p => ?_
  obtain ⟨lane, lt⟩ := lane_in_band p
  simp only [lane, bandValues_eq, bandStep_eq, butterfly_band _ _ lt]

/-- `SCAN` in every executing lane. -/
theorem scan_gives (c : Ctl) (op : BandOp) (d : Dst) (x : Src) (s : State) :
    LaneGives (.scan c op d x) c s 8
      (fun t a l => writeReg l d ((bandPrefixes op ((List.range 32).map (contributed op t a c l x))).getD (l % 32) 0)) := by
  refine bandFixed_gives (i := .scan c op d x) (s := s)
    (h := fun t r k xs p => writeReg p d
      ((bandPrefixes op (bandValues (bandUnit op) k xs (fun q => bandSrc op t r q x))).getD (p - 32 * k) 0))
    rfl fun t a p => ?_
  simp only [(lane_in_band p).1, bandValues_eq]

/-! ### Combinations of integers over a range of lanes -/

/-- The combination of the values of `n` lanes from `i` up. -/
def foldLanes (g : Word32 → Word32 → Word32) (e : Word32) (v : Nat → Word32) (i n : Nat) : Word32 :=
  ((List.range' i n).map v).foldl g e

/-- What a combination needs for its order of steps not to matter. -/
structure Combines (g : Word32 → Word32 → Word32) (e : Word32) : Prop where
  assoc : ∀ x y z, g (g x y) z = g x (g y z)
  left : ∀ x, g e x = x
  right : ∀ x, g x e = x

theorem word_min_eq (x y : Word32) : combine (.int .min) x y = if x.toInt ≤ y.toInt then x else y := by
  show BitVec.ofInt 32 (min x.toInt y.toInt) = _
  rw [min_def]; split <;> exact BitVec.ofInt_toInt

theorem word_max_eq (x y : Word32) : combine (.int .max) x y = if x.toInt ≤ y.toInt then y else x := by
  show BitVec.ofInt 32 (max x.toInt y.toInt) = _
  rw [max_def]; split <;> exact BitVec.ofInt_toInt

theorem word_minu_eq (x y : Word32) : combine (.int .minu) x y = if x.toNat ≤ y.toNat then x else y := by
  show BitVec.ofNat 32 (min x.toNat y.toNat) = _
  rw [min_def]; split <;> exact BitVec.eq_of_toNat_eq (Nat.mod_eq_of_lt (BitVec.isLt _))

theorem word_maxu_eq (x y : Word32) : combine (.int .maxu) x y = if x.toNat ≤ y.toNat then y else x := by
  show BitVec.ofNat 32 (max x.toNat y.toNat) = _
  rw [max_def]; split <;> exact BitVec.eq_of_toNat_eq (Nat.mod_eq_of_lt (BitVec.isLt _))

/-- A choice by rank among words of which `e` has the last rank. -/
theorem combines_first {α : Type} [LinearOrder α] (rank : Word32 → α) (inj : Function.Injective rank) {g : Word32 → Word32 → Word32} {e : Word32}
    (eq : ∀ x y, g x y = if rank x ≤ rank y then x else y) (last : ∀ x, rank x ≤ rank e) : Combines g e where
  assoc x y z := by
    simp only [eq]
    by_cases xy : rank x ≤ rank y <;> by_cases yz : rank y ≤ rank z
    · simp [xy, yz, xy.trans yz]
    · simp [xy, yz]
    · simp [xy, yz]
    · simp [xy, yz, not_le.mpr ((not_le.mp yz).trans (not_le.mp xy))]
  left x := by
    rw [eq]; split
    next le => exact inj (le_antisymm le (last x))
    next => rfl
  right x := by rw [eq, if_pos (last x)]

/-- The same where the greater of two is chosen and `e` has the first rank. -/
theorem combines_last {α : Type} [LinearOrder α] (rank : Word32 → α) (inj : Function.Injective rank) {g : Word32 → Word32 → Word32} {e : Word32}
    (eq : ∀ x y, g x y = if rank x ≤ rank y then y else x) (first : ∀ x, rank e ≤ rank x) : Combines g e where
  assoc x y z := by
    simp only [eq]
    by_cases xy : rank x ≤ rank y <;> by_cases yz : rank y ≤ rank z
    · simp [xy, yz, xy.trans yz]
    · simp [xy, yz]
    · simp [xy, yz]
    · simp [xy, yz, not_le.mpr ((not_le.mp yz).trans (not_le.mp xy))]
  left x := by rw [eq, if_pos (first x)]
  right x := by
    rw [eq]; split
    next le => exact inj (le_antisymm (first x) le)
    next => rfl

theorem combines_int (op : RedOp) : Combines (combine (.int op)) (identity (.int op)) := by
  have signed (x : Word32) := And.intro (BitVec.le_toInt x) (BitVec.toInt_lt (x := x))
  cases op with
  | add => exact ⟨BitVec.add_assoc, BitVec.zero_add, BitVec.add_zero⟩
  | min => exact combines_first BitVec.toInt (fun _ _ => BitVec.eq_of_toInt_eq) word_min_eq fun x => Int.le_of_lt_add_one (signed x).2
  | max => exact combines_last BitVec.toInt (fun _ _ => BitVec.eq_of_toInt_eq) word_max_eq fun x => (signed x).1
  | minu => exact combines_first BitVec.toNat (fun _ _ => BitVec.eq_of_toNat_eq) word_minu_eq fun x => Nat.le_of_lt_succ x.isLt
  | maxu => exact combines_last BitVec.toNat (fun _ _ => BitVec.eq_of_toNat_eq) word_maxu_eq fun x => Nat.zero_le _
  | and => exact ⟨BitVec.and_assoc, fun _ => BitVec.allOnes_and, fun _ => BitVec.and_allOnes⟩
  | or => exact ⟨BitVec.or_assoc, fun _ => BitVec.zero_or, fun _ => BitVec.or_zero⟩
  | xor => exact ⟨BitVec.xor_assoc, fun _ => BitVec.zero_xor, fun _ => BitVec.xor_zero⟩

section
variable {g : Word32 → Word32 → Word32} {e : Word32} (h : Combines g e)
include h

theorem Combines.foldl_eq (x : Word32) (ys : List Word32) : ys.foldl g x = g x (ys.foldl g e) := by
  induction ys generalizing x with
  | nil => rw [List.foldl_nil, List.foldl_nil, h.right]
  | cons y ys ih => rw [List.foldl_cons, List.foldl_cons, ih, ih (g e y), h.left, h.assoc]

/-- Neighbouring ranges of lanes combine to the range that they make. -/
theorem Combines.foldLanes_append (v : Nat → Word32) (i m n : Nat) :
    g (foldLanes g e v i m) (foldLanes g e v (i + m) n) = foldLanes g e v i (m + n) := by
  rw [foldLanes, foldLanes, foldLanes, ← List.range'_append_1, List.map_append, List.foldl_append, ← h.foldl_eq]

theorem Combines.butterflyOf_eq (v : Nat → Word32) (k i : Nat) : butterflyOf g v k i = foldLanes g e v i (2 ^ k) := by
  induction k generalizing i with
  | zero => simp [butterflyOf, foldLanes, h.left]
  | succ k ih => rw [butterflyOf, ih, ih, h.foldLanes_append, pow_succ, Nat.mul_two]

theorem Combines.scanOf_eq (v : Nat → Word32) (k i : Nat) : scanOf g v k i = foldLanes g e v (i + 1 - 2 ^ k) (min (2 ^ k) (i + 1)) := by
  induction k generalizing i with
  | zero => simp [scanOf, foldLanes, h.left]
  | succ k ih =>
    rw [scanOf, pow_succ]
    split
    next le =>
      rw [ih, ih, show min (2 ^ k) (i + 1) = 2 ^ k by omega,
        show i + 1 - 2 ^ k = i - 2 ^ k + 1 - 2 ^ k + min (2 ^ k) (i - 2 ^ k + 1) by omega, h.foldLanes_append]
      congr 1 <;> omega
    next lt =>
      rw [ih]
      have := Nat.two_pow_pos k
      congr 1 <;> omega

/-- Lanes that contribute the identity leave the combination of the others. -/
theorem Combines.foldl_contributing (p : Nat → Bool) (v : Nat → Word32) (xs : List Nat) :
    (xs.map (fun j => if p j = true then v j else e)).foldl g e = ((xs.filter p).map v).foldl g e := by
  suffices same : ∀ x, (xs.map (fun j => if p j = true then v j else e)).foldl g x = ((xs.filter p).map v).foldl g x from same e
  induction xs with
  | nil => exact fun _ => rfl
  | cons j xs ih =>
    intro x
    cases hp : p j
    · simp [hp, h.right, ih]
    · simp [hp, ih]

end

/-! ### The executing lanes of a band as a range -/

theorem mem_mates {t : Team} {c : Ctl} {l j : Nat} : j ∈ mates t c l ↔ j ∈ t.execLanes c ∧ j / 32 = l / 32 := by
  simp [mates]

/-- The executing lanes of a band below `n`, in their order. -/
theorem mates_range (t : Team) (c : Ctl) (l n : Nat) :
    (List.range' (32 * (l / 32)) n).filter (fun j => decide (j ∈ mates t c l)) =
      (mates t c l).filter (fun j => decide (j < 32 * (l / 32) + n)) := by
  have rising : (mates t c l).Pairwise (· < ·) := (execLanes_rising t c).filter _
  refine List.Pairwise.eq_of_mem_iff (r := (· < ·)) ((List.pairwise_lt_range' ..).filter _) (rising.filter _) fun j => ?_
  simp only [List.mem_filter, List.mem_range'_1, decide_eq_true_eq, mem_mates]
  constructor
  · rintro ⟨⟨-, lt⟩, mate⟩
    exact ⟨mate, lt⟩
  · rintro ⟨⟨ex, band⟩, lt⟩
    exact ⟨⟨by omega, lt⟩, ex, band⟩

/-- What the lanes of a band below `n` contribute combines to what the executing ones hold. -/
theorem foldLanes_contributed (op : RedOp) (t : Team) (a : Active) (c : Ctl) (l : Nat) (x : Src) (n : Nat) :
    foldLanes (combine (.int op)) (identity (.int op)) (contributed (.int op) t a c l x) 0 n =
      (((mates t c l).filter (fun j => decide (j < 32 * (l / 32) + n))).map (fun j => src32 t a j x)).foldl (combine (.int op))
        (identity (.int op)) := by
  rw [← mates_range t c l n, ← (combines_int op).foldl_contributing]
  have shift : List.range' (32 * (l / 32)) n = (List.range' 0 n).map (32 * (l / 32) + ·) := by rw [List.map_add_range', Nat.add_zero]
  rw [foldLanes, shift, List.map_map]
  refine congrArg _ (List.map_congr_left fun i _ => ?_)
  simp only [Function.comp_apply, contributed, decide_eq_true_eq]

/-- Settles O27: every lane holds the butterfly of its block and its prefix after each step, and integer combinations are associative. -/
theorem reductionsAndPrefixes : Obligations.ReductionsAndPrefixes := by
  refine ⟨fun c op d x s => ⟨reduce_gives c op d x s, _, fun t a l => ?_, scan_gives c op d x s⟩, fun c op x t a l => ?_⟩
  · have lt := (lane_in_band l).2
    exact ⟨fun missing => bandPrefixes_missing missing lt, fun some => bandPrefixes_scan some lt⟩
  · have all : (mates t c l).filter (fun j => decide (j < 32 * (l / 32) + 32)) = mates t c l :=
      List.filter_eq_self.mpr fun j hj => by have := (mem_mates.mp hj).2; simp; omega
    have upTo : (mates t c l).filter (fun j => decide (j < 32 * (l / 32) + (l % 32 + 1))) = (mates t c l).filter (fun j => decide (j ≤ l)) :=
      List.filter_congr fun j _ => by congr 1; rw [eq_iff_iff]; omega
    rw [(combines_int op).butterflyOf_eq, (combines_int op).scanOf_eq, show l % 32 + 1 - 2 ^ 5 = 0 by omega,
      show min (2 ^ 5) (l % 32 + 1) = l % 32 + 1 by omega, show 2 ^ 5 = 32 from rfl, foldLanes_contributed op t a c l x 32,
      foldLanes_contributed op t a c l x (l % 32 + 1), all, upTo]
    exact ⟨rfl, rfl⟩

end Sys2Proof.Machine
end

section
/-! SUPPORT. The values of matrix elements: codes of the element formats, and the codebooks of VQ2 (R112, R113, R115, R118 to R120, R366). -/

namespace Sys2Proof.Machine

/-! ### Values (R113) -/

theorem hasValue_fin (neg : Bool) (m : Nat) (e : Int) : HasValue (.fin neg m e) (Num.toRat (.fin neg m e)) :=
  ⟨fun h => (nomatch h), fun _ h => (nomatch h), rfl⟩

theorem hasValue_numOf (z : Int) : HasValue (numOf z 0 false) z := by
  have value := numOf_toRat z 0 false
  rw [zpow_zero, mul_one, numOf_eq] at value
  rw [numOf_eq, ← value]
  exact hasValue_fin ..

theorem HasValue.neg {v : Num} {q : ℚ} (h : HasValue v q) : HasValue v.neg (-q) := by
  obtain ⟨number, finite, rfl⟩ := h
  rw [← Num.toRat_neg]
  cases v with
  | nan => exact absurd rfl number
  | inf neg => exact absurd rfl (finite neg)
  | fin neg m e => exact hasValue_fin ..

theorem fieldsValue_eq (f : Fmt) (x : Nat) : fieldsValue f.eb f.fb f.bias x =
    (if (bitsOf x (f.eb + f.fb) 1 == 1) = true then -1 else 1) * f.magnitude (x % 2 ^ (f.eb + f.fb)) := by
  have exponent : x % 2 ^ (f.eb + f.fb) / 2 ^ f.fb = x / 2 ^ f.fb % 2 ^ f.eb := by
    rw [Nat.add_comm, pow_add, Nat.mod_mul_right_div_self]
  have fraction : x % 2 ^ (f.eb + f.fb) % 2 ^ f.fb = x % 2 ^ f.fb := Nat.mod_mod_of_dvd _ (pow_dvd_pow 2 (Nat.le_add_left ..))
  have binade := Nat.div_eq_zero_iff_lt (Nat.two_pow_pos f.fb) (x := x % 2 ^ (f.eb + f.fb))
  rw [exponent] at binade
  simp only [fieldsValue, Fmt.magnitude, ← binade, exponent, fraction, bitsOf, pow_one, beq_iff_eq, Nat.testBit_eq_decide_div_mod_eq,
    decide_eq_true_eq]
  split
  next zero =>
    rw [← fraction, Nat.mod_eq_of_lt (binade.mp zero)]
    ring
  next => ring

/-- A code up to the greatest finite one has the value of its fields. -/
theorem Fmt.Proper.hasValue {f : Fmt} (hf : f.Proper) {x : Nat} (h : x % 2 ^ (f.eb + f.fb) ≤ f.top) :
    HasValue (f.value x) (fieldsValue f.eb f.fb f.bias x) := by
  rw [hf.value_fin h, fieldsValue_eq, ← f.mantOf_expOf, ← Num.toRat_fin]
  exact hasValue_fin ..

theorem bit_eq_testBit (x i : Nat) : (bitsOf x i 1 == 1) = x.testBit i := by
  rw [Nat.testBit_eq_decide_div_mod_eq, bitsOf, pow_one, Bool.beq_eq_decide_eq]

/-- The codes of a format with infinities, by its magnitude bits. -/
theorem Fmt.Proper.ieee_codes {f : Fmt} (hf : f.Proper) (ieee : f.family = .ieee) (x : Nat) :
    if f.infEnc < x % 2 ^ (f.eb + f.fb) then f.value x = .nan
    else if x % 2 ^ (f.eb + f.fb) = f.infEnc then f.value x = .inf (x.testBit (f.eb + f.fb))
    else HasValue (f.value x) (fieldsValue f.eb f.fb f.bias x) := by
  have top := hf.top_succ ieee
  split
  next nan => exact hf.value_nan (by omega) fun ⟨_, e⟩ => by omega
  next =>
    split
    next inf => rw [Fmt.value_inf ieee inf, bit_eq_testBit]
    next => exact hf.hasValue (by omega)

/-- The codes of E4M3: the one with all magnitude bits set is its NaN. -/
theorem e4m3_codes (x : Nat) :
    if x % 2 ^ 7 = 127 then fmtE4M3.value x = .nan else HasValue (fmtE4M3.value x) (fieldsValue 4 3 7 x) := by
  have proper : fmtE4M3.Proper := ⟨by decide, by decide⟩
  have bound := Nat.mod_lt x (Nat.two_pow_pos 7)
  split
  next nan => exact proper.value_nan (nan.symm ▸ by decide) fun ⟨ieee, _⟩ => (nomatch ieee)
  next => exact proper.hasValue (show x % 2 ^ 7 ≤ 126 by omega)

/-! ### The order of the lattice table (R119) -/

/-- The squared norm of a vector of magnitudes, but for its least value and a factor of 2. -/
def weight (v : List Nat) : Nat := (v.map (fun c => c * (c + 1) / 2)).sum

theorem mem_shell {n w : Nat} {v : List Nat} : v ∈ shell n w ↔ v.length = n ∧ (∀ c ∈ v, c < 4) ∧ weight v = w := by
  induction n generalizing w v with
  | zero => cases w <;> cases v <;> simp [shell, weight]
  | succ n ih =>
    cases v with
    | nil => simp [shell]
    | cons c u =>
      have total : weight (c :: u) = c * (c + 1) / 2 + weight u := by simp [weight]
      rw [shell, List.mem_flatMap, List.length_cons, List.forall_mem_cons, total]
      constructor
      · rintro ⟨d, hd, mem⟩
        split at mem
        next le =>
          obtain ⟨u', hu, eq⟩ := List.mem_map.mp mem
          obtain ⟨rfl, rfl⟩ := List.cons.inj eq
          obtain ⟨len, codes, sum⟩ := ih.mp hu
          exact ⟨by rw [len], ⟨List.mem_range.mp hd, codes⟩, by omega⟩
        next => simp at mem
      · rintro ⟨len, ⟨hc, codes⟩, sum⟩
        refine ⟨c, List.mem_range.mpr hc, ?_⟩
        rw [if_pos (by omega)]
        exact List.mem_map_of_mem (ih.mpr ⟨by omega, codes, by omega⟩)

theorem weight_shell {n w : Nat} {v : List Nat} (h : v ∈ shell n w) : weight v = w := by
  obtain ⟨-, -, eq⟩ := mem_shell.mp h
  exact eq

/-- A shell is in lexicographic order. -/
theorem shell_rising (n w : Nat) : (shell n w).Pairwise (· < ·) := by
  induction n generalizing w with
  | zero => cases w <;> simp [shell]
  | succ n ih =>
    rw [shell]
    refine List.pairwise_flatMap.mpr ⟨fun c _ => ?_, List.pairwise_lt_range.imp fun {c d} lt x hx y hy => ?_⟩
    · split
      · exact List.pairwise_map.mpr ((ih _).imp fun h => List.cons_lt_cons_iff.mpr (Or.inr ⟨rfl, h⟩))
      · exact List.Pairwise.nil
    · split at hx <;> split at hy
      · obtain ⟨u, -, rfl⟩ := List.mem_map.mp hx
        obtain ⟨v, -, rfl⟩ := List.mem_map.mp hy
        exact List.cons_lt_cons_iff.mpr (Or.inl lt)
      all_goals simp at hx hy

/-- The order of the table: by norm, then lexicographically. -/
def codeBefore (u v : List Nat) : Prop := weight u < weight v ∨ (weight u = weight v ∧ u < v)

/-- The shells of the six least norms, which the table is cut from. -/
def sixShells : List (List Nat) := (List.range 6).flatMap (shell 8)

theorem latticeTable_eq : latticeTable = sixShells.take 256 := rfl

theorem sixShells_rising : sixShells.Pairwise codeBefore := by
  refine List.pairwise_flatMap.mpr ⟨fun w _ => ?_, List.pairwise_lt_range.imp fun {w x} lt u hu v hv => Or.inl ?_⟩
  · refine (shell_rising 8 w).imp_of_mem fun {u v} hu hv lt => Or.inr ⟨?_, lt⟩
    rw [weight_shell hu, weight_shell hv]
  · rw [weight_shell hu, weight_shell hv]
    exact lt

theorem mem_sixShells {v : List Nat} : v ∈ sixShells ↔ v.length = 8 ∧ (∀ c ∈ v, c < 4) ∧ weight v < 6 := by
  simp only [sixShells, List.mem_flatMap, List.mem_range, mem_shell]
  constructor
  · rintro ⟨w, lt, len, codes, rfl⟩; exact ⟨len, codes, lt⟩
  · rintro ⟨len, codes, lt⟩; exact ⟨_, lt, len, codes, rfl⟩

theorem latticeTable_length : latticeTable.length = 256 := by decide +kernel

theorem mem_latticeTable {v : List Nat} (h : v ∈ latticeTable) : v.length = 8 ∧ (∀ c ∈ v, c < 4) ∧ weight v < 6 :=
  mem_sixShells.mp (List.mem_of_mem_take h)

/-- A vector of codes that is no row of the table comes after every row. -/
theorem latticeTable_first {u v : List Nat} (row : u ∈ latticeTable) (len : v.length = 8) (codes : ∀ c ∈ v, c < 4) (other : v ∉ latticeTable) :
    codeBefore u v := by
  by_cases light : weight v < 6
  · have mem : v ∈ sixShells.take 256 ++ sixShells.drop 256 := by
      rw [List.take_append_drop]; exact mem_sixShells.mpr ⟨len, codes, light⟩
    have rest := (List.mem_append.mp mem).resolve_left other
    have rising := sixShells_rising
    rw [← List.take_append_drop 256 sixShells] at rising
    obtain ⟨-, -, before⟩ := List.pairwise_append.mp rising
    exact before u row v rest
  · obtain ⟨-, -, low⟩ := mem_latticeTable row
    exact Or.inl (by omega)

/-! ### The statement's order -/

/-- The codes of a vector by position. -/
def codeAt (v : List Nat) (j : Nat) : Nat := v.getD j 0

theorem norm_eq (w : Nat → Nat) (n : Nat) : ((List.range n).map (fun j => ((w j : ℚ) + 1 / 2) ^ 2)).sum =
    2 * (weight ((List.range n).map w) : ℚ) + n / 4 := by
  induction n with
  | zero => simp [weight]
  | succ n ih =>
    have even : 2 * (w n * (w n + 1) / 2) = w n * (w n + 1) := Nat.mul_div_cancel' (Nat.even_mul_succ_self (w n)).two_dvd
    have evenQ : 2 * ((w n * (w n + 1) / 2 : Nat) : ℚ) = w n * (w n + 1) := by exact_mod_cast even
    have total : weight ((List.range (n + 1)).map w) = weight ((List.range n).map w) + w n * (w n + 1) / 2 := by
      simp [weight, List.range_succ]
    rw [total, List.range_succ, List.map_append, List.sum_append, ih]
    push_cast [-Nat.cast_div_charZero]
    simp only [List.map_cons, List.map_nil, List.sum_cons, List.sum_nil]
    linarith [evenQ]

theorem range_map_codeAt {v : List Nat} {n : Nat} (len : v.length = n) : (List.range n).map (codeAt v) = v := by
  subst len
  refine List.ext_getElem (by simp) fun i h _ => ?_
  have lt : i < v.length := by simpa using h
  simp [codeAt, lt]

theorem latticeBefore_of {u v : List Nat} (lenU : u.length = 8) (lenV : v.length = 8) (h : codeBefore u v) :
    LatticeBefore (codeAt u) (codeAt v) := by
  simp only [LatticeBefore, norm_eq, range_map_codeAt lenU, range_map_codeAt lenV]
  rcases h with lt | ⟨eq, lt⟩
  · left
    have : (weight u : ℚ) < weight v := by exact_mod_cast lt
    linarith
  · right
    refine ⟨by rw [eq], ?_⟩
    rcases List.lt_iff_exists.mp lt with ⟨-, short⟩ | ⟨j, hu, hv, same, less⟩
    · omega
    · refine ⟨j, by omega, fun i hi => ?_, ?_⟩
      · rw [codeAt, codeAt, List.getD_eq_getElem _ _ (by omega), List.getD_eq_getElem _ _ (by omega)]
        exact same i hi
      · rw [codeAt, codeAt, List.getD_eq_getElem _ _ hu, List.getD_eq_getElem _ _ hv]
        exact less

/-- The code of element `j` of row `k` of the lattice table. -/
def latticeCode (k j : Nat) : Nat := codeAt (latticeTable.getD k []) j

theorem latticeRow_mem {k : Nat} (h : k < 256) : latticeTable.getD k [] ∈ latticeTable := by
  have lt : k < latticeTable.length := by rwa [latticeTable_length]
  rw [List.getD_eq_getElem _ _ lt]
  exact List.getElem_mem lt

theorem latticeCode_lt {k j : Nat} (hk : k < 256) (hj : j < 8) : latticeCode k j < 4 := by
  obtain ⟨len, codes, -⟩ := mem_latticeTable (latticeRow_mem hk)
  rw [latticeCode, codeAt, List.getD_eq_getElem _ _ (by omega)]
  exact codes _ (List.getElem_mem _)

theorem latticeCode_rising {k : Nat} (h : k < 255) : LatticeBefore (latticeCode k) (latticeCode (k + 1)) := by
  have row {i : Nat} (hi : i < 256) := (mem_latticeTable (latticeRow_mem hi)).1
  refine latticeBefore_of (row (by omega)) (row (by omega)) ?_
  have rising : latticeTable.Pairwise codeBefore := latticeTable_eq ▸ sixShells_rising.sublist (List.take_sublist ..)
  have len := latticeTable_length
  rw [List.getD_eq_getElem _ _ (by omega), List.getD_eq_getElem _ _ (by omega)]
  exact List.pairwise_iff_getElem.mp rising k (k + 1) (by omega) (by omega) (by omega)

theorem latticeCode_first {v : Nat → Nat} (codes : ∀ j < 8, v j < 4) :
    (∃ k < 256, ∀ j < 8, v j = latticeCode k j) ∨ LatticeBefore (latticeCode 255) v := by
  have entry {j : Nat} (hj : j < 8) : codeAt ((List.range 8).map v) j = v j := by simp [codeAt, hj]
  by_cases row : (List.range 8).map v ∈ latticeTable
  · left
    obtain ⟨k, hk, eq⟩ := List.getElem_of_mem row
    refine ⟨k, latticeTable_length ▸ hk, fun j hj => ?_⟩
    rw [latticeCode, List.getD_eq_getElem _ _ hk, eq, entry hj]
  · right
    have last := latticeRow_mem (k := 255) (by decide)
    have len : ((List.range 8).map v).length = 8 := by simp
    have before := latticeBefore_of (mem_latticeTable last).1 len (latticeTable_first last len
      (by simpa using codes) row)
    have same : (List.range 8).map v = (List.range 8).map (codeAt ((List.range 8).map v)) := (range_map_codeAt len).symm
    simp only [LatticeBefore, norm_eq] at before ⊢
    rw [← same] at before
    refine before.imp_right fun ⟨eq, j, hj, below, less⟩ => ⟨eq, j, hj, fun i hi => ?_, ?_⟩
    · rw [← entry (hi.trans hj)]; exact below i hi
    · rw [← entry hj]; exact less

/-! ### The weights of an index (R118, R120) -/

/-- Weight `j` of an index is that of its row, with the sign that bit `j` says. -/
theorem vq2Weights_getD {user : Option (List Byte)} {index j : Nat} (len : (codebookRow user (index / 256)).length = 8) (hj : j < 8) :
    (vq2Weights user index).getD j .nan =
      if index.testBit j = true then ((codebookRow user (index / 256)).getD j .nan).neg else (codebookRow user (index / 256)).getD j .nan := by
  have sign : (bitsOf index j 1 = 1) = (index.testBit j = true) := by rw [← bit_eq_testBit, beq_iff_eq]
  have bound : j < (vq2Weights user index).length := by simp [vq2Weights, len, hj]
  rw [List.getD_eq_getElem _ _ bound, List.getD_eq_getElem _ _ (by omega)]
  simp only [vq2Weights, List.getElem_zipWith, List.getElem_range, sign]

theorem vq2Weights_lattice {index j : Nat} (hi : index < 2 ^ 16) (hj : j < 8) :
    HasValue ((vq2Weights none index).getD j .nan) ((if index.testBit j = true then -1 else 1) * (latticeCode (index / 256) j + 1 / 2)) := by
  have row := (mem_latticeTable (latticeRow_mem (k := index / 256) (by omega))).1
  have len : (codebookRow none (index / 256)).length = 8 := by rw [codebookRow, List.length_map]; exact row
  have entry : (codebookRow none (index / 256)).getD j .nan = .fin false (2 * latticeCode (index / 256) j + 1) (-1) := by
    rw [List.getD_eq_getElem _ _ (by omega), latticeCode, codeAt, List.getD_eq_getElem _ _ (by omega)]
    exact List.getElem_map ..
  have value : HasValue (.fin false (2 * latticeCode (index / 256) j + 1) (-1)) (latticeCode (index / 256) j + 1 / 2) := by
    have := hasValue_fin false (2 * latticeCode (index / 256) j + 1) (-1)
    rwa [Num.toRat_fin, show (if false = true then -1 else 1 : ℚ) * ((2 * latticeCode (index / 256) j + 1 : Nat) * 2 ^ (-1 : Int)) =
      latticeCode (index / 256) j + 1 / 2 by push_cast; norm_num; ring] at this
  rw [vq2Weights_getD len hj, entry]
  split
  · rw [neg_one_mul]; exact value.neg
  · rw [one_mul]; exact value

theorem vq2Weights_user {bs : List Byte} (hb : bs.length = 2048) {index j : Nat} (hi : index < 2 ^ 16) (hj : j < 8) :
    let x := (bs.getD (8 * (index / 256) + j) 0).toNat
    let w := (vq2Weights (some bs) index).getD j .nan
    if x % 2 ^ 7 = 127 then w = .nan else HasValue w ((if index.testBit j = true then -1 else 1) * fieldsValue 4 3 7 x) := by
  have row : index / 256 < 256 := by omega
  have len : (codebookRow (some bs) (index / 256)).length = 8 := by simp [codebookRow, hb]; omega
  have entry : (codebookRow (some bs) (index / 256)).getD j .nan = fmtE4M3.value (bs.getD (8 * (index / 256) + j) 0).toNat := by
    rw [List.getD_eq_getElem _ _ (by omega), List.getD_eq_getElem _ _ (by omega)]
    simp only [codebookRow, List.getElem_map, List.getElem_take, List.getElem_drop]
  dsimp only
  rw [vq2Weights_getD len hj, entry]
  have code := e4m3_codes (bs.getD (8 * (index / 256) + j) 0).toNat
  split
  next nan =>
    rw [if_pos nan] at code
    rw [code, Num.neg_nan, ite_self]
  next finite =>
    rw [if_neg finite] at code
    split
    · rw [neg_one_mul]; exact code.neg
    · rw [one_mul]; exact code

end Sys2Proof.Machine
end

section
/-! SUPPORT. The sums of the matrix arrays: chunks, exact sums of products, and one rounding each (R114, R129). -/

namespace Sys2Proof.Machine

/-! ### Chunks -/

@[simp] theorem chunksOf_nil {α : Type} (n fuel : Nat) : chunksOf n fuel ([] : List α) = [] := by cases fuel <;> rfl

theorem chunksOf_cons {α : Type} {n fuel : Nat} {xs : List α} (h : xs ≠ []) :
    chunksOf n (fuel + 1) xs = xs.take n :: chunksOf n fuel (xs.drop n) := by
  cases xs with
  | nil => exact absurd rfl h
  | cons => rfl

/-- Fuel beyond the number of elements changes nothing. -/
theorem chunksOf_fuel {α : Type} {n : Nat} (hn : 0 < n) {fuel : Nat} {xs : List α} (h : xs.length ≤ fuel) :
    chunksOf n (fuel + 1) xs = chunksOf n fuel xs := by
  induction fuel generalizing xs with
  | zero => rw [List.length_eq_zero_iff.mp (Nat.le_zero.mp h), chunksOf_nil, chunksOf_nil]
  | succ fuel ih =>
    by_cases nil : xs = []
    · rw [nil, chunksOf_nil, chunksOf_nil]
    · rw [chunksOf_cons nil, chunksOf_cons nil, ih (by rw [List.length_drop]; omega)]

/-- A first piece of full length is the first chunk. -/
theorem chunksOf_append {α : Type} {n fuel : Nat} (hn : 0 < n) {xs ys : List α} (full : xs.length = n) (h : (xs ++ ys).length ≤ fuel) :
    chunksOf n fuel (xs ++ ys) = xs :: chunksOf n fuel ys := by
  rw [List.length_append] at h
  obtain ⟨k, rfl⟩ := Nat.exists_eq_succ_of_ne_zero (show fuel ≠ 0 by omega)
  have nonempty : xs ++ ys ≠ [] := List.append_ne_nil_of_left_ne_nil (List.ne_nil_of_length_pos (by omega)) _
  rw [chunksOf_cons nonempty, ← full, List.take_left, List.drop_left, chunksOf_fuel (by omega) (by omega)]

theorem FormatBlock.chunk_pos (x : FormatBlock) : 0 < x.chunk := by
  rw [FormatBlock.chunk]; split <;> decide

/-- What one chunk makes of the accumulator (R129). -/
def chunkStep (x : FormatBlock) (acc : Word32) (ps : List (Num × Num)) : Word32 :=
  if x.i32 = true then acc + BitVec.ofInt 32 (chunkSum ps).toInt else encF32 .rn ((valF32 acc).add .rn (chunkSum ps))

theorem dotProduct_eq (x : FormatBlock) (acc : Word32) (row col : List Num) :
    dotProduct x acc row col = (chunksOf x.chunk x.k (row.zip col)).foldl (chunkStep x) acc := rfl

/-- A row and a column of one chunk. -/
theorem dotProduct_chunk {x : FormatBlock} {row col : List Num} (hr : row.length = x.chunk) (hc : col.length = x.chunk) (hk : x.chunk ≤ x.k)
    (acc : Word32) : dotProduct x acc row col = chunkStep x acc (row.zip col) := by
  have full : (row.zip col).length = x.chunk := by rw [List.length_zip, hr, hc, min_self]
  have one := chunksOf_append (fuel := x.k) x.chunk_pos (ys := []) full (by rw [List.append_nil]; omega)
  rw [List.append_nil, chunksOf_nil] at one
  rw [dotProduct_eq, one, List.foldl_cons, List.foldl_nil]

/-- The first chunk comes first. -/
theorem dotProduct_append {x : FormatBlock} {ps qs row col : List Num} (hp : ps.length = x.chunk) (hq : qs.length = x.chunk)
    (same : row.length = col.length) (hk : (ps ++ row).length ≤ x.k) (acc : Word32) :
    dotProduct x acc (ps ++ row) (qs ++ col) = dotProduct x (dotProduct x acc ps qs) row col := by
  have total := List.length_append (as := ps) (bs := row)
  have full : (ps.zip qs).length = x.chunk := by rw [List.length_zip, hp, hq, min_self]
  rw [dotProduct_chunk hp hq (by omega), dotProduct_eq, List.zip_append (by rw [hp, hq]),
    chunksOf_append x.chunk_pos full (by rw [List.length_append, full, List.length_zip, same, min_self]; omega), List.foldl_cons, dotProduct_eq]

/-! ### Sums of values -/

/-- The sum of values in their order, from `x` on. -/
def sumFrom (x : Num) (ps : List Num) : Num := ps.foldl (Num.add .rn) x

theorem chunkSum_eq (row col : List Num) :
    chunkSum (row.zip col) = sumFrom (.fin false 0 0) ((row.zip col).map (fun p => p.1.mul p.2)) := by
  rw [chunkSum, sumFrom, List.foldl_map]

@[simp] theorem sumFrom_nil (x : Num) : sumFrom x [] = x := rfl
@[simp] theorem sumFrom_cons (x p : Num) (ps : List Num) : sumFrom x (p :: ps) = sumFrom (x.add .rn p) ps := rfl

/-- A finite value that is no negative zero. -/
structure ExactSum (x : Num) (q : ℚ) : Prop where
  finite : ∃ neg m e, x = .fin neg m e ∧ (m = 0 → neg = false)
  value : x.toRat = q

theorem Num.add_zero_sign {na nb : Bool} {ma mb : Nat} {ea eb : Int} (plus : ma = 0 → na = false)
    (zero : Num.toRat (.fin na ma ea) + Num.toRat (.fin nb mb eb) = 0) : (if na = nb then na else Rm.rn == Rm.rm) = false := by
  split
  next same =>
    subst same
    refine plus (Num.toRat_fin_eq_zero (neg := na) (e := ea).mp ?_)
    have nonneg (m : Nat) (e : Int) : (0 : ℚ) ≤ m * 2 ^ e := by positivity
    have := nonneg ma ea
    have := nonneg mb eb
    rw [Num.toRat_fin, Num.toRat_fin] at zero
    rw [Num.toRat_fin]
    cases na
    · simp only [Bool.false_eq_true, if_false] at *; linarith
    · simp only [if_true] at *; linarith
  next => rfl

theorem ExactSum.add {x : Num} {q : ℚ} (h : ExactSum x q) (neg : Bool) (m : Nat) (e : Int) :
    ExactSum (x.add .rn (.fin neg m e)) (q + Num.toRat (.fin neg m e)) := by
  obtain ⟨⟨na, ma, ea, rfl, plus⟩, rfl⟩ := h
  obtain ⟨z, e', sum, value⟩ := Num.add_fin .rn na neg ma m ea e
  refine ⟨⟨_, _, _, by rw [sum, numOf_eq], fun zero => ?_⟩, by rw [sum, numOf_toRat, value]⟩
  have hz := Int.natAbs_eq_zero.mp zero
  rw [if_pos hz]
  refine Num.add_zero_sign (ea := ea) (eb := e) plus (nb := neg) (mb := m) ?_
  rw [← value, hz]; simp

/-- Finite values sum exactly. -/
theorem ExactSum.sumFrom {x : Num} {q : ℚ} (h : ExactSum x q) {ps : List Num} (finite : ∀ p ∈ ps, p ≠ .nan ∧ ∀ neg, p ≠ .inf neg) :
    ExactSum (sumFrom x ps) (q + (ps.map Num.toRat).sum) := by
  induction ps generalizing x q with
  | nil => simpa using h
  | cons p ps ih =>
    obtain ⟨number, noInf⟩ := finite p List.mem_cons_self
    rw [sumFrom_cons, List.map_cons, List.sum_cons, ← add_assoc]
    cases p with
    | nan => exact absurd rfl number
    | inf neg => exact absurd rfl (noInf neg)
    | fin neg m e => exact ih (h.add neg m e) fun p hp => finite p (List.mem_cons_of_mem _ hp)

theorem sumFrom_nan (ps : List Num) : sumFrom .nan ps = .nan := by
  induction ps with
  | nil => rfl
  | cons p ps ih => rwa [sumFrom_cons, Num.nan_add]

theorem sumFrom_of_nan (x : Num) {ps : List Num} (h : Num.nan ∈ ps) : sumFrom x ps = .nan := by
  induction ps generalizing x with
  | nil => simp at h
  | cons p ps ih =>
    rcases List.mem_cons.mp h with rfl | rest
    · rw [sumFrom_cons, Num.add_nan, sumFrom_nan]
    · exact ih _ rest

/-- An infinity stays while no NaN and no infinity of the other sign is added. -/
theorem sumFrom_inf {neg : Bool} {ps : List Num} (h : ∀ p ∈ ps, p ≠ .nan ∧ p ≠ .inf (!neg)) : sumFrom (.inf neg) ps = .inf neg := by
  induction ps with
  | nil => rfl
  | cons p ps ih =>
    obtain ⟨number, same⟩ := h p List.mem_cons_self
    have rest := ih fun p hp => h p (List.mem_cons_of_mem _ hp)
    cases p with
    | nan => exact absurd rfl number
    | inf s =>
      obtain rfl : neg = s := by cases neg <;> cases s <;> simp at same ⊢
      rwa [sumFrom_cons, Num.inf_add_inf, if_pos rfl]
    | fin => rwa [sumFrom_cons, Num.inf_add_fin]

theorem sumFrom_inf_opposite {neg : Bool} {ps : List Num} (h : Num.inf (!neg) ∈ ps) : sumFrom (.inf neg) ps = .nan := by
  induction ps with
  | nil => simp at h
  | cons p ps ih =>
    rw [sumFrom_cons]
    cases p with
    | nan => rw [Num.add_nan, sumFrom_nan]
    | inf s =>
      rw [Num.inf_add_inf]
      split
      next same =>
        refine ih ((List.mem_cons.mp h).resolve_left ?_)
        rw [same]; simp
      next => exact sumFrom_nan ps
    | fin => exact ih ((List.mem_cons.mp h).resolve_left (by simp))

theorem sumFrom_of_inf {na neg : Bool} {ma : Nat} {ea : Int} {ps : List Num} (inf : Num.inf neg ∈ ps)
    (h : ∀ p ∈ ps, p ≠ .nan ∧ p ≠ .inf (!neg)) : sumFrom (.fin na ma ea) ps = .inf neg := by
  induction ps generalizing na ma ea with
  | nil => simp at inf
  | cons p ps ih =>
    obtain ⟨number, same⟩ := h p List.mem_cons_self
    have rest : ∀ p ∈ ps, p ≠ .nan ∧ p ≠ .inf (!neg) := fun p hp => h p (List.mem_cons_of_mem _ hp)
    rw [sumFrom_cons]
    cases p with
    | nan => exact absurd rfl number
    | inf s =>
      obtain rfl : neg = s := by cases neg <;> cases s <;> simp at same ⊢
      exact sumFrom_inf rest
    | fin =>
      obtain ⟨z, e, sum, -⟩ := Num.add_fin .rn na _ ma _ ea _
      rw [sum, numOf_eq]
      exact ih ((List.mem_cons.mp inf).resolve_left (by simp)) rest

theorem sumFrom_of_both {na neg : Bool} {ma : Nat} {ea : Int} {ps : List Num} (inf : Num.inf neg ∈ ps) (other : Num.inf (!neg) ∈ ps) :
    sumFrom (.fin na ma ea) ps = .nan := by
  induction ps generalizing na ma ea with
  | nil => simp at inf
  | cons p ps ih =>
    rw [sumFrom_cons]
    cases p with
    | nan => rw [Num.add_nan, sumFrom_nan]
    | inf s =>
      rw [Num.fin_add_inf]
      apply sumFrom_inf_opposite
      rcases Bool.eq_or_eq_not s neg with rfl | rfl
      · exact (List.mem_cons.mp other).resolve_left (by simp)
      · rw [Bool.not_not]; exact (List.mem_cons.mp inf).resolve_left (by simp)
    | fin =>
      obtain ⟨z, e, sum, -⟩ := Num.add_fin .rn na _ ma _ ea _
      rw [sum, numOf_eq]
      exact ih ((List.mem_cons.mp inf).resolve_left (by simp)) ((List.mem_cons.mp other).resolve_left (by simp))

/-! ### Integer chunks -/

/-- A value that is an integer, written with the exponent 0. -/
structure WholeValue (x : Num) (z : Int) : Prop where
  eq : ∃ neg m, x = .fin neg m 0
  value : x.toInt = z

theorem wholeValue_numOf (z : Int) (zneg : Bool) : WholeValue (numOf z 0 zneg) z := by
  rw [numOf_eq]
  refine ⟨⟨_, _, rfl⟩, ?_⟩
  rcases lt_trichotomy z 0 with neg | rfl | pos
  · simp [Num.toInt, neg, neg.ne, abs_of_neg]
  · simp [Num.toInt]
  · simp [Num.toInt, pos.ne', pos.not_gt, abs_of_pos pos]

theorem scaled_zero (neg : Bool) (m : Nat) : scaled neg m 0 0 = Num.toInt (.fin neg m 0) := by
  cases neg <;> simp [scaled, Num.toInt]

theorem WholeValue.add {x y : Num} {a b : Int} (hx : WholeValue x a) (hy : WholeValue y b) : WholeValue (x.add .rn y) (a + b) := by
  obtain ⟨⟨na, ma, rfl⟩, rfl⟩ := hx
  obtain ⟨⟨nb, mb, rfl⟩, rfl⟩ := hy
  have sum : (Num.fin na ma 0).add .rn (.fin nb mb 0) =
      numOf (Num.toInt (.fin na ma 0) + Num.toInt (.fin nb mb 0)) 0 (if na = nb then na else false) := by
    rw [← scaled_zero, ← scaled_zero]; rfl
  rw [sum]
  exact wholeValue_numOf ..

theorem WholeValue.mul {x y : Num} {a b : Int} (hx : WholeValue x a) (hy : WholeValue y b) : WholeValue (x.mul y) (a * b) := by
  obtain ⟨⟨na, ma, rfl⟩, rfl⟩ := hx
  obtain ⟨⟨nb, mb, rfl⟩, rfl⟩ := hy
  refine ⟨⟨_, _, rfl⟩, ?_⟩
  cases na <;> cases nb <;> simp [Num.toInt]

/-- Integers sum exactly. -/
theorem WholeValue.sumFrom {α : Type} {f : α → Num} {g : α → Int} (each : ∀ p, WholeValue (f p) (g p)) {x : Num} {a : Int}
    (h : WholeValue x a) (ps : List α) : WholeValue (sumFrom x (ps.map f)) (a + (ps.map g).sum) := by
  induction ps generalizing x a with
  | nil => simpa using h
  | cons p ps ih =>
    rw [List.map_cons, List.map_cons, sumFrom_cons, List.sum_cons, ← add_assoc]
    exact ih (h.add (each p))

theorem wholeValue_element {f : Nat} (hf : f = 3 ∨ f = 4) (v : BitVec 8) : WholeValue (matValue f v.toNat) (asInt (f == 3) v) := by
  rcases hf with rfl | rfl
  · show WholeValue (numOf (readInt true 8 v.toNat) 0 false) v.toInt
    rw [readInt_signed]
    exact wholeValue_numOf ..
  · exact wholeValue_numOf ..

/-- A chunk of integer elements adds its exact sum to the accumulator (R115, R129). -/
theorem dotProduct_integer {x : FormatBlock} {fa fb : Nat} (ha : fa = 3 ∨ fa = 4) (hb : fb = 3 ∨ fb = 4) {as bs : List (BitVec 8)}
    (lenA : as.length = x.chunk) (lenB : bs.length = x.chunk) (hk : x.chunk ≤ x.k) (i32 : x.i32 = true) (acc : Word32) :
    dotProduct x acc (as.map (fun v => matValue fa v.toNat)) (bs.map (fun v => matValue fb v.toNat)) =
      acc + BitVec.ofInt 32 ((List.zip as bs).map (fun p => asInt (fa == 3) p.1 * asInt (fb == 3) p.2)).sum := by
  have zero : WholeValue (.fin false 0 0) 0 := ⟨⟨_, _, rfl⟩, rfl⟩
  have exact := zero.sumFrom (fun p : BitVec 8 × BitVec 8 => (wholeValue_element ha p.1).mul (wholeValue_element hb p.2)) (List.zip as bs)
  rw [dotProduct_chunk (by rwa [List.length_map]) (by rwa [List.length_map]) hk, chunkStep, if_pos i32, chunkSum_eq, List.zip_map,
    List.map_map]
  rw [zero_add] at exact
  exact congrArg (fun z => acc + BitVec.ofInt 32 z) exact.value

/-! ### Floating-point chunks (R129) -/

section
variable {x : FormatBlock} {row col : List Num} (hr : row.length = x.chunk) (hc : col.length = x.chunk) (hk : x.chunk ≤ x.k)
  (f32 : x.i32 = false) (acc : Word32)
include hr hc hk f32

theorem dotProduct_float : dotProduct x acc row col =
    encF32 .rn ((valF32 acc).add .rn (sumFrom (.fin false 0 0) ((row.zip col).map (fun p => p.1.mul p.2)))) := by
  rw [dotProduct_chunk hr hc hk, chunkStep, if_neg (by rw [f32]; decide), chunkSum_eq]

/-- Finite products and the accumulator are summed exactly and rounded once. -/
theorem dotProduct_finite (finite : ∀ p ∈ (row.zip col).map (fun p => p.1.mul p.2), p ≠ .nan ∧ ∀ neg, p ≠ .inf neg) (fin : IsFin fmtF32 acc) :
    RoundsOnce fmtF32 .rn (floatVal fmtF32 acc + (((row.zip col).map (fun p => p.1.mul p.2)).map Num.toRat).sum) false
      (dotProduct x acc row col).toNat := by
  have zero : ExactSum (.fin false 0 0) 0 := ⟨⟨_, _, _, rfl, fun _ => rfl⟩, Num.toRat_zero ..⟩
  obtain ⟨⟨neg, m, e, sum, plus⟩, value⟩ := zero.sumFrom finite
  rw [dotProduct_float hr hc hk f32 acc, sum, encF32_eq, valF32, fmtF32_ieee.value_of_fin fin, ← zero_add (List.sum _), ← value, sum,
    ← toRat_word]
  have rounded := fmtF32_ieee.encode_add .rn acc.msb neg (fmtF32.mantOf (magBits acc)) m (fmtF32.expOf (magBits acc)) e
  by_cases exactZero : Num.toRat (.fin acc.msb (fmtF32.mantOf (magBits acc)) (fmtF32.expOf (magBits acc))) + Num.toRat (.fin neg m e) = 0
  · have sign : (if acc.msb = neg then acc.msb else Rm.rn == Rm.rm) = false := by
      rw [add_comm] at exactZero
      have := Num.add_zero_sign plus exactZero
      split
      next same => rwa [if_pos same.symm, ← same] at this
      next => rfl
    rwa [sign] at rounded
  · simpa only [RoundsOnce, exactZero, if_false] using rounded

theorem dotProduct_nan (h : sumFrom (.fin false 0 0) ((row.zip col).map (fun p => p.1.mul p.2)) = .nan) :
    dotProduct x acc row col = 0x7FC00000 := by
  rw [dotProduct_float hr hc hk f32 acc, h, Num.add_nan]; rfl

theorem dotProduct_inf {neg : Bool} (h : sumFrom (.fin false 0 0) ((row.zip col).map (fun p => p.1.mul p.2)) = .inf neg)
    (fin : IsFin fmtF32 acc) : dotProduct x acc row col = infWord fmtF32 32 neg := by
  rw [dotProduct_float hr hc hk f32 acc, h, valF32, fmtF32_ieee.value_of_fin fin, Num.fin_add_inf, encF32_eq, fmtF32_ieee.encode_inf]

end

/-! ### The obligation -/

theorem matValue_codes :
    (∀ f x, (f = 0 ∨ f = 8) → x < 2 ^ 8 → if x % 2 ^ 7 = 127 then matValue f x = .nan else HasValue (matValue f x) (fieldsValue 4 3 7 x)) ∧
    (∀ f x, (f = 1 ∨ f = 9) → x < 2 ^ 8 →
      if 124 < x % 2 ^ 7 then matValue f x = .nan
      else if x % 2 ^ 7 = 124 then matValue f x = .inf (x.testBit 7)
      else HasValue (matValue f x) (fieldsValue 5 2 15 x)) ∧
    (∀ x < 2 ^ 4, HasValue (matValue 2 x) (fieldsValue 2 1 1 x)) ∧
    (∀ x : BitVec 8, HasValue (matValue 3 x.toNat) x.toInt ∧ HasValue (matValue 4 x.toNat) x.toNat) ∧
    (∀ x < 2 ^ 16,
      if 0x7F80 < x % 2 ^ 15 then matValue 5 x = .nan
      else if x % 2 ^ 15 = 0x7F80 then matValue 5 x = .inf (x.testBit 15)
      else HasValue (matValue 5 x) (fieldsValue 8 7 127 x)) ∧
    (∀ x < 2 ^ 16,
      if 0x7C00 < x % 2 ^ 15 then matValue 6 x = .nan
      else if x % 2 ^ 15 = 0x7C00 then matValue 6 x = .inf (x.testBit 15)
      else HasValue (matValue 6 x) (fieldsValue 5 10 15 x)) := by
  have e5m2 : fmtE5M2.Proper := ⟨by decide, by decide⟩
  have e2m1 : fmtE2M1.Proper := ⟨by decide, by decide⟩
  have bf16 : fmtBF16.Proper := ⟨by decide, by decide⟩
  have f16 : fmtF16.Proper := ⟨by decide, by decide⟩
  refine ⟨?_, ?_, fun x _ => e2m1.hasValue (Nat.le_of_lt_succ (Nat.mod_lt x (Nat.two_pow_pos 3))), fun x => ⟨?_, ?_⟩,
    fun x _ => bf16.ieee_codes rfl x, fun x _ => f16.ieee_codes rfl x⟩
  · rintro f x (rfl | rfl) - <;> exact e4m3_codes x
  · rintro f x (rfl | rfl) - <;> exact e5m2.ieee_codes rfl x
  · rw [← readInt_signed]
    exact hasValue_numOf _
  · exact hasValue_numOf x.toNat

/-- Settles O41: the codes format by format, the lattice table by its shells, and a chunk by what its products sum to. -/
theorem matrixElementsAndTheirSums : Obligations.MatrixElementsAndTheirSums := by
  obtain ⟨e4m3, e5m2, e2m1, ints, bf16, f16⟩ := matValue_codes
  refine ⟨⟨e4m3, e5m2, e2m1, ints, bf16, f16, ⟨latticeCode, fun k hk j hj => latticeCode_lt hk hj, fun k hk => latticeCode_rising hk,
    fun v codes => latticeCode_first codes, fun index hi j hj => vq2Weights_lattice hi hj⟩,
    fun bs len index hi j hj => vq2Weights_user len hi hj⟩, fun x acc row col => ⟨?_, fun hr hc hk f32 => ⟨?_, ?_, ?_, ?_⟩, ?_⟩⟩
  · rintro ps qs row' col' rfl rfl hp hq same hk
    exact dotProduct_append hp hq same hk acc
  · exact dotProduct_finite hr hc hk f32 acc
  · rintro ⟨_, mem, rfl⟩
    exact dotProduct_nan hr hc hk f32 acc (sumFrom_of_nan _ mem)
  · rintro ⟨_, plus, rfl⟩ ⟨_, minus, rfl⟩
    exact dotProduct_nan hr hc hk f32 acc (sumFrom_of_both plus minus)
  · rintro neg ⟨_, mem, rfl⟩ same fin
    exact dotProduct_inf hr hc hk f32 acc (sumFrom_of_inf mem same) fin
  · rintro fa fb as bs ha hb rfl rfl lenA lenB hk i32
    exact dotProduct_integer ha hb lenA lenB hk i32 acc

end Sys2Proof.Machine
end

section
/-! SUPPORT. The F64 instructions of the lanes, and `CVT`: what it reads and what it writes (R112, R113, R115, R116, R122 to R126, R320, R322,
R323). -/

namespace Sys2Proof.Machine

/-! ### Comparisons (R320) -/

/-- The value of an encoding that is read as an integer with a sign. -/
def Fmt.signedMagnitude (f : Fmt) (k : Int) : ℚ := if k < 0 then -f.magnitude k.natAbs else f.magnitude k.natAbs

theorem Fmt.signedMagnitude_strictMono (f : Fmt) : StrictMono f.signedMagnitude := by
  have mono := f.magnitude_strictMono
  refine strictMono_int_of_lt_succ fun k => ?_
  unfold Fmt.signedMagnitude
  rcases lt_trichotomy k (-1) with below | rfl | above
  · rw [if_pos (by omega), if_pos (by omega), neg_lt_neg_iff]
    exact mono (by omega)
  · rw [if_pos (by omega), if_neg (by omega)]
    show -f.magnitude 1 < f.magnitude 0
    have := mono Nat.zero_lt_one
    rw [f.magnitude_zero] at this ⊢
    linarith
  · rw [if_neg (by omega), if_neg (by omega)]
    exact mono (by omega)

/-- The integer by which encodings compare: both zeros are 0. -/
def compareKey {w : Nat} (x : BitVec w) : Int := if x.msb = true then -(magBits x : Int) else magBits x

theorem floatVal_eq_signedMagnitude (f : Fmt) {w : Nat} (x : BitVec w) : floatVal f x = f.signedMagnitude (compareKey x) := by
  unfold floatVal compareKey Fmt.signedMagnitude
  cases x.msb
  · simp
  · by_cases zero : magBits x = 0
    · simp [zero, f.magnitude_zero]
    · simp [Nat.pos_of_ne_zero zero]

theorem Fmt.Ieee.cond_iff {f : Fmt} {w : Nat} (hf : f.Ieee w) (cd : Cond) (x y : BitVec w) :
    f.cond cd x.toNat y.toNat = true ↔ floatCompares f cd x y := by
  have key (x : BitVec w) : (if bitsOf x.toNat (f.eb + f.fb) 1 = 1 then -((bitsOf x.toNat 0 (f.eb + f.fb) : Nat) : Int)
      else (bitsOf x.toNat 0 (f.eb + f.fb) : Nat)) = compareKey x := by
    have low : bitsOf x.toNat 0 (f.eb + f.fb) = magBits x := by rw [bitsOf, pow_zero, Nat.div_one, hf.magBits_eq]
    have sign := hf.sign_eq x
    rw [beq_eq_decide] at sign
    simp only [compareKey, low, ← sign, decide_eq_true_eq]
  have mono := f.signedMagnitude_strictMono
  cases cd <;>
    simp only [Fmt.cond, floatCompares, key, floatVal_eq_signedMagnitude, mono.lt_iff_lt, mono.le_iff_le, mono.injective.eq_iff,
      Bool.and_eq_true, Bool.not_eq_true', bne_iff_ne, ne_eq, hf.value_eq_nan, beq_iff_eq, decide_eq_true_eq, ← Bool.not_eq_true]

/-! ### The F64 instructions (R322) -/

theorem and_magnitude_bits (x : Word64) : x &&& 0x7FFFFFFFFFFFFFFF = (x.setWidth 63).setWidth 64 := by
  apply BitVec.eq_of_toNat_eq
  have low := Nat.and_two_pow_sub_one_eq_mod x.toNat 63
  have bound := Nat.mod_lt x.toNat (Nat.two_pow_pos 63)
  rw [BitVec.toNat_and, BitVec.toNat_setWidth, BitVec.toNat_setWidth, Nat.mod_eq_of_lt (a := _ % 2 ^ 63) (by omega)]
  exact low

/-- `CVT` writes the low word of its result, or both. -/
theorem cvt_gives (c : Ctl) (md : Rm) (sat : Bool) (dt st : CvtTy) (d : Dst) (x : Src) (s : State) :
    LaneGives (.cvt c md sat dt st d x) c s 8
      (fun t a p => laneWord dt.wide p d ((cvtResult dt (cvtLane md sat dt st t a p x)).setWidth 32)
        (cvtResult dt (cvtLane md sat dt st t a p x))) := by
  refine laneFixed_gives ?_
  simp only [BitVec.setWidth_eq_extractLsb' (show 32 ≤ 64 by decide)]
  rfl

theorem dabs_gives (c : Ctl) (d : Dst) (x : Src) (s : State) :
    LaneGives (.dabs c d x) c s 8 (fun t a p => writePair p d (((srcF64 t a p x).setWidth 63).setWidth 64)) := by
  refine laneFixed_gives ?_
  simp only [← and_magnitude_bits]
  rfl

theorem f64_gives (c : Ctl) (md : Rm) (sat : Bool) (dt st : CvtTy) (d : Dst) (pd : PDst) (x y z : Src) (cd : Cond) (s : State) :
    let two (f : Word64 → Word64 → Word64) (t : Team) (a : Active) (p : Nat) : List LaneWrite :=
      writePair p d (f (srcF64 t a p x) (srcF64 t a p y))
    let one (f : Word64 → Word64) (t : Team) (a : Active) (p : Nat) : List LaneWrite := writePair p d (f (srcF64 t a p x))
    LaneGives (.dadd c md d x y) c s 8 (two (addF64 md)) ∧
    LaneGives (.dsub c md d x y) c s 8 (two (subF64 md)) ∧
    LaneGives (.dmul c md d x y) c s 8 (two (mulF64 md)) ∧
    LaneGives (.dfma c md d x y z) c s 8
      (fun t a p => writePair p d (fmaF64 md (srcF64 t a p x) (srcF64 t a p y) (srcF64 t a p z))) ∧
    LaneGives (.dmin c d x y) c s 8 (two minF64) ∧
    LaneGives (.dmax c d x y) c s 8 (two maxF64) ∧
    LaneGives (.dabs c d x) c s 8 (one (fun x => x.setWidth 63 |>.setWidth 64)) ∧
    LaneGives (.dneg c d x) c s 8 (one (fun x => x ^^^ BitVec.twoPow 64 63)) ∧
    LaneGives (.cvt c md sat dt st d x) c s 8
      (fun t a p => laneWord dt.wide p d ((cvtResult dt (cvtLane md sat dt st t a p x)).setWidth 32)
        (cvtResult dt (cvtLane md sat dt st t a p x))) ∧
    ∃ f : Word64 → Word64 → Bool, (∀ m n, f m n = true ↔ floatCompares fmtF64 cd m n) ∧
      LaneGives (.dcmp c cd pd x y) c s 8 (fun t a p => writePred p pd (f (srcF64 t a p x) (srcF64 t a p y))) := by
  exact ⟨laneFixed_gives rfl, laneFixed_gives rfl, laneFixed_gives rfl, laneFixed_gives rfl, laneFixed_gives rfl, laneFixed_gives rfl,
    dabs_gives c d x s, laneFixed_gives rfl, cvt_gives c md sat dt st d x s, fun m n => fmtF64.cond cd m.toNat n.toNat, fun m n => fmtF64_ieee.cond_iff cd m n,
    laneFixed_gives rfl⟩

/-! ### Integers as codes (R115, R124, R125) -/

theorem holdsInt_wrapInt (dt : CvtTy) (z : Int) : HoldsInt dt z (wrapInt (cvtBits dt) z) := by
  have pos : (0 : Int) < (2 ^ cvtBits dt : Nat) := by exact_mod_cast Nat.two_pow_pos _
  have nonneg := Int.emod_nonneg z pos.ne'
  rw [HoldsInt, wrapInt, Int.toNat_of_nonneg nonneg]
  push_cast; rfl

theorem intEnd_eq (dt : CvtTy) (neg : Bool) :
    intEnd dt neg = if neg = true then intMin (cvtSigned dt) (cvtBits dt) else intMax (cvtSigned dt) (cvtBits dt) := by
  unfold intEnd intMin intMax
  cases cvtSigned dt <;> cases neg <;> push_cast <;> rfl

theorem clampInt_eq (dt : CvtTy) (z : Int) : clampInt (cvtSigned dt) (cvtBits dt) z = clamped dt z := by
  rw [clamped, intEnd_eq, intEnd_eq]; rfl

/-- The ends of an integer type lie within 64 bits. -/
theorem intEnd_bounds {dt : CvtTy} (h : cvtInt dt = true) : -2 ^ 63 ≤ intEnd dt true ∧ intEnd dt true ≤ intEnd dt false ∧ intEnd dt false < 2 ^ 64 := by
  revert h
  cases dt <;> decide

/-- A number beyond 66 bits clamps to the end of its sign. -/
theorem clamped_far {dt : CvtTy} (h : cvtInt dt = true) {n : Nat} (far : 2 ^ 67 ≤ n) (neg : Bool) :
    clamped dt (if neg = true then -(n : Int) else n) = intEnd dt neg := by
  obtain ⟨low, le, high⟩ := intEnd_bounds h
  have farInt : (2 : Int) ^ 67 ≤ n := by exact_mod_cast far
  rw [clamped]
  cases neg
  · rw [if_neg (by decide), min_eq_right (by omega), max_eq_right le]
  · rw [if_pos rfl, min_eq_left (by omega), max_eq_left (by omega)]

/-! ### A value as a source -/

/-- What a conversion reads of a value. -/
def Num.source : Num → CvtSource
  | .nan => .nan
  | .inf neg => .inf neg
  | .fin neg m e => .num (Num.toRat (.fin neg m e)) neg

theorem Num.source_eq_nan {x : Num} : x.source = .nan ↔ x = .nan := by
  cases x <;> simp [Num.source]

/-- The conversions to and from a floating-point format. -/
theorem cvtFmt_proper {t : CvtTy} {f : Fmt} (h : cvtFmt t = some f) : f.Proper := by
  cases t <;> cases h <;> exact ⟨by decide, by decide⟩

theorem value_source {f : Fmt} (hf : f.Proper) (x : Nat) : (f.value x).source =
    (let neg := decide (x / 2 ^ (f.eb + f.fb) % 2 = 1)
    let mag := x % 2 ^ (f.eb + f.fb)
    if f.family = .ieee ∧ mag = f.infEnc then .inf neg
    else if f.top < mag then .nan
    else .num ((if neg = true then -1 else 1) * f.magnitude mag) neg) := by
  have sign : (bitsOf x (f.eb + f.fb) 1 == 1) = decide (x / 2 ^ (f.eb + f.fb) % 2 = 1) := by
    rw [bitsOf, pow_one, Bool.beq_eq_decide_eq]
  dsimp only
  split
  next inf => rw [Fmt.value_inf inf.1 inf.2, sign]; rfl
  next other =>
    split
    next nan => rw [hf.value_nan nan other]; rfl
    next finite => rw [hf.value_fin (not_lt.mp finite), Num.source, Num.toRat_fin, f.mantOf_expOf, sign]

/-- The source that a floating-point code is. -/
theorem sourceOf_eq (st : CvtTy) (x : Nat) : sourceOf st x = (cvtValue st x).source := by
  unfold sourceOf cvtValue
  cases h : cvtFmt st with
  | none =>
    dsimp only [valE8M0]
    split
    · rfl
    · simp [Num.source, Num.toRat]
  | some f => exact (value_source (cvtFmt_proper h) x).symm

/-! ### What a value converts to -/

/-- The code of a power of two in E8M0, its ends included. -/
theorem e8m0_code (sat : Bool) (j : Int) :
    ((if j < -127 then 0 else if 127 < j then (if sat = true then 0xFE else 0xFF) else (j + 127).toNat : Nat) : Int) =
      if j < -127 then 0 else if 127 < j then (if sat = true then 0xFE else 0xFF) else j + 127 := by
  split
  · rfl
  · split
    · cases sat <;> rfl
    · omega

/-- The power of two that E8M0 rounds up or down to (R126). -/
theorem convertsE8M0_encE8M0 (md : Rm) (sat : Bool) (x : Num) : ConvertsE8M0 md sat x.source (encE8M0 md sat x) := by
  cases x with
  | nan => rfl
  | inf neg => rfl
  | fin neg m e =>
    unfold Num.source ConvertsE8M0 encE8M0
    dsimp only
    by_cases hm : m = 0
    · rw [if_pos (Num.toRat_fin_eq_zero.mpr hm), if_pos hm]
    rw [if_neg (mt Num.toRat_fin_eq_zero.mp hm), if_neg hm, Num.abs_toRat_fin]
    have unit : (0 : ℚ) < 2 ^ e := by positivity
    have binade : (2 : ℚ) ^ ((m.log2 : Int) + e) = (2 ^ m.log2 : Nat) * 2 ^ e := by
      rw [zpow_add₀ two_ne_zero, zpow_natCast]; push_cast; rfl
    have next : (2 : ℚ) ^ ((m.log2 : Int) + e + 1) = 2 ^ ((m.log2 : Int) + 1) * 2 ^ e := by
      rw [← zpow_add₀ two_ne_zero]; congr 1; ring
    obtain ⟨low, high⟩ := log2_bounds hm
    rw [zpow_natCast] at low
    have half : 2 * ((m : ℚ) * 2 ^ e) < 3 * 2 ^ ((m.log2 : Int) + e) ↔ 2 * m < 3 * 2 ^ m.log2 := by
      rw [binade, ← mul_assoc, ← mul_assoc, mul_lt_mul_iff_left₀ unit]; norm_cast
    have tie : 2 * ((m : ℚ) * 2 ^ e) = 3 * 2 ^ ((m.log2 : Int) + e) ↔ 2 * m = 3 * 2 ^ m.log2 := by
      rw [binade, ← mul_assoc, ← mul_assoc, mul_left_inj' unit.ne']; norm_cast
    have whole : (m : ℚ) * 2 ^ e = 2 ^ ((m.log2 : Int) + e) ↔ m = 2 ^ m.log2 := by
      rw [binade, mul_left_inj' unit.ne']; norm_cast
    refine ⟨(m.log2 : Int) + e, ?_, ?_, ?_⟩
    · rw [binade]; push_cast; exact mul_le_mul_of_nonneg_right low unit.le
    · rw [next]; exact mul_lt_mul_of_pos_right high unit
    simp only [half, tie, whole]
    refine (e8m0_code sat _).trans ?_
    generalize 2 ^ m.log2 = p
    generalize (m.log2 : Int) + e = k
    cases md with
    | rz | rm => rfl
    | rp => by_cases power : m = p <;> simp [power]
    | rn =>
      rcases lt_trichotomy (2 * m) (3 * p) with below | middle | above
      · simp [below, below.not_gt, below.ne']
      · by_cases even : (k + 127) % 2 = 0 <;> simp [middle, even]
      · simp [above, above.not_gt, above.ne']

/-- Rounding to an integer and clamping it (R124). -/
theorem convertsInt_cvtFrom (md : Rm) (sat : Bool) {dt : CvtTy} (h : cvtInt dt = true) (x : Num) :
    ConvertsInt md dt x.source (cvtFrom md sat dt x) := by
  have noFmt : cvtFmt dt = none := by revert h; cases dt <;> decide
  have noScale : dt ≠ .e8m0 := by rintro rfl; exact absurd h (by decide)
  have ends (neg : Bool) : HoldsInt dt (intEnd dt neg)
      (wrapInt (cvtBits dt) (if neg = true then intMin (cvtSigned dt) (cvtBits dt) else intMax (cvtSigned dt) (cvtBits dt))) := by
    rw [← intEnd_eq]; exact holdsInt_wrapInt ..
  unfold cvtFrom
  simp only [noFmt, noScale, if_false]
  cases x with
  | nan => rfl
  | inf neg => exact ends neg
  | fin neg m e =>
    refine ⟨roundInt md neg m e, roundsToInt_roundInt md neg m e, ?_⟩
    dsimp only
    split
    next far =>
      obtain ⟨hm, exponent⟩ := far
      obtain ⟨n, eq, rounded⟩ := roundInt_eq md neg m e
      have large : ((2 ^ 67 : Nat) : ℚ) ≤ m * 2 ^ e := by
        calc ((2 ^ 67 : Nat) : ℚ) = 2 ^ (67 : Int) := by norm_num
          _ ≤ 2 ^ ((m.log2 : Int) + e) := zpow_le_zpow_right₀ one_le_two (by omega)
          _ = 2 ^ (m.log2 : Int) * 2 ^ e := zpow_add₀ two_ne_zero ..
          _ ≤ m * 2 ^ e := mul_le_mul_of_nonneg_right (log2_bounds hm).1 (by positivity)
      rw [eq, clamped_far h (rounded.ge_of_ge large)]
      exact ends neg
    next => rw [clampInt_eq]; exact holdsInt_wrapInt ..

theorem convertsTo_cvtFrom (md : Rm) (sat : Bool) (dt : CvtTy) (x : Num) : ConvertsTo md sat dt x.source (cvtFrom md sat dt x) := by
  unfold ConvertsTo
  cases h : cvtFmt dt with
  | none =>
    dsimp only
    split
    next scale =>
      subst scale
      exact convertsE8M0_encE8M0 md sat x
    next noScale =>
      exact convertsInt_cvtFrom md sat (by revert h noScale; cases dt <;> decide) x
  | some f =>
    have hf := cvtFmt_proper h
    have eq : cvtFrom md sat dt x = f.round md sat x := by rw [cvtFrom, h]
    rw [eq]
    cases x with
    | nan => rfl
    | inf neg => exact hf.infinite_eq_beyond sat neg
    | fin neg m e => exact hf.convertsNumber md sat neg m e

/-- Only a zero has a sign beside its value. -/
theorem ConvertsTo.of_nonzero {md : Rm} {sat : Bool} {dt : CvtTy} {q : ℚ} {zneg zneg' : Bool} {r : Nat} (hq : q ≠ 0)
    (h : ConvertsTo md sat dt (.num q zneg) r) : ConvertsTo md sat dt (.num q zneg') r := by
  unfold ConvertsTo at h ⊢
  cases hf : cvtFmt dt with
  | none =>
    simp only [hf] at h ⊢
    exact h
  | some f => simpa only [hf, ConvertsNumber, hq, if_false] using h

/-- An integer converts as its exact value (R125, R323). -/
theorem convertsTo_numOf (md : Rm) (sat : Bool) (dt : CvtTy) (z : Int) : ConvertsTo md sat dt (.num z false) (cvtFrom md sat dt (numOf z 0 false)) := by
  have converts := convertsTo_cvtFrom md sat dt (numOf z 0 false)
  have value := numOf_toRat z 0 false
  rw [zpow_zero, mul_one] at value
  rw [numOf_eq] at value
  rw [show (numOf z 0 false).source = .num z (if z = 0 then false else decide (z < 0)) by rw [numOf_eq, Num.source, value]] at converts
  by_cases zero : z = 0
  · rwa [if_pos zero] at converts
  · exact converts.of_nonzero (by exact_mod_cast zero)

/-! ### `CVT` in one lane (R323) -/

/-- The bits that a source supplies under a type. -/
def cvtOperandBits (st : CvtTy) (t : Team) (a : Active) (p : Nat) (x : Src) : Nat :=
  (if st.wide = true then (src64 t a p x).toNat else (src32 t a p x).toNat) % 2 ^ cvtBits st

section
variable (md : Rm) (sat : Bool) (dt : CvtTy) {st : CvtTy} (t : Team) (a : Active) (p : Nat)

theorem cvtLane_bits {x : Src} (h : cvtInt st = true ∨ cvtOperand x = none) :
    cvtLane md sat dt st t a p x = cvtBitsTo md sat dt st (cvtOperandBits st t a p x) := by
  unfold cvtLane
  dsimp only
  split
  next => rfl
  next float => rw [h.resolve_left float]; rfl

theorem cvtLane_value (h : cvtInt st = false) {x : Src} {v : Num} (hx : cvtOperand x = some v) :
    cvtLane md sat dt st t a p x = cvtFrom md (sat && !cvtKeeps dt st v) dt v := by
  unfold cvtLane
  rw [h, hx]; rfl

/-- An integer operand (R125). -/
theorem cvtLane_integer (h : cvtInt st = true) (x : Src) :
    ConvertsFromInt md sat (cvtBits st) dt
      (if cvtSigned st = true ∧ 2 ^ (cvtBits st - 1) ≤ cvtOperandBits st t a p x then (cvtOperandBits st t a p x : Int) - 2 ^ cvtBits st
        else cvtOperandBits st t a p x)
      (cvtLane md sat dt st t a p x) := by
  have read : readInt (cvtSigned st) (cvtBits st) (cvtOperandBits st t a p x) =
      if cvtSigned st = true ∧ 2 ^ (cvtBits st - 1) ≤ cvtOperandBits st t a p x then (cvtOperandBits st t a p x : Int) - 2 ^ cvtBits st
        else cvtOperandBits st t a p x := by
    rw [readInt]; push_cast; rfl
  rw [cvtLane_bits md sat dt t a p (Or.inl h), cvtBitsTo, if_pos h, read, ConvertsFromInt, cvtFromInt]
  split
  next =>
    simp only [Bool.and_eq_true, decide_eq_true_eq, clampInt_eq]
    exact holdsInt_wrapInt ..
  next => exact convertsTo_numOf ..

/-- A register, or a special value, under a floating-point type. -/
theorem cvtLane_register (h : cvtInt st = false) {x : Src} (hx : cvtOperand x = none) :
    if dt = st ∧ sourceOf st (cvtOperandBits st t a p x) ≠ .nan then cvtLane md sat dt st t a p x = cvtOperandBits st t a p x
    else ConvertsTo md sat dt (sourceOf st (cvtOperandBits st t a p x)) (cvtLane md sat dt st t a p x) := by
  have float : ¬cvtInt st = true := by rw [h]; decide
  rw [cvtLane_bits md sat dt t a p (Or.inr hx), cvtBitsTo, sourceOf_eq, if_neg float]
  have converts := convertsTo_cvtFrom md sat dt (cvtValue st (cvtOperandBits st t a p x))
  by_cases same : dt = st
  · by_cases nan : cvtValue st (cvtOperandBits st t a p x) = .nan
    · rw [if_neg (fun both => both.2 (Num.source_eq_nan.mpr nan)), if_pos same, if_pos nan]
      rwa [nan] at converts ⊢
    · rw [if_pos ⟨same, mt Num.source_eq_nan.mp nan⟩, if_pos same, if_neg nan]
  · rwa [if_neg (fun both => same both.1), if_neg same]

/-- What equal types keep of a value: an infinity of a format that has one. -/
theorem cvtKeeps_constant (k : Nat) : cvtKeeps dt st (valF32 (constF32 k)) = true ↔
    dt = st ∧ IsInf fmtF32 (constF32 k) ∧ ∃ f, cvtFmt dt = some f ∧ f.family = .ieee := by
  have inf : (valF32 (constF32 k) = .inf false ∨ valF32 (constF32 k) = .inf true) ↔ IsInf fmtF32 (constF32 k) := by
    rw [valF32]
    rcases word_cases fmtF32 (constF32 k) with nan | inf | fin
    · have other : ¬IsInf fmtF32 (constF32 k) := ne_of_gt nan
      simp [fmtF32_ieee.value_of_nan nan, other]
    · simp [fmtF32_ieee.value_of_inf inf, inf]
    · have other : ¬IsInf fmtF32 (constF32 k) := ne_of_lt fin
      simp [fmtF32_ieee.value_of_fin fin, other]
  rw [← inf]
  unfold cvtKeeps
  cases cvtFmt dt with
  | none => simp
  | some f => simp [and_assoc]

/-- A constant under a floating-point type. -/
theorem cvtLane_constant (h : cvtInt st = false) (k : Nat) :
    let kept := dt = st ∧ IsInf fmtF32 (constF32 k) ∧ ∃ f, cvtFmt dt = some f ∧ f.family = .ieee
    (kept → ConvertsTo md false dt (sourceOf .f32 (constF32 k).toNat) (cvtLane md sat dt st t a p (.const k))) ∧
      (¬kept → ConvertsTo md sat dt (sourceOf .f32 (constF32 k).toNat) (cvtLane md sat dt st t a p (.const k))) := by
  have converts (sat : Bool) : ConvertsTo md sat dt (sourceOf .f32 (constF32 k).toNat) (cvtFrom md sat dt (valF32 (constF32 k))) := by
    rw [sourceOf_eq]
    exact convertsTo_cvtFrom ..
  intro kept
  rw [cvtLane_value md sat dt t a p h (v := valF32 (constF32 k)) rfl]
  refine ⟨fun keeps => ?_, fun changes => ?_⟩
  · rw [(cvtKeeps_constant dt k).mpr keeps, Bool.not_true, Bool.and_false]
    exact converts false
  · rw [Bool.eq_false_iff.mpr (mt (cvtKeeps_constant dt k).mp changes), Bool.not_false, Bool.and_true]
    exact converts sat

/-- An inline integer under a floating-point type. -/
theorem cvtLane_inline (h : cvtInt st = false) (k : Int) : ConvertsTo md sat dt (.num k false) (cvtLane md sat dt st t a p (.int k)) := by
  have number : cvtKeeps dt st (numOf k 0 false) = false := by simp [cvtKeeps, numOf_eq]
  rw [cvtLane_value md sat dt t a p h (v := numOf k 0 false) rfl, number, Bool.not_false, Bool.and_true]
  exact convertsTo_numOf ..

theorem cvtLane_zero (h : cvtInt st = false) : ConvertsTo md sat dt (.num 0 false) (cvtLane md sat dt st t a p .zero) := by
  have number : cvtKeeps dt st (.fin false 0 0) = false := by simp [cvtKeeps]
  have converts := convertsTo_cvtFrom md sat dt (.fin false 0 0)
  rw [Num.source, Num.toRat_zero] at converts
  rwa [cvtLane_value md sat dt t a p h (v := .fin false 0 0) rfl, number, Bool.not_false, Bool.and_true]

end

theorem cvtResult_eq (r : Nat) : (r < 2 ^ 8 → cvtResult .i8 r = (BitVec.ofNat 8 r).signExtend 64) ∧
    (r < 2 ^ 16 → cvtResult .i16 r = (BitVec.ofNat 16 r).signExtend 64) ∧
    ∀ dt, dt ≠ .i8 → dt ≠ .i16 → cvtResult dt r = BitVec.ofNat 64 r := by
  refine ⟨fun h => ?_, fun h => ?_, fun dt h8 h16 => if_neg fun either => either.elim h8 h16⟩
  · rw [← BitVec.setWidth_ofNat_of_le (show 8 ≤ 64 by decide), ← ofInt_readInt h (by decide)]; rfl
  · rw [← BitVec.setWidth_ofNat_of_le (show 16 ≤ 64 by decide), ← ofInt_readInt h (by decide)]; rfl

/-- Settles O23: each instruction is one of fixed latency, and `CVT` reads an integer, a value or bits and rounds once. -/
theorem laneF64AndConversions : Obligations.LaneF64AndConversions := by
  refine ⟨fun c md sat dt st d pd x y z cd s => f64_gives c md sat dt st d pd x y z cd s, ?_, cvtResult_eq,
    fun md sat dt st t a p x => ⟨fun int => cvtLane_integer md sat dt t a p int x, fun float => ?_⟩⟩
  · decide
  · cases x with
    | int k => exact cvtLane_inline md sat dt t a p float k
    | const k => exact cvtLane_constant md sat dt t a p float k
    | zero => exact cvtLane_zero md sat dt t a p float
    | v | s | special => exact cvtLane_register md sat dt t a p float rfl

end Sys2Proof.Machine
end

section
/-! SUPPORT. Roundings to nearest between encodings, and of values that a mantissa with a sticky bit stands for (R114, R133). -/

namespace Sys2Proof.Machine

/-! ### Roundings between encodings -/

theorem Rounded.ge_of_ge {f : Fmt} {q : ℚ} {x a : Nat} (h : Rounded f .nearest q x) (ha : a ≤ f.infEnc) (le : f.magnitude a ≤ q) : a ≤ x := by
  by_contra below
  have lt := not_le.mp below
  have mono := f.magnitude_strictMono
  have up := ((h.nearest rfl).2 (lt.trans_le ha)).1
  have : f.magnitude x < f.magnitude a := mono lt
  have : f.magnitude (x + 1) ≤ f.magnitude a := mono.monotone lt
  linarith

theorem Rounded.le_of_le {f : Fmt} {q : ℚ} {x b : Nat} (h : Rounded f .nearest q x) (le : q ≤ f.magnitude b) : x ≤ b := by
  by_contra above
  have lt := not_le.mp above
  have mono := f.magnitude_strictMono
  have down := ((h.nearest rfl).1 (by omega)).1
  have : f.magnitude b < f.magnitude x := mono lt
  have : f.magnitude b ≤ f.magnitude (x - 1) := mono.monotone (by omega)
  linarith

/-- A magnitude of at most fb + 1 bits, at an exponent that the format has, is that of an encoding. -/
theorem Fmt.exists_magnitude (f : Fmt) {m : Nat} {e : Int} (hm : m < 2 ^ (f.fb + 1)) (he : f.least ≤ e) :
    ∃ a, f.magnitude a = m * 2 ^ e := by
  rcases Nat.eq_zero_or_pos m with rfl | pos
  · exact ⟨0, by rw [f.magnitude_zero]; simp⟩
  · have bits : m.log2 ≤ f.fb := Nat.le_of_lt_succ ((Nat.log2_lt pos.ne').mpr hm)
    exact ⟨_, f.magnitude_freeEnc .rn false pos.ne' (max_le (by omega) he)⟩

section
variable {f : Fmt} {w : Nat} (hf : f.Ieee w)
include hf

/-- Rounding a finite value to nearest gives a word of its sign. -/
theorem Fmt.Ieee.encode_rn (neg : Bool) {m : Nat} (hm : m ≠ 0) (e : Int) :
    (f.encode w .rn (.fin neg m e)).msb = neg ∧ Rounded f .nearest (m * 2 ^ e) (magBits (f.encode w .rn (.fin neg m e))) := by
  have once := hf.roundsOnce hf.family .rn neg m e
  rw [RoundsOnce, if_neg (mt Num.toRat_fin_eq_zero.mp hm), Num.toRat_fin_neg hm, Num.abs_toRat_fin] at once
  obtain ⟨x, eq, rounded⟩ := once
  obtain ⟨sign, bits⟩ := (hf.ext_iff neg (rounded.encoding.trans_lt f.infEnc_lt)).mp (congrArg (BitVec.ofNat w) eq)
  refine ⟨sign, ?_⟩
  rw [show f.encode w .rn (.fin neg m e) = BitVec.ofNat w (f.round .rn false (.fin neg m e)) from rfl, bits]
  exact rounded

/-- A value between two magnitudes of the format is rounded between them. -/
theorem Fmt.Ieee.encode_between (neg : Bool) {m : Nat} (hm : m ≠ 0) {e : Int} {a b : Nat} (hb : b ≤ f.infEnc)
    (low : f.magnitude a ≤ m * 2 ^ e) (high : m * 2 ^ e ≤ f.magnitude b) :
    let y := f.encode w .rn (.fin neg m e)
    y.msb = neg ∧ a ≤ magBits y ∧ magBits y ≤ b := by
  obtain ⟨sign, rounded⟩ := hf.encode_rn neg hm e
  have le : a ≤ b := f.magnitude_strictMono.le_iff_le.mp (low.trans high)
  exact ⟨sign, rounded.ge_of_ge (le.trans hb) low, rounded.le_of_le high⟩

end

/-! ### A value cut off, with a sticky bit -/

theorem sticky_toRat (neg : Bool) (y : Nat) (inexact : Bool) (e : Int) :
    sticky neg y inexact e = .fin neg (2 * y + if inexact = true then 1 else 0) (e - 1) := rfl

/-- `y` units of 2^e are the positive real number `R` cut off, and `inexact` says whether something was. -/
structure CutOff (R : ℝ) (y : Nat) (inexact : Bool) (e : Int) : Prop where
  low : (y : ℝ) * 2 ^ e ≤ R
  high : R < (y + 1) * 2 ^ e
  inexact_iff : inexact = true ↔ R ≠ y * 2 ^ e

/-- The number that the mantissa with the sticky bit stands for. -/
def stickyValue (y : Nat) (inexact : Bool) (e : Int) : ℚ := (2 * y + if inexact = true then 1 else 0 : Nat) * 2 ^ (e - 1)

theorem stickyValue_eq (y : Nat) (inexact : Bool) (e : Int) : stickyValue y inexact e = (y + (if inexact = true then 1 / 2 else 0)) * 2 ^ e := by
  rw [stickyValue, zpow_sub_one₀ two_ne_zero]
  cases inexact
  · simp only [Bool.false_eq_true, if_false]; push_cast; ring
  · simp only [if_true]; push_cast; ring

/-- A midpoint of neighbouring encodings is a multiple of a unit that is too small to be rounded to, or lies below the value cut off. -/
theorem Fmt.midpoint_cases (f : Fmt) (x : Nat) {y : Nat} (bits : 2 ^ (f.fb + 1) ≤ y) (e : Int) :
    (∃ j : Nat, (f.magnitude x + f.magnitude (x + 1)) / 2 = j * 2 ^ e) ∨ (f.magnitude x + f.magnitude (x + 1)) / 2 < y * 2 ^ e := by
  obtain ⟨c, k, rfl, low, high⟩ := f.enc_split x
  have mid : (f.magnitude (c + k * 2 ^ f.fb) + f.magnitude (c + k * 2 ^ f.fb + 1)) / 2 = (2 * c + 1 : Nat) * 2 ^ (f.least + k - 1) := by
    rw [f.magnitude_enc low high.le, show c + k * 2 ^ f.fb + 1 = (c + 1) + k * 2 ^ f.fb by ring,
      f.magnitude_enc (low.imp_right (·.trans (Nat.le_succ c))) high, zpow_sub_one₀ two_ne_zero]
    push_cast; ring
  rw [mid]
  rcases le_or_gt e (f.least + k - 1) with fine | coarse
  · left
    refine ⟨(2 * c + 1) * 2 ^ (f.least + k - 1 - e).toNat, ?_⟩
    rw [two_zpow_split (f.least + k - 1) e]
    conv_lhs => rw [← Int.toNat_of_nonneg (sub_nonneg.mpr fine), zpow_natCast]
    push_cast; ring
  · right
    have small : ((2 * c + 1 : Nat) : ℚ) < 2 * (2 ^ (f.fb + 1) : Nat) := by exact_mod_cast (by omega : 2 * c + 1 < 2 * 2 ^ (f.fb + 1))
    have large : ((2 ^ (f.fb + 1) : Nat) : ℚ) ≤ y := by exact_mod_cast bits
    calc ((2 * c + 1 : Nat) : ℚ) * 2 ^ (f.least + k - 1) ≤ (2 * c + 1 : Nat) * 2 ^ (e - 1) :=
          mul_le_mul_of_nonneg_left (zpow_le_zpow_right₀ one_le_two (by omega)) (Nat.cast_nonneg _)
      _ < 2 * (2 ^ (f.fb + 1) : Nat) * 2 ^ (e - 1) := mul_lt_mul_of_pos_right small (by positivity)
      _ = (2 ^ (f.fb + 1) : Nat) * 2 ^ e := by rw [zpow_sub_one₀ two_ne_zero]; ring
      _ ≤ y * 2 ^ e := mul_le_mul_of_nonneg_right large (by positivity)

/-- A midpoint lies on one side of the value cut off as of the mantissa with the sticky bit. -/
theorem CutOff.midpoint {R : ℝ} {y : Nat} {inexact : Bool} {e : Int} (h : CutOff R y inexact e) {f : Fmt} (bits : 2 ^ (f.fb + 1) ≤ y) (x : Nat) :
    ((f.magnitude x + f.magnitude (x + 1)) / 2 ≤ stickyValue y inexact e ↔ (((f.magnitude x + f.magnitude (x + 1)) / 2 : ℚ) : ℝ) ≤ R) ∧
      (stickyValue y inexact e ≤ (f.magnitude x + f.magnitude (x + 1)) / 2 ↔ R ≤ ((f.magnitude x + f.magnitude (x + 1)) / 2 : ℚ)) := by
  have unit : (0 : ℚ) < 2 ^ e := by positivity
  have unitR : (0 : ℝ) < 2 ^ e := by positivity
  have half : (0 : ℚ) ≤ if inexact = true then 1 / 2 else 0 := by split <;> norm_num
  rw [stickyValue_eq]
  rcases f.midpoint_cases x bits e with ⟨j, mid⟩ | below
  · rw [mid, mul_le_mul_iff_left₀ unit, mul_le_mul_iff_left₀ unit]
    push_cast
    obtain ⟨low, high, cut⟩ := h
    constructor
    · constructor
      · intro le
        have : j ≤ y := by
          by_contra gt
          have : (y : ℚ) + 1 ≤ j := by exact_mod_cast not_le.mp gt
          have : (if inexact = true then 1 / 2 else 0 : ℚ) ≤ 1 / 2 := by split <;> norm_num
          linarith
        exact (mul_le_mul_of_nonneg_right (by exact_mod_cast this) unitR.le).trans low
      · intro le
        have : (j : ℝ) < y + 1 := lt_of_mul_lt_mul_right (le.trans_lt high) unitR.le
        have : (j : ℚ) ≤ y := by exact_mod_cast Nat.le_of_lt_succ (by exact_mod_cast this)
        linarith
    · constructor
      · intro le
        cases inexact
        · have exact : R = y * 2 ^ e := not_not.mp (mt cut.mpr (by decide))
          have : (y : ℚ) ≤ j := by simpa using le
          rw [exact]
          exact mul_le_mul_of_nonneg_right (by exact_mod_cast this) unitR.le
        · have : (y : ℚ) < j := by simp only [if_true] at le; linarith
          have : (y : ℝ) + 1 ≤ j := by exact_mod_cast Nat.succ_le_of_lt (by exact_mod_cast this)
          exact high.le.trans (mul_le_mul_of_nonneg_right this unitR.le)
      · intro le
        have ge : (y : ℝ) ≤ j := le_of_mul_le_mul_right (low.trans le) unitR
        have ge' : y ≤ j := by exact_mod_cast ge
        cases inexact
        · simpa using ge'
        · have ne : y ≠ j := by
            rintro rfl
            exact cut.mp rfl (le_antisymm le low)
          have : (y : ℚ) + 1 ≤ j := by exact_mod_cast lt_of_le_of_ne ge' ne
          simp only [if_true]
          linarith
  · have belowR : (((f.magnitude x + f.magnitude (x + 1)) / 2 : ℚ) : ℝ) < y * 2 ^ e := by
      have := (Rat.cast_lt (K := ℝ)).mpr below
      rwa [Rat.cast_mul, Rat.cast_zpow, Rat.cast_natCast, Rat.cast_ofNat] at this
    have above : (y : ℚ) * 2 ^ e ≤ (y + if inexact = true then 1 / 2 else 0) * 2 ^ e := mul_le_mul_of_nonneg_right (by linarith) unit.le
    exact ⟨⟨fun _ => belowR.le.trans h.low, fun _ => below.le.trans above⟩,
      ⟨fun le => absurd (le.trans_lt below) above.not_gt, fun le => absurd (le.trans_lt belowR) h.low.not_gt⟩⟩

/-- The mantissa with the sticky bit rounds to nearest as the number cut off does (R133). -/
theorem CutOff.nearestTo {R : ℝ} {y : Nat} {inexact : Bool} {e : Int} (h : CutOff R y inexact e) {f : Fmt} {w : Nat} (hf : f.Ieee w)
    (bits : 2 ^ (f.fb + 1) ≤ y) {below above : ℚ → Prop} (below_iff : ∀ q : ℚ, 0 ≤ q → (below q ↔ (q : ℝ) ≤ R))
    (above_iff : ∀ q : ℚ, 0 ≤ q → (above q ↔ R ≤ q)) (neg : Bool) :
    (f.encode w .rn (sticky neg y inexact e)).msb = neg ∧
      NearestTo f below above (magBits (f.encode w .rn (sticky neg y inexact e))) := by
  have pos := Nat.two_pow_pos (f.fb + 1)
  obtain ⟨sign, rounded⟩ := hf.encode_rn neg (m := 2 * y + if inexact = true then 1 else 0) (by omega) (e - 1)
  rw [← sticky_toRat] at sign rounded
  generalize magBits (f.encode w .rn (sticky neg y inexact e)) = x at rounded
  refine ⟨sign, rounded.encoding, fun hx => ?_, fun hx => ?_⟩
  · obtain ⟨down, tie⟩ := (rounded.nearest rfl).1 hx
    obtain ⟨le, ge⟩ := h.midpoint bits (x - 1)
    rw [Nat.sub_add_cancel (Nat.pos_of_ne_zero hx)] at le ge
    have nonneg : 0 ≤ (f.magnitude (x - 1) + f.magnitude x) / 2 :=
      div_nonneg (add_nonneg (f.magnitude_nonneg _) (f.magnitude_nonneg _)) two_pos.le
    dsimp only
    rw [below_iff _ nonneg, above_iff _ nonneg, ← le, ← ge]
    rw [← stickyValue] at down tie
    exact ⟨by linarith, fun up => tie (le_antisymm down (by linarith))⟩
  · obtain ⟨up, tie⟩ := (rounded.nearest rfl).2 hx
    obtain ⟨le, ge⟩ := h.midpoint bits x
    have nonneg : 0 ≤ (f.magnitude x + f.magnitude (x + 1)) / 2 :=
      div_nonneg (add_nonneg (f.magnitude_nonneg _) (f.magnitude_nonneg _)) two_pos.le
    dsimp only
    rw [below_iff _ nonneg, above_iff _ nonneg, ← le, ← ge]
    rw [← stickyValue] at up tie
    exact ⟨by linarith, fun down => tie (le_antisymm up (by linarith))⟩

end Sys2Proof.Machine
end

section
/-! SUPPORT. The functions of table versions 0 and 1 at ordinary arguments (R133, R134, R324). -/

namespace Sys2Proof.Machine

/-! ### Where version 0 computes -/

/-- What version 0 computes before its one rounding, by function. -/
def fnExact (f : Fn) (neg : Bool) (m : Nat) (e : Int) : Num :=
  match f with
  | .rcp => rcpExact neg m e
  | .rsq => rsqExact m e
  | .sqrt => sqrtExact m e
  | .exp2 => exp2Exact neg m e
  | .log2 => log2Exact m e
  | .sin => trigExact false neg m e
  | .cos => trigExact true neg m e

section
variable {x : Word32} (fin : IsFin fmtF32 x)
include fin

theorem fn0_exact {f : Fn} (ordinary : fnSpecial f x = none) :
    fn0 f x = fmtF32.encode 32 .rn (fnExact f x.msb (fmtF32.mantOf (magBits x)) (fmtF32.expOf (magBits x))) := by
  rw [fn0, ordinary, valF32, fmtF32_ieee.value_of_fin fin]
  cases f <;> rfl

/-- No result of R134 stands for an argument that is not zero, nor negative under a root or a logarithm. -/
theorem fnSpecial_ordinary (nonzero : magBits x ≠ 0) {f : Fn} (h : x.msb = true → f ≠ .rsq ∧ f ≠ .sqrt ∧ f ≠ .log2) : fnSpecial f x = none := by
  have mant : fmtF32.mantOf (magBits x) ≠ 0 := mt fmtF32.mantOf_eq_zero.mp nonzero
  unfold fnSpecial
  rw [valF32, fmtF32_ieee.value_of_fin fin]
  refine (if_neg mant).trans ?_
  cases sign : x.msb
  · rfl
  · obtain ⟨rsq, sqrt, log2⟩ := h sign
    cases f with
    | rsq => exact absurd rfl rsq
    | sqrt => exact absurd rfl sqrt
    | log2 => exact absurd rfl log2
    | rcp | exp2 | sin | cos => rfl

omit fin in
theorem abs_floatVal (f : Fmt) {w : Nat} (x : BitVec w) : |floatVal f x| = f.mantOf (magBits x) * 2 ^ f.expOf (magBits x) := by
  rw [← toRat_word, Num.abs_toRat_fin]

end

theorem abs_floatVal_cast (f : Fmt) {w : Nat} (x : BitVec w) :
    ((|floatVal f x| : ℚ) : ℝ) = f.mantOf (magBits x) * 2 ^ f.expOf (magBits x) := by
  rw [abs_floatVal]; push_cast; rfl

theorem toNat_of_positive {y : Word32} (h : y.msb = false) : y.toNat = magBits y := by
  rw [fmtF32_ieee.toNat_eq y, h]
  exact Nat.zero_add _

/-! ### Numbers cut off -/

theorem CutOff.scale {r R : ℝ} {y : Nat} {inexact : Bool} {e : Int} (low : (y : ℝ) ≤ r) (high : r < y + 1) (cut : inexact = true ↔ r ≠ y)
    (eq : R = r * 2 ^ e) : CutOff R y inexact e := by
  have unit : (0 : ℝ) < 2 ^ e := by positivity
  subst eq
  exact ⟨mul_le_mul_of_nonneg_right low unit.le, mul_lt_mul_of_pos_right high unit, by rw [cut, ne_eq, ne_eq, mul_left_inj' unit.ne']⟩

theorem cutOff_rcp {m : Nat} (hm : m ≠ 0) (e : Int) :
    CutOff (1 / (m * 2 ^ e) : ℝ) (2 ^ (m.log2 + 40) / m) (2 ^ (m.log2 + 40) % m != 0) (-((m.log2 + 40 : Nat) : Int) - e) := by
  generalize m.log2 + 40 = k
  have pos := Nat.pos_of_ne_zero hm
  have posR : (0 : ℝ) < m := by exact_mod_cast pos
  refine CutOff.scale (r := (2 ^ k : Nat) / m) ?_ ?_ ?_ ?_
  · rw [le_div_iff₀ posR]; exact_mod_cast Nat.div_mul_le_self ..
  · rw [div_lt_iff₀ posR]; exact_mod_cast (Nat.lt_mul_div_succ _ pos).trans_eq (Nat.mul_comm ..)
  · rw [bne_iff_ne, ne_eq, ne_eq, div_eq_iff posR.ne', ← Nat.dvd_iff_mod_eq_zero]
    norm_cast
    exact not_congr ⟨fun h => (Nat.div_mul_cancel h).symm, fun h => ⟨_, h.trans (Nat.mul_comm ..)⟩⟩
  · rw [zpow_sub₀ two_ne_zero, zpow_neg, zpow_natCast]
    push_cast
    field_simp

/-! ### Square roots -/

theorem sqrtFrom_spec (x n r : Nat) (low : r * r ≤ x) (high : x < (r + 2 ^ n) * (r + 2 ^ n)) :
    sqrtFrom x n r * sqrtFrom x n r ≤ x ∧ x < (sqrtFrom x n r + 1) * (sqrtFrom x n r + 1) := by
  induction n generalizing r with
  | zero => exact ⟨low, high⟩
  | succ n ih =>
    rw [sqrtFrom]
    split
    next fits => exact ih _ fits (by rwa [Nat.add_assoc, ← Nat.mul_two, ← pow_succ])
    next past => exact ih _ low (not_le.mp past)

theorem isqrt_spec (x : Nat) : isqrt x * isqrt x ≤ x ∧ x < (isqrt x + 1) * (isqrt x + 1) := by
  refine sqrtFrom_spec x _ 0 (Nat.zero_le x) ?_
  rw [Nat.zero_add, ← pow_add]
  exact Nat.lt_log2_self.trans_le (Nat.pow_le_pow_right two_pos (by omega))

/-- The root of a real number whose whole part is `x`. -/
theorem sqrt_cutOff {r : ℝ} {x : Nat} (low : (x : ℝ) ≤ r) (high : r < x + 1) :
    (isqrt x : ℝ) ≤ √r ∧ √r < isqrt x + 1 ∧ (√r = isqrt x ↔ r = isqrt x * isqrt x) := by
  obtain ⟨le, lt⟩ := isqrt_spec x
  have nonneg : 0 ≤ r := (Nat.cast_nonneg x).trans low
  have leR : (isqrt x : ℝ) * isqrt x ≤ x := by exact_mod_cast le
  have ltR : (x : ℝ) + 1 ≤ (isqrt x + 1) * (isqrt x + 1) := by exact_mod_cast Nat.succ_le_of_lt lt
  refine ⟨(Real.le_sqrt (Nat.cast_nonneg _) nonneg).mpr ?_, (Real.sqrt_lt' (by positivity)).mpr ?_,
    Real.sqrt_eq_iff_mul_self_eq nonneg (Nat.cast_nonneg _)⟩
  · rw [sq]; exact leR.trans low
  · rw [sq]; exact high.trans_le ltR

/-- The same value with an even exponent. -/
theorem evenExp_spec (m : Nat) (e : Int) :
    (evenExp m e).2 = 2 * ((evenExp m e).2 / 2) ∧ ((evenExp m e).1 : ℝ) * 2 ^ (evenExp m e).2 = m * 2 ^ e ∧
      m ≤ (evenExp m e).1 ∧ (evenExp m e).1 ≤ 2 * m := by
  unfold evenExp
  split
  · exact ⟨by dsimp only; omega, rfl, le_rfl, by dsimp only; omega⟩
  · refine ⟨by dsimp only; omega, ?_, by dsimp only; omega, le_rfl⟩
    rw [zpow_sub_one₀ two_ne_zero]
    push_cast; ring

theorem sqrt_scale {r : ℝ} (e : Int) : √(r * 2 ^ (2 * e)) = √r * 2 ^ e := by
  rw [Real.sqrt_mul' _ (by positivity), mul_comm 2 e, zpow_mul, zpow_two, ← sq, Real.sqrt_sq (by positivity)]

theorem cutOff_sqrt (m : Nat) (e : Int) : let x := (evenExp m e).1 * 2 ^ 80
    CutOff √(m * 2 ^ e) (isqrt x) (isqrt x * isqrt x != x) ((evenExp m e).2 / 2 - 40) := by
  intro x
  obtain ⟨even, same, -, -⟩ := evenExp_spec m e
  obtain ⟨low, high, exact⟩ := sqrt_cutOff (r := x) le_rfl (lt_add_one _)
  refine CutOff.scale low high ?_ ?_
  · rw [bne_iff_ne, ne_eq, ne_eq, exact]
    norm_cast
    exact not_congr eq_comm
  · rw [← same, ← sqrt_scale, show 2 * ((evenExp m e).2 / 2 - 40) = (evenExp m e).2 - 80 by omega, zpow_sub₀ two_ne_zero]
    congr 1
    show _ = (((evenExp m e).1 * 2 ^ 80 : Nat) : ℝ) * _
    push_cast
    rw [mul_assoc, mul_div_assoc']
    congr 1
    norm_num

theorem cutOff_rsq {m : Nat} (hm : m ≠ 0) (e : Int) : let y := isqrt (2 ^ 160 / (evenExp m e).1)
    CutOff √(1 / (m * 2 ^ e)) y (y * y * (evenExp m e).1 != 2 ^ 160) (-80 - (evenExp m e).2 / 2) := by
  intro y
  obtain ⟨even, same, le, -⟩ := evenExp_spec m e
  have pos : 0 < (evenExp m e).1 := (Nat.pos_of_ne_zero hm).trans_le le
  have posR : (0 : ℝ) < (evenExp m e).1 := by exact_mod_cast pos
  have low : ((2 ^ 160 / (evenExp m e).1 : Nat) : ℝ) ≤ (2 ^ 160 : Nat) / (evenExp m e).1 := by
    rw [le_div_iff₀ posR]; exact_mod_cast Nat.div_mul_le_self ..
  have high : ((2 ^ 160 : Nat) : ℝ) / (evenExp m e).1 < (2 ^ 160 / (evenExp m e).1 : Nat) + 1 := by
    rw [div_lt_iff₀ posR]; exact_mod_cast (Nat.lt_mul_div_succ _ pos).trans_eq (Nat.mul_comm ..)
  obtain ⟨lower, upper, exact⟩ := sqrt_cutOff low high
  refine CutOff.scale lower upper ?_ ?_
  · rw [bne_iff_ne, ne_eq, ne_eq, exact, div_eq_iff posR.ne']
    norm_cast
    exact not_congr eq_comm
  · rw [← same, ← sqrt_scale, show 2 * (-80 - (evenExp m e).2 / 2) = -160 - (evenExp m e).2 by omega, zpow_sub₀ two_ne_zero]
    congr 1
    push_cast
    field_simp
    norm_num

/-! ### `RCP`, `SQRT` and `RSQ` (R133) -/

section
variable {x : Word32} (fin : IsFin fmtF32 x) (nonzero : magBits x ≠ 0)
include fin nonzero

omit fin in
theorem abs_floatVal_pos : 0 < |floatVal fmtF32 x| := abs_pos.mpr (mt floatVal_eq_zero.mp nonzero)

theorem rcp_nearest : (fn0 .rcp x).msb = x.msb ∧
    NearestTo fmtF32 (fun q => q * |floatVal fmtF32 x| ≤ 1) (fun q => 1 ≤ q * |floatVal fmtF32 x|) (magBits (fn0 .rcp x)) := by
  have mant : fmtF32.mantOf (magBits x) ≠ 0 := mt fmtF32.mantOf_eq_zero.mp nonzero
  have pos : (0 : ℝ) < |floatVal fmtF32 x| := by exact_mod_cast abs_floatVal_pos nonzero
  rw [fn0_exact fin (fnSpecial_ordinary fin nonzero fun _ => by decide)]
  have bits : 2 ^ 24 ≤ 2 ^ ((fmtF32.mantOf (magBits x)).log2 + 40) / fmtF32.mantOf (magBits x) := by
    rw [Nat.le_div_iff_mul_le (Nat.pos_of_ne_zero mant)]
    calc 2 ^ 24 * fmtF32.mantOf (magBits x) ≤ 2 ^ 24 * 2 ^ ((fmtF32.mantOf (magBits x)).log2 + 1) :=
          Nat.mul_le_mul_left _ Nat.lt_log2_self.le
      _ ≤ 2 ^ ((fmtF32.mantOf (magBits x)).log2 + 40) := by rw [← pow_add]; exact Nat.pow_le_pow_right two_pos (by omega)
  refine (cutOff_rcp mant (fmtF32.expOf (magBits x))).nearestTo fmtF32_ieee bits (fun q _ => ?_) (fun q _ => ?_) x.msb
  · rw [← abs_floatVal_cast, le_div_iff₀ pos]; norm_cast
  · rw [← abs_floatVal_cast, div_le_iff₀ pos]; norm_cast

omit fin nonzero in
/-- The statement's squares compare as the root does. -/
theorem square_iff {q v : ℚ} (hq : 0 ≤ q) (hv : 0 ≤ v) : (q * q ≤ v ↔ (q : ℝ) ≤ √(v : ℝ)) ∧ (v ≤ q * q ↔ √(v : ℝ) ≤ q) := by
  have hqR : (0 : ℝ) ≤ q := by exact_mod_cast hq
  have hvR : (0 : ℝ) ≤ v := by exact_mod_cast hv
  rw [Real.le_sqrt hqR hvR, Real.sqrt_le_left hqR, sq]
  norm_cast

omit fin nonzero in
theorem le_isqrt {n x : Nat} (h : n * n ≤ x) : n ≤ isqrt x := by
  by_contra less
  have lt := (isqrt_spec x).2
  have : (isqrt x + 1) * (isqrt x + 1) ≤ n * n := Nat.mul_le_mul (not_le.mp less) (not_le.mp less)
  omega

theorem sqrt_nearest (positive : x.msb = false) : (fn0 .sqrt x).msb = false ∧
    NearestTo fmtF32 (fun q => q * q ≤ |floatVal fmtF32 x|) (fun q => |floatVal fmtF32 x| ≤ q * q) (magBits (fn0 .sqrt x)) := by
  have mant : fmtF32.mantOf (magBits x) ≠ 0 := mt fmtF32.mantOf_eq_zero.mp nonzero
  obtain ⟨-, -, le, -⟩ := evenExp_spec (fmtF32.mantOf (magBits x)) (fmtF32.expOf (magBits x))
  rw [fn0_exact fin (fnSpecial_ordinary fin nonzero fun neg => by rw [positive] at neg; exact absurd neg (by decide))]
  refine (cutOff_sqrt (fmtF32.mantOf (magBits x)) (fmtF32.expOf (magBits x))).nearestTo fmtF32_ieee ?_ (fun q hq => ?_) (fun q hq => ?_) false
  · refine le_isqrt ?_
    calc 2 ^ (fmtF32.fb + 1) * 2 ^ (fmtF32.fb + 1) ≤ 1 * 2 ^ 80 := by decide
      _ ≤ _ := Nat.mul_le_mul_right _ (by omega)
  · rw [← abs_floatVal_cast]; exact (square_iff hq (abs_nonneg _)).1
  · rw [← abs_floatVal_cast]; exact (square_iff hq (abs_nonneg _)).2

theorem rsq_nearest (positive : x.msb = false) : (fn0 .rsq x).msb = false ∧
    NearestTo fmtF32 (fun q => q * q * |floatVal fmtF32 x| ≤ 1) (fun q => 1 ≤ q * q * |floatVal fmtF32 x|) (magBits (fn0 .rsq x)) := by
  have mant : fmtF32.mantOf (magBits x) ≠ 0 := mt fmtF32.mantOf_eq_zero.mp nonzero
  have bound := fmtF32.mantOf_lt (magBits x)
  have pos := abs_floatVal_pos nonzero
  obtain ⟨-, -, le, twice⟩ := evenExp_spec (fmtF32.mantOf (magBits x)) (fmtF32.expOf (magBits x))
  have inverse : (1 / (fmtF32.mantOf (magBits x) * 2 ^ fmtF32.expOf (magBits x)) : ℝ) = ((1 / |floatVal fmtF32 x| : ℚ) : ℝ) := by
    rw [← abs_floatVal_cast]; push_cast; rfl
  rw [fn0_exact fin (fnSpecial_ordinary fin nonzero fun neg => by rw [positive] at neg; exact absurd neg (by decide))]
  refine (cutOff_rsq mant (fmtF32.expOf (magBits x))).nearestTo fmtF32_ieee ?_ (fun q hq => ?_) (fun q hq => ?_) false
  · refine le_isqrt ((Nat.le_div_iff_mul_le (by omega)).mpr ?_)
    calc 2 ^ (fmtF32.fb + 1) * 2 ^ (fmtF32.fb + 1) * (evenExp (fmtF32.mantOf (magBits x)) (fmtF32.expOf (magBits x))).1
        ≤ 2 ^ (fmtF32.fb + 1) * 2 ^ (fmtF32.fb + 1) * (2 * 2 ^ (fmtF32.fb + 1)) := Nat.mul_le_mul_left _ (by omega)
      _ ≤ 2 ^ 160 := by decide
  · rw [inverse, ← (square_iff hq (one_div_pos.mpr pos).le).1, le_div_iff₀ pos]
  · rw [inverse, ← (square_iff hq (one_div_pos.mpr pos).le).2, div_le_iff₀ pos]

end

/-! ### `LOG2` -/

theorem log2Bits_lt (n y r : Nat) : log2Bits n y r < (r + 1) * 2 ^ n := by
  induction n generalizing y r with
  | zero => simp [log2Bits]
  | succ n ih =>
    have double : (r + 1) * 2 ^ (n + 1) = (2 * r + 1 + 1) * 2 ^ n := by rw [pow_succ]; ring
    have less : (2 * r + 1) * 2 ^ n ≤ (2 * r + 1 + 1) * 2 ^ n := Nat.mul_le_mul_right _ (Nat.le_succ _)
    rw [log2Bits, double]
    split
    · exact ih _ _
    · exact (ih _ _).trans_le less

/-- A value between neighbouring integers is rounded between them. -/
theorem encode_between_integers (neg : Bool) {m : Nat} (hm : m ≠ 0) {e : Int} {n : Nat} (hn : n < 2 ^ 23) (low : (n : ℚ) ≤ m * 2 ^ e)
    (high : (m : ℚ) * 2 ^ e ≤ n + 1) :
    let y := fmtF32.encode 32 .rn (.fin neg m e)
    IsFin fmtF32 y ∧ y.msb = neg ∧ n ≤ fmtF32.magnitude (magBits y) ∧ fmtF32.magnitude (magBits y) ≤ n + 1 := by
  have integer {k : Nat} (hk : k < 2 ^ 24) : ∃ a, fmtF32.magnitude a = k := by
    obtain ⟨a, ha⟩ := fmtF32.exists_magnitude (e := 0) hk (by decide)
    exact ⟨a, by rw [ha, zpow_zero, mul_one]⟩
  obtain ⟨a, ha⟩ := integer (k := n) (by omega)
  obtain ⟨b, hb⟩ := integer (k := n + 1) (by omega)
  have mono := fmtF32.magnitude_strictMono
  have inside : b < fmtF32.infEnc := by
    rw [← mono.lt_iff_lt, hb, fmtF32_magnitude_infEnc]
    exact_mod_cast (by omega : n + 1 < 2 ^ 128)
  have hb' : fmtF32.magnitude b = n + 1 := by rw [hb]; push_cast; rfl
  rw [← ha] at low
  rw [← hb'] at high
  obtain ⟨sign, lower, upper⟩ := fmtF32_ieee.encode_between neg hm inside.le low high
  rw [← hb', ← ha]
  exact ⟨upper.trans_lt inside, sign, mono.monotone lower, mono.monotone upper⟩

/-- Between two powers of two the logarithm is cut off between two integers. -/
theorem log2Exact_between {m : Nat} (h : m ≠ 2 ^ m.log2) (e : Int) : ∃ v : Int,
    ((m.log2 : Int) + e) * 2 ^ 200 ≤ v ∧ v < ((m.log2 : Int) + e + 1) * 2 ^ 200 ∧
      log2Exact m e = .fin (decide (v < 0)) (2 * v + 1).natAbs (-201) := by
  have bits := log2Bits_lt 200 (m * 2 ^ (320 - m.log2)) 0
  unfold log2Exact
  dsimp only
  rw [if_neg h]
  generalize (m.log2 : Int) + e = k
  generalize log2Bits 200 (m * 2 ^ (320 - m.log2)) 0 = b at *
  refine ⟨k * ((2 ^ 200 : Nat) : Int) + b, by push_cast; omega, by push_cast; omega, ?_⟩
  congr 1
  split <;> omega

theorem le_units {a M : Nat} : ((a : ℚ) ≤ M * 2 ^ (-201 : Int) ↔ a * 2 ^ 201 ≤ M) ∧ ((M : ℚ) * 2 ^ (-201 : Int) ≤ a ↔ M ≤ a * 2 ^ 201) := by
  have unit : (2 : ℚ) ^ (-201 : Int) = 1 / (2 ^ 201 : Nat) := by norm_num
  have pos : (0 : ℚ) < (2 ^ 201 : Nat) := by norm_num
  rw [unit, mul_one_div, le_div_iff₀ pos, div_le_iff₀ pos]
  exact ⟨by exact_mod_cast Iff.rfl, by exact_mod_cast Iff.rfl⟩

/-- A logarithm that is not whole, rounded. -/
theorem log2_encode_between {m : Nat} (h : m ≠ 2 ^ m.log2) {e : Int} (low : -150 ≤ (m.log2 : Int) + e) (high : (m.log2 : Int) + e < 150) :
    let y := fmtF32.encode 32 .rn (log2Exact m e)
    IsFin fmtF32 y ∧ (((m.log2 : Int) + e : Int) : ℚ) ≤ floatVal fmtF32 y ∧ floatVal fmtF32 y ≤ ((m.log2 : Int) + e : Int) + 1 := by
  obtain ⟨v, ge, lt, eq⟩ := log2Exact_between h e
  rw [eq]
  generalize (m.log2 : Int) + e = k at *
  rcases lt_or_ge k 0 with neg | nonneg
  · obtain ⟨n, rfl⟩ : ∃ n : Nat, k = -(n : Int) - 1 := ⟨(-k - 1).toNat, by omega⟩
    have negative : v < 0 := by omega
    obtain ⟨fin, sign, lower, upper⟩ := encode_between_integers true (m := (2 * v + 1).natAbs) (e := -201) (n := n) (by omega) (by omega)
      (le_units.1.mpr (by omega)) (by exact_mod_cast le_units.2.mpr (by omega))
    simp only [negative, decide_true, floatVal, sign, if_true]
    push_cast
    exact ⟨fin, by linarith, by linarith⟩
  · obtain ⟨n, rfl⟩ : ∃ n : Nat, k = n := ⟨k.toNat, by omega⟩
    have positive : ¬v < 0 := by omega
    obtain ⟨fin, sign, lower, upper⟩ := encode_between_integers false (m := (2 * v + 1).natAbs) (e := -201) (n := n) (by omega) (by omega)
      (le_units.1.mpr (by omega)) (by exact_mod_cast le_units.2.mpr (by omega))
    simp only [positive, decide_false, floatVal, sign, Bool.false_eq_true, if_false, one_mul]
    push_cast
    exact ⟨fin, lower, upper⟩

/-- The logarithm of a power of two is written exactly. -/
theorem log2_encode_power {m : Nat} (h : m = 2 ^ m.log2) {e : Int} (low : -150 ≤ (m.log2 : Int) + e) (high : (m.log2 : Int) + e < 150) :
    let y := fmtF32.encode 32 .rn (log2Exact m e)
    IsFin fmtF32 y ∧ floatVal fmtF32 y = ((m.log2 : Int) + e : Int) ∧ ((m.log2 : Int) + e = 0 → y = 0) := by
  have eq : log2Exact m e = numOf ((m.log2 : Int) + e) 0 false := if_pos h
  have value := numOf_toRat ((m.log2 : Int) + e) 0 false
  rw [eq]
  generalize (m.log2 : Int) + e = k at *
  rw [numOf_eq, zpow_zero, mul_one] at value
  have small : (k.natAbs : ℚ) * 2 ^ (0 : Int) < fmtF32.magnitude fmtF32.infEnc := by
    rw [fmtF32_magnitude_infEnc, zpow_zero, mul_one]
    exact_mod_cast (by omega : k.natAbs < 2 ^ 128)
  obtain ⟨fin, -, exact⟩ := fmtF32_ieee.encode_exact .rn (if k = 0 then false else decide (k < 0)) (m := k.natAbs) (e := 0)
    ((by omega : k.natAbs < 2 ^ 23).trans (by decide)) (by decide) small
  rw [numOf_eq]
  exact ⟨fin, exact.trans value, by rintro rfl; rfl⟩

/-- The binade of a value is that of its highest bit. -/
theorem binade_unique {m : Nat} (hm : m ≠ 0) {e k : Int} (low : (2 : ℚ) ^ k ≤ m * 2 ^ e) (high : (m : ℚ) * 2 ^ e < 2 ^ (k + 1)) :
    k = (m.log2 : Int) + e := by
  obtain ⟨ge, lt⟩ := log2_bounds hm
  have unit : (0 : ℚ) < 2 ^ e := by positivity
  have lower : (2 : ℚ) ^ ((m.log2 : Int) + e) < 2 ^ (k + 1) := by
    rw [zpow_add₀ two_ne_zero]; exact (mul_le_mul_of_nonneg_right ge unit.le).trans_lt high
  have upper : (2 : ℚ) ^ k < 2 ^ ((m.log2 : Int) + 1 + e) := by
    rw [zpow_add₀ two_ne_zero (_ + 1)]; exact low.trans_lt (mul_lt_mul_of_pos_right lt unit)
  have := (zpow_lt_zpow_iff_right₀ (one_lt_two (α := ℚ))).mp lower
  have := (zpow_lt_zpow_iff_right₀ (one_lt_two (α := ℚ))).mp upper
  omega

/-- The exponents of finite words. -/
theorem binade_bounds {x : Word32} (fin : IsFin fmtF32 x) (nonzero : magBits x ≠ 0) :
    -150 ≤ ((fmtF32.mantOf (magBits x)).log2 : Int) + fmtF32.expOf (magBits x) ∧
      ((fmtF32.mantOf (magBits x)).log2 : Int) + fmtF32.expOf (magBits x) < 128 := by
  have mant : fmtF32.mantOf (magBits x) ≠ 0 := mt fmtF32.mantOf_eq_zero.mp nonzero
  have least : -149 ≤ fmtF32.expOf (magBits x) := fmtF32.least_le_expOf _
  refine ⟨by omega, ?_⟩
  have lt : fmtF32.magnitude (magBits x) < fmtF32.magnitude fmtF32.infEnc := fmtF32.magnitude_strictMono fin
  rw [fmtF32_magnitude_infEnc, ← fmtF32.mantOf_expOf] at lt
  rw [← zpow_lt_zpow_iff_right₀ (one_lt_two (α := ℚ)), zpow_add₀ two_ne_zero]
  exact (mul_le_mul_of_nonneg_right (log2_bounds mant).1 (by positivity)).trans_lt (by exact_mod_cast lt)

theorem log2_between {x : Word32} (fin : IsFin fmtF32 x) (nonzero : magBits x ≠ 0) (positive : x.msb = false) {k : Int}
    (low : 2 ^ k ≤ |floatVal fmtF32 x|) (high : |floatVal fmtF32 x| < 2 ^ (k + 1)) :
    let y := fn0 .log2 x
    IsFin fmtF32 y ∧ k ≤ floatVal fmtF32 y ∧ floatVal fmtF32 y ≤ k + 1 ∧
      (|floatVal fmtF32 x| = 2 ^ k → floatVal fmtF32 y = k ∧ (k = 0 → y = 0)) := by
  have mant : fmtF32.mantOf (magBits x) ≠ 0 := mt fmtF32.mantOf_eq_zero.mp nonzero
  obtain ⟨above, below⟩ := binade_bounds fin nonzero
  rw [abs_floatVal] at low high ⊢
  have binade := binade_unique mant low high
  intro y
  have eq : y = fmtF32.encode 32 .rn (log2Exact (fmtF32.mantOf (magBits x)) (fmtF32.expOf (magBits x))) :=
    fn0_exact fin (fnSpecial_ordinary fin nonzero fun neg => by rw [positive] at neg; exact absurd neg (by decide))
  clear_value y
  subst eq
  generalize fmtF32.mantOf (magBits x) = m at *
  generalize fmtF32.expOf (magBits x) = e at *
  subst binade
  by_cases power : m = 2 ^ m.log2
  · obtain ⟨fin', exact, zero⟩ := log2_encode_power power above (below.trans (by decide))
    exact ⟨fin', exact.ge, by rw [exact]; linarith, fun _ => ⟨exact, zero⟩⟩
  · obtain ⟨fin', lower, upper⟩ := log2_encode_between power above (below.trans (by decide))
    refine ⟨fin', lower, upper, fun whole => absurd ?_ power⟩
    rw [zpow_add₀ two_ne_zero, mul_left_inj' (by positivity), zpow_natCast] at whole
    exact_mod_cast whole

end Sys2Proof.Machine
end

section
/-! SUPPORT. `EXP2`, `SIN` and `COS` of table version 0, and table version 1 (R133, R134, R324). -/

namespace Sys2Proof.Machine

/-! ### The series of the exponential -/

theorem expSeries_mono {t t' : Nat} (ht : t ≤ t') (n k : Nat) {a a' : Nat} (ha : a ≤ a') : expSeries t n k a ≤ expSeries t' n k a' := by
  induction n generalizing k a a' with
  | zero => exact le_rfl
  | succ n ih =>
    exact Nat.add_le_add ha (ih _ (Nat.div_le_div_right (Nat.div_le_div_right (Nat.mul_le_mul ha ht))))

/-- The series for ln 2 stays below 2 in its fixed point, the terms being cut off. -/
theorem expSeries_ln2_lt : expSeries ln2Fix 64 0 (2 ^ 256) < 2 ^ 257 := by decide +kernel

/-- A fraction of ln 2 has an exponential between 1 and 2. -/
theorem expSeries_bounds {f : Nat} (hf : f < 2 ^ 256) :
    2 ^ 256 ≤ expSeries (f * ln2Fix / 2 ^ 256) 64 0 (2 ^ 256) ∧ expSeries (f * ln2Fix / 2 ^ 256) 64 0 (2 ^ 256) < 2 ^ 257 := by
  have angle : f * ln2Fix / 2 ^ 256 ≤ ln2Fix :=
    Nat.div_le_of_le_mul (Nat.mul_le_mul_right _ hf.le)
  exact ⟨Nat.le_add_right _ _, (expSeries_mono angle 64 0 le_rfl).trans_lt expSeries_ln2_lt⟩

/-! ### `EXP2` -/

/-- A value in the binade of 2^n, rounded to F32. -/
theorem encode_binade {m : Nat} (hm : m ≠ 0) {e n : Int} (low : (2 : ℚ) ^ n ≤ m * 2 ^ e) (high : (m : ℚ) * 2 ^ e < 2 ^ (n + 1)) :
    let y := fmtF32.encode 32 .rn (.fin false m e)
    (128 ≤ n → y = 0x7F800000) ∧ (n < -150 → y = 0) ∧
      (-149 ≤ n → n < 128 → y.msb = false ∧ 2 ^ n ≤ fmtF32.magnitude y.toNat ∧ fmtF32.magnitude y.toNat ≤ 2 ^ (n + 1) ∧
        ((m : ℚ) * 2 ^ e = 2 ^ n → fmtF32.magnitude y.toNat = 2 ^ n)) := by
  intro y
  have power {k : Int} (hk : -149 ≤ k) : ∃ a, fmtF32.magnitude a = 2 ^ k := by
    obtain ⟨a, ha⟩ := fmtF32.exists_magnitude (m := 1) (e := k) (by decide) hk
    exact ⟨a, by rw [ha, Nat.cast_one, one_mul]⟩
  have mono := fmtF32.magnitude_strictMono
  obtain ⟨sign, rounded⟩ := fmtF32_ieee.encode_rn false hm e
  change y.msb = false at sign
  change Rounded _ _ _ (magBits y) at rounded
  refine ⟨fun large => ?_, fun small => ?_, fun ge lt => ?_⟩
  · have inf : fmtF32.infEnc ≤ magBits y := rounded.ge_of_ge le_rfl <| by
      rw [fmtF32_magnitude_infEnc]
      exact (by exact_mod_cast zpow_le_zpow_right₀ (one_le_two (α := ℚ)) large : (2 : ℚ) ^ 128 ≤ 2 ^ n).trans low
    rw [fmtF32_ieee.eq_infWord (le_antisymm rounded.encoding inf), sign]
    rfl
  · have tiny : (2 : ℚ) ^ (n + 1) ≤ 2 ^ (-150 : Int) := zpow_le_zpow_right₀ one_le_two (by omega)
    have zero : magBits y = 0 := by
      by_contra nonzero
      have down := ((rounded.nearest rfl).1 nonzero).1
      have first : fmtF32.magnitude 1 ≤ fmtF32.magnitude (magBits y) := mono.monotone (Nat.one_le_iff_ne_zero.mpr nonzero)
      have unit : fmtF32.magnitude 1 = 2 * 2 ^ (-150 : Int) := by norm_num [Fmt.magnitude, fmtF32]
      have := fmtF32.magnitude_nonneg (magBits y - 1)
      linarith
    exact (fmtF32_ieee.ext_iff false (Nat.two_pow_pos _)).mpr ⟨sign, zero⟩
  · obtain ⟨a, ha⟩ := power ge
    obtain ⟨b, hb⟩ := power (k := n + 1) (by omega)
    have inside {c : Nat} {k : Int} (hc : fmtF32.magnitude c = 2 ^ k) (hk : k ≤ 128) : c ≤ fmtF32.infEnc := by
      rw [← mono.le_iff_le, hc, fmtF32_magnitude_infEnc]
      exact_mod_cast zpow_le_zpow_right₀ (one_le_two (α := ℚ)) hk
    have lower := rounded.ge_of_ge (inside ha (by omega)) (ha ▸ low)
    rw [toNat_of_positive sign]
    refine ⟨sign, ha ▸ mono.monotone lower, hb ▸ mono.monotone (rounded.le_of_le (hb ▸ high.le)), fun exact => ?_⟩
    rw [← ha, le_antisymm (rounded.le_of_le (exact.trans ha.symm).le) lower]

/-- What `EXP2` computes of an argument in [n, n + 1). -/
theorem exp2Exact_binade {neg : Bool} {m : Nat} {e n : Int} (he : -149 ≤ e) (near : ¬8 ≤ (m.log2 : Int) + e)
    (low : n ≤ Num.toRat (.fin neg m e)) (high : Num.toRat (.fin neg m e) < n + 1) :
    ∃ M E, exp2Exact neg m e = .fin false M E ∧ M ≠ 0 ∧ (2 : ℚ) ^ n ≤ M * 2 ^ E ∧ (M : ℚ) * 2 ^ E < 2 ^ (n + 1) ∧
      (Num.toRat (.fin neg m e) = n → (M : ℚ) * 2 ^ E = 2 ^ n) := by
  have fixed := scaled_toRat neg m (show (-256 : Int) ≤ e by omega)
  rw [← fixed] at low high ⊢
  unfold exp2Exact
  rw [if_neg near]
  dsimp only
  generalize scaled neg m e (-256) = z at *
  have pos : (0 : ℚ) < 2 ^ (256 : Nat) := by positivity
  have unit : (z : ℚ) * 2 ^ (-256 : Int) = z / 2 ^ (256 : Nat) := by rw [zpow_neg, div_eq_mul_inv]; norm_cast
  rw [unit, le_div_iff₀ pos] at low
  rw [unit, div_lt_iff₀ pos] at high
  have ge : n * 2 ^ 256 ≤ z := by exact_mod_cast low
  have lt : z < (n + 1) * 2 ^ 256 := by exact_mod_cast high
  have floor : z / ((2 ^ 256 : Nat) : Int) = n := by push_cast; omega
  have rest : z % ((2 ^ 256 : Nat) : Int) = z - n * 2 ^ 256 := by push_cast; omega
  rw [floor, rest, unit, div_eq_iff pos.ne']
  split
  next zero =>
    refine ⟨1, n, rfl, one_ne_zero, by simp, ?_, fun _ => by simp⟩
    rw [Nat.cast_one, one_mul]
    exact zpow_lt_zpow_right₀ one_lt_two (lt_add_one n)
  next fraction =>
    obtain ⟨least, less⟩ := expSeries_bounds (f := (z - n * 2 ^ 256).toNat) (by omega)
    generalize expSeries _ 64 0 (2 ^ 256) = s at *
    have unitPos : (0 : ℚ) < 2 ^ (n - 256 - 1) := by positivity
    have power (j : Nat) {k : Int} (hk : k = j + (n - 256 - 1)) : (2 : ℚ) ^ k = (2 ^ j : Nat) * 2 ^ (n - 256 - 1) := by
      rw [hk, zpow_add₀ two_ne_zero, zpow_natCast]; push_cast; rfl
    refine ⟨2 * s + 1, n - 256 - 1, rfl, by omega, ?_, ?_, fun exact => absurd ?_ fraction⟩
    · rw [power 257 (k := n) (by omega)]
      exact mul_le_mul_of_nonneg_right (by exact_mod_cast (by omega : 2 ^ 257 ≤ 2 * s + 1)) unitPos.le
    · rw [power 258 (k := n + 1) (by omega)]
      exact mul_lt_mul_of_pos_right (by exact_mod_cast (by omega : 2 * s + 1 < 2 ^ 258)) unitPos
    · have : z = n * 2 ^ 256 := by exact_mod_cast exact
      omega

/-- Far arguments: beyond 256 the result overflows, below -256 it vanishes. -/
theorem exp2Exact_far {neg : Bool} {m : Nat} {e : Int} (far : 8 ≤ (m.log2 : Int) + e) :
    exp2Exact neg m e = if neg = true then .fin false 1 (-400) else .inf false := if_pos far

theorem exp2_values {x : Word32} {n : Int} (fin : IsFin fmtF32 x) (low : n ≤ floatVal fmtF32 x) (high : floatVal fmtF32 x < n + 1) :
    let y := fn0 .exp2 x
    (128 ≤ n → y = 0x7F800000) ∧ (n < -150 → y = 0) ∧
    (-149 ≤ n → n < 128 → y.msb = false ∧ 2 ^ n ≤ fmtF32.magnitude y.toNat ∧ fmtF32.magnitude y.toNat ≤ 2 ^ (n + 1) ∧
      (floatVal fmtF32 x = n → fmtF32.magnitude y.toNat = 2 ^ n)) := by
  have least : -149 ≤ fmtF32.expOf (magBits x) := fmtF32.least_le_expOf _
  by_cases zero : magBits x = 0
  · have whole : floatVal fmtF32 x = 0 := floatVal_eq_zero.mpr zero
    have y : fn0 .exp2 x = fmtF32.encode 32 .rn (.fin false 1 0) := by
      have special : fnSpecial .exp2 x = some 0x3F800000 := by
        unfold fnSpecial
        rw [valF32, fmtF32_ieee.value_of_fin fin]
        exact if_pos (fmtF32.mantOf_eq_zero.mpr zero)
      rw [fn0, special]; rfl
    rw [whole] at low high
    obtain rfl : n = 0 := le_antisymm (by exact_mod_cast low) (Int.lt_add_one_iff.mp (by exact_mod_cast high))
    rw [y, whole]
    have one := encode_binade one_ne_zero (e := 0) (n := 0) (by simp) (by simp)
    simpa using one
  have mant : fmtF32.mantOf (magBits x) ≠ 0 := mt fmtF32.mantOf_eq_zero.mp zero
  rw [fn0_exact fin (fnSpecial_ordinary fin zero fun _ => by decide), fnExact]
  rw [← toRat_word] at low high ⊢
  generalize fmtF32.mantOf (magBits x) = m at *
  generalize fmtF32.expOf (magBits x) = e at *
  generalize x.msb = neg at *
  by_cases far : 8 ≤ (m.log2 : Int) + e
  · have size : (256 : ℚ) ≤ m * 2 ^ e := by
      calc (256 : ℚ) = 2 ^ (8 : Int) := by norm_num
        _ ≤ 2 ^ ((m.log2 : Int) + e) := zpow_le_zpow_right₀ one_le_two far
        _ = 2 ^ (m.log2 : Int) * 2 ^ e := zpow_add₀ two_ne_zero ..
        _ ≤ m * 2 ^ e := mul_le_mul_of_nonneg_right (log2_bounds mant).1 (by positivity)
    rw [exp2Exact_far far]
    rw [Num.toRat_fin] at low high
    cases neg
    · have : (255 : ℚ) < n := by simp only [Bool.false_eq_true, if_false, one_mul] at high; linarith
      have : 255 < n := by exact_mod_cast this
      exact ⟨fun _ => rfl, fun small => by omega, fun _ large => by omega⟩
    · have : (n : ℚ) ≤ -256 := by simp only [if_true] at low; linarith
      have : n ≤ -256 := by exact_mod_cast this
      exact ⟨fun large => by omega, fun _ => rfl, fun small => by omega⟩
  · obtain ⟨M, E, eq, nonzero, lower, upper, exact⟩ := exp2Exact_binade least far low high
    rw [eq]
    obtain ⟨large, small, between⟩ := encode_binade nonzero lower upper
    refine ⟨large, small, fun ge lt => ?_⟩
    obtain ⟨sign, le, le', whole⟩ := between ge lt
    exact ⟨sign, le, le', fun h => whole (exact h)⟩

end Sys2Proof.Machine
end

section
/-! SUPPORT. `SIN` and `COS` of table version 0, and table version 1 (R133, R134, R324). -/

namespace Sys2Proof.Machine

/-! ### What the trigonometric functions compute, by the fraction of a turn -/

/-- The sine of the angle `g`, in units of 2^-149 quarter turns from the nearest quarter turn. -/
def turnSine (g : Int) (flip : Bool) : Num :=
  let th : Nat := g.natAbs * halfPiFix / 2 ^ 149
  let sq : Nat := th * th / 2 ^ 400
  if g = 0 then .fin flip 0 0 else sticky (decide (g < 0) != flip) (trigSeries sq 44 1 (th : Int)).natAbs true (-400)

/-- Its cosine. -/
def turnCosine (g : Int) (flip : Bool) : Num :=
  let th : Nat := g.natAbs * halfPiFix / 2 ^ 149
  let sq : Nat := th * th / 2 ^ 400
  if g = 0 then .fin flip 1 0 else sticky flip (trigSeries sq 44 0 ((2 ^ 400 : Nat) : Int)).natAbs true (-400)

/-- The function of the angle `g` past `q` quarter turns. -/
def turnQuadrant (cosine neg : Bool) (q g : Int) : Num :=
  if cosine then
    if q = 0 then turnCosine g false else if q = 1 then turnSine g true else if q = 2 then turnCosine g true else turnSine g false
  else if q = 0 then turnSine g neg else if q = 1 then turnCosine g neg else if q = 2 then turnSine g (!neg) else turnCosine g (!neg)

/-- A zero takes the sign of the argument under the sine, and is +0 under the cosine. -/
def turnZero (cosine neg : Bool) (r : Num) : Num :=
  match r with
  | .fin s 0 k => .fin (if cosine then false else (if neg then true else s && false)) 0 k
  | x => x

/-- The function of `a` units of 2^-149 turns. -/
def turnValue (cosine neg : Bool) (a : Int) : Num :=
  let unit : Int := (2 ^ 149 : Nat)
  let n : Int := (8 * a / unit + 1) / 2
  turnZero cosine neg (turnQuadrant cosine neg (n % 4) (4 * a - n * unit))

/-- An argument in units of 2^-149, and the fraction of a turn that it leaves. -/
def turnUnits (x : Word32) : Nat := fmtF32.mantOf (magBits x) * 2 ^ (fmtF32.expOf (magBits x) + 149).toNat
def turnOf (x : Word32) : Nat := turnUnits x % 2 ^ 149

theorem trigExact_eq (cosine neg : Bool) (x : Word32) :
    trigExact cosine neg (fmtF32.mantOf (magBits x)) (fmtF32.expOf (magBits x)) = turnValue cosine neg (turnOf x) := by
  unfold trigExact turnValue turnQuadrant turnZero turnSine turnCosine
  rfl

theorem floatVal_turns (x : Word32) : floatVal fmtF32 x = (if x.msb = true then -1 else 1) * turnUnits x / 2 ^ (149 : Nat) := by
  have least : -149 ≤ fmtF32.expOf (magBits x) := fmtF32.least_le_expOf _
  have shift : (2 : ℚ) ^ fmtF32.expOf (magBits x) = 2 ^ (fmtF32.expOf (magBits x) + 149).toNat / 2 ^ (149 : Nat) := by
    rw [← zpow_natCast 2 (Int.toNat _), Int.toNat_of_nonneg (by omega), zpow_add₀ two_ne_zero, eq_div_iff (by positivity)]
    norm_cast
  rw [← toRat_word, Num.toRat_fin, shift, turnUnits]
  push_cast
  ring

/-! ### Whole quarter turns -/

theorem turnValue_sine_quarter : ∀ neg : Bool, ∀ j < 4, fmtF32.encode 32 .rn (turnValue false neg ((j * 2 ^ 147 : Nat) : Int)) =
    if j = 1 then (if neg = true then 0xBF800000 else 0x3F800000) else if j = 3 then (if neg = true then 0x3F800000 else 0xBF800000)
    else if neg = true then 0x80000000 else 0 := by decide +kernel

theorem turnValue_cosine_quarter : ∀ neg : Bool, ∀ j < 4, fmtF32.encode 32 .rn (turnValue true neg ((j * 2 ^ 147 : Nat) : Int)) =
    if j = 0 then 0x3F800000 else if j = 2 then 0xBF800000 else 0 := by decide +kernel

/-- A whole number of quarter turns leaves one of the four quarters. -/
theorem turnOf_quarter {x : Word32} {k : Int} (h : 4 * floatVal fmtF32 x = k) :
    turnOf x = k.natAbs % 4 * 2 ^ 147 ∧ (x.msb = true → k ≤ 0) ∧ (x.msb = false → 0 ≤ k) := by
  rw [floatVal_turns, ← mul_div_assoc, div_eq_iff (by positivity)] at h
  have units : turnUnits x = k.natAbs * 2 ^ 147 ∧ (x.msb = true → k ≤ 0) ∧ (x.msb = false → 0 ≤ k) := by
    cases sign : x.msb
    · rw [sign] at h
      have : 4 * (turnUnits x : Int) = k * 2 ^ 149 := by
        simp only [Bool.false_eq_true, if_false, one_mul] at h; exact_mod_cast h
      exact ⟨by omega, fun e => absurd e (by decide), fun _ => by omega⟩
    · rw [sign] at h
      have : 4 * (-(turnUnits x : Int)) = k * 2 ^ 149 := by
        simp only [if_true, neg_one_mul] at h; exact_mod_cast h
      exact ⟨by omega, fun _ => by omega, fun e => absurd e (by decide)⟩
  obtain ⟨eq, signs⟩ := units
  refine ⟨?_, signs⟩
  rw [turnOf, eq, show 2 ^ 149 = 4 * 2 ^ 147 from by norm_num, Nat.mul_mod_mul_right]

/-! ### Version 0 by the fraction of a turn -/

/-- A word of no magnitude is the zero of its sign. -/
theorem zero_word {x : Word32} (h : magBits x = 0) : x = if x.msb = true then 0x80000000 else 0 := by
  have word := (fmtF32_ieee.ext_iff (x := x) x.msb (Nat.two_pow_pos _)).mpr ⟨rfl, h⟩
  cases sign : x.msb <;> rw [sign] at word <;> exact word

section
variable {x : Word32} (fin : IsFin fmtF32 x)
include fin

omit fin in
theorem turnOf_zero (h : magBits x = 0) : turnOf x = 0 := by
  rw [turnOf, turnUnits, fmtF32.mantOf_eq_zero.mpr h, Nat.zero_mul, Nat.zero_mod]

theorem sin_eq : fn0 .sin x = fmtF32.encode 32 .rn (turnValue false x.msb (turnOf x)) := by
  by_cases zero : magBits x = 0
  · have special : fnSpecial .sin x = some x := by
      unfold fnSpecial
      rw [valF32, fmtF32_ieee.value_of_fin fin]
      exact if_pos (fmtF32.mantOf_eq_zero.mpr zero)
    have value := turnValue_sine_quarter x.msb 0 (by decide)
    rw [fn0, special, turnOf_zero zero]
    exact (zero_word zero).trans value.symm
  · rw [fn0_exact fin (fnSpecial_ordinary fin zero fun _ => by decide), ← trigExact_eq]
    rfl

theorem cos_eq : fn0 .cos x = fmtF32.encode 32 .rn (turnValue true x.msb (turnOf x)) := by
  by_cases zero : magBits x = 0
  · have special : fnSpecial .cos x = some 0x3F800000 := by
      unfold fnSpecial
      rw [valF32, fmtF32_ieee.value_of_fin fin]
      exact if_pos (fmtF32.mantOf_eq_zero.mpr zero)
    rw [fn0, special, turnOf_zero zero]
    exact (turnValue_cosine_quarter x.msb 0 (by decide)).symm
  · rw [fn0_exact fin (fnSpecial_ordinary fin zero fun _ => by decide), ← trigExact_eq]
    rfl

/-- The functions at whole quarter turns (R133). -/
theorem quarter_turns {k : Int} (h : 4 * floatVal fmtF32 x = k) :
    fn0 .sin x = (if k % 4 = 1 then 0x3F800000 else if k % 4 = 3 then 0xBF800000 else if x.msb = true then 0x80000000 else 0) ∧
      fn0 .cos x = (if k % 4 = 0 then 0x3F800000 else if k % 4 = 2 then 0xBF800000 else 0) := by
  obtain ⟨turn, neg, pos⟩ := turnOf_quarter h
  have lt : k.natAbs % 4 < 4 := Nat.mod_lt _ (by decide)
  rw [sin_eq fin, cos_eq fin, turn, turnValue_sine_quarter _ _ lt, turnValue_cosine_quarter _ _ lt]
  cases sign : x.msb
  · have := pos sign
    have same : k % 4 = (k.natAbs % 4 : Nat) := by omega
    rw [same]
    norm_cast
  · have := neg sign
    have opposite : (k.natAbs % 4 = 0 ∧ k % 4 = 0) ∨ (k.natAbs % 4 = 1 ∧ k % 4 = 3) ∨ (k.natAbs % 4 = 2 ∧ k % 4 = 2) ∨
        (k.natAbs % 4 = 3 ∧ k % 4 = 1) := by omega
    rcases opposite with ⟨h, h'⟩ | ⟨h, h'⟩ | ⟨h, h'⟩ | ⟨h, h'⟩ <;> rw [h, h'] <;> exact ⟨rfl, rfl⟩

end

/-! ### Symmetry and period -/

theorem turnSine_not (g : Int) (flip : Bool) : turnSine g (!flip) = (turnSine g flip).neg := by
  unfold turnSine
  dsimp only
  split
  · rfl
  · have sign : (decide (g < 0) != !flip) = !(decide (g < 0) != flip) := by cases decide (g < 0) <;> cases flip <;> rfl
    rw [sticky_toRat, sticky_toRat, Num.neg_fin, sign]

theorem turnCosine_not (g : Int) (flip : Bool) : turnCosine g (!flip) = (turnCosine g flip).neg := by
  unfold turnCosine
  dsimp only
  split <;> rfl

theorem turnQuadrant_odd (neg : Bool) (q g : Int) : turnQuadrant false (!neg) q g = (turnQuadrant false neg q g).neg := by
  unfold turnQuadrant
  simp only [Bool.false_eq_true, if_false, turnSine_not, turnCosine_not]
  split
  · rfl
  · split
    · rfl
    · split <;> rfl

theorem turnZero_odd (neg : Bool) (r : Num) : turnZero false (!neg) r.neg = (turnZero false neg r).neg := by
  rcases r with _ | _ | ⟨s, _ | m, k⟩
  · rfl
  · rfl
  · cases neg <;> cases s <;> rfl
  · rfl

theorem turnValue_odd (neg : Bool) (a : Int) : turnValue false (!neg) a = (turnValue false neg a).neg := by
  unfold turnValue
  dsimp only
  rw [turnQuadrant_odd, turnZero_odd]

theorem turnValue_even (neg : Bool) (a : Int) : turnValue true (!neg) a = turnValue true neg a := by
  unfold turnValue turnQuadrant turnZero
  rfl

theorem turnQuadrant_fin (cosine neg : Bool) (q g : Int) : ∃ s m e, turnQuadrant cosine neg q g = .fin s m e := by
  have sine (flip : Bool) : ∃ s m e, turnSine g flip = .fin s m e := by
    unfold turnSine; dsimp only; split <;> exact ⟨_, _, _, rfl⟩
  have cosine' (flip : Bool) : ∃ s m e, turnCosine g flip = .fin s m e := by
    unfold turnCosine; dsimp only; split <;> exact ⟨_, _, _, rfl⟩
  unfold turnQuadrant
  split_ifs
  · exact cosine' false
  · exact sine true
  · exact cosine' true
  · exact sine false
  · exact sine neg
  · exact cosine' neg
  · exact sine !neg
  · exact cosine' !neg

theorem turnValue_fin (cosine neg : Bool) (a : Int) : ∃ s m e, turnValue cosine neg a = .fin s m e := by
  unfold turnValue
  dsimp only
  obtain ⟨s, m, e, eq⟩ := turnQuadrant_fin cosine neg ((8 * a / (2 ^ 149 : Nat) + 1) / 2 % 4) (4 * a - (8 * a / (2 ^ 149 : Nat) + 1) / 2 * (2 ^ 149 : Nat))
  rw [eq]
  cases m <;> exact ⟨_, _, _, rfl⟩

/-- The word with the other sign. -/
theorem flip_sign (x : Word32) : (x ^^^ 0x80000000).msb = !x.msb ∧ magBits (x ^^^ 0x80000000) = magBits x := by
  refine ⟨?_, ?_⟩
  · rw [BitVec.msb_xor]
    exact Bool.xor_true _
  · rw [magBits, magBits, BitVec.toNat_xor, Nat.xor_mod_two_pow]
    exact Nat.xor_zero _

/-- Rounding to nearest is symmetric. -/
theorem encode_rn_neg (neg : Bool) (m : Nat) (e : Int) :
    fmtF32.encode 32 .rn (.fin (!neg) m e) = fmtF32.encode 32 .rn (.fin neg m e) ^^^ 0x80000000 := by
  have same : ∃ mag < 2 ^ 31, ∀ s, fmtF32.encode 32 .rn (.fin s m e) = BitVec.ofNat 32 (fmtF32.signBit s + mag) := by
    by_cases zero : m = 0
    · subst zero
      exact ⟨0, by decide, fun s => rfl⟩
    · refine ⟨if fmtF32.freeEnc .rn false m e ≤ fmtF32.maxFin then fmtF32.freeEnc .rn false m e else fmtF32.infEnc, ?_, fun s => ?_⟩
      · have top : fmtF32.maxFin < 2 ^ 31 := by decide
        have inf : fmtF32.infEnc < 2 ^ 31 := by decide
        split <;> omega
      · have free : fmtF32.freeEnc .rn s m e = fmtF32.freeEnc .rn false m e := by cases s <;> rfl
        rw [Fmt.encode, fmtF32.round_fin .rn false s zero, free]
        congr 1
        split <;> rfl
  obtain ⟨mag, lt, word⟩ := same
  rw [word, word]
  obtain ⟨sign, bits⟩ := (fmtF32_ieee.ext_iff neg lt).mp rfl
  obtain ⟨flipped, kept⟩ := flip_sign (BitVec.ofNat 32 (fmtF32.signBit neg + mag))
  exact ((fmtF32_ieee.ext_iff (!neg) lt).mpr ⟨by rw [flipped, sign], by rw [kept, bits]⟩).symm

theorem odd_and_even {x : Word32} (fin : IsFin fmtF32 x) :
    fn0 .sin (x ^^^ 0x80000000) = fn0 .sin x ^^^ 0x80000000 ∧ fn0 .cos (x ^^^ 0x80000000) = fn0 .cos x := by
  obtain ⟨sign, bits⟩ := flip_sign x
  have fin' : IsFin fmtF32 (x ^^^ 0x80000000) := by rw [IsFin, bits]; exact fin
  have turn : turnOf (x ^^^ 0x80000000) = turnOf x := by rw [turnOf, turnOf, turnUnits, turnUnits, bits]
  rw [sin_eq fin, sin_eq fin', cos_eq fin, cos_eq fin', turn, sign, turnValue_odd, turnValue_even]
  obtain ⟨s, m, e, eq⟩ := turnValue_fin false x.msb (turnOf x)
  rw [eq]
  exact ⟨encode_rn_neg s m e, rfl⟩

/-- Arguments of one sign that differ by a whole number of turns leave the same fraction. -/
theorem turnOf_periodic {x y : Word32} (sign : x.msb = y.msb) {k : Int} (h : floatVal fmtF32 x - floatVal fmtF32 y = k) : turnOf x = turnOf y := by
  rw [floatVal_turns, floatVal_turns, ← sign, ← sub_div, div_eq_iff (by positivity)] at h
  unfold turnOf
  cases s : x.msb
  · rw [s] at h
    have : (turnUnits x : Int) - turnUnits y = k * 2 ^ 149 := by
      simp only [Bool.false_eq_true, if_false, one_mul] at h; exact_mod_cast h
    omega
  · rw [s] at h
    have : -(turnUnits x : Int) - -(turnUnits y : Int) = k * 2 ^ 149 := by
      simp only [if_true, neg_one_mul] at h; exact_mod_cast h
    omega

theorem periodic {x y : Word32} (finX : IsFin fmtF32 x) (finY : IsFin fmtF32 y) (sign : x.msb = y.msb)
    (h : ∃ k : Int, floatVal fmtF32 x - floatVal fmtF32 y = k) : fn0 .sin x = fn0 .sin y ∧ fn0 .cos x = fn0 .cos y := by
  obtain ⟨k, eq⟩ := h
  rw [sin_eq finX, sin_eq finY, cos_eq finX, cos_eq finY, turnOf_periodic sign eq, sign]
  exact ⟨rfl, rfl⟩

/-! ### Version 1 -/

/-- Version 1 makes a subnormal the zero of its sign, which a zero already is. -/
theorem flushF32_eq (y : Word32) : flushF32 y = if magBits y < 2 ^ 23 then y &&& 0x80000000 else y := by
  have exponent : y.extractLsb' 23 8 = 0 ↔ magBits y < 2 ^ 23 := by
    rw [← BitVec.toNat_inj, BitVec.extractLsb'_toNat, Nat.shiftRight_eq_div_pow, magBits]
    show y.toNat / 2 ^ 23 % 2 ^ 8 = 0 ↔ y.toNat % 2 ^ 31 < 2 ^ 23
    omega
  have fraction : y.extractLsb' 0 23 = 0 ↔ magBits y % 2 ^ 23 = 0 := by
    rw [← BitVec.toNat_inj, BitVec.extractLsb'_toNat, Nat.shiftRight_zero, magBits]
    show y.toNat % 2 ^ 23 = 0 ↔ y.toNat % 2 ^ 31 % 2 ^ 23 = 0
    omega
  have subnormal : subnormalF32 y = true ↔ magBits y < 2 ^ 23 ∧ magBits y % 2 ^ 23 ≠ 0 := by
    rw [subnormalF32, Bool.and_eq_true, beq_iff_eq, bne_iff_ne, exponent, ne_eq, fraction]
  unfold flushF32
  by_cases small : magBits y < 2 ^ 23
  · rw [if_pos small]
    split
    next => rfl
    next normal =>
      have zero : magBits y = 0 := by
        have := not_and.mp (mt subnormal.mpr normal) small
        omega
      rw [zero_word zero]
      cases y.msb <;> rfl
  · rw [if_neg small, if_neg fun h => small (subnormal.mp h).1]

/-- Settles O24: the roots and the reciprocal as numbers cut off, the others by the ranges and the fractions that they compute in. -/
theorem ordinaryFunctionValues : Obligations.OrdinaryFunctionValues := by
  refine ⟨fun x fin nonzero => ⟨?_, fun positive => ⟨?_, ?_, fun k low high => log2_between fin nonzero positive low high⟩⟩,
    fun x n fin low high => exp2_values fin low high, fun x k fin h => quarter_turns fin h,
    fun x y finX finY => ⟨odd_and_even finX, fun sign h => periodic finX finY sign h⟩, fun f x => ?_⟩
  · obtain ⟨sign, nearest⟩ := rcp_nearest fin nonzero
    refine ⟨_, ?_, nearest⟩
    rw [← sign]
    exact fmtF32_ieee.toNat_eq _
  · obtain ⟨sign, nearest⟩ := sqrt_nearest fin nonzero positive
    exact (toNat_of_positive sign).symm ▸ nearest
  · obtain ⟨sign, nearest⟩ := rsq_nearest fin nonzero positive
    exact (toNat_of_positive sign).symm ▸ nearest
  · simp only [← flushF32_eq]
    rfl

end Sys2Proof.Machine
end

section
/-! SUPPORT. The state that reset leaves (R157, R158, R193, R194, R197, R406, R408, R424). -/

namespace Sys2Proof.Machine

/-- Nothing is listed in any memory or table after reset, so that nothing breaks the canonical form. -/
theorem canonical_reset : Canonical State.reset where
  memories := ⟨rfl, rfl, fun _ h => absurd h List.not_mem_nil, fun _ h => absurd h List.not_mem_nil⟩
  teams := .nil

theorem State.reset_vfAt (vf : Nat) : State.reset.vfAt vf = {} := List.getElem?_getD_replicate_default_eq _ _ _

/-- Settles O60: every counter, queue and table is empty as the definition writes it, and a virtual function and its queues are the default ones. -/
theorem resetLeavesTheInitialState : Obligations.ResetLeavesTheInitialState := by
  refine ⟨canonical_reset, rfl, rfl, rfl, rfl, rfl, rfl, rfl, fun _ _ _ => rfl, rfl, fun vf _ => ⟨?ring, fun q _ => ?queue⟩, fun _ => rfl,
    rfl, rfl, rfl, rfl, rfl, rfl, rfl, rfl, rfl, rfl, rfl⟩
  case ring => rw [State.reset_vfAt]; rfl
  case queue => exact congrArg JobQueue.size (State.reset_queue vf q)

end Sys2Proof.Machine
end

section
/-! SUPPORT. `CPY`: the checks of a command, and what it appends (R139, R145, R148, R286). -/

namespace Sys2Proof.Machine

/-- A field of a word, as the decoder of a command reads it. -/
theorem bitsOf_toNat {w : Nat} (x : BitVec w) (lo n : Nat) : bitsOf x.toNat lo n = (x.extractLsb' lo n).toNat := by
  rw [BitVec.extractLsb'_toNat, Nat.shiftRight_eq_div_pow]; rfl

/-- The command in the four registers from `a` up (R286). -/
def State.copyCmd (s : State) (a : SReg) : CopyCmd := copyOf (copyWord s.team a 0) (copyWord s.team a 1) (copyWord s.team a 2) (copyWord s.team a 3)

section
variable {a : SReg} {s : State}

theorem exec_cpy : exec (.cpy a) s = execCpy a s := rfl

theorem execCpy_traps {d : Nat} {ds : List Nat} (bad : (s.copyCmd a).defects s.block.shares.length s.kernel.chans = d :: ds) :
    execCpy a s = scalarTrap s 0x01 d 0 := by
  simp only [execCpy, show copyOf _ _ _ _ = s.copyCmd a from rfl, bad]

/-- A command that passes its checks meets no gate, and is appended or waits for room. -/
theorem execCpy_passes (fields : (s.copyCmd a).defects s.block.shares.length s.kernel.chans = []) (ranges : checkCopy s (s.copyCmd a) = none)
    (confirmed : s.block.prov = false) : execCpy a s =
      if s.chanFull (s.copyCmd a).chan = true then scalarWait s
      else scalarDone (s.enqueue (s.copyCmd a).chan (s.team.runs.map (·.no))
        (.copy (copyWord s.team a 0) (copyWord s.team a 1) (copyWord s.team a 2) (copyWord s.team a 3))) s.team.withCmd := by
  have gate : copyGated s (s.copyCmd a) = false := by simp only [copyGated, confirmed, Bool.false_and]
  simp only [execCpy, show copyOf _ _ _ _ = s.copyCmd a from rfl, fields, ranges, gate, State.enqueue_team, Bool.false_eq_true, if_false]

theorem exec_cpy_appends {ch : Nat} {after : List Nat} {body : CmdBody} (takes : ChannelTakes s ch)
    (e : execCpy a s = scalarDone (s.enqueue ch after body) s.team.withCmd) :
    ∃ t, exec (.cpy a) s = .next t ∧ Enqueued s t ch after body ∧
      t.team = { s.team.goneOn true with
        nextIns := t.team.nextIns, cmds := t.team.cmds, unsealed := t.team.unsealed, spc := s.team.spc + 4, progress := s.clock } := by
  refine ⟨_, e, State.enqueue_enqueued takes after body _ ?_ ?_ ?_, ?_⟩
  · rw [Team.proceed_done]; rfl
  · rw [Team.proceed_done]; rfl
  · rw [Team.proceed_done]; rfl
  · rw [State.team_setTeam, Team.proceed_done]; rfl

end

/-! ### The first illegal field of word 0 (R286) -/

section
variable {c : CopyCmd} {cores chans : Nat}

theorem CopyCmd.defects_top (h : c.top ≠ 0) : ∃ ds, c.defects cores chans = 0x50 :: ds := by
  have h : (c.top != 0) = true := by simpa using h
  simp only [CopyCmd.defects, h, if_true, List.append_assoc, List.cons_append]
  exact ⟨_, rfl⟩

theorem CopyCmd.defects_fmt (top : c.top = 0) (h : 3 < c.fmt) : ∃ ds, c.defects cores chans = 0x53 :: ds := by
  simp only [CopyCmd.defects, top, h, bne_self_eq_false, Bool.false_eq_true, if_true, if_false, List.append_assoc, List.nil_append, List.cons_append]
  exact ⟨_, rfl⟩

theorem CopyCmd.defects_exact (top : c.top = 0) (fmt : c.fmt = 3) (h : c.exact = true) : ∃ ds, c.defects cores chans = 0x54 :: ds := by
  simp only [CopyCmd.defects, top, fmt, h, bne_self_eq_false, Bool.false_eq_true, lt_irrefl, BEq.rfl, Bool.and_self, if_true, if_false,
    List.append_assoc, List.nil_append, List.cons_append]
  exact ⟨_, rfl⟩

theorem CopyCmd.defects_op (top : c.top = 0) (fmt : c.fmt < 3) (h : 3 < c.op) : ∃ ds, c.defects cores chans = 0x55 :: ds := by
  have other : (c.fmt == 3) = false := by simpa using Nat.ne_of_lt fmt
  simp only [CopyCmd.defects, top, other, h, Nat.not_lt.mpr (Nat.le_of_lt fmt), bne_self_eq_false, Bool.false_eq_true, Bool.and_false, if_true,
    if_false, List.append_assoc, List.nil_append, List.cons_append]
  exact ⟨_, rfl⟩

end

/-- Settles O8: a command without a defect is appended as it stands in its registers, and its lowest defect is the detail of the trap. -/
theorem copyAppendsItsCommand : Obligations.CopyAppendsItsCommand := by
  intro a s w c exact_ fmt
  have chan : (s.copyCmd a).chan = ((w 0).extractLsb' 4 4).toNat := bitsOf_toNat _ _ _
  have top : (s.copyCmd a).top = ((w 0).extractLsb' 60 4).toNat := bitsOf_toNat _ _ _
  have format : (s.copyCmd a).fmt = fmt := bitsOf_toNat _ _ _
  have op : (s.copyCmd a).op = ((w 0).extractLsb' 35 4).toNat := bitsOf_toNat _ _ _
  have exact' : (s.copyCmd a).exact = exact_ := bit_eq_testBit _ _
  have traps {d : Nat} (can : CanTrap s) (bad : ∃ ds, (s.copyCmd a).defects s.block.shares.length s.kernel.chans = d :: ds) :
      Traps (.cpy a) s 0x01 d 0 := by
    obtain ⟨ds, bad⟩ := bad
    exact .of_trap (exec_cpy.trans (execCpy_traps bad)) can
  refine ⟨fun fields ranges confirmed => ?_, fun can => ⟨fun bad => ?_, fun ok bad => ?_, fun ok three bad => ?_, fun ok less bad => ?_⟩⟩
  · have passes := execCpy_passes (a := a) fields ranges confirmed
    rw [chan] at passes
    refine ⟨fun takes => exec_cpy_appends takes ?_, fun full => ?_⟩
    · rw [passes, takes.chanFull, if_neg Bool.false_ne_true]; rfl
    · have full : s.chanFull ((w 0).extractLsb' 4 4).toNat = true := decide_eq_true full
      rw [exec_cpy, passes, if_pos full, scalarWait]
  · exact traps can (CopyCmd.defects_top (by rw [top]; simpa [BitVec.toNat_eq] using bad))
  · exact traps can (CopyCmd.defects_fmt (by rw [top, ok]; rfl) (by rw [format]; exact bad))
  · exact traps can (CopyCmd.defects_exact (by rw [top, ok]; rfl) (by rw [format]; exact three) (by rw [exact']; exact bad))
  · exact traps can (CopyCmd.defects_op (by rw [top, ok]; rfl) (by rw [format]; exact less) (by rw [op]; exact bad))

end Sys2Proof.Machine
end

section
/-! SUPPORT. Batches: which of them finish when one is sealed, and what `BSEAL` and `BWAIT` do (R148 to R150, R205, R287, R288). -/

namespace Sys2Proof.Machine

/-! ### The batches that finish (R149, R150) -/

/-- `t` is `u` after its first `k` batches have finished, each with no command left, and the batch now first has one left. The record keeps a
failure that it holds. -/
structure Finishes (u t : Team) (k : Nat) : Prop where
  team : t = { u with
    sealed := u.sealed.drop k, nFinished := u.nFinished + BitVec.ofNat 32 k, failRec := t.failRec, failed := t.failed }
  done : ∀ y ∈ u.sealed.take k, ∀ c ∈ y.cmds, c ∉ u.cmds
  left : ∀ y, (u.sealed.drop k).head? = some y → ∃ c ∈ y.cmds, c ∈ u.cmds
  record : u.failRec ≠ 0 → t.failRec = u.failRec

/-- The team after the first of its batches, `x`, has finished. -/
def Team.finishFirst (t : Team) (x : Batch) (rest : List Batch) : Team :=
  { t with
    sealed := rest, nFinished := t.nFinished + 1
    failRec := (match t.failed.find? (fun e => x.cmds.contains e.1) with
      | some (_, st) => if t.failRec = 0 then BitVec.ofNat 64 (x.num.toNat * 2 ^ 32 + st) else t.failRec
      | none => t.failRec)
    failed := t.failed.filter (fun e => !x.cmds.contains e.1) }

theorem Team.finishFirst_failRec (t : Team) (x : Batch) (rest : List Batch) (h : t.failRec ≠ 0) : (t.finishFirst x rest).failRec = t.failRec := by
  unfold Team.finishFirst
  dsimp only
  split
  · exact if_neg h
  · rfl

theorem finishBatches_cons (fuel : Nat) {t : Team} {x : Batch} {rest : List Batch} (first : t.sealed = x :: rest) :
    finishBatches (fuel + 1) t =
      if x.cmds.any (fun i => t.cmds.contains i) = true then t else finishBatches fuel (t.finishFirst x rest) := by
  simp only [finishBatches, first, Team.finishFirst] <;> rfl

theorem Finishes.none {t : Team} (left : ∀ y, t.sealed.head? = some y → ∃ c ∈ y.cmds, c ∈ t.cmds) : Finishes t t 0 where
  team := by simp
  done := by simp
  left := left
  record := fun _ => rfl

theorem Finishes.succ {u t : Team} {x : Batch} {rest : List Batch} {k : Nat} (first : u.sealed = x :: rest)
    (done : ∀ c ∈ x.cmds, c ∉ u.cmds) (h : Finishes (u.finishFirst x rest) t k) : Finishes u t (k + 1) where
  team := by
    rw [h.team, first, List.drop_succ_cons]
    have count : u.nFinished + 1 + BitVec.ofNat 32 k = u.nFinished + BitVec.ofNat 32 (k + 1) := by
      rw [BitVec.add_assoc, BitVec.add_comm 1, BitVec.ofNat_add]; rfl
    rw [← count]
    rfl
  done y hy := by
    rw [first, List.take_succ_cons] at hy
    rcases List.mem_cons.mp hy with rfl | hy
    · exact done
    · exact h.done y hy
  left y hy := h.left y (by rw [first] at hy; exact hy)
  record hr := (h.record (by rw [u.finishFirst_failRec x rest hr]; exact hr)).trans (u.finishFirst_failRec x rest hr)

theorem finishBatches_finishes (n : Nat) : ∀ t : Team, t.sealed.length ≤ n → ∃ k, Finishes t (finishBatches n t) k := by
  induction n with
  | zero =>
    intro t h
    have empty : t.sealed = [] := List.length_eq_zero_iff.mp (Nat.le_zero.mp h)
    exact ⟨0, .none (by simp [empty])⟩
  | succ n ih =>
    intro t h
    cases first : t.sealed with
    | nil =>
      have stays : finishBatches (n + 1) t = t := by rw [finishBatches, first]
      rw [stays]
      exact ⟨0, .none (by simp [first])⟩
    | cons x rest =>
      rw [finishBatches_cons n first]
      split
      · next busy =>
        refine ⟨0, .none fun y hy => ?_⟩
        obtain rfl : x = y := by simpa [first] using hy
        simpa using busy
      · next idle =>
        obtain ⟨k, finishes⟩ := ih (t.finishFirst x rest) (Nat.le_of_succ_le_succ (by rwa [first] at h))
        exact ⟨k + 1, finishes.succ first (by simpa using idle)⟩

theorem Team.finishAll_finishes (t : Team) : ∃ k, Finishes t t.finishAll k := finishBatches_finishes _ t (Nat.le_refl _)

/-! ### `BSEAL` -/

/-- The team with its unsealed commands in a new batch at the end of its list (R148). -/
def Team.sealBatch (t : Team) (sc : Scope) : Team :=
  { t with sealed := t.sealed ++ [{ num := t.nSealed, scope := sc, cmds := t.unsealed }], nSealed := t.nSealed + 1, unsealed := [] }

theorem exec_bseal (sc : Scope) (s : State) : exec (.bseal sc) s = execBseal sc s := rfl

theorem exec_bseal_waits {sc : Scope} {s : State} (h : s.settled = false ∨ 16 ≤ s.team.unfinished) : exec (.bseal sc) s = .next s := by
  rw [exec_bseal]
  rcases h with h | h
  · simp only [execBseal, h, scalarWait, Bool.not_false, if_true]
  · simp only [execBseal, h, scalarWait, if_true, ite_self]

theorem exec_bseal_seals {sc : Scope} {s : State} (settled : s.settled = true) (room : s.team.unfinished < 16) :
    exec (.bseal sc) s = scalarDone s (s.team.sealBatch sc).finishAll := by
  simp only [exec_bseal, execBseal, settled, Nat.not_le.mpr room, Team.sealBatch, Bool.not_true, Bool.false_eq_true, if_false]

theorem Finishes.bseal {s : State} {sc : Scope} {u : Team} {k : Nat} (h : Finishes (s.team.sealBatch sc) u k) :
    ∃ t, scalarDone s u = .next t ∧ OnlyTeam s t ∧
      t.team = { s.team.goneOn true with
        unsealed := [], nSealed := s.team.nSealed + 1, nFinished := s.team.nFinished + BitVec.ofNat 32 k
        sealed := (s.team.sealBatch sc).sealed.drop k, failRec := u.failRec, failed := u.failed
        spc := s.team.spc + 4, progress := s.clock } := by
  obtain ⟨t, done, only, team⟩ := scalarDone_completed s u (by rw [h.team]; rfl)
  refine ⟨t, done, only, ?_⟩
  rw [team, h.team]
  rfl

/-! ### `BWAIT` -/

section
variable {d : SReg} {n : Nat} {s s1 : State}

theorem exec_bwait : exec (.bwait d n) s = execBwait d n s := rfl

/-- The commands of the batches beyond the last `n` (R288). -/
def Team.awaitedCmds (t : Team) (n : Nat) : List Nat := (t.sealed.take (t.sealed.length - n)).flatMap (·.cmds)

theorem exec_bwait_drains (few : s.team.unfinished ≤ n) : exec (.bwait d n) s =
    withDrained s (fun s => scalarDone s { s.team.setSreg d s.team.failRec with failRec := 0 }) := by
  simp only [exec_bwait, execBwait, few, if_true]

theorem exec_bwait_waits (many : n < s.team.unfinished) (none_held : heldCommand s.block s.cur (s.team.awaitedCmds n) = none) :
    exec (.bwait d n) s = .next s := by
  have held : heldCommand s.block s.cur ((s.team.sealed.take (s.team.sealed.length - n)).flatMap (·.cmds)) = none := none_held
  simp only [exec_bwait, execBwait, Nat.not_le.mpr many, if_false, held, scalarWait]

theorem exec_bwait_faults (many : n < s.team.unfinished) {uid k : Nat} {x : Word64}
    (held : heldCommand s.block s.cur (s.team.awaitedCmds n) = some (uid, k, x)) : exec (.bwait d n) s = engineTrap s uid k x := by
  have held : heldCommand s.block s.cur ((s.team.sealed.take (s.team.sealed.length - n)).flatMap (·.cmds)) = some (uid, k, x) := held
  simp only [exec_bwait, execBwait, Nat.not_le.mpr many, if_false, held]

/-- What performing the accesses that come first leaves of the team and of the clock. -/
theorem State.drainOps_team (h : s.drainOps s.cur = .ok s1) :
    s1.team = { s.team with inflight := s1.team.inflight } ∧ s1.clock = s.clock := by
  have ended : Ended s (s.drainOps s.cur).state := ended_performOps (s.priorOps s.cur) s
  rw [h] at ended
  have cur : s1.cur = s.cur := ended.cur
  have only : s1.teamAt s.cur = _ := performOps_onlyInflight _ h s.cur
  refine ⟨?_, ended.clock⟩
  rwa [State.team, cur]

theorem exec_bwait_returns (few : s.team.unfinished ≤ n) (drained : s.drainOps s.cur = .ok s1) :
    ∃ t, exec (.bwait d n) s = .next t ∧ OnlyTeam s1 t ∧
      t.team = { s1.team.goneOn true with sregs := t.team.sregs, failRec := 0, spc := s.team.spc + 4, progress := s.clock } ∧
      ∀ r, t.team.sreg r = if r = d ∧ r ≠ 0 then s.team.failRec else s.team.sreg r := by
  obtain ⟨same, clock⟩ := State.drainOps_team drained
  have spc : s1.team.spc = s.team.spc := by rw [same]
  have failRec : s1.team.failRec = s.team.failRec := by rw [same]
  have sreg (r : SReg) : s1.team.sreg r = s.team.sreg r := by rw [same]; rfl
  obtain ⟨t, done, only, team⟩ := scalarDone_completed s1 { s1.team.setSreg d s1.team.failRec with failRec := 0 } (Team.setSreg_spc ..)
  refine ⟨t, ?_, only, ?_, fun r => ?_⟩
  · rw [exec_bwait_drains few, withDrained, drained]; exact done
  · rw [team, ← spc, ← clock]
    conv_lhs => rw [Team.setSreg_eq]
    rfl
  · rw [← failRec, ← sreg, ← Team.sreg_setSreg, team]; rfl

end

/-! ### The page fault of an engine (R142) -/

/-- The trap that a page fault of an engine raises. -/
def engineFault (s : State) (uid k : Nat) (x : Word64) : Trap :=
  { cause := 0x07, detail := k, addr := x, lanes := s.team.mask, scalar := true, cmd := some uid }

theorem engineFault_soft {s : State} {uid k : Nat} {x : Word64} : (engineFault s uid k x).cause ≠ 0x10 := by
  show (0x07 : Nat) ≠ 0x10
  decide

/-- A trap that is entered leaves which team is the current one. -/
theorem takeTrap_cur {s : State} {k : Nat} (can : CanTrapAt s k) {tr : Trap} (hard : tr.cause ≠ 0x10) (spc resume : Word64)
    (aside : List RunEntry) : (takeTrap s k tr spc resume aside).cur = s.cur := by
  obtain ⟨user, handler, confirmed, first⟩ := can
  have due := State.trapVoid_false first tr.cause
  have serves : ((s.ctxAt (teamCtx k)).trapBase == 0) = false := by simpa using handler
  have soft : (tr.cause == 0x10) = false := by simpa using hard
  simp only [takeTrap, deliverTrap, confirmed, due, user, serves, soft, Bool.or_self, Bool.false_eq_true, if_false]
  split <;> rfl

/-- Entering the handler for the page fault of an engine. -/
theorem engineTrap_enters {s : State} (can : CanTrap s) (uid k : Nat) (x : Word64) :
    ∃ t, engineTrap s uid k x = .next t ∧ t.team.sup = true ∧ t.team.spc = s.ctx.trapBase ∧ t.team.trapAddr = x ∧
      t.team.trapInfo = trapInfoWord (engineFault s uid k x) ∧
      t.team.trapRet = some { mask := s.team.mask, spc := s.team.spc, resume := s.team.spc, aside := [], cmd := some uid } := by
  have canAt : CanTrapAt s s.cur := ⟨can.user, can.handler, can.confirmed, can.first⟩
  obtain ⟨⟨progress, entered⟩, -⟩ := takeTrap_enters canAt (tr := engineFault s uid k x) engineFault_soft s.team.spc s.team.spc []
  refine ⟨takeTrap s s.cur (engineFault s uid k x) s.team.spc s.team.spc [], ?_, ?_⟩
  · simp only [engineTrap, can.retired, if_true, engineFault]
  · rw [State.team, takeTrap_cur canAt engineFault_soft, entered]
    exact ⟨rfl, rfl, rfl, rfl, rfl⟩

/-- Settles O10: sealing finishes the batches without commands left, and `BWAIT` goes on from the state that `drainOps` leaves. -/
theorem batchesAreSealedAndAwaited : Obligations.BatchesAreSealedAndAwaited := by
  refine ⟨fun sc s => ⟨exec_bseal_waits, fun settled room => ?sealing⟩, fun d n s s1 => ⟨fun few waits => ?_, exec_bwait_returns,
    fun many => ⟨fun none => ?_, fun uid k x held can => ?_⟩⟩⟩
  case sealing =>
    obtain ⟨k, finishes⟩ := (s.team.sealBatch sc).finishAll_finishes
    obtain ⟨t, done, only, team⟩ := finishes.bseal
    refine ⟨t, k, (exec_bseal_seals settled room).trans done, only, ?_, finishes.done, finishes.left, fun record => ?_⟩
    · rw [team]; rfl
    · rw [team]; exact finishes.record record
  · rw [exec_bwait_drains few, withDrained, waits]
  · exact exec_bwait_waits many none
  · obtain ⟨t, e, sup, spc, addr, info, ret⟩ := engineTrap_enters can uid k x
    refine ⟨t, (exec_bwait_faults many held).trans e, sup, spc, addr, ?_, ?_, _, ret, rfl, rfl⟩
    · rw [info]; exact trapInfoWord_cause _
    · rw [info]; exact trapInfoWord_detail _

end Sys2Proof.Machine
end

section
/-! SUPPORT. The next byte of a command in flight: its places, the accesses of the engine, and what its completion leaves
(R139, R140, R144, R147, R153, R352). -/

namespace Sys2Proof.Machine

/-! ### The places of a byte (R144, R146, R352, R353) -/

theorem CopyCmd.place_eq (y : CopyCmd) (m space a : Nat) : y.place m space a =
    if space = 1 ∧ m ≠ 0 then .at_ 1 (a / 2 ^ 24 * 2 ^ 24 + (a % 2 ^ 24 ^^^ (a % 2 ^ 24 / 2 ^ y.b % 2 ^ m * 2 ^ y.k))) else .at_ space a := by
  unfold CopyCmd.place swizzle
  by_cases scratch : space = 1
  · by_cases plain : m = 0
    · simp only [scratch, plain, ne_eq, not_true_eq_false, and_false, if_true, if_false]
      rw [Nat.div_add_mod']
    · simp only [scratch, plain, ne_eq, not_false_eq_true, and_self, if_true, if_false]
  · simp only [scratch, false_and, if_false]

theorem flushByte_eq (x : Word32) {k : Nat} (h : k < 4) : (leBytes 4 x.toNat).getD k 0 = x.extractLsb' (8 * k) 8 := by
  rw [leBytes_getD, if_pos h]
  apply BitVec.eq_of_toNat_eq
  rw [BitVec.extractLsb'_toNat, BitVec.toNat_ofNat, Nat.shiftRight_eq_div_pow, Nat.pow_mul]

theorem bytePlaces_eq_ends (x : CmdBody) (index : List Nat) (j : Nat) : bytePlaces x index j = x.ends index j := by
  cases x with
  | copy w0 w1 w2 w3 =>
    simp only [CmdBody.ends, CopyCmd.place_eq]
    rfl
  | xfer out core n rows lo hi glo ghi => rfl
  | flush a vals =>
    simp only [CmdBody.ends, flushByte_eq _ (Nat.mod_lt j (by decide : 4 > 0))]
    rfl

theorem countedBytes_eq_counted (x : CmdBody) (n : Nat) : countedBytes x n = x.counted n := by cases x <;> rfl

/-! ### An access of the engine (R142, R217) -/

section
variable {s t : State} {r : ChanRef} {c : Cmd} {page page' : Option UnitXl} {a va key : Nat} {write : Bool}

theorem engineUnit_stays {p : UnitXl} (unit : p.unit = va / 4096) :
    engineUnit s r c (some p) va write = (.ok (p.pa + va % 4096) p.tier p.dev p.mc, s) := if_pos unit

theorem engineUnit_translates (away : ∀ p, page = some p → p.unit ≠ va / 4096) :
    engineUnit s r c page va write = s.translate (engineWho s r c) (BitVec.ofNat 64 va) (if write then .write else .read) := by
  cases page with
  | none => rfl
  | some p => exact if_neg (away p rfl)

theorem engineWho_translated {x : Xl} {w : Who} {k : Access} {z : Word64} (h : s.translate w z k = (x, t)) :
    engineWho t r c = engineWho s r c := by
  rw [State.translate_eq h]; rfl

theorem ofNat_mod_word (a : Nat) : BitVec.ofNat 64 (a % 2 ^ 64) = BitVec.ofNat 64 a := by
  apply BitVec.eq_of_toNat_eq; simp

theorem EngineFinds.met (h : EngineFinds s r c page a write key t page') : engineVirtual s r c page a write = .ok t key page' := by
  obtain ⟨pa, tier, dev, mc, bits, found, placed, inMemory, rfl⟩ := h
  have va : (BitVec.ofNat 64 a).toNat = a % 2 ^ 64 := BitVec.toNat_ofNat ..
  rcases found with ⟨p, rfl, unit, rfl, rfl, rfl, rfl, rfl, rfl⟩ | ⟨away, translated, rfl⟩
  · have here : (some p).filter (fun p => p.unit == a % 2 ^ 64 / 4096) = some p := Option.filter_some_pos (by simpa using unit)
    simp only [engineVirtual, va, engineUnit_stays unit, placed, inMemory, Bool.false_eq_true, if_false, here]
    simp
  · have unit : engineUnit s r c page (a % 2 ^ 64) write = (.ok pa tier dev mc, t) := by
      rw [engineUnit_translates away, ofNat_mod_word]; exact translated
    have elsewhere : page.filter (fun p => p.unit == a % 2 ^ 64 / 4096) = none := by
      cases page with
      | none => rfl
      | some p => exact Option.filter_some_neg (by simpa using away p rfl)
    simp only [engineVirtual, va, unit, placed, inMemory, Bool.false_eq_true, if_false, elsewhere, engineWho_translated translated]
    rfl

/-- Looking a byte up leaves all but the memory, where the tables stand, and the translation buffers. -/
theorem EngineFinds.rest (h : EngineFinds s r c page a write key t page') : t = { s with mem := t.mem, cores := t.cores } := by
  obtain ⟨pa, tier, dev, mc, bits, found, -, -, -⟩ := h
  rcases found with ⟨-, -, -, rfl, -⟩ | ⟨-, translated, -⟩
  · rfl
  · exact State.translate_eq translated

theorem engineVirtual_faults {d : Nat} (h : s.translate (engineWho s r c) (BitVec.ofNat 64 a) .read = (.fault d, t)) :
    engineVirtual s r c none a false = .fault t (d + 4) (BitVec.ofNat 64 a) := by
  have unit : engineUnit s r c none (BitVec.ofNat 64 a).toNat false = (.fault d, t) := by
    rw [engineUnit_translates (by simp), BitVec.ofNat_toNat, BitVec.setWidth_eq]; exact h
  simp only [engineVirtual, unit] <;> rfl

end

/-! ### Reading and writing a byte -/

/-- `t` keeps the teams, the clock and every channel of `s`. -/
structure KeepsChans (s t : State) : Prop where
  teams : t.teams = s.teams
  clock : t.clock = s.clock
  chan : ∀ q, t.chan q = s.chan q
  has : ∀ q, HasChan s q → HasChan t q

theorem KeepsChans.refl (s : State) : KeepsChans s s := ⟨rfl, rfl, fun _ => rfl, fun _ h => h⟩

theorem KeepsChans.trans {s t u : State} (h : KeepsChans s t) (k : KeepsChans t u) : KeepsChans s u :=
  ⟨k.teams.trans h.teams, k.clock.trans h.clock, fun q => (k.chan q).trans (h.chan q), fun q has => k.has q (h.has q has)⟩

theorem KeepsChans.of_eq {s t : State} (teams : t.teams = s.teams) (clock : t.clock = s.clock) (blocks : t.blocks = s.blocks) :
    KeepsChans s t := ⟨teams, clock, State.chan_of_eq blocks, fun _ has => has.of_eq blocks⟩

theorem State.share_scratchWriteBytes (s : State) (b ci off : Nat) (xs : List Byte) (b' ci' : Nat) :
    (((s.scratchWriteBytes b ci off xs).blockAt b').share ci').chans = ((s.blockAt b').share ci').chans := by
  simp only [State.scratchWriteBytes, State.updShare]
  by_cases block : b' = b
  · subst block
    rw [State.blockAt_setBlockAt_same]
    simp only [Block.share, listUpd_getD]
    split
    · rfl
    · rfl
  · rw [State.blockAt_setBlockAt_other _ _ block]

theorem State.shares_scratchWriteBytes (s : State) (b ci off : Nat) (xs : List Byte) (b' : Nat) :
    ((s.scratchWriteBytes b ci off xs).blockAt b').shares.length = (s.blockAt b').shares.length := by
  simp only [State.scratchWriteBytes, State.updShare]
  by_cases block : b' = b
  · subst block
    rw [State.blockAt_setBlockAt_same, listUpd_length]
  · rw [State.blockAt_setBlockAt_other _ _ block]

theorem State.scratchWriteBytes_keepsChans (s : State) (b ci off : Nat) (xs : List Byte) : KeepsChans s (s.scratchWriteBytes b ci off xs) where
  teams := rfl
  clock := rfl
  chan q := by simp only [State.chan, State.chanAt, State.share_scratchWriteBytes]
  has q has := ⟨by rw [State.shares_scratchWriteBytes]; exact has.core, by rw [State.share_scratchWriteBytes]; exact has.chan⟩

theorem foldl_scratchWriteBytes_keepsChans (b off : Nat) (xs : List Byte) (cores : List Nat) :
    ∀ s : State, KeepsChans s (cores.foldl (fun u n => u.scratchWriteBytes b n off xs) s) := by
  induction cores with
  | nil => exact .refl
  | cons n rest ih => exact fun s => (s.scratchWriteBytes_keepsChans b n off xs).trans (ih _)

section
variable {s t : State} {r : ChanRef} {c : Cmd} {page page' : Option UnitXl} {e : End} {v : Byte}

theorem ReadsByte.read (h : ReadsByte s r c page e v t page') : ∃ key, engineRead s r c page e = (.ok t key page', v) := by
  match e, h with
  | .held x, h =>
    obtain ⟨rfl, rfl, rfl⟩ := h
    exact ⟨0, rfl⟩
  | .at_ 0 a, h =>
    obtain ⟨key, finds, rfl⟩ := h
    exact ⟨key, by simp only [engineRead, finds.met]⟩
  | .at_ 1 a, h =>
    obtain ⟨ci, off, target, rfl, rfl, rfl⟩ := h
    exact ⟨0, by simp only [engineRead, engineScratch, target, Option.getD_some]⟩
  | .at_ 2 a, h =>
    obtain ⟨key, region, ended, rfl, rfl, rfl⟩ := h
    have readable : (refreshRemaining t.clock (bitsOf a 12 4) != 0) = false := bne_eq_false_iff_eq.mpr ended
    exact ⟨0, by simp only [engineRead, region, readable, Bool.false_eq_true, if_false]⟩

theorem ReadsByte.rest (h : ReadsByte s r c page e v t page') : t = { s with mem := t.mem, cores := t.cores } := by
  match e, h with
  | .held x, h => obtain ⟨-, rfl, -⟩ := h; rfl
  | .at_ 0 a, h => obtain ⟨key, finds, -⟩ := h; exact finds.rest
  | .at_ 1 a, h => obtain ⟨ci, off, -, -, rfl, -⟩ := h; rfl
  | .at_ 2 a, h => obtain ⟨key, -, -, -, rfl, -⟩ := h; rfl

theorem ReadsByte.keepsChans (h : ReadsByte s r c page e v t page') : KeepsChans s t := by
  have rest := h.rest
  exact .of_eq (by rw [rest]) (by rw [rest]) (by rw [rest])

theorem maskedCores_eq (s : State) (r : ChanRef) (mask : Nat) :
    maskedCores s r mask = (List.range (s.blockAt r.blk).shares.length).filter (fun n => mask.testBit n) := by
  simp only [maskedCores, bit_eq_testBit]

/-- A multicast writes its byte on every core of its mask. -/
theorem engineWrite_multicast {w0 w1 w2 w3 : Word64} (body : c.body = .copy w0 w1 w2 w3) (kind : (copyOf w0 w1 w2 w3).kind = 4) (a : Nat) :
    engineWrite s r c page (.at_ 1 a) v = .ok ((maskedCores s r (copyOf w0 w1 w2 w3).mask).foldl
      (fun s n => s.scratchWriteBytes r.blk n (a % 2 ^ 24) [v]) s) 0 page := by
  simp only [engineWrite, body, kind, if_true]

theorem engineWrite_scratch (single : ¬ ∃ w0 w1 w2 w3, c.body = .copy w0 w1 w2 w3 ∧ (copyOf w0 w1 w2 w3).kind = 4) (a : Nat) :
    engineWrite s r c page (.at_ 1 a) v =
      .ok (s.scratchWriteBytes r.blk (engineScratch s r a).1 (engineScratch s r a).2 [v]) 0 page := by
  cases body : c.body with
  | copy w0 w1 w2 w3 =>
    have kind : (copyOf w0 w1 w2 w3).kind ≠ 4 := fun kind => single ⟨w0, w1, w2, w3, body, kind⟩
    simp only [engineWrite, body, kind, if_false]
  | xfer => simp only [engineWrite, body]
  | flush => simp only [engineWrite, body]

/-- A byte written through a virtual address. -/
theorem WritesByte.write_virtual {a : Nat} (h : WritesByte s r c page (.at_ 0 a) v t page') :
    (∃ key, engineWrite s r c page (.at_ 0 a) v = .ok t key page') ∧ KeepsChans s t := by
  obtain ⟨key, u, finds, rfl⟩ := h
  have rest := finds.rest
  refine ⟨⟨key, by simp only [engineWrite, finds.met]⟩, KeepsChans.of_eq ?_ ?_ ?_⟩ <;> rw [rest] <;> rfl

/-- A byte written in scratchpad. -/
theorem WritesByte.write_scratch {a : Nat} (h : WritesByte s r c page (.at_ 1 a) v t page') :
    (∃ key, engineWrite s r c page (.at_ 1 a) v = .ok t key page') ∧ KeepsChans s t := by
  by_cases multicast : ∃ w0 w1 w2 w3, c.body = .copy w0 w1 w2 w3 ∧ (copyOf w0 w1 w2 w3).kind = 4
  · simp only [WritesByte, if_pos multicast] at h
    obtain ⟨rfl, cores, named, rfl⟩ := h
    obtain ⟨w0, w1, w2, w3, body, kind⟩ := multicast
    rw [named w0 w1 w2 w3 body, ← maskedCores_eq]
    exact ⟨⟨0, engineWrite_multicast body kind a⟩, foldl_scratchWriteBytes_keepsChans ..⟩
  · simp only [WritesByte, if_neg multicast] at h
    obtain ⟨rfl, ci, off, target, rfl⟩ := h
    refine ⟨⟨0, ?_⟩, s.scratchWriteBytes_keepsChans ..⟩
    rw [engineWrite_scratch multicast, engineScratch, target, Option.getD_some]

theorem WritesByte.write (h : WritesByte s r c page e v t page') :
    (∃ key, engineWrite s r c page e v = .ok t key page') ∧ KeepsChans s t := by
  match e, h with
  | .at_ 0 a, h => exact h.write_virtual
  | .at_ 1 a, h => exact h.write_scratch
  | .at_ 2 a, h =>
    obtain ⟨key, region, rfl, rfl⟩ := h
    exact ⟨⟨0, by simp only [engineWrite, region]⟩, .of_eq rfl rfl rfl⟩

end

/-! ### The completion of a byte (R139, R140) -/

/-- `t` has the shares of `s`, but for their channels. -/
def OnlyChans (s t : State) : Prop :=
  ∀ b cj, (t.blockAt b).share cj = { (s.blockAt b).share cj with chans := ((t.blockAt b).share cj).chans }

theorem OnlyChans.of_eq {s t : State} (blocks : t.blocks = s.blocks) : OnlyChans s t := by
  intro b cj
  simp only [State.blockAt, blocks]

theorem OnlyChans.trans {s t u : State} (h : OnlyChans s t) (k : OnlyChans t u) : OnlyChans s u := by
  intro b cj
  rw [k b cj, h b cj]

theorem State.updChan_onlyChans (s : State) (b ci ch : Nat) (f : Chan → Chan) : OnlyChans s (s.updChan b ci ch f) := by
  intro b' cj
  simp only [State.updChan, State.updShare]
  by_cases block : b' = b
  · subst block
    rw [State.blockAt_setBlockAt_same]
    simp only [Block.share, listUpd_getD]
    split <;> rfl
  · rw [State.blockAt_setBlockAt_other _ _ block]

theorem endCmd_onlyChans (s : State) (r : ChanRef) (c : Cmd) (st : Nat) : OnlyChans s (endCmd s r c st) :=
  ((OnlyChans.of_eq rfl).trans ((s.dropLocks c.uid).updChan_onlyChans r.blk r.ci r.ch _)).trans (.of_eq rfl)

theorem endCmd_rest (s : State) (r : ChanRef) (c : Cmd) (st : Nat) :
    endCmd s r c st = { s with
      blocks := (endCmd s r c st).blocks, teams := (endCmd s r c st).teams, cores := (endCmd s r c st).cores } := rfl

section
variable {s : State} {r : ChanRef} {c : Cmd} {i : Issue}

/-- The channel once byte `i.done` of its leading command has been counted. -/
def Chan.counting (h : Chan) (c : Cmd) (i : Issue) : Chan :=
  { h with wptr := h.wptr + BitVec.ofNat 64 (c.body.counted (i.done + 1) - c.body.counted i.done) }.setLead
    { i with done := i.done + 1, migr := none }

/-- Byte `i.done` has been counted in `WPTR`. -/
def countByte (s : State) (r : ChanRef) (c : Cmd) (i : Issue) : State := s.updChan r.blk r.ci r.ch (fun h => h.counting c i)

theorem countByte_chan (has : HasChan s r) : (countByte s r c i).chan r = (s.chan r).counting c i :=
  (State.chan_updChan has _ r).trans (if_pos rfl)

/-- A byte that is not the last of its command, where it raises its entry. -/
theorem byteDone_more (more : i.done + 1 < c.body.total) :
    ∃ t, byteDone s r c i = .go t ∧ t = { countByte s r c i with cores := t.cores } := by
  simp only [byteDone, more, if_true]
  refine ⟨_, rfl, ?_⟩
  split <;> rfl

theorem byteDone_last (last : i.done + 1 = c.body.total) : byteDone s r c i = .done (endCmd (countByte s r c i) r c 0) := by
  simp only [byteDone, last, Nat.lt_irrefl, if_false]
  rw [← last]
  rfl

end

theorem Chan.counting_issued {h : Chan} {c : Cmd} {i : Issue} {more : List (Cmd × Issue)} {j : Issue} (lead : h.issued = (c, j) :: more) :
    (h.counting c i).issued = (c, { i with done := i.done + 1, migr := none }) :: more := by
  simp only [Chan.counting, Chan.setLead, lead]
  rfl

/-! ### A move of the engine -/

section
variable {s : State} {core ch : Nat} {r : ChanRef} {c : Cmd} {more : List (Cmd × Issue)} {i : Issue}

theorem exec_copyBytesComplete (core ch n : Nat) (s : State) : exec (.copyBytesComplete core ch n) s = execCopyBytesComplete core ch n s := rfl

/-- The leading command of a channel of a running block goes on, its byte `i.done` next. -/
structure NextByte (s : State) (core ch : Nat) (r : ChanRef) (c : Cmd) (i : Issue) (more : List (Cmd × Issue)) : Prop where
  chan : chanRef s core ch = some r
  lead : (s.chan r).issued = (c, i) :: more
  live : engineLive s r = true
  held : i.held = none
  migr : i.migr = none
  piece : i.piece = none
  left : i.done < c.body.total
  moves : MovesBytes s r c.body i

/-- Every row of a gather from the weight store that is moved lies within the region (R145). -/
theorem MovesBytes.rowGood {x : CmdBody} (h : MovesBytes s r x i) : gatherRowBad s r x i = none := by
  cases x with
  | copy w0 w1 w2 w3 =>
    obtain ⟨-, -, inside⟩ := h
    simp only [gatherRowBad]
    rw [if_neg]
    rintro ⟨kind, space, first, outside⟩
    have row : (copyOf w0 w1 w2 w3).srcAt i.index i.done =
        (copyOf w0 w1 w2 w3).src + i.index.getD (i.done / (copyOf w0 w1 w2 w3).rowBytes) 0 * (copyOf w0 w1 w2 w3).stride := by
      simp only [CopyCmd.srcAt, kind, first, Nat.add_zero]
    rw [row] at outside
    exact inside kind space first (Option.isNone_iff_eq_none.mp outside)
  | xfer => rfl
  | flush => rfl

/-- A move of a command that neither sends nor decodes: the byte read at its source is written at its destination. -/
def plainMove (s : State) (r : ChanRef) (c : Cmd) (i : Issue) : Move :=
  match engineRead s r c i.rd (c.body.ends i.index i.done).1 with
  | (.ok s _ rd, y) =>
    match engineWrite s r c i.wr (c.body.ends i.index i.done).2 y with
    | .ok s _ wr => byteDone s r c { i with rd := rd, wr := wr }
    | m => stopAt s r c { i with rd := rd } (c.body.total - c.body.counted i.done) true m
  | (m, _) => stopAt s r c i (c.body.total - c.body.counted i.done) false m

theorem byteMove_eq_plainMove (moves : MovesBytes s r c.body i) : byteMove s r c i = plainMove s r c i := by
  have good := moves.rowGood
  cases body : c.body with
  | copy w0 w1 w2 w3 =>
    rw [body] at good moves
    obtain ⟨-, plain, -⟩ := moves
    simp only [byteMove, plainMove, body, good, plain, Bool.false_eq_true, if_false] <;> rfl
  | xfer | flush =>
    rw [body] at good
    simp only [byteMove, plainMove, body, good] <;> rfl

theorem NextByte.moves_byte (h : NextByte s core ch r c i more) : engineMove s r = byteMove s r c i := by
  have lead : (s.chan r).lead = some (c, i) := by rw [Chan.lead, h.lead]; rfl
  have some_left : c.body.total ≠ 0 := Nat.ne_of_gt (Nat.lt_of_le_of_lt (Nat.zero_le _) h.left)
  have moves := h.moves
  cases body : c.body with
  | copy w0 w1 w2 w3 =>
    rw [body] at moves some_left
    have kind : (copyOf w0 w1 w2 w3).kind ≠ 5 := moves.1
    simp only [engineMove, lead, h.live, h.held, h.migr, h.piece, body, some_left, kind, Bool.not_true, Option.isSome_none, Bool.false_and,
      Bool.or_self, Bool.false_eq_true, if_false]
  | xfer | flush =>
    rw [body] at some_left
    simp only [engineMove, lead, h.live, h.held, h.migr, h.piece, body, some_left, Bool.not_true, Option.isSome_none, Bool.false_and,
      Bool.or_self, Bool.false_eq_true, if_false]

/-- What one move of the engine answers. -/
def Move.answer : Move → Out
  | .go s => .next s
  | .stop s => .next s
  | .done s => .next s
  | .noMemory => .fault .noSuchMemory

theorem NextByte.exec (h : NextByte s core ch r c i more) : Machine.exec (.copyBytesComplete core ch 1) s = (plainMove s r c i).answer := by
  rw [← byteMove_eq_plainMove h.moves]
  simp only [exec_copyBytesComplete, execCopyBytesComplete, h.chan, engineMoves, h.moves_byte]
  cases byteMove s r c i <;> rfl

end

/-! ### The byte has completed -/

/-- `t` is `s` after byte `i.done` of the command that leads the channel. -/
structure ByteCompletes (s t : State) (r : ChanRef) (c : Cmd) (i : Issue) (more : List (Cmd × Issue)) : Prop where
  rest : t = { s with blocks := t.blocks, teams := t.teams, cores := t.cores }
  shares : OnlyChans s t
  wptr : (t.chan r).wptr = (s.chan r).wptr + BitVec.ofNat 64 (c.body.counted (i.done + 1) - c.body.counted i.done)
  queue : (t.chan r).queue = (s.chan r).queue
  goes : i.done + 1 < c.body.total → t.teams = s.teams ∧ (t.chan r).issued = (c, { i with done := i.done + 1, migr := none }) :: more
  ends : i.done + 1 = c.body.total → (t.chan r).issued.map (·.1) = more.map (·.1) ∧
    (t.teamAt c.team).cmds = (s.teamAt c.team).cmds.filter (fun j => j != c.id) ∧ ∀ k, ∀ e ∈ (t.coreAt k).locks, e.2.uid ≠ c.uid

section
variable {s : State} {core ch : Nat} {r : ChanRef} {c : Cmd} {more : List (Cmd × Issue)} {i j : Issue}

theorem byteDone_goes (has : HasChan s r) (lead : (s.chan r).issued = (c, j) :: more) (left : i.done + 1 < c.body.total) :
    ∃ t, byteDone s r c i = .go t ∧ ByteCompletes s t r c i more := by
  obtain ⟨t, done, rest⟩ := byteDone_more (s := s) (r := r) left
  have blocks : t.blocks = (countByte s r c i).blocks := by rw [rest]
  have chan : t.chan r = (s.chan r).counting c i := (State.chan_of_eq blocks r).trans (countByte_chan has)
  refine ⟨t, done, ?_, (s.updChan_onlyChans r.blk r.ci r.ch _).trans (.of_eq blocks), by rw [chan]; rfl, by rw [chan]; rfl, fun _ => ⟨?_, ?_⟩,
    fun last => absurd last (Nat.ne_of_lt left)⟩
  · rw [rest]; rfl
  · rw [rest]; rfl
  · rw [chan]; exact Chan.counting_issued lead

theorem byteDone_ends (has : HasChan s r) (lead : (s.chan r).issued = (c, j) :: more) (last : i.done + 1 = c.body.total) :
    ∃ t, byteDone s r c i = .done t ∧ ByteCompletes s t r c i more := by
  have chan : (endCmd (countByte s r c i) r c 0).chan r = ((s.chan r).counting c i).advance s.clock := by
    have counted : HasChan (countByte s r c i) r := has.updChan _
    rw [endCmd_chan counted, countByte_chan has]
    rfl
  refine ⟨_, byteDone_last last, endCmd_rest (countByte s r c i) r c 0,
    (s.updChan_onlyChans r.blk r.ci r.ch _).trans (endCmd_onlyChans (countByte s r c i) r c 0),
    by rw [chan]; rfl, by rw [chan]; rfl,
    fun left => absurd last (Nat.ne_of_lt left), fun _ => ⟨?_, endCmd_cmds .., endCmd_locks _ r c 0⟩⟩
  rw [chan, Chan.advance_issued, Chan.counting_issued lead]
  rfl

theorem NextByte.completes (h : NextByte s core ch r c i more) {v : Byte} {s1 s2 : State} {rd wr : Option UnitXl}
    (reads : ReadsByte s r c i.rd (c.body.ends i.index i.done).1 v s1 rd)
    (writes : WritesByte s1 r c i.wr (c.body.ends i.index i.done).2 v s2 wr) :
    KeepsChans s s2 ∧ ∃ t, Machine.exec (.copyBytesComplete core ch 1) s = .next t ∧
      ByteCompletes s2 t r c { i with rd := rd, wr := wr } more := by
  obtain ⟨_, read⟩ := reads.read
  obtain ⟨⟨_, written⟩, keeps⟩ := writes.write
  have keeps := reads.keepsChans.trans keeps
  have has : HasChan s2 r := keeps.has r (chanRef_hasChan h.chan)
  have lead : (s2.chan r).issued = (c, i) :: more := by rw [keeps.chan]; exact h.lead
  have moved : plainMove s r c i = byteDone s2 r c { i with rd := rd, wr := wr } := by simp only [plainMove, read, written]
  refine ⟨keeps, ?_⟩
  rw [h.exec, moved]
  rcases Nat.lt_or_eq_of_le h.left with left | last
  · obtain ⟨t, done, completes⟩ := byteDone_goes (i := { i with rd := rd, wr := wr }) has lead left
    exact ⟨t, by rw [done]; rfl, completes⟩
  · obtain ⟨t, done, completes⟩ := byteDone_ends (i := { i with rd := rd, wr := wr }) has lead last
    exact ⟨t, by rw [done]; rfl, completes⟩

/-- A command whose source faults is held at it. -/
theorem NextByte.faults (h : NextByte s core ch r c i more) {a d : Nat} {s3 : State} (place : (c.body.ends i.index i.done).1 = .at_ 0 a)
    (fault : s.translate (engineWho s r c) (BitVec.ofNat 64 a) .read = (.fault d, s3)) (fresh : i.rd = none) :
    Machine.exec (.copyBytesComplete core ch 1) s =
      .next (s3.setLead r { i with held := some (d + 4, BitVec.ofNat 64 a), migr := none, rd := none, wr := none }) := by
  have read : engineRead s r c i.rd (c.body.ends i.index i.done).1 = (.fault s3 (d + 4) (BitVec.ofNat 64 a), 0) := by
    rw [place, fresh]; simp only [engineRead, engineVirtual_faults fault]
  rw [h.exec, plainMove, read]
  rfl

theorem State.setLead_chan {s3 : State} (has : HasChan s r) (blocks : s3.blocks = s.blocks) (lead : (s.chan r).issued = (c, i) :: more) :
    (s3.setLead r j).chan r = { s.chan r with issued := (c, j) :: more } := by
  rw [State.setLead, State.chan_updChan (has.of_eq blocks), if_pos rfl, State.chan_of_eq blocks, Chan.setLead, lead]
  rfl

end

/-- Settles O47: the places are those of the model, and the byte read there is written, counted and, where it is the last, ends the command. -/
theorem copiesMoveTheirBytes : Obligations.CopiesMoveTheirBytes := by
  intro s core ch r c more i v s1 rd
  dsimp only
  intro chan lead live held migr piece left moves
  have next : NextByte s core ch r c i more := ⟨chan, lead, live, held, migr, piece, left, moves⟩
  simp only [bytePlaces_eq_ends, countedBytes_eq_counted]
  refine ⟨fun reads s2 wr writes => ?_, fun a d s3 place fault fresh => ⟨_, next.faults place fault fresh, ?_, ?_⟩⟩
  · obtain ⟨keeps, t, exec, done⟩ := next.completes reads writes
    refine ⟨t, exec, done.rest, done.shares, ?_, ?_, fun left => ?_, fun last => ?_⟩
    · rw [done.wptr, keeps.chan]
    · rw [done.queue, keeps.chan]
    · obtain ⟨teams, issued⟩ := done.goes left
      exact ⟨teams.trans keeps.teams, by rw [issued, migr]⟩
    · obtain ⟨issued, cmds, locks⟩ := done.ends last
      exact ⟨issued, by rw [cmds, State.teamAt, keeps.teams]; rfl, locks⟩
  · rw [State.setLead]; rfl
  · exact State.setLead_chan (chanRef_hasChan chan) (by rw [State.translate_eq fault]) lead

end Sys2Proof.Machine
end

section
/-! SUPPORT. The writes of the host: registers, doorbells, job queues, settings, the device number and pool regions (R157, R158, R194,
R406, R408, R411, R414, R415, R418). -/

namespace Sys2Proof.Machine

/-! ### A write that changes one virtual function -/

/-- `t` is `s`, but for virtual function `vf`. -/
def OnlyVf (s t : State) (vf : Nat) : Prop := t = { s with vfs := t.vfs } ∧ ∀ j, j ≠ vf → t.vfAt j = s.vfAt j

theorem State.vfAt_setVfAt_same {s : State} {vf : Nat} (v : VFun) (inside : vf < s.vfs.length) : (s.setVfAt vf v).vfAt vf = v := by
  rw [State.vfAt, State.setVfAt, listUpd_getD, if_pos ⟨rfl, inside⟩]

theorem State.vfAt_setVfAt_other {s : State} {vf j : Nat} (v : VFun) (other : j ≠ vf) : (s.setVfAt vf v).vfAt j = s.vfAt j := by
  rw [State.vfAt, State.setVfAt, listUpd_getD, if_neg fun h => other h.1]
  rfl

theorem State.setVfAt_onlyVf (s : State) (vf : Nat) (v : VFun) : OnlyVf s (s.setVfAt vf v) vf :=
  ⟨rfl, fun _ other => State.vfAt_setVfAt_other v other⟩

section
variable {s : State} {vf : Nat}

theorem setsVf {i : Instr} {v : VFun} (inside : vf < s.vfs.length) (e : exec i s = .next (s.setVfAt vf v)) :
    ∃ t, exec i s = .next t ∧ OnlyVf s t vf ∧ t.vfAt vf = v := ⟨_, e, s.setVfAt_onlyVf vf v, State.vfAt_setVfAt_same v inside⟩

theorem State.vfUp_of (up : vf < 16 ∧ 3 ≤ s.bootStep ∧ s.sriov.getLsbD (s.vfAt vf).port = true) : s.vfUp vf = true := by
  obtain ⟨named, started, enabled⟩ := up
  simp only [State.vfUp, State.started, named, started, enabled, decide_true, Bool.and_self]

/-! ### Registers and doorbells of a virtual function (R157, R158, R194, R406) -/

theorem exec_vfRegisterWrite (up : s.vfUp vf = true) (off : Nat) (x : Word64) :
    exec (.registerWrite false vf off x) s = .next (s.setVfAt vf ((s.vfAt vf).write off x)) := by
  show execRegisterWrite false vf off x s = _
  simp only [execRegisterWrite, up, Bool.false_eq_true, if_false, if_true]

theorem low5_eq (x : Word64) : BitVec.ofNat 64 (x.toNat % 32) = x &&& 31 := by
  apply BitVec.eq_of_toNat_eq
  rw [BitVec.toNat_and, BitVec.toNat_ofNat, show (31 : Word64).toNat = 2 ^ 5 - 1 from rfl, Nat.and_two_pow_sub_one_eq_mod]
  omega

theorem VFun.write_ringSize (v : VFun) (x : Word64) :
    v.write 0x0018 x = { v with ringSize := x &&& 31, ringTail := (v.write 0x0018 x).ringTail } := by
  generalize e : v.write 0x0018 x = w
  simp only [VFun.write, low5_eq, show (0x0018 : Nat) ≠ 0x0008 by decide, show (0x0018 : Nat) ≠ 0x0010 by decide, if_false, if_true] at e
  rw [← e]
  split <;> rfl

theorem exec_eventHeadDoorbell (up : s.vfUp vf = true) (x : Word32) :
    exec (.eventHeadDoorbell vf x) s = .next (s.setVfAt vf { s.vfAt vf with ringHead := x.setWidth 64 }) := by
  show execEventHeadDoorbell vf x s = _
  simp only [execEventHeadDoorbell, up, if_true]

theorem exec_perfCounterClear (up : s.vfUp vf = true) {core n : Nat} (named : core < s.nCores) (counter : n < 32) :
    exec (.perfCounterClear vf core n) s = .next { s with perf := s.perf.set (perfKey core vf n) 0 } :=
  if_pos ⟨up, named, counter⟩

/-! ### Job queues (R157, R411) -/

theorem sizeOk_iff (n : Nat) : sizeOk n = true ↔ 4 ≤ n ∧ n ≤ 16 := by simp [sizeOk]

theorem sizeOk_false {n : Nat} (h : ¬(4 ≤ n ∧ n ≤ 16)) : sizeOk n = false := Bool.eq_false_iff.mpr fun ok => h ((sizeOk_iff n).mp ok)

section
variable (q : JobQueue) (on : Bool) (x : BitVec 128)

/-- A write of a job queue register whose sticky status bits are 0 clears the sticky status. -/
def JobQueue.unstick : JobQueue := if x.extractLsb' 96 32 = 0 then { q with sticky := 0 } else q

theorem JobQueue.unstick_eq : q.unstick x = { q with sticky := if x.extractLsb' 96 32 = 0 then 0 else q.sticky } := by
  unfold JobQueue.unstick
  split <;> rfl

theorem JobQueue.write_enabled (enabled : 4 ≤ q.size.toNat ∧ q.size.toNat ≤ 16) :
    q.write on x = { q.unstick x with size := if x.extractLsb' 59 5 = 0 then 0 else q.size } := by
  have ok : sizeOk (q.unstick x).size.toNat = true := by rw [JobQueue.unstick_eq]; exact (sizeOk_iff _).mpr enabled
  have size : (q.unstick x).size = q.size := by rw [JobQueue.unstick_eq]
  have e : q.write on x = if x.extractLsb' 59 5 = 0 then { q.unstick x with size := 0 } else q.unstick x := if_pos ok
  rw [e]
  split
  · rfl
  · rw [← size]

/-- A ring index within the entries of a size. -/
def keptIndex (size : BitVec 5) (i : BitVec 16) : BitVec 16 := BitVec.ofNat 16 (i.toNat % 2 ^ size.toNat)

theorem keptIndex_toNat (size : BitVec 5) (i : BitVec 16) : (keptIndex size i).toNat = i.toNat % 2 ^ size.toNat := by
  rw [keptIndex, BitVec.toNat_ofNat]
  exact Nat.mod_eq_of_lt (Nat.lt_of_le_of_lt (Nat.mod_le _ _) i.isLt)

theorem JobQueue.write_disabled (disabled : ¬(4 ≤ q.size.toNat ∧ q.size.toNat ≤ 16)) :
    q.write on x = if (sizeOk (x.extractLsb' 59 5).toNat && on) = true then
        { q.unstick x with
          base := x.extractLsb' 0 58, size := x.extractLsb' 59 5
          head := keptIndex (x.extractLsb' 59 5) q.head, tail := keptIndex (x.extractLsb' 59 5) q.tail }
      else { q.unstick x with base := x.extractLsb' 0 58, size := 0 } := by
  have bad : ¬ sizeOk (q.unstick x).size.toNat = true := by
    rw [JobQueue.unstick_eq]; exact fun ok => disabled ((sizeOk_iff _).mp ok)
  have head : (q.unstick x).head = q.head := by rw [JobQueue.unstick_eq]
  have tail : (q.unstick x).tail = q.tail := by rw [JobQueue.unstick_eq]
  have e : q.write on x = if (sizeOk (x.extractLsb' 59 5).toNat && on) = true then
        { q.unstick x with
          base := x.extractLsb' 0 58, size := x.extractLsb' 59 5
          head := keptIndex (x.extractLsb' 59 5) (q.unstick x).head, tail := keptIndex (x.extractLsb' 59 5) (q.unstick x).tail }
      else { q.unstick x with base := x.extractLsb' 0 58, size := 0 } := if_neg bad
  rw [e, head, tail]

/-- What a write of the register of a job queue leaves in it. -/
structure QueueWritten (q new : JobQueue) (on : Bool) (x : BitVec 128) : Prop where
  sticky : new.sticky = if x.extractLsb' 96 32 = 0 then 0 else q.sticky
  enabled : 4 ≤ q.size.toNat ∧ q.size.toNat ≤ 16 →
    new.base = q.base ∧ new.head = q.head ∧ new.tail = q.tail ∧ new.size = if x.extractLsb' 59 5 = 0 then 0 else q.size
  disabled : ¬(4 ≤ q.size.toNat ∧ q.size.toNat ≤ 16) → new.base = x.extractLsb' 0 58 ∧
    new.size = (if 4 ≤ (x.extractLsb' 59 5).toNat ∧ (x.extractLsb' 59 5).toNat ≤ 16 ∧ on = true then x.extractLsb' 59 5 else 0) ∧
    (new.size ≠ 0 → new.head.toNat = q.head.toNat % 2 ^ (x.extractLsb' 59 5).toNat ∧
      new.tail.toNat = q.tail.toNat % 2 ^ (x.extractLsb' 59 5).toNat)

theorem JobQueue.write_written : QueueWritten q (q.write on x) on x := by
  by_cases was : 4 ≤ q.size.toNat ∧ q.size.toNat ≤ 16
  · rw [q.write_enabled on x was, JobQueue.unstick_eq]
    exact ⟨rfl, fun _ => ⟨rfl, rfl, rfl, rfl⟩, fun disabled => absurd was disabled⟩
  · rw [q.write_disabled on x was, JobQueue.unstick_eq]
    split
    · next enables =>
      rw [Bool.and_eq_true, sizeOk_iff] at enables
      obtain ⟨⟨least, most⟩, ring⟩ := enables
      exact ⟨rfl, fun enabled => absurd enabled was, fun _ => ⟨rfl, (if_pos ⟨least, most, ring⟩).symm,
        fun _ => ⟨keptIndex_toNat .., keptIndex_toNat ..⟩⟩⟩
    · next leaves =>
      rw [Bool.and_eq_true, sizeOk_iff] at leaves
      exact ⟨rfl, fun enabled => absurd enabled was, fun _ => ⟨rfl, (if_neg fun ⟨least, most, ring⟩ => leaves ⟨⟨least, most⟩, ring⟩).symm,
        fun size => absurd rfl size⟩⟩

end

theorem exec_jobQueueWrite (up : s.vfUp vf = true) (q : Nat) (x : BitVec 128) :
    exec (.jobQueueWrite vf q x) s =
      .next (s.setVfAt vf { s.vfAt vf with queues := listUpd (s.vfAt vf).queues q (fun y => y.write (s.vfAt vf).ringOn x) }) := by
  show execJobQueueWrite vf q x s = _
  simp only [execJobQueueWrite, up, if_true]

theorem exec_tailDoorbell (up : s.vfUp vf = true) {q : Nat} (enabled : sizeOk ((s.vfAt vf).queues.getD q {}).size.toNat = true) (z : BitVec 16) :
    exec (.tailDoorbell vf q z) s = if 2 ^ ((s.vfAt vf).queues.getD q {}).size.toNat ≤ z.toNat then .next (s.queueError vf q 0 0x0006)
      else .next (s.setVfAt vf { s.vfAt vf with queues := listUpd (s.vfAt vf).queues q (fun y => { y with tail := z }) }) := by
  show execTailDoorbell vf q z s = _
  simp only [execTailDoorbell, up, enabled, Bool.not_true, Bool.false_eq_true, if_false]

end

theorem listUpd_getD_same {α : Type} {xs : List α} {k : Nat} (inside : k < xs.length) (f : α → α) (d : α) :
    (listUpd xs k f).getD k d = f (xs.getD k d) := by rw [listUpd_getD, if_pos ⟨rfl, inside⟩]

theorem listUpd_getD_other {α : Type} (xs : List α) {k j : Nat} (other : j ≠ k) (f : α → α) (d : α) :
    (listUpd xs k f).getD j d = xs.getD j d := by rw [listUpd_getD, if_neg fun h => other h.1]

/-! ### Settings (R414, R415) -/

section
variable {s : State} {pf vf : Nat}

theorem exec_settingsWrite4 (named : vf < 16) (presented : s.pfUp pf = true) (own : (s.vfAt vf).port = pf) {off : Nat} (word : off % 4 = 0)
    (x : Word64) : exec (.settingsWrite pf vf off 4 x) s = .next (s.setVfAt vf { s.vfAt vf with
      set := (s.vfAt vf).set.write4 (s.otherMinimums vf) off (x.toNat % 2 ^ 32)
      past := (s.vfAt vf).past ++ [(s.clock, (s.vfAt vf).set)] }) := by
  refine (if_neg ?_).trans ?_
  · simp [named, presented, own, word]
  · rfl

theorem within_iff (lo hi x : Nat) : within lo hi x = true ↔ lo ≤ x ∧ x ≤ hi := by simp [within]

/-- The fields of four bytes of a settings block, each with its range. -/
def timeFields : List (Nat × Nat × Nat) := [(0, 1000, 10000000), (4, 100, 100000), (8, 100, 1000000), (12, 1000, 60000000)]

/-- A settings block with the field of four bytes at an offset. -/
def Settings.withTime (y : Settings) (off u : Nat) : Settings :=
  match off with
  | 0 => { y with stall := u }
  | 4 => { y with shoot := u }
  | 8 => { y with migrate := u }
  | _ => { y with watchdog := u }

theorem Settings.write4_time (y : Settings) (others u : Nat) {f : Nat × Nat × Nat} (field : f ∈ timeFields) :
    y.write4 others f.1 u = if f.2.1 ≤ u ∧ u ≤ f.2.2 then y.withTime f.1 u else y := by
  simp only [timeFields, List.mem_cons, List.not_mem_nil, or_false] at field
  rcases field with rfl | rfl | rfl | rfl <;> simp only [Settings.write4, Settings.withTime, within_iff]

theorem timeFields_aligned {f : Nat × Nat × Nat} (field : f ∈ timeFields) : f.1 % 4 = 0 := by
  simp only [timeFields, List.mem_cons, List.not_mem_nil, or_false] at field
  rcases field with rfl | rfl | rfl | rfl <;> rfl

/-- What a write of the cache shares and the weight leaves in a settings block. -/
structure SharesWritten (y z : Settings) (others lo hi weight : Nat) : Prop where
  rest : z = { y with cmin := z.cmin, cmax := z.cmax, weight := z.weight }
  cmin : z.cmin = if lo ≤ 64 ∧ lo + others ≤ 64 then lo else y.cmin
  cmax : z.cmax = if z.cmin ≤ hi ∧ hi ≤ 64 then hi else y.cmax
  weight : z.weight = if 1 ≤ weight ∧ weight ≤ 15 then weight else y.weight

theorem Settings.write4_shares (y : Settings) (others u : Nat) :
    SharesWritten y (y.write4 others 16 u) others (u % 256) (u / 2 ^ 8 % 256) (u / 2 ^ 16 % 256) := by
  simp only [Settings.write4, bitsOf, within_iff, show (2 : Nat) ^ 8 = 256 from rfl]
  generalize u % 256 = lo
  generalize u / 256 % 256 = hi
  generalize u / 2 ^ 16 % 256 = weight
  generalize low : (if lo ≤ 64 ∧ lo + others ≤ 64 then { y with cmin := lo } else y) = y1
  generalize high : (if y1.cmin ≤ hi ∧ hi ≤ 64 then { y1 with cmax := hi } else y1) = y2
  have y1_eq : y1 = { y with cmin := if lo ≤ 64 ∧ lo + others ≤ 64 then lo else y.cmin } := by rw [← low]; split <;> rfl
  have y2_eq : y2 = { y1 with cmax := if y1.cmin ≤ hi ∧ hi ≤ 64 then hi else y1.cmax } := by rw [← high]; split <;> rfl
  have y3_eq : (if 1 ≤ weight ∧ weight ≤ 15 then { y2 with weight := weight } else y2) =
      { y2 with weight := if 1 ≤ weight ∧ weight ≤ 15 then weight else y2.weight } := by split <;> rfl
  rw [y3_eq, y2_eq, y1_eq]
  exact ⟨rfl, rfl, rfl, rfl⟩

end

/-! ### The device number, the routing table and pool regions (R408, R418, R422) -/

section
variable {s : State} {pf : Nat}

/-- The device number register once the host has written it: the number, and the bit that says so. -/
def numberWord (x : Word64) : Word64 := BitVec.ofNat 64 (x.toNat % 4096 + 2 ^ 63)

theorem numberWord_toNat (x : Word64) : (numberWord x).toNat = x.toNat % 4096 + 9223372036854775808 := by
  rw [numberWord, BitVec.toNat_ofNat]
  omega

theorem numberWord_valid (x : Word64) : (numberWord x).getLsbD 63 = true := by
  rw [BitVec.getLsbD, numberWord_toNat, Nat.testBit_eq_decide_div_mod_eq, decide_eq_true_eq]
  omega

theorem numberWord_number (x : Word64) : (numberWord x).extractLsb' 0 12 = x.extractLsb' 0 12 := by
  apply BitVec.eq_of_toNat_eq
  rw [BitVec.extractLsb'_toNat, BitVec.extractLsb'_toNat, numberWord_toNat, Nat.shiftRight_zero, Nat.shiftRight_zero]
  omega

theorem numberWord_reserved (x : Word64) : (numberWord x).extractLsb' 12 51 = 0 := by
  apply BitVec.eq_of_toNat_eq
  rw [BitVec.extractLsb'_toNat, numberWord_toNat, Nat.shiftRight_eq_div_pow, show (0 : BitVec 51).toNat = 0 from rfl]
  omega

theorem exec_deviceNumberWrite_first (presented : s.pfUp 0 = true) (unset : s.devNumber.getLsbD 63 = false) (x : Word64) :
    exec (.deviceNumberWrite x) s = .next { s with devNumber := numberWord x } := by
  show execDeviceNumberWrite x s = _
  simp only [execDeviceNumberWrite, presented, unset, Bool.not_true, Bool.or_self, Bool.false_eq_true, if_false, numberWord]

/-- A first device number stays. -/
theorem exec_deviceNumberWrite_again (set : s.devNumber.getLsbD 63 = true) (x : Word64) : exec (.deviceNumberWrite x) s = .next s := by
  show execDeviceNumberWrite x s = _
  simp only [execDeviceNumberWrite, set, Bool.or_true, if_true, notDue]

theorem exec_routeAddrWrite (presented : s.pfUp pf = true) (x : Word64) :
    exec (.registerWrite true pf 0x0020 x) s = .next { s with routeAddr := x } := by
  show execRegisterWrite true pf 0x0020 x s = _
  simp only [execRegisterWrite, presented, Bool.not_true, Bool.false_eq_true, if_true, if_false]

theorem exec_loadRoutingTable (presented : s.pfUp pf = true) (idle : s.routeLoading = false) :
    exec (.loadRoutingTable pf) s = .next { s with routeLoading := true, routePort := pf } := by
  show execLoadRoutingTable pf s = _
  simp only [execLoadRoutingTable, presented, idle, Bool.not_false, Bool.and_self, if_true]

/-- The offset of a half of a pool region register. -/
def regionOffset (r : Nat) (high : Bool) : Nat := (if high then 0x0808 else 0x0800) + 16 * r

theorem exec_regionWrite (presented : s.pfUp pf = true) {r : Nat} (named : r < 64) (high : Bool) (x : Word64) :
    exec (.registerWrite true pf (regionOffset r high) x) s = .next { s with pool := listUpd s.pool r (fun y => y.write high x) } := by
  have offset : regionOffset r high = 0x0800 + 8 * high.toNat + 16 * r := by cases high <;> rfl
  have bit : high.toNat ≤ 1 := Bool.toNat_le high
  have place : (regionOffset r high - 0x0800) / 16 = r := by omega
  have half : (regionOffset r high % 16 == 8) = high := by
    rw [show regionOffset r high % 16 = 8 * high.toNat by omega]
    cases high <;> rfl
  have other : regionOffset r high ≠ 0x0020 := by omega
  have window : 0x0800 ≤ regionOffset r high ∧ regionOffset r high < 0x0C00 ∧ regionOffset r high % 8 = 0 := by omega
  show execRegisterWrite true pf (regionOffset r high) x s = _
  simp only [execRegisterWrite, presented, Bool.not_true, Bool.false_eq_true, if_true, if_false, if_neg other, if_pos window, place, half]

theorem PoolRegion.write_low (y : PoolRegion) (x : Word64) : y.write false x =
    if y.st = 0 then { y with size := (x.extractLsb' 14 16).toNat, base := (x.extractLsb' 30 34).toNat } else y := by
  rw [← bitsOf_toNat, ← bitsOf_toNat]
  rfl

theorem low2_eq_iff (x : Word64) {n : Nat} (small : n < 4) : x.extractLsb' 0 2 = BitVec.ofNat 2 n ↔ x.toNat % 4 = n := by
  rw [← BitVec.toNat_inj, BitVec.extractLsb'_toNat, BitVec.toNat_ofNat, Nat.shiftRight_zero, Nat.mod_eq_of_lt (show n < 2 ^ 2 from small)]

theorem PoolRegion.write_high (y : PoolRegion) (x : Word64) : y.write true x =
    { y with
      port := if y.st = 0 then x.getLsbD 6 else y.port
      cmd := if x.extractLsb' 0 2 = 1 then 1 else if x.extractLsb' 0 2 = 2 then 2 else y.cmd } := by
  have one : x.extractLsb' 0 2 = 1 ↔ x.toNat % 4 = 1 := low2_eq_iff x (by decide)
  have two : x.extractLsb' 0 2 = 2 ↔ x.toNat % 4 = 2 := low2_eq_iff x (by decide)
  simp only [PoolRegion.write, if_true, one, two]
  generalize x.toNat % 4 = c
  by_cases free : y.st = 0 <;> by_cases c1 : c = 1 <;> by_cases c2 : c = 2 <;> simp [free, c1, c2]

/-- A region register is written, and no other. -/
theorem writesRegion {i : Instr} {r : Nat} {f : PoolRegion → PoolRegion} (inside : r < s.pool.length)
    (e : exec i s = .next { s with pool := listUpd s.pool r f }) :
    ∃ t, exec i s = .next t ∧ t = { s with pool := t.pool } ∧ (∀ j, j ≠ r → t.pool.getD j {} = s.pool.getD j {}) ∧
      t.pool.getD r {} = f (s.pool.getD r {}) :=
  ⟨_, e, rfl, fun _ other => listUpd_getD_other _ other _ _, listUpd_getD_same inside _ _⟩

end

/-- Settles O53, a register at a time. -/
theorem hostWritesAreTaken : Obligations.HostWritesAreTaken := by
  intro s vf pf q r core n x y w z
  refine ⟨fun up inside => ?_, fun up named counter => ?_, fun named presented own inside f field => ?_,
    fun named presented own inside => ?_, fun presented unset => ?_, fun presented => ?_⟩
  · have up := State.vfUp_of up
    refine ⟨setsVf inside (exec_vfRegisterWrite up 0x0008 x), setsVf inside (exec_vfRegisterWrite up 0x0010 x), ?_,
      setsVf inside (exec_eventHeadDoorbell up y), fun queue => ?_, fun least most queue => ⟨fun fits => ?_, fun far => ?_⟩⟩
    · obtain ⟨t, e, only, written⟩ := setsVf inside (exec_vfRegisterWrite up 0x0018 x)
      exact ⟨t, e, only, by rw [written]; exact VFun.write_ringSize _ x⟩
    · obtain ⟨t, e, only, written⟩ := setsVf inside (exec_jobQueueWrite up q w)
      have new : (t.vfAt vf).queues.getD q {} = ((s.vfAt vf).queues.getD q {}).write (s.vfAt vf).ringOn w := by
        rw [written]; exact listUpd_getD_same queue _ _
      obtain ⟨sticky, enabled, disabled⟩ := ((s.vfAt vf).queues.getD q {}).write_written (s.vfAt vf).ringOn w
      rw [← new] at sticky enabled disabled
      exact ⟨t, e, only, by rw [written], fun j other => by rw [written]; exact listUpd_getD_other _ other _ _, sticky, enabled, disabled⟩
    · have doorbell := exec_tailDoorbell up ((sizeOk_iff _).mpr ⟨least, most⟩) z
      rw [if_neg (Nat.not_le.mpr fits)] at doorbell
      obtain ⟨t, e, only, written⟩ := setsVf inside doorbell
      exact ⟨t, e, only, by rw [written]; exact listUpd_getD_same queue _ _,
        fun j other => by rw [written]; exact listUpd_getD_other _ other _ _⟩
    · rw [exec_tailDoorbell up ((sizeOk_iff _).mpr ⟨least, most⟩) z, if_pos far]
      rfl
  · exact ⟨_, exec_perfCounterClear (State.vfUp_of up) named counter, rfl, Table.get_set_same .., fun j other => Table.get_set_other _ _ other⟩
  · obtain ⟨t, e, only, written⟩ := setsVf inside (exec_settingsWrite4 named presented own (timeFields_aligned field) x)
    refine ⟨t, e, only, by rw [written], ?_⟩
    rw [written]
    exact Settings.write4_time _ _ _ field
  · obtain ⟨t, e, only, written⟩ := setsVf inside (exec_settingsWrite4 named presented own (rfl : 16 % 4 = 0) x)
    have shares := (s.vfAt vf).set.write4_shares (s.otherMinimums vf) (x.toNat % 2 ^ 32)
    have lo : x.toNat % 2 ^ 32 % 256 = x.toNat % 256 := by omega
    have hi : x.toNat % 2 ^ 32 / 2 ^ 8 % 256 = x.toNat / 2 ^ 8 % 256 := by omega
    have weight : x.toNat % 2 ^ 32 / 2 ^ 16 % 256 = x.toNat / 2 ^ 16 % 256 := by omega
    rw [lo, hi, weight] at shares
    obtain ⟨rest, cmin, cmax, weight⟩ := shares
    refine ⟨t, e, only, ?_⟩
    rw [written]
    exact ⟨rest, cmin, cmax, weight⟩
  · exact ⟨_, exec_deviceNumberWrite_first presented unset x, rfl, numberWord_valid x, numberWord_number x, numberWord_reserved x,
      exec_deviceNumberWrite_again (numberWord_valid x)⟩
  · refine ⟨exec_routeAddrWrite presented x, exec_loadRoutingTable presented, fun named inside => ⟨?_, ?_⟩⟩
    · obtain ⟨t, e, rest, others, written⟩ := writesRegion inside (exec_regionWrite presented named false x)
      exact ⟨t, e, rest, others, by rw [written, PoolRegion.write_low]⟩
    · obtain ⟨t, e, rest, others, written⟩ := writesRegion inside (exec_regionWrite presented named true x)
      exact ⟨t, e, rest, others, by rw [written, PoolRegion.write_high]⟩

end Sys2Proof.Machine
end

section
/-! SUPPORT. What submitting a job leaves of the queues, the jobs and the contexts: operations that write global memory alone, the counts of
levels, and the launches submitted (R157, R159, R179, R187, R290, R410). -/

namespace Sys2Proof.Machine

/-! ### Queues that differ in their sticky statuses alone -/

/-- The part of a job queue that its host and the tenant core move: the head and the size. -/
def JobQueue.ring (q : JobQueue) : BitVec 16 × BitVec 5 := (q.head, q.size)
/-- The part of a virtual function that posting an event leaves: its live contexts and the rings of its queues. -/
def VFun.outline (v : VFun) : Nat × List (BitVec 16 × BitVec 5) := (v.live, v.queues.map JobQueue.ring)

theorem map_listUpd_same {α β : Type} (g : α → β) (f : α → α) (k : Nat) : ∀ (xs : List α) (d : α),
    (k < xs.length → g (f (xs.getD k d)) = g (xs.getD k d)) → (listUpd xs k f).map g = xs.map g := by
  induction k with
  | zero =>
    intro xs d same
    cases xs with
    | nil => rfl
    | cons x rest => simp only [listUpd, List.map_cons, List.cons.injEq, and_true]; exact same (Nat.zero_lt_succ _)
  | succ k ih =>
    intro xs d same
    cases xs with
    | nil => rfl
    | cons x rest =>
      simp only [listUpd, List.map_cons, List.cons.injEq, true_and]
      exact ih rest d fun inside => same (Nat.succ_lt_succ inside)

theorem VFun.stick_outline (v : VFun) (e : Event) : (v.stick e).outline = v.outline := by
  unfold VFun.stick
  split
  · exact congrArg (Prod.mk v.live) (map_listUpd_same JobQueue.ring _ e.queue v.queues {} fun _ => rfl)
  · rfl

/-- The outlines of the virtual functions. -/
def State.outlines (s : State) : List (Nat × List (BitVec 16 × BitVec 5)) := s.vfs.map VFun.outline

theorem State.outlines_setVfAt {s : State} {vf : Nat} {v : VFun} (same : v.outline = (s.vfAt vf).outline) : (s.setVfAt vf v).outlines = s.outlines :=
  map_listUpd_same VFun.outline (fun _ => v) vf s.vfs {} fun _ => same

section
variable {s t : State}

theorem outline_of_outlines (h : t.outlines = s.outlines) (vf : Nat) : (t.vfAt vf).outline = (s.vfAt vf).outline := by
  have e : t.outlines.getD vf (VFun.outline {}) = s.outlines.getD vf (VFun.outline {}) := by rw [h]
  rwa [State.outlines, State.outlines, List.getD_map, List.getD_map] at e

theorem vfs_length_of_outlines (h : t.outlines = s.outlines) : t.vfs.length = s.vfs.length := by
  have e := congrArg List.length h
  rwa [State.outlines, State.outlines, List.length_map, List.length_map] at e

theorem live_of_outlines (h : t.outlines = s.outlines) (vf : Nat) : (t.vfAt vf).live = (s.vfAt vf).live :=
  congrArg Prod.fst (outline_of_outlines h vf)

theorem queues_length_of_outline {v w : VFun} (h : w.outline = v.outline) : w.queues.length = v.queues.length := by
  have e := congrArg (fun o => o.2.length) h
  simpa [VFun.outline] using e

theorem ring_of_outline {v w : VFun} (h : w.outline = v.outline) (q : Nat) : (w.queues.getD q {}).ring = (v.queues.getD q {}).ring := by
  have e : (w.queues.map JobQueue.ring).getD q (JobQueue.ring {}) = (v.queues.map JobQueue.ring).getD q (JobQueue.ring {}) :=
    congrArg (fun o => o.2.getD q (JobQueue.ring {})) h
  rwa [List.getD_map, List.getD_map] at e

/-! ### The next entry of a queue (R411) -/

/-- Queue `q` of `t` stands at the entry after the one at its head in `s`. -/
def Popped (s t : State) (vf q : Nat) : Prop :=
  ((t.vfAt vf).queues.getD q {}).head = BitVec.ofNat 16 ((((s.vfAt vf).queues.getD q {}).head.toNat + 1) %
    2 ^ ((s.vfAt vf).queues.getD q {}).size.toNat)

/-- A queue is popped where its ring is still the one of `s`, whatever else has changed. -/
theorem popEntry_popped {vf q : Nat} (inside : vf < t.vfs.length) (queues : (t.vfAt vf).queues.length = (s.vfAt vf).queues.length)
    (ring : ((t.vfAt vf).queues.getD q {}).ring = ((s.vfAt vf).queues.getD q {}).ring) (named : q < (s.vfAt vf).queues.length) :
    Popped s (t.popEntry vf q) vf q := by
  have head : ((t.vfAt vf).queues.getD q {}).head = ((s.vfAt vf).queues.getD q {}).head := congrArg Prod.fst ring
  have size : ((t.vfAt vf).queues.getD q {}).size = ((s.vfAt vf).queues.getD q {}).size := congrArg Prod.snd ring
  rw [Popped, State.popEntry, State.vfAt_setVfAt_same _ inside, ← head, ← size]
  dsimp only
  rw [listUpd_getD_same (queues ▸ named)]

theorem popEntry_live {vf q : Nat} (inside : vf < t.vfs.length) : ((t.popEntry vf q).vfAt vf).live = (t.vfAt vf).live := by
  rw [State.popEntry, State.vfAt_setVfAt_same _ inside]

end

/-! ### Operations that write global memory alone -/

/-- `t` is `s` after writes to global memory, which may publish the shape of a launch, and nothing else. -/
def MemoryOnly (s t : State) : Prop := t = { s with mem := t.mem, launches := t.launches }

section
variable {s t u : State}

theorem MemoryOnly.refl (s : State) : MemoryOnly s s := rfl
theorem MemoryOnly.trans (h : MemoryOnly s t) (k : MemoryOnly t u) : MemoryOnly s u := by
  unfold MemoryOnly at *
  rw [k, h]
theorem MemoryOnly.foldl {β : Type} {f : State → β → State} (h : ∀ s x, MemoryOnly s (f s x)) (xs : List β) (s : State) :
    MemoryOnly s (xs.foldl f s) := by
  induction xs generalizing s with
  | nil => exact .refl s
  | cons x r ih => exact (h s x).trans (ih _)

theorem MemoryOnly.ite {p : Prop} [Decidable p] (h : MemoryOnly s t) (k : MemoryOnly s u) : MemoryOnly s (if p then t else u) := by
  split <;> assumption

theorem MemoryOnly.vfs (h : MemoryOnly s t) : t.vfs = s.vfs := by rw [h]
theorem MemoryOnly.jobs (h : MemoryOnly s t) : t.jobs = s.jobs := by rw [h]
theorem MemoryOnly.ctxs (h : MemoryOnly s t) : t.ctxs = s.ctxs := by rw [h]

theorem State.memoryOnly_gwrite (s : State) (k : Nat) (bs : List Byte) : MemoryOnly s (s.gwrite k bs) := rfl
theorem State.memoryOnly_gwriteNat (s : State) (k n x : Nat) : MemoryOnly s (s.gwriteNat k n x) := rfl
theorem State.memoryOnly_zeroPage (s : State) (p : Nat) : MemoryOnly s (s.zeroPage p) := s.memoryOnly_gwrite _ _

theorem State.memoryOnly_pteOr (s : State) (a : Nat) (e b : Word64) : MemoryOnly s (s.pteOr a e b) := rfl

theorem State.memoryOnly_ctxPhys (s : State) (c : Nat) (va : Word64) (k : Access) : MemoryOnly s (s.ctxPhys c va k).2 := by
  simp only [State.ctxPhys]
  split
  · exact .refl s
  · split
    · exact .refl s
    · split
      · exact .refl s
      · split
        · exact .refl s
        · split <;> exact MemoryOnly.ite (.refl s) (s.memoryOnly_pteOr _ _ _)

theorem State.memoryOnly_ctxRead (c n : Nat) : ∀ (s : State) (va : Nat), MemoryOnly s (s.ctxRead c va n).2 := by
  induction n with
  | zero => exact fun s _ => .refl s
  | succ n ih =>
    intro s va
    have phys := s.memoryOnly_ctxPhys c (BitVec.ofNat 64 va) .read
    simp only [State.ctxRead]
    split
    · next found => rw [found] at phys; exact phys.trans (ih _ _)
    · next found => rw [found] at phys; exact phys

theorem State.memoryOnly_ctxReadNat (s : State) (c va n : Nat) : MemoryOnly s (s.ctxReadNat c va n).2 := State.memoryOnly_ctxRead c n s va

theorem State.memoryOnly_ctxWrite (c : Nat) (bs : List Byte) : ∀ (s : State) (va : Nat), MemoryOnly s (s.ctxWrite c va bs) := by
  induction bs with
  | nil => exact fun s _ => .refl s
  | cons x rest ih =>
    intro s va
    have phys := s.memoryOnly_ctxPhys c (BitVec.ofNat 64 va) .write
    simp only [State.ctxWrite]
    split
    · next found => rw [found] at phys; exact (phys.trans (State.memoryOnly_gwrite _ _ _)).trans (ih _ _)
    · next found => rw [found] at phys; exact phys.trans (ih _ _)

theorem memoryOnly_readStable (c n : Nat) : ∀ (s : State) (va : Nat), MemoryOnly s (readStable s c va n).2 := by
  induction n with
  | zero => exact fun s _ => .refl s
  | succ n ih =>
    intro s va
    have read := s.memoryOnly_ctxReadNat c va 16
    simp only [readStable]
    split
    · next found => rw [found] at read; exact read
    · next found => rw [found] at read; exact read.trans (ih _ _)

theorem memoryOnly_buildLaunch (s : State) (c : Nat) (r : LaunchRec) : MemoryOnly s (buildLaunch s c r).2 := by
  have read := s.memoryOnly_ctxReadNat c r.kernel 64
  simp only [buildLaunch]
  split
  · exact .refl s
  · split
    · next found => rw [found] at read; exact read
    · next found =>
      rw [found] at read
      split
      · exact read
      · split
        · exact read
        · exact read.trans (memoryOnly_readStable _ _ _ _)

theorem State.memoryOnly_ctxPages (c fuel : Nat) : ∀ (s : State) (va n : Nat), MemoryOnly s (s.ctxPages c fuel va n).2 := by
  induction fuel with
  | zero => exact fun s _ _ => .refl s
  | succ fuel ih =>
    intro s va n
    have phys := s.memoryOnly_ctxPhys c (BitVec.ofNat 64 va) .read
    simp only [State.ctxPages]
    split
    · exact .refl s
    · split
      · next found => rw [found] at phys; exact phys
      · next found => rw [found] at phys; exact phys
      · next key tier u found =>
        rw [found] at phys
        have rest := phys.trans (ih u (va + min n (4096 - va % 4096)) (n - min n (4096 - va % 4096)))
        split
        · next read => rw [read] at rest; exact rest
        · exact rest

theorem readPages_ok {c fuel va n : Nat} {bs : List Byte} : s.readPages c fuel va n = .ok (bs, t) ↔ s.ctxPages c fuel va n = (.ok bs, t) := by
  unfold State.readPages
  constructor
  · intro h
    split at h
    · next read => rw [read]; cases h; rfl
    · cases h
    · cases h
  · intro h
    rw [h]

theorem memoryOnly_readPages {c fuel va n : Nat} {bs : List Byte} (h : s.readPages c fuel va n = .ok (bs, t)) : MemoryOnly s t := by
  have pages := State.memoryOnly_ctxPages c fuel s va n
  rwa [readPages_ok.mp h] at pages

theorem memoryOnly_readGraphs (c n : Nat) : ∀ {s t : State} {va last : Nat} {gs : List GraphRec}, readGraphs s c n va last = .ok (gs, t) →
    MemoryOnly s t := by
  induction n with
  | zero => intro s t va last gs h; cases h; exact .refl s
  | succ n ih =>
    intro s t va last gs h
    simp only [readGraphs] at h
    split at h
    · cases h
    · next header =>
      split at h
      · cases h
      · split at h
        · cases h
        · next entries =>
          split at h
          · cases h
          · split at h
            · cases h
            · next graphs =>
              cases h
              exact ((memoryOnly_readPages header).trans (memoryOnly_readPages entries)).trans (ih graphs)

end

/-! ### What a job was submitted for stays -/

/-- The fields of a job that nothing changes once it is submitted. -/
def Job.subject (j : Job) : Nat × Nat × Word64 × Word64 × Nat := (j.ctx, j.queue, j.tag, j.compl, j.phases.length)

/-- `t` has the contexts of `s`, the rings of its queues, and its jobs with what they were submitted for. -/
structure Stands (s t : State) : Prop where
  outlines : t.outlines = s.outlines
  subject : ∀ j, (t.jobAt j).subject = (s.jobAt j).subject
  ctxs : t.ctxs = s.ctxs

section
variable {s t u : State}

theorem Stands.refl (s : State) : Stands s s := ⟨rfl, fun _ => rfl, rfl⟩
theorem Stands.trans (h : Stands s t) (k : Stands t u) : Stands s u :=
  ⟨k.outlines.trans h.outlines, fun j => (k.subject j).trans (h.subject j), k.ctxs.trans h.ctxs⟩

theorem MemoryOnly.stands (h : MemoryOnly s t) : Stands s t :=
  ⟨by rw [State.outlines, h.vfs]; rfl, fun j => by rw [State.jobAt, h.jobs]; rfl, h.ctxs⟩

theorem State.stands_setVfAt {vf : Nat} {v : VFun} (same : v.outline = (s.vfAt vf).outline) : Stands s (s.setVfAt vf v) :=
  ⟨State.outlines_setVfAt same, fun _ => rfl, rfl⟩

theorem MemoryOnly.stands_setVfAt {vf : Nat} {v : VFun} (h : MemoryOnly s t) (same : v.outline = (s.vfAt vf).outline) :
    Stands s (t.setVfAt vf v) :=
  h.stands.trans (State.stands_setVfAt (by rw [same, State.vfAt, State.vfAt, h.vfs]))

theorem State.stands_post (s : State) (vf : Nat) (e : Event) : Stands s (s.post vf e) := by
  simp only [State.post]
  split
  · exact State.stands_setVfAt (VFun.stick_outline _ e)
  · split
    · split
      · exact (s.memoryOnly_gwriteNat _ _ _).stands_setVfAt (VFun.stick_outline _ e)
      · exact ((s.memoryOnly_gwriteNat _ _ _).trans (State.memoryOnly_gwriteNat _ _ _ _)).stands_setVfAt (VFun.stick_outline _ e)
    · exact ((s.memoryOnly_gwriteNat _ _ _).trans (State.memoryOnly_gwriteNat _ _ _ _)).stands_setVfAt rfl

theorem State.stands_setJobAt {j : Nat} {x : Job} (same : x.subject = (s.jobAt j).subject) : Stands s (s.setJobAt j x) := by
  refine ⟨rfl, fun k => ?_, rfl⟩
  rw [State.jobAt, State.setJobAt, Table.get_set]
  split
  · next here => rw [here]; exact same
  · rfl

theorem Job.subject_updPhase (j : Job) (p : Nat) (f : Phase → Phase) : (j.updPhase p f).subject = j.subject := by
  simp only [Job.subject, Job.updPhase, listUpd_length]

theorem State.stands_updGraph (s : State) (j p g : Nat) (f : Graph → Graph) : Stands s (s.updGraph j p g f) :=
  State.stands_setJobAt (Job.subject_updPhase _ _ _)

theorem State.stands_jobReport (s : State) (j : Nat) : Stands s (s.jobReport j) := by
  simp only [State.jobReport]
  refine Stands.trans ?_ (State.stands_post _ _ _)
  split
  · exact State.stands_setJobAt rfl
  · have written := (State.memoryOnly_ctxWrite (s.jobAt j).ctx (leBytes 16 (s.jobAt j).ctr.word) s (s.jobAt j).compl.toNat).stands
    exact written.trans (State.stands_setJobAt (written.subject j).symm)

theorem State.stands_jobDone (s : State) (j : Nat) : Stands s (s.jobDone j) := by
  simp only [State.jobDone]
  split
  · exact State.stands_setJobAt rfl
  · exact s.stands_jobReport j

theorem State.stands_jobMember (s : State) (j : Nat) (bad : Bool) : Stands s (s.jobMember j bad) := by
  simp only [State.jobMember]
  split
  · refine Stands.trans ?_ (State.stands_jobDone _ _)
    exact State.stands_setJobAt rfl
  · exact State.stands_setJobAt rfl

theorem State.stands_phaseMember (s : State) (j p : Nat) (bad : Bool) : Stands s (s.phaseMember j p bad) := by
  simp only [State.phaseMember]
  split
  · exact (State.stands_setJobAt (Job.subject_updPhase _ _ _)).trans (State.stands_jobMember _ _ _)
  · exact State.stands_setJobAt (Job.subject_updPhase _ _ _)

theorem State.stands_graphMember (s : State) (j p g : Nat) (bad : Bool) : Stands s (s.graphMember j p g bad) := by
  simp only [State.graphMember]
  split
  · exact (s.stands_updGraph _ _ _ _).trans (State.stands_phaseMember _ _ _ _)
  · exact s.stands_updGraph _ _ _ _

theorem State.stands_setLaunchAt (s : State) (l : Nat) (x : Launch) : Stands s (s.setLaunchAt l x) := ⟨rfl, fun _ => rfl, rfl⟩

theorem State.stands_refuseLaunch (s : State) (l : Nat) : Stands s (s.refuseLaunch l) := by
  simp only [State.refuseLaunch]
  exact ((s.stands_setLaunchAt _ _).trans (State.stands_post _ _ _)).trans (State.stands_graphMember _ _ _ _ _)

end

/-! ### Submitting launches (R179, R290, R410) -/

/-- `n` launches of context `c` have been submitted: its next identity is `n` higher. -/
structure Submitted (c n : Nat) (s t : State) : Prop where
  outlines : t.outlines = s.outlines
  subject : ∀ j, (t.jobAt j).subject = (s.jobAt j).subject
  next : (t.ctxAt c).nextLaunch = (s.ctxAt c).nextLaunch + n

section
variable {c : Nat}

theorem Stands.submitted {s t : State} (h : Stands s t) : Submitted c 0 s t :=
  ⟨h.outlines, h.subject, by rw [State.ctxAt, h.ctxs]; rfl⟩

theorem Submitted.trans {s t u : State} {m n : Nat} (h : Submitted c m s t) (k : Submitted c n t u) : Submitted c (m + n) s u :=
  ⟨k.outlines.trans h.outlines, fun j => (k.subject j).trans (h.subject j), by rw [k.next, h.next, Nat.add_assoc]⟩

theorem Submitted.foldl {β : Type} {f : State → β → State} {n : β → Nat} (h : ∀ s x, Submitted c (n x) s (f s x)) (xs : List β)
    (s : State) : Submitted c (xs.map n).sum s (xs.foldl f s) := by
  induction xs generalizing s with
  | nil => exact (Stands.refl s).submitted
  | cons x r ih => exact (h s x).trans (ih _)

theorem State.submitted_submitLaunch (s : State) (j p g : Nat) (r : LaunchRec) (deps : List Nat) (dev : Bool) :
    Submitted c 1 s (s.submitLaunch c j p g r deps dev) := by
  have counted : Submitted c 1 s (s.setCtxAt c { s.ctxAt c with nextLaunch := (s.ctxAt c).nextLaunch + 1 }) :=
    ⟨rfl, fun _ => rfl, by rw [State.ctxAt, State.setCtxAt, Table.get_set_same]⟩
  refine counted.trans (n := 0) (Stands.submitted ?_)
  simp only [State.submitLaunch]
  generalize s.setCtxAt c _ = v
  have listed := v.stands_updGraph j p g (fun g => { g with launches := g.launches ++ [(s.ctxAt c).nextLaunch] })
  have built := listed.trans (memoryOnly_buildLaunch (v.updGraph j p g _) c r).stands
  split
  · next found => rw [found] at built; exact built.trans (State.stands_setLaunchAt _ _ _)
  · next found => rw [found] at built; exact (built.trans (State.stands_setLaunchAt _ _ _)).trans (State.stands_refuseLaunch _ _)

theorem submitted_submitGraph (s : State) (j p g : Nat) (r : GraphRec) : Submitted c r.launches.length s (submitGraph c j p g r s) := by
  have each := Submitted.foldl (c := c) (n := fun _ => 1) (f := fun u (e : LaunchRec × Nat) =>
    u.submitLaunch c j p g e.1 (maskDeps ((s.ctxAt c).nextLaunch) e.2) false) (fun u e => u.submitted_submitLaunch j p g e.1 _ false) r.launches s
  rw [List.map_const', List.sum_replicate, smul_eq_mul, Nat.mul_one] at each
  exact each

/-- The sum of a function of the elements of a list, over their indices. -/
theorem map_range_getD {α β : Type} (f : α → β) (xs : List α) (d : α) : (List.range xs.length).map (fun i => f (xs.getD i d)) = xs.map f := by
  refine List.ext_getElem (by simp) fun i inside _ => ?_
  rw [List.length_map, List.length_range] at inside
  simp [inside]

theorem flatten_groupPhases (gs : List GraphRec) : (groupPhases gs).flatten = gs := by
  induction gs with
  | nil => rfl
  | cons g rest ih =>
    simp only [groupPhases]
    split
    · next h hs more grouped =>
      rw [grouped] at ih
      split <;> simp only [List.flatten_cons, List.cons_append, List.nil_append] at ih ⊢ <;> rw [ih]
    · rw [List.flatten_cons, ih]; rfl

theorem submitted_phases (j : Nat) (ps : List (List GraphRec)) (s : State) :
    Submitted c (ps.map (fun gs => (gs.map (fun g => g.launches.length)).sum)).sum s
      ((List.range ps.length).foldl (fun s p =>
        (List.range (ps.getD p []).length).foldl (fun s g => submitGraph c j p g ((ps.getD p []).getD g default) s) s) s) := by
  rw [← map_range_getD (fun gs : List GraphRec => (gs.map (fun g => g.launches.length)).sum) ps []]
  refine Submitted.foldl (fun s p => ?_) _ s
  rw [← map_range_getD (fun g : GraphRec => g.launches.length) (ps.getD p []) default]
  exact Submitted.foldl (fun s g => submitted_submitGraph s j p g _) _ s

theorem sum_phases (gs : List GraphRec) : ((groupPhases gs).map (fun gs => (gs.map (fun g => g.launches.length)).sum)).sum =
    (gs.map (fun g => g.launches.length)).sum := by
  conv_rhs => rw [← flatten_groupPhases gs]
  rw [List.map_flatten, List.sum_flatten, List.map_map]
  rfl

/-- The number of a new job is above every other. -/
theorem nextNumber_above (xs : Table Job) : ∀ n : Nat,
    n ≤ xs.foldl (fun n e => max n (e.1 + 1)) n ∧ ∀ e ∈ xs, e.1 < xs.foldl (fun n e => max n (e.1 + 1)) n := by
  induction xs with
  | nil => exact fun n => ⟨Nat.le_refl n, fun _ h => absurd h List.not_mem_nil⟩
  | cons x rest ih =>
    intro n
    obtain ⟨grows, bounds⟩ := ih (max n (x.1 + 1))
    refine ⟨(Nat.le_max_left ..).trans grows, fun e he => ?_⟩
    rcases List.mem_cons.mp he with rfl | he
    · exact Nat.lt_of_lt_of_le (Nat.lt_of_lt_of_le (Nat.lt_succ_self _) (Nat.le_max_right ..)) grows
    · exact bounds e he

theorem State.nextJob_new (s : State) : Table.find? s.jobs s.nextJob = none := by
  cases found : Table.find? s.jobs s.nextJob with
  | none => rfl
  | some x => exact absurd ((nextNumber_above s.jobs 0).2 _ (Table.mem_of_find? found)) (Nat.lt_irrefl _)

/-- A job that has been submitted. -/
structure Accepted (s t : State) (c q : Nat) (e : JobEntry) (gs : List GraphRec) : Prop where
  outlines : t.outlines = s.outlines
  subject : (t.jobAt s.nextJob).subject = (c, q, BitVec.ofNat 64 e.tag, BitVec.ofNat 64 e.compl, (groupPhases gs).length)
  next : (t.ctxAt c).nextLaunch = (s.ctxAt c).nextLaunch + (gs.map (fun g => g.launches.length)).sum

theorem State.submit_accepted (s : State) (q : Nat) (e : JobEntry) (gs : List GraphRec) : Accepted s (s.submit c q e gs) c q e gs := by
  obtain ⟨outlines, subject, next⟩ := submitted_phases (c := c) s.nextJob (groupPhases gs)
    (s.setJobAt s.nextJob (newJob c q e.tag e.compl (groupPhases gs)))
  refine ⟨outlines, (subject s.nextJob).trans ?_, next.trans ?_⟩
  · rw [State.jobAt, State.setJobAt, Table.get_set_same, Job.subject, newJob, List.length_map]
  · rw [sum_phases]
    rfl

end

end Sys2Proof.Machine
end

section
/-! SUPPORT. The entries of a job queue: refused, accepted, held, and the contexts that they create and destroy (R157, R392, R410 to R412). -/

namespace Sys2Proof.Machine

/-! ### Entries of a job queue (R411) -/

section
variable {s s1 s2 : State} {vf q : Nat} {e : JobEntry}

theorem exec_submitJob (vf q : Nat) (s : State) : exec (.submitJob vf q) s = execSubmitJob vf q s := rfl

theorem submitJob_unknown (head : s.headEntry vf q = some e) (submit : e.command ≠ 1) (create : e.command ≠ 2) (destroy : e.command ≠ 3) :
    exec (.submitJob vf q) s = s.refuseEntry vf q e 0x0001 := by
  simp only [exec_submitJob, execSubmitJob, head, submit, create, destroy, or_self, ne_eq, not_false_eq_true, if_false, if_true]

theorem ctxMissing_eq {c : Nat} (missing : Table.find? s.ctxs c = none ∨ (s.ctxAt c).failed = true) :
    (!s.ctxs.has c || (s.ctxAt c).failed) = true := by
  rcases missing with absent | failed
  · rw [(Table.has_eq_false_iff _ _).mpr absent]; rfl
  · rw [failed, Bool.or_true]

theorem Table.has_of_found {α : Type} {t : Table α} {k : Nat} (found : Table.find? t k ≠ none) : Table.has t k = true := by
  rw [← Bool.not_eq_false]
  exact fun absent => found ((Table.has_eq_false_iff t k).mp absent)

theorem submitJob_missing (head : s.headEntry vf q = some e) (command : e.command = 1)
    (missing : Table.find? s.ctxs (ctxKey vf e.asid) = none ∨ (s.ctxAt (ctxKey vf e.asid)).failed = true) :
    exec (.submitJob vf q) s = s.refuseEntry vf q e 0x0002 := by
  have submits : ¬((1 : Nat) = 2 ∨ (1 : Nat) = 3) := by decide
  simp only [exec_submitJob, execSubmitJob, head, command, if_neg submits, ne_eq, not_true_eq_false, if_false, ctxMissing_eq missing, if_true]

/-- A job entry for a context that is there. -/
structure JobFor (s : State) (vf q : Nat) (e : JobEntry) : Prop where
  head : s.headEntry vf q = some e
  command : e.command = 1
  found : Table.find? s.ctxs (ctxKey vf e.asid) ≠ none
  alive : (s.ctxAt (ctxKey vf e.asid)).failed = false

theorem JobFor.present (h : JobFor s vf q e) : (!s.ctxs.has (ctxKey vf e.asid) || (s.ctxAt (ctxKey vf e.asid)).failed) = false := by
  rw [Table.has_of_found h.found, h.alive]; rfl

theorem JobFor.submits (h : JobFor s vf q e) {bs : List Byte} {gs : List GraphRec}
    (header : s.ctxPages (ctxKey vf e.asid) 3 e.desc 8 = (.ok bs, s1)) (least : 1 ≤ leNat bs) (most : leNat bs ≤ 65535)
    (graphs : readGraphs s1 (ctxKey vf e.asid) (leNat bs) (e.desc + 8) 0 = .ok (gs, s2))
    (images : ∀ g ∈ gs, ∀ r ∈ g.launches, s2.imageHeld (ctxKey vf e.asid) r.1 = false) :
    exec (.submitJob vf q) s = .next ((s2.submit (ctxKey vf e.asid) q e gs).popEntry vf q) := by
  have submits : ¬((1 : Nat) = 2 ∨ (1 : Nat) = 3) := by decide
  have count : within 1 65535 (leNat bs) = true := by simp [within, least, most]
  have free : (gs.any fun g => g.launches.any fun r => s2.imageHeld (ctxKey vf e.asid) r.1) = false := by
    simpa only [List.any_eq_false, Bool.not_eq_true] using images
  simp only [exec_submitJob, execSubmitJob, h.head, h.command, if_neg submits, ne_eq, not_true_eq_false, if_false, h.present, Bool.false_eq_true,
    readPages_ok.mpr header, count, Bool.not_true, graphs, free]

theorem JobFor.holds (h : JobFor s vf q e) (migrates : s.ctxPages (ctxKey vf e.asid) 3 e.desc 8 = (.migrating, s1)) :
    exec (.submitJob vf q) s = s.holdEntry vf q (s.refuseEntry vf q e 0x0003) := by
  have submits : ¬((1 : Nat) = 2 ∨ (1 : Nat) = 3) := by decide
  have read : s.readPages (ctxKey vf e.asid) 3 e.desc 8 = .error heldRead := by rw [State.readPages, migrates]
  simp only [exec_submitJob, execSubmitJob, h.head, h.command, if_neg submits, ne_eq, not_true_eq_false, if_false, h.present, Bool.false_eq_true,
    read, State.refuseOrHold, if_true]

/-- What an accepted job leaves. -/
theorem JobFor.accepted (h : JobFor s vf q e) {bs : List Byte} {gs : List GraphRec} (inside : vf < s.vfs.length)
    (named : q < (s.vfAt vf).queues.length) (header : s.ctxPages (ctxKey vf e.asid) 3 e.desc 8 = (.ok bs, s1)) (least : 1 ≤ leNat bs)
    (most : leNat bs ≤ 65535) (graphs : readGraphs s1 (ctxKey vf e.asid) (leNat bs) (e.desc + 8) 0 = .ok (gs, s2))
    (images : ∀ g ∈ gs, ∀ r ∈ g.launches, s2.imageHeld (ctxKey vf e.asid) r.1 = false) :
    ∃ t, exec (.submitJob vf q) s = .next t ∧ Popped s t vf q ∧
      (t.jobAt s.nextJob).subject = (ctxKey vf e.asid, q, BitVec.ofNat 64 e.tag, BitVec.ofNat 64 e.compl, (groupPhases gs).length) ∧
      (t.ctxAt (ctxKey vf e.asid)).nextLaunch =
        (s.ctxAt (ctxKey vf e.asid)).nextLaunch + (gs.map (fun g => g.launches.length)).sum := by
  have read := (memoryOnly_readPages (readPages_ok.mpr header)).trans (memoryOnly_readGraphs _ _ graphs)
  obtain ⟨outlines, subject, next⟩ := s2.submit_accepted (c := ctxKey vf e.asid) q e gs
  have outlines := outlines.trans read.stands.outlines
  have number : s2.nextJob = s.nextJob := by rw [State.nextJob, read.jobs]; rfl
  refine ⟨_, h.submits header least most graphs images, popEntry_popped ?_ ?_ ?_ named, ?_, ?_⟩
  · rw [vfs_length_of_outlines outlines]; exact inside
  · exact queues_length_of_outline (outline_of_outlines outlines vf)
  · exact ring_of_outline (outline_of_outlines outlines vf) q
  · rw [← number]; exact subject
  · refine next.trans ?_
    rw [State.ctxAt, read.ctxs]
    rfl

/-- An entry that waits notes since when. -/
theorem holdEntry_waits {past : Out} (inside : vf < s.vfs.length) (named : q < (s.vfAt vf).queues.length)
    (early : s.pastLimit vf (((s.vfAt vf).queues.getD q {}).hold.getD s.clock) = false) :
    ∃ t, s.holdEntry vf q past = .next t ∧ t = { s with vfs := t.vfs } ∧ t.vfAt vf = { s.vfAt vf with queues := (t.vfAt vf).queues } ∧
      (t.vfAt vf).queues.getD q {} =
        { (s.vfAt vf).queues.getD q {} with hold := some (((s.vfAt vf).queues.getD q {}).hold.getD s.clock) } ∧
      ∀ j, j ≠ q → (t.vfAt vf).queues.getD j {} = (s.vfAt vf).queues.getD j {} := by
  generalize since : ((s.vfAt vf).queues.getD q {}).hold.getD s.clock = z at early ⊢
  have answer : s.holdEntry vf q past =
      .next (s.setVfAt vf { s.vfAt vf with queues := listUpd (s.vfAt vf).queues q (fun y => { y with hold := some z }) }) := by
    simp only [State.holdEntry, since, early, Bool.false_eq_true, if_false]
  have written := State.vfAt_setVfAt_same (s := s)
    { s.vfAt vf with queues := listUpd (s.vfAt vf).queues q (fun y => { y with hold := some z }) } inside
  refine ⟨_, answer, rfl, ?_, ?_, fun j other => ?_⟩ <;> rw [written]
  · exact listUpd_getD_same named _ _
  · exact listUpd_getD_other _ other _ _

theorem holdEntry_past {past : Out} (late : s.pastLimit vf (((s.vfAt vf).queues.getD q {}).hold.getD s.clock) = true) :
    s.holdEntry vf q past = past := if_pos late

end

/-! ### Pages that firmware hands out (R390, R392) -/

/-- `t` has what context `c` of `s` has, but for the pages handed out to it and those of its reserve, and the queues of `s`. -/
structure Supplies (c : Nat) (s t : State) : Prop where
  vfs : t.vfs = s.vfs
  found : Table.find? s.ctxs c ≠ none → Table.find? t.ctxs c ≠ none
  ctx : t.ctxAt c = { s.ctxAt c with own := (t.ctxAt c).own, reserve := (t.ctxAt c).reserve }

/-- As `Supplies`, with the reserve as it was. -/
structure Hands (c : Nat) (s t : State) : Prop extends Supplies c s t where
  reserve : (t.ctxAt c).reserve = (s.ctxAt c).reserve

section
variable {c : Nat} {s t u : State}

theorem Supplies.trans (h : Supplies c s t) (k : Supplies c t u) : Supplies c s u :=
  ⟨k.vfs.trans h.vfs, fun found => k.found (h.found found), by rw [k.ctx, h.ctx]⟩
theorem Hands.refl (s : State) : Hands c s s := ⟨⟨rfl, id, rfl⟩, rfl⟩
theorem Hands.trans (h : Hands c s t) (k : Hands c t u) : Hands c s u :=
  ⟨h.toSupplies.trans k.toSupplies, k.reserve.trans h.reserve⟩

theorem MemoryOnly.hands (h : MemoryOnly s t) : Hands c s t := by
  have ctx : t.ctxAt c = s.ctxAt c := by rw [State.ctxAt, h.ctxs]; rfl
  exact ⟨⟨h.vfs, fun found => by rw [h.ctxs]; exact found, by rw [ctx]⟩, by rw [ctx]⟩

theorem State.supplies_setCtxAt {x : Ctx} (same : x = { s.ctxAt c with own := x.own, reserve := x.reserve }) : Supplies c s (s.setCtxAt c x) := by
  have ctx : (s.setCtxAt c x).ctxAt c = x := Table.get_set_same ..
  refine ⟨rfl, fun _ => ?_, by rw [ctx]; exact same⟩
  rw [State.setCtxAt, Table.find?_set_same]
  exact Option.some_ne_none x

theorem State.hands_setCtxAt {x : Ctx} (same : x = { s.ctxAt c with own := x.own }) : Hands c s (s.setCtxAt c x) := by
  have ctx : (s.setCtxAt c x).ctxAt c = x := Table.get_set_same ..
  exact ⟨State.supplies_setCtxAt (by rw [same]), by rw [ctx, same]⟩

theorem State.hands_takeFresh (s : State) : Hands c s s.takeFresh.2 := ⟨⟨rfl, id, rfl⟩, rfl⟩

theorem State.hands_takePage (s : State) : Hands c s (s.takePage c).2 :=
  s.hands_takeFresh.trans (State.hands_setCtxAt rfl)

theorem hands_mapFrom (va leaf : Nat) : ∀ (level table : Nat) (s : State), Hands c s (mapFrom c va leaf level table s) := by
  intro level
  induction level with
  | zero => exact fun table s => (s.memoryOnly_gwriteNat _ _ _).hands
  | succ level ih =>
    intro table s
    simp only [mapFrom]
    split
    · exact ih _ _
    · refine Hands.trans ?_ (ih _ _)
      exact s.hands_takePage.trans ((State.memoryOnly_zeroPage _ _).trans (State.memoryOnly_gwriteNat _ _ _ _)).hands

theorem State.hands_newPages (n : Nat) : ∀ (s : State) (va : Nat), Hands c s (s.newPages c va n) := by
  induction n with
  | zero => exact fun s _ => .refl s
  | succ n ih =>
    intro s va
    refine Hands.trans ?_ (ih _ _)
    exact s.hands_takePage.trans ((State.memoryOnly_zeroPage _ _).hands.trans (hands_mapFrom _ _ _ _ _))

theorem State.supplies_fillReserve (n : Nat) : ∀ s : State, Supplies c s (s.fillReserve c n) ∧
    ((s.fillReserve c n).ctxAt c).reserve.length = (s.ctxAt c).reserve.length + n := by
  induction n with
  | zero => exact fun s => ⟨(Hands.refl s).toSupplies, rfl⟩
  | succ n ih =>
    intro s
    have page := s.hands_takePage (c := c)
    generalize taken : ((s.takePage c).2.setCtxAt c { (s.takePage c).2.ctxAt c with
      reserve := ((s.takePage c).2.ctxAt c).reserve ++ [(s.takePage c).1] }) = u
    have put : Supplies c (s.takePage c).2 u := by rw [← taken]; exact State.supplies_setCtxAt rfl
    have grown : (u.ctxAt c).reserve.length = (s.ctxAt c).reserve.length + 1 := by
      rw [← taken, State.ctxAt, State.setCtxAt, Table.get_set_same, List.length_append, page.reserve]
      rfl
    obtain ⟨supplies, length⟩ := ih u
    have unfolds : s.fillReserve c (n + 1) = u.fillReserve c n := by rw [← taken]; rfl
    rw [unfolds]
    exact ⟨(page.toSupplies.trans put).trans supplies, by rw [length, grown]; omega⟩

theorem State.memoryOnly_rawWrite8 (s : State) (c va x : Nat) : MemoryOnly s (s.rawWrite8 c va x) := by
  simp only [State.rawWrite8]
  split
  · exact .refl s
  · exact s.memoryOnly_gwriteNat _ _ _

theorem State.memoryOnly_ringFill (s : State) (c : Nat) (ps : List Nat) : MemoryOnly s (s.ringFill c ps).2 := by
  simp only [State.ringFill]
  split
  · exact .refl s
  · exact (MemoryOnly.foldl (fun s i => s.memoryOnly_rawWrite8 _ _ _) _ _).trans (State.memoryOnly_rawWrite8 _ _ _ _)

theorem State.ringFill_rest (s : State) (c : Nat) (ps : List Nat) : (s.ringFill c ps).1.length ≤ ps.length := by
  simp only [State.ringFill]
  split
  · exact Nat.le_refl _
  · rw [List.length_drop]; exact Nat.sub_le ..

/-- Building the pool takes no page that the reserve does not hold (R392, log 53). -/
theorem State.supplies_buildPool (s : State) (c : Nat) : Supplies c s (s.buildPool c) ∧
    ((s.buildPool c).ctxAt c).reserve.length ≤ (s.ctxAt c).reserve.length := by
  simp only [State.buildPool]
  split
  · exact ⟨(Hands.refl s).toSupplies, Nat.le_refl _⟩
  · split
    · exact ⟨(s.hands_takeFresh).toSupplies, Nat.le_refl _⟩
    · next ring _ =>
      generalize described : List.foldl _ (State.newPages _ c ring _) (List.range 8) = u
      have built : Hands c s u := by
        rw [← described]
        refine Hands.trans ?_ (MemoryOnly.foldl (fun s i => s.memoryOnly_rawWrite8 _ _ _) _ _).hands
        exact s.hands_takeFresh.trans (State.hands_newPages _ _ _)
      generalize zeroed : List.foldl _ u _ = v
      have zeroes : Hands c u v := by
        rw [← zeroed]
        exact (MemoryOnly.foldl (fun s p => s.memoryOnly_zeroPage p) _ _).hands
      have filled : Hands c s (v.ringFill c (u.ctxAt c).reserve).2 :=
        (built.trans zeroes).trans (v.memoryOnly_ringFill c (u.ctxAt c).reserve).hands
      refine ⟨filled.toSupplies.trans (State.supplies_setCtxAt rfl), ?_⟩
      rw [State.ctxAt, State.setCtxAt, Table.get_set_same]
      exact (v.ringFill_rest c _).trans (Nat.le_of_eq (congrArg List.length built.reserve))

/-- A context without a trap handler has no pool to build. -/
theorem State.buildPool_none {s : State} {c : Nat} (handlerless : (s.ctxAt c).trapBase = 0) : s.buildPool c = s := by
  have zero : (s.ctxAt c).trapBase.toNat = 0 := by rw [handlerless]; rfl
  exact if_pos (.inl zero)

end

/-! ### `CREATE_CONTEXT` (R412) -/

section
variable {s : State} {vf q d : Nat} {e : JobEntry}

theorem exec_createContext (vf q : Nat) (s : State) : exec (.createContext vf q) s = execCreateContext vf q s := rfl

/-- The descriptor that an entry names, and the context that it describes. -/
def State.descOf (s : State) (vf : Nat) (e : JobEntry) : Nat := s.hostNat (s.vfAt vf).port e.desc 128
def descKey (vf d : Nat) : Nat := ctxKey vf (bitsOf d 64 16)

theorem createContext_known (head : s.headEntry vf q = some e) (command : e.command = 2)
    (found : Table.find? s.ctxs (descKey vf (s.descOf vf e)) ≠ none) : exec (.createContext vf q) s = s.refuseEntry vf q e 0x0002 := by
  have known : s.ctxs.has (ctxKey vf (bitsOf (s.hostNat (s.vfAt vf).port e.desc 128) 64 16)) = true := Table.has_of_found found
  simp only [exec_createContext, execCreateContext, head, command, ne_eq, not_true_eq_false, if_false, known, if_true]

/-- An entry that creates a context whose identifier is free. -/
structure CreateEntry (s : State) (vf q : Nat) (e : JobEntry) (d : Nat) : Prop where
  head : s.headEntry vf q = some e
  command : e.command = 2
  desc : s.descOf vf e = d
  free : Table.find? s.ctxs (descKey vf d) = none

theorem CreateEntry.unknown (h : CreateEntry s vf q e d) : s.ctxs.has (ctxKey vf (bitsOf d 64 16)) = false :=
  (Table.has_eq_false_iff _ _).mpr h.free

theorem CreateEntry.full (h : CreateEntry s vf q e d) (full : 64 ≤ (s.vfAt vf).live) :
    exec (.createContext vf q) s = s.refuseEntry vf q e 0x0005 := by
  have desc : s.hostNat (s.vfAt vf).port e.desc 128 = d := h.desc
  simp only [exec_createContext, execCreateContext, h.head, h.command, ne_eq, not_true_eq_false, if_false, desc, h.unknown, Bool.false_eq_true,
    full, if_true]

theorem CreateEntry.malformed (h : CreateEntry s vf q e d) (room : (s.vfAt vf).live < 64) (bad : s.descOk vf d = false) :
    exec (.createContext vf q) s = s.refuseEntry vf q e 0x0004 := by
  have desc : s.hostNat (s.vfAt vf).port e.desc 128 = d := h.desc
  simp only [exec_createContext, execCreateContext, h.head, h.command, ne_eq, not_true_eq_false, if_false, desc, h.unknown, Bool.false_eq_true,
    Nat.not_le.mpr room, bad, Bool.not_false, if_true]

/-- A descriptor of a context that runs free, without ordered regions, multicast groups and weight-store regions. -/
structure PlainDesc (d : Nat) : Prop where
  mode : bitsOf d 80 8 = 0
  regions : bitsOf d 640 16 = 0
  groups : bitsOf d 656 16 = 0
  store : bitsOf d 768 64 = 0

/-- No die has a weight-store region. -/
def noStore : List (Nat × Nat) := List.replicate 4 (0, 0)

theorem State.storeRegions_none (s : State) : s.storeRegions 0 = some noStore := rfl

theorem PlainDesc.free (h : PlainDesc d) (ws : List (Nat × Nat)) : (descCtx d ws).mode = .free := by
  simp only [descCtx, h.mode]

theorem PlainDesc.createHeld (h : PlainDesc d) (s : State) {c : Nat} (free : (s.ctxAt c).mode = .free) : s.createHeld c d = false := by
  simp only [State.createHeld, h.regions, h.groups, free]
  rfl

theorem PlainDesc.readLists (h : PlainDesc d) (s : State) (c : Nat) : s.readLists c d = some ([], [], s) := by
  simp only [State.readLists, h.regions, h.groups]
  rfl

/-- The new context before its pool is built. -/
def State.withCtx (s : State) (vf d : Nat) : State :=
  let c := descKey vf d
  let s' := ((s.setCtxAt c (descCtx d noStore)).setCtxAt c (descCtx d noStore)).fillReserve c (bitsOf d 704 64)
  (s'.zeroStore noStore).setVfAt vf { s'.vfAt vf with live := (s'.vfAt vf).live + 1 }

theorem CreateEntry.creates (h : CreateEntry s vf q e d) (room : (s.vfAt vf).live < 64) (ok : s.descOk vf d = true) (plain : PlainDesc d) :
    exec (.createContext vf q) s = .next (((s.withCtx vf d).buildPool (descKey vf d)).popEntry vf q) := by
  have desc : s.hostNat (s.vfAt vf).port e.desc 128 = d := h.desc
  have mode := plain.free noStore
  have held : (s.setCtxAt (ctxKey vf (bitsOf d 64 16)) (descCtx d noStore)).createHeld (ctxKey vf (bitsOf d 64 16)) d = false :=
    plain.createHeld _ (by rw [State.ctxAt, State.setCtxAt, Table.get_set_same]; exact mode)
  have created : s.createWith vf q e d noStore = .next (((s.withCtx vf d).buildPool (descKey vf d)).popEntry vf q) := by
    have recorded : ((descCtx d noStore).mode == CtxMode.replay) = false := by rw [mode]; rfl
    simp only [State.createWith, plain.readLists, recorded, Bool.false_and, Bool.false_eq_true, if_false]
    split
    · rfl
    · next other => rw [mode] at other; cases other
    · next other => rw [mode] at other; cases other
  simp only [exec_createContext, execCreateContext, h.head, h.command, ne_eq, not_true_eq_false, if_false, desc, h.unknown, Bool.false_eq_true,
    Nat.not_le.mpr room, ok, Bool.not_true, plain.store, State.storeRegions_none, held, created]

/-- Context `descKey vf d` is the one that descriptor `d` describes (R412). -/
structure Created (t : State) (vf d : Nat) : Prop where
  found : Table.find? t.ctxs (descKey vf d) ≠ none
  ctx : t.ctxAt (descKey vf d) = { descCtx d noStore with
    own := (t.ctxAt (descKey vf d)).own, reserve := (t.ctxAt (descKey vf d)).reserve }
  reserve : (t.ctxAt (descKey vf d)).reserve.length ≤ bitsOf d 704 64
  full : bitsOf d 128 64 = 0 → (t.ctxAt (descKey vf d)).reserve.length = bitsOf d 704 64

theorem Created.of_ctxs {t u : State} (h : Created u vf d) (ctxs : t.ctxs = u.ctxs) : Created t vf d := by
  have ctx : t.ctxAt (descKey vf d) = u.ctxAt (descKey vf d) := by rw [State.ctxAt, ctxs]; rfl
  obtain ⟨found, same, reserve, full⟩ := h
  rw [← ctx] at same reserve full
  exact ⟨by rw [ctxs]; exact found, same, reserve, full⟩

theorem State.withCtx_created (s : State) (vf d : Nat) :
    Created (s.withCtx vf d) vf d ∧ ((s.withCtx vf d).ctxAt (descKey vf d)).reserve.length = bitsOf d 704 64 ∧
      (s.withCtx vf d).vfs = listUpd s.vfs vf (fun _ => { s.vfAt vf with live := (s.vfAt vf).live + 1 }) := by
  generalize named : (s.setCtxAt (descKey vf d) (descCtx d noStore)).setCtxAt (descKey vf d) (descCtx d noStore) = u
  have ctx : u.ctxAt (descKey vf d) = descCtx d noStore := by rw [← named]; exact Table.get_set_same ..
  have present : Table.find? u.ctxs (descKey vf d) ≠ none := by
    rw [← named, State.setCtxAt, Table.find?_set_same]
    exact Option.some_ne_none _
  obtain ⟨supplies, length⟩ := State.supplies_fillReserve (c := descKey vf d) (bitsOf d 704 64) u
  have unfolds : s.withCtx vf d = ((u.fillReserve (descKey vf d) (bitsOf d 704 64)).zeroStore noStore).setVfAt vf
      { (u.fillReserve (descKey vf d) (bitsOf d 704 64)).vfAt vf with
        live := ((u.fillReserve (descKey vf d) (bitsOf d 704 64)).vfAt vf).live + 1 } := by rw [← named]; rfl
  have vfs : (u.fillReserve (descKey vf d) (bitsOf d 704 64)).vfs = s.vfs := supplies.vfs.trans (by rw [← named]; rfl)
  generalize u.fillReserve (descKey vf d) (bitsOf d 704 64) = w at supplies length unfolds vfs
  have same := supplies.ctx
  rw [ctx] at same length
  have length : (w.ctxAt (descKey vf d)).reserve.length = bitsOf d 704 64 := length.trans (Nat.zero_add _)
  have created : Created w vf d := ⟨supplies.found present, same, Nat.le_of_eq length, fun _ => length⟩
  have vfAt : w.vfAt vf = s.vfAt vf := by rw [State.vfAt, vfs]; rfl
  rw [unfolds, vfAt]
  exact ⟨created.of_ctxs rfl, length, congrArg (fun vs => listUpd vs vf _) vfs⟩

theorem Created.buildPool {t : State} (h : Created t vf d) (length : (t.ctxAt (descKey vf d)).reserve.length = bitsOf d 704 64) :
    Created (t.buildPool (descKey vf d)) vf d := by
  obtain ⟨supplies, shrinks⟩ := t.supplies_buildPool (descKey vf d)
  refine ⟨supplies.found h.found, by rw [supplies.ctx, h.ctx], shrinks.trans (Nat.le_of_eq length), fun zero => ?_⟩
  have trapBase : (t.ctxAt (descKey vf d)).trapBase = BitVec.ofNat 64 (bitsOf d 128 64) := congrArg Ctx.trapBase h.ctx
  have handlerless : (t.ctxAt (descKey vf d)).trapBase = 0 := by rw [trapBase, zero]; rfl
  rw [State.buildPool_none handlerless, length]

theorem CreateEntry.created (h : CreateEntry s vf q e d) (room : (s.vfAt vf).live < 64) (ok : s.descOk vf d = true) (plain : PlainDesc d)
    (inside : vf < s.vfs.length) (named : q < (s.vfAt vf).queues.length) :
    ∃ t, exec (.createContext vf q) s = .next t ∧ Popped s t vf q ∧ (t.vfAt vf).live = (s.vfAt vf).live + 1 ∧ Created t vf d := by
  obtain ⟨created, length, vfs⟩ := s.withCtx_created vf d
  have answer := h.creates room ok plain
  have vfs := ((s.withCtx vf d).supplies_buildPool (descKey vf d)).1.vfs.trans vfs
  have built := created.buildPool length
  generalize (s.withCtx vf d).buildPool (descKey vf d) = u at built answer vfs
  have inside' : vf < u.vfs.length := by rw [vfs, listUpd_length]; exact inside
  have live : u.vfAt vf = { s.vfAt vf with live := (s.vfAt vf).live + 1 } := by
    rw [State.vfAt, vfs]
    exact listUpd_getD_same inside _ _
  refine ⟨_, answer, popEntry_popped inside' ?_ ?_ named, ?_, built.of_ctxs rfl⟩
  · rw [live]
  · rw [live]
  · rw [popEntry_live inside', live]

end

/-! ### `DESTROY_CONTEXT` -/

theorem foldl_vfs {β : Type} {f : State → β → State} (h : ∀ s x, (f s x).vfs = s.vfs) (xs : List β) (s : State) :
    (xs.foldl f s).vfs = s.vfs := by
  induction xs generalizing s with
  | nil => rfl
  | cons x r ih => exact (ih _).trans (h s x)

theorem State.waitDone_vfs (s : State) (k : Nat) : (s.waitDone k).vfs = s.vfs := by
  unfold State.waitDone
  split <;> rfl

theorem State.blockWaits_vfs (s : State) (b : Nat) : (s.blockWaits b).vfs = s.vfs := by
  simp only [State.blockWaits]
  refine (foldl_vfs (fun s k => s.waitDone_vfs k) _ _).trans (foldl_vfs ?_ _ s)
  exact fun _ _ => rfl

theorem OnlyArrayOrders.vfs {s t : State} (h : OnlyArrayOrders s t) : t.vfs = s.vfs := by rw [h.rest]
theorem OnlyArrayOrders.teams {s t : State} (h : OnlyArrayOrders s t) : t.teams = s.teams := by rw [h.rest]

theorem State.endContext_vfs (s : State) (c : Nat) : (s.endContext c).vfs = s.vfs := by
  have waits := foldl_vfs (fun s b => State.blockWaits_vfs s b) ((s.blocks.map (·.1)).filter (fun b => launchCtx (blockLaunch b) == c)) s
  exact ((State.promotePairs_onlyArrayOrders _).vfs).trans waits

/-- A context that has ended has no team. -/
theorem State.endContext_teams (s : State) {c k : Nat} (own : teamCtx k = c) : Table.find? (s.endContext c).teams k = none := by
  have gone : ∃ u : State, (s.endContext c).teams = u.teams.filter (fun e => !(launchCtx (blockLaunch (teamBlock e.1)) == c)) :=
    ⟨_, (State.promotePairs_onlyArrayOrders _).teams⟩
  obtain ⟨u, teams⟩ := gone
  rw [teams]
  refine Table.find?_filter_none _ (.inr fun x => ?_)
  have mine : launchCtx (blockLaunch (teamBlock k)) = c := own
  rw [mine, BEq.rfl]
  rfl

section
variable {s : State} {vf q : Nat} {e : JobEntry}

theorem exec_destroyContext (vf q : Nat) (s : State) : exec (.destroyContext vf q) s = execDestroyContext vf q s := rfl

theorem destroyContext_missing (head : s.headEntry vf q = some e) (command : e.command = 3)
    (missing : Table.find? s.ctxs (ctxKey vf e.asid) = none) : exec (.destroyContext vf q) s = s.refuseEntry vf q e 0x0002 := by
  have unknown : s.ctxs.has (ctxKey vf e.asid) = false := (Table.has_eq_false_iff _ _).mpr missing
  simp only [exec_destroyContext, execDestroyContext, head, command, ne_eq, not_true_eq_false, if_false, unknown, Bool.not_false, if_true]

/-- The state once context `c` of a virtual function has been destroyed, before its entry leaves the queue. -/
def State.withoutCtx (s : State) (vf c : Nat) : State :=
  (s.removeContext c).setVfAt vf { (s.removeContext c).vfAt vf with live := ((s.removeContext c).vfAt vf).live - 1 }

theorem destroyContext_destroys (head : s.headEntry vf q = some e) (command : e.command = 3)
    (found : Table.find? s.ctxs (ctxKey vf e.asid) ≠ none)
    (finished : ∀ j, ∀ x, (j, x) ∈ s.jobs → x.ctx = ctxKey vf e.asid → s.jobOver j = true) :
    exec (.destroyContext vf q) s = .next ((s.withoutCtx vf (ctxKey vf e.asid)).popEntry vf q) := by
  have running : (s.jobs.any fun j => j.2.ctx == ctxKey vf e.asid && !s.jobOver j.1) = false := by
    rw [List.any_eq_false]
    intro j listed
    rw [Bool.and_eq_true, beq_iff_eq, Bool.not_eq_true']
    rintro ⟨own, waits⟩
    rw [finished j.1 j.2 listed own] at waits
    cases waits
  simp only [exec_destroyContext, execDestroyContext, head, command, ne_eq, not_true_eq_false, if_false, Table.has_of_found found, Bool.not_true,
    Bool.false_eq_true, running]
  rfl

/-- What a destroyed context leaves: nothing of it. -/
theorem State.withoutCtx_gone (s : State) (vf c : Nat) : Table.find? (s.withoutCtx vf c).ctxs c = none ∧
    (∀ l, launchCtx l = c → Table.find? (s.withoutCtx vf c).launches l = none) ∧
    (∀ k, teamCtx k = c → Table.find? (s.withoutCtx vf c).teams k = none) ∧ ∀ x ∈ (s.withoutCtx vf c).jobs, x.2.ctx ≠ c := by
  have teams (k : Nat) (own : teamCtx k = c) := s.endContext_teams own
  unfold State.withoutCtx State.removeContext
  generalize s.endContext c = u at teams
  refine ⟨Table.find?_filter_none _ (.inr fun x => ?_), fun l own => Table.find?_filter_none _ (.inr fun x => ?_), teams, fun x listed => ?_⟩
  · simp
  · simp [own]
  · have listed : x ∈ u.jobs.filter (fun e => e.2.ctx != c) := listed
    simpa using (List.mem_filter.mp listed).2

theorem destroyContext_popped (inside : vf < s.vfs.length) (named : q < (s.vfAt vf).queues.length) (c : Nat) :
    Popped s ((s.withoutCtx vf c).popEntry vf q) vf q ∧
      (((s.withoutCtx vf c).popEntry vf q).vfAt vf).live = (s.vfAt vf).live - 1 := by
  have vfs : (s.removeContext c).vfs = s.vfs := s.endContext_vfs c
  have vfAt : (s.removeContext c).vfAt vf = s.vfAt vf := by rw [State.vfAt, vfs]; rfl
  have removed : vf < (s.removeContext c).vfs.length := by rw [vfs]; exact inside
  have live : (s.withoutCtx vf c).vfAt vf = { s.vfAt vf with live := (s.vfAt vf).live - 1 } := by
    rw [State.withoutCtx, State.vfAt_setVfAt_same _ removed, vfAt]
  have length : (s.withoutCtx vf c).vfs.length = s.vfs.length := (listUpd_length ..).trans (congrArg List.length vfs)
  have inside' : vf < (s.withoutCtx vf c).vfs.length := by rw [length]; exact inside
  refine ⟨popEntry_popped inside' ?_ ?_ named, ?_⟩
  · rw [live]
  · rw [live]
  · rw [popEntry_live inside', live]

end

/-- Settles O55, a command of the entry at a time: what it refuses, what it accepts, and what it holds. -/
theorem jobEntriesAreServed : Obligations.JobEntriesAreServed := by
  intro s vf q e
  refine fun head inside named => ⟨submitJob_unknown head, submitJob_missing head,
    fun command found alive h s1 gs s2 header least most graphs images => ?_,
    fun command found alive s1 migrates => ⟨fun late => ?_, fun early => ?_⟩, fun command => ⟨?_, ?_, ?_, ?_⟩,
    fun command => ⟨destroyContext_missing head command, fun found finished => ?_⟩⟩
  · obtain ⟨t, answer, popped, subject, next⟩ := (JobFor.mk head command found alive).accepted inside named header least most graphs images
    simp only [Job.subject, Prod.mk.injEq] at subject
    obtain ⟨ctx, queue, tag, compl, phases⟩ := subject
    exact ⟨t, answer, popped, s.nextJob_new, ctx, queue, tag, compl, phases, next⟩
  · exact ((JobFor.mk head command found alive).holds migrates).trans (holdEntry_past late)
  · rw [(JobFor.mk head command found alive).holds migrates]
    exact holdEntry_waits inside named early
  · exact createContext_known head command
  · exact fun free full => (CreateEntry.mk head command rfl free).full full
  · exact fun free room bad => (CreateEntry.mk head command rfl free).malformed room bad
  · intro free room ok mode regions groups store
    have plain : PlainDesc (s.descOf vf e) := ⟨mode, regions, groups, store⟩
    obtain ⟨t, answer, popped, live, found, ctx, reserve, full⟩ := (CreateEntry.mk head command rfl free).created room ok plain inside named
    exact ⟨t, answer, popped, found, congrArg Ctx.root ctx, congrArg Ctx.trapBase ctx, congrArg Ctx.ftv ctx,
      (congrArg Ctx.mode ctx).trans (plain.free noStore), congrArg Ctx.saveBase ctx, congrArg Ctx.dumpBase ctx, reserve, full,
      congrArg Ctx.failed ctx, congrArg Ctx.nextLaunch ctx, congrArg Ctx.ws ctx, live⟩
  · obtain ⟨popped, live⟩ := destroyContext_popped inside named (ctxKey vf e.asid)
    obtain ⟨ctxs, launches, teams, jobs⟩ := s.withoutCtx_gone vf (ctxKey vf e.asid)
    exact ⟨_, destroyContext_destroys head command found finished, popped, ctxs, live, launches, teams, jobs⟩

end Sys2Proof.Machine
end
